-- ==== Sys2Proof/Word.lean ====
section
/-! DEFINITION. The word types of the spec (00 R13 to R15) and their plainest arithmetic. -/
namespace Sys2Proof

abbrev Byte := BitVec 8
abbrev W16 := BitVec 16
abbrev W32 := BitVec 32
abbrev W64 := BitVec 64
/-- A vector register (06 R175). -/
abbrev W512 := BitVec 512

/-- A tile t0 to t63 (00 R7); also a quadrant by the index 4s + q (15 R415). -/
abbrev TileId := Fin 64
/-- A square, or the stack at its centre (00 R6). -/
abbrev SquareId := Fin 16
/-- A sub-channel by its module-wide index (00 R11). -/
abbrev SubId := Fin 1024
/-- A die by its module-wide index (00 R11). -/
abbrev DieId := Fin 256
/-- A bank by its module-wide index (00 R11). -/
abbrev BankId := Fin 4096
/-- A bank unit by its module-wide index (00 R11). -/
abbrev UnitId := Fin 2048
/-- A hardware thread: 2,048 · tile + 64 · processor + thread (06 Table TILE-1). -/
abbrev ThrId := Fin 131072
/-- A mailbox (12 R339). -/
abbrev MboxId := Fin 64
/-- A stream ring (12 Table HOST-3). -/
abbrev RingId := Fin 4096
/-- A DMA doorbell (12 R345). -/
abbrev DoorId := Fin 256
/-- A DMA channel: 32 · tile + channel (06 Table TILE-1). -/
abbrev ChanId := Fin 2048
/-- A signal counter by its address, tile [17:12] and index [11:0] (06 R206). -/
abbrev CtrId := Fin 262144
/-- A dense array: 2 · tile + array (11 Table FALT-7). -/
abbrev ArrayId := Fin 128
/-- A Causeway port (00 R12). -/
abbrev CwPortId := Fin 8
/-- A model descriptor (09 R263). -/
abbrev ModelId := Fin 4096
/-- A Woad lot slot (01 Table ARCH-6). -/
abbrev LotSlot := Fin 4096

end Sys2Proof
end

