-- ==== Sys2Proof/Syntax.lean ====
section
/-! DEFINITION. The commands of the block: one constructor of `Instr` per row of spec/opcode_table.json, in its order.
The operands are what the event brings from outside the module (notes/assumptions/8.md). -/
namespace Sys2Proof

/-- The two host ports (12 R328). -/
inductive HPort where
  | A | B
deriving DecidableEq, Repr

/-- The sensor that reached 115 °C (14 R401). -/
inductive HotSite where
  | die (d : DieId)
  | tile (t : TileId)
deriving DecidableEq, Repr

/-- The PEC byte of an SMBus write (16 R432). -/
inductive Pec where
  | absent | good | bad
deriving DecidableEq, Repr

/-- The two transfers of the sideband command CAP (16 Table PHYS-6). -/
inductive CapOp where
  | read
  | write (v : W16) (pec : Pec)
deriving DecidableEq, Repr

/-- A register access through the tile window (15 R404). -/
inductive Access where
  | read
  | write (v : W64)
deriving DecidableEq, Repr

/-- Who writes a register: the host through BAR0 of a port, the host to the MSI-X space of BAR4 (12 R331), an agent on
the module at the module control block, or a tile's own control core at its tile control block (15 R402, R404). -/
inductive RegSrc where
  | host (p : HPort)
  | bar4 (p : HPort)
  | agent
  | core (t : TileId)
deriving DecidableEq, Repr

/-- What the cryptographic checks of one image slot find (14 R379). -/
structure SlotReport where
  digestOk : Bool
  keySigOk : Bool
  imageSigOk : Bool
  bodyOk : Bool
deriving DecidableEq, Repr

/-- What the tiles found in the phase that ends (14 Table BOOT-1): the image slots (phase 3), the sub-channels whose training
failed twice and the lanes that failed the margin scan, 12 being the spare (phase 5), the sub-channels with a bit error in
pattern 0 or 1 and the errors of their lanes (phase 6), corrected and uncorrectable codewords per bank (phases 6 and 7), failing units and alley hops, a hop
being (stack, lower position) (phase 8). -/
structure PhaseReport where
  slotA : SlotReport
  slotB : SlotReport
  trainFail : List SubId
  laneFail : List (SubId × Nat)
  linkFail : List (SubId × List Nat)
  bankRes : List (BankId × Nat × Nat)
  unitFail : List UnitId
  hopFail : List (SquareId × Nat)
deriving DecidableEq, Repr

/-- A ring with an MSI-X vector (12 R343, R344). -/
inductive RingRef where
  | mbox (n : MboxId)
  | stream (r : RingId)
  | event
deriving DecidableEq, Repr

/-- A module read of host memory (12 R337). -/
inductive HostRead where
  | command (n : MboxId) (index : W32)
  | chan (c : ChanId)
deriving DecidableEq, Repr

/-- Where a host command comes from and what its slot's header says (12 Table HOST-6). -/
structure CmdHdr where
  mb : MboxId
  index : W32
  tag : W32
  tenant : W16
  ordered : Bool
deriving DecidableEq, Repr

/-- One entry of BUDGET_REFILL (12 Table HOST-9): op 0 ADD, 1 SET. -/
structure Refill where
  tenant : W16
  op : Byte
  amount : W32
deriving DecidableEq, Repr

/-- One unit image as read from host memory; `readOk` is false where the read failed (12 R337). -/
structure UnitImage where
  bytes : List Byte
  readOk : Bool
deriving DecidableEq, Repr

/-- A schedule plan (09 Table SERV-5, 10 R300). -/
structure Plan where
  version : W32
  maxGroup : W16
  tenantCap : W16
  chunk : W16
  prefillRows : W16
  bankWidth : Byte
  padded : Byte
  minInterval : W32
  slotNs : W32
  slots : List W16
deriving DecidableEq, Repr

/-- The parameters of a session (09 R271). -/
structure SessParams where
  ring : W16
  includeStop : Bool
  stops : List (List W32)
  seed : W64
  maxNew : W32
  temperature : W32
  topP : W32
  topK : W16
deriving DecidableEq, Repr

/-- The parameters of a stream ring or of the event ring (12 Table HOST-9). -/
structure RingParams where
  base : W64
  shadow : W64
  j : Byte
  vector : Byte
  port : Byte
  coalesce : Byte
deriving DecidableEq, Repr

/-- What a run of the traffic generator counted: bit errors of 13 lanes, and (corrected, uncorrectable) of 4 banks (14 R388). -/
structure TrafficResult where
  lanes : List Nat
  banks : List (Nat × Nat)
deriving DecidableEq, Repr

/-- A thread's launch record (06 R170); `kernel` is the kernel it runs (12 KERNEL_UNLOAD), `group` the model whose step-group it serves, where it
serves one (11 R312; notes/assumptions/129.md). -/
structure LaunchRec where
  entry : W64
  domain : BitVec 14
  service : Bool
  keys : List (BitVec 12)
  g : List W64
  exitCtr : CtrId
  kernel : W32
  group : Option ModelId
deriving DecidableEq, Repr

/-- The source of a signal (07 R209, R214). -/
inductive SigSrc where
  | thread (t : ThrId) (pc : W64) (life : Nat)
  | acopy (t : ThrId)
  | array (a : ArrayId)
  | bank (u : UnitId)
  | chan (c : ChanId)
  | exit (t : ThrId)
  | core (t : TileId)
  | host (p : HPort)
deriving DecidableEq, Repr

/-- A signal on its way to a counter: a signed amount (07 R211). -/
structure SignalMsg where
  ctr : CtrId
  amount : W32
  src : SigSrc
deriving DecidableEq, Repr

/-- The target of a watch (07 R215); a control core's watch ends in its firmware queue (07 R220). -/
inductive WatchTarget where
  | thread (t : ThrId)
  | chan (c : ChanId)
  | msg (t : TileId) (off : Nat)
  | core (t : TileId)
deriving DecidableEq, Repr

/-- Who registered a watch (07 R215, R216): a thread while it ran its program number `life`, a channel for its descriptor number `life`, a control core. -/
inductive WatchBy where
  | thread (t : ThrId) (life : Nat)
  | chan (c : ChanId) (life : Nat)
  | core (t : TileId)
deriving DecidableEq, Repr

/-- A watch registration on its way (07 R215). -/
structure WatchReq where
  ctr : CtrId
  threshold : W32
  consume : Bool
  target : WatchTarget
  owner : WatchBy
deriving DecidableEq, Repr

/-- A wake message or DMA trigger of a fired watch (07 R220): the counter and the amount its fire consumed. -/
structure WakeMsg where
  target : WatchTarget
  owner : WatchBy
  ctr : CtrId
  consumed : W32
deriving DecidableEq, Repr

/-- The 8-byte store of a fire with a message target (07 R220, Table SYNC-1). -/
structure StoreMsg where
  tile : TileId
  off : Nat
  word : W64
deriving DecidableEq, Repr

/-- A counter's STRICT error report to a signalling thread (07 R214). -/
structure SyncErr where
  thr : ThrId
  life : Nat
  pc : W64
  ovr : Bool
deriving DecidableEq, Repr

/-- The three pools of watch slots of a tile (07 R216). -/
inductive WatchPool where
  | thread | dma | core
deriving DecidableEq, Repr

/-- What a cancellation names (07 R222): one watch, the watches of a thread's program number `life`, every watch of a block. -/
inductive CancelSel where
  | one (w : WatchReq)
  | thread (t : ThrId) (life : Nat)
  | block (t : TileId) (k : Fin 16)
deriving DecidableEq, Repr

/-- A control core's change of a counter's attributes (07 R209). -/
inductive ModeOp where
  | setFlag (flag : Bool)
  | clear (coalesced underflowed overflowed : Bool)
deriving DecidableEq, Repr

/-- The descriptor of an ADD (03 R104): form 0 i32, 1 i64, 2 FP32, 3 BF16. -/
structure AddDesc where
  form : Byte
  bank : Byte
  col : Byte
  off : Byte
  wantOld : Bool
  operand : W64
deriving DecidableEq, Repr

/-- The agent behind a request to a controller (11 UE_DETECTED a2; 13 R371 for a partner's request). -/
inductive ReqSrc where
  | thread | dma | bank | host | partner
deriving DecidableEq, Repr

/-- What a request does to its codeword (02 R60, R76): a write covers bytes from `off`. -/
inductive ReqKind where
  | read
  | write (off : Nat) (data : List Byte) (poison : Bool)
  | add (d : AddDesc)
deriving DecidableEq, Repr

/-- A request to a sub-channel controller (02 R46, R62): its class, what it does, its physical address, who sent it. -/
structure Req where
  cls : Fin 4
  kind : ReqKind
  addr : Nat
  src : ReqSrc
deriving DecidableEq, Repr

/-- An error of one symbol of a codeword: the symbol 0 to 35 and the bits that flip (02 R55, R56). -/
structure SymErr where
  sym : Nat
  flip : Byte
deriving DecidableEq, Repr

/-- The symbol errors met in one codeword, named by `col`: a codeword's place in a transfer, its column of a scrubbed row (02 R74), or, for a unit's run, its
place 2^23 · bank + 64 · row + column in the pair. -/
structure ScrubErr where
  col : Nat
  errs : List SymErr
deriving DecidableEq, Repr

/-- Scrub's row at an instant, in ps, with the symbol errors its codewords meet, by column (02 R74). -/
structure ScrubRun where
  now : Nat
  errs : List ScrubErr
deriving DecidableEq, Repr

/-- An ADD command as the unit reads it from its command area, with the command's tag and the symbol errors that its read meets (03 R104, Table BANK-4). -/
structure AddCmd where
  desc : AddDesc
  tag : W32
  errs : List SymErr
deriving DecidableEq, Repr

/-- What a yield point brings (03 R95, R121): when the status has been read, in ps, the symbol errors that the segment's reads and the atomics admitted met, and a
parity error in the unit's store, tables or latches. -/
structure YieldRead where
  now : Nat
  errs : List ScrubErr
  parity : Bool
deriving DecidableEq, Repr

/-- What a memory response brings: the symbol errors that its reads meet, and, of a 64-byte access of which only one aligned 8-byte part is performed now, that part
(06 R195). -/
structure MemAns where
  errs : List ScrubErr
  part : Option (Fin 8)
deriving DecidableEq, Repr

/-- Bytes that the host writes, with the symbol errors that the reads of codewords written in part meet (12 R332, 02 R60). -/
structure HostWrite where
  bytes : List Byte
  errs : List ScrubErr
deriving DecidableEq, Repr

/-- The fields of a micro-instruction below its opcode (03 Table BANK-7). -/
structure Micro where
  y : Bool
  bk : BitVec 2
  xa : BitVec 4
  xb : BitVec 4
  kc : BitVec 2
  mode : BitVec 5
  rep : Byte
  imm : W32
deriving DecidableEq, Repr

/-- A micro-instruction that the sequencer comes to at an instant, in ps (03 R89). -/
structure MicroAt where
  m : Micro
  now : Nat
deriving DecidableEq, Repr

/-- END, with the symbol errors that the reads of a standard program met (03 R100). -/
structure MicroErr where
  m : Micro
  errs : List ScrubErr
deriving DecidableEq, Repr

/-- Bytes that a transfer read from host memory, or a link that failed it (08 Table TIER-8 LINK). -/
structure HostData where
  bytes : List Byte
  linkOk : Bool
deriving DecidableEq, Repr

/-- Which of a channel's bursts in flight is performed, with the symbol errors that its reads meet (08 R259). -/
structure BurstErr where
  pos : Fin 8
  errs : List ScrubErr
deriving DecidableEq, Repr

/-- How a promotion ends (08 R251, Table TIER-4). -/
inductive PromoteResult where
  | done | unreadable (unit : W32) | link | grace
deriving DecidableEq, Repr

/-- A key and value entry that a step wrote (09 R275; 03 R109): its layer, key/value head and row of the step, 128 codes of each with their segment records. -/
structure KvEntry where
  layer : Byte
  head : Byte
  row : W16
  key : List Byte
  keyRec : W32
  value : List Byte
  valueRec : W32
deriving DecidableEq, Repr

/-- What a committing step-group's kernels computed for one member: its logits (09 R287) and its key and value entries (09 R275). -/
structure StepOut where
  slot : BitVec 18
  logits : List W32
  kv : List KvEntry
deriving DecidableEq, Repr

/-- One count that a step's pieces add at its commit (04 R136, R137). -/
structure CalCount where
  layer : Byte
  source : Bool
  kind : Fin 3
  n : Nat
  overlay : W16
deriving DecidableEq, Repr

/-- The domains of an event record (11 Table FALT-7 offset 0x10). -/
inductive DomKind where
  | module | sub | die | stack | tile | square | hostPort | cwPort | unit | array | bank
deriving DecidableEq, Repr

/-- A domain and its module-wide index (11 Table FALT-7). -/
structure Domain where
  kind : DomKind
  idx : Nat
deriving DecidableEq, Repr

/-- A condition reported to its domain's handler (11 R306, R308): its event code and fields, the models whose step-group in
flight it affects (R312) and the session slots its piece serves (R314). -/
structure ErrRep where
  code : W16
  dom : Domain
  a0 : W64
  a1 : W64
  a2 : W64
  a3 : W64
  affected : List ModelId
  served : List (BitVec 18)
deriving DecidableEq, Repr

/-- Why a Causeway link went down (11 LINK_RETRAIN a0). -/
inductive LinkCause where
  | replays | noCodeword
deriving DecidableEq, Repr

/-- A Causeway message header after its type (13 R367). -/
structure CwMsg where
  flags : Byte
  rsv : W16
  tag : W32
  lot : W32
  off : W32
  len : W32
  arg : W32
deriving DecidableEq, Repr

/-- What the voltage and frequency loop of a tile senses (14 R395): temperature in °C, power in 0.1 W, the frequency the path
monitors allow in 12.5 MHz units, the voltage the path monitors ask for in mV. -/
structure VfSense where
  temp : Nat
  power : Nat
  path : Nat
  mv : Nat
deriving DecidableEq, Repr

/-- Where an eye monitor reports low margin (14 R396). -/
inductive EyeSite where
  | sub (c : SubId)
  | cw (p : CwPortId)
  | pcie (p : HPort)
deriving DecidableEq, Repr

/-- A stack's hottest die in °C and its power in 0.1 W (14 R398). -/
structure StackSense where
  temp : Nat
  power : Nat
deriving DecidableEq, Repr

/-- Format REG of a thread instruction (06 Table TILE-4). -/
structure RegF where
  d : BitVec 5
  a : BitVec 5
  b : BitVec 5
  f : BitVec 11
deriving DecidableEq, Repr

/-- Format IMM (06 Table TILE-4). -/
structure ImmF where
  d : BitVec 5
  a : BitVec 5
  imm : W16
deriving DecidableEq, Repr

/-- Format MEM (06 Table TILE-4). -/
structure MemF where
  t : BitVec 5
  a : BitVec 5
  sz : BitVec 3
  o : BitVec 2
  off : BitVec 11
deriving DecidableEq, Repr

/-- Format BR (06 Table TILE-4). -/
structure BrF where
  a : BitVec 5
  c : Bool
  off : BitVec 20
deriving DecidableEq, Repr

/-- Format SYS (06 Table TILE-4). -/
structure SysF where
  a : BitVec 5
  b : BitVec 5
  imm : W16
deriving DecidableEq, Repr

/-- Format VEC (06 Table TILE-4). -/
structure VecF where
  vd : BitVec 4
  va : BitVec 4
  vb : BitVec 4
  g : BitVec 5
  t : BitVec 3
  f : BitVec 6
deriving DecidableEq, Repr

/-- The commands of the block (spec/opcode_table.json); each constructor's comment names its row. -/
inductive Instr where
  /-- POWER_UP, R424 -/
  | powerUp (mv : Nat)
  /-- SUPPLY_RANGE_CHANGE, R423 -/
  | supplyRangeChange (mv : Nat)
  /-- SUPPLY_RELOG, R423 -/
  | supplyRelog
  /-- HOLD_UP_EXPIRY, R423 -/
  | holdUpExpiry
  /-- OVERVOLTAGE_SHUTDOWN, R423 -/
  | overvoltageShutdown (mv : Nat)
  /-- PERST_N_ASSERT, R375 -/
  | perstAssert
  /-- PERST_N_DEASSERT, R376 -/
  | perstDeassert (lowUs : Nat) (supplyMs : Nat) (refclkUs : Nat) (hottest : Nat)
  /-- FAST_THROTTLE_FALL, R400 -/
  | fastThrottleFall
  /-- FAST_THROTTLE_RISE, R400 -/
  | fastThrottleRise
  /-- THERMAL_SHUTDOWN, R401 -/
  | thermalShutdown (site : HotSite)
  /-- SCLK_LOSS, R310 -/
  | sclkLoss
  /-- ID, R432 -/
  | sbId
  /-- STATUS, R432 -/
  | sbStatus
  /-- BOOT, R432 -/
  | sbBoot
  /-- CAP, R432 -/
  | sbCap (op : CapOp)
  /-- POWER, R432 -/
  | sbPower
  /-- THERM, R432 -/
  | sbTherm
  /-- FLASH_READ, R432 -/
  | flashRead (addr : Nat) (len : Nat)
  /-- FLASH_WRITE, R432 -/
  | flashWrite (addr : Nat) (data : List Byte) (pec : Pec)
  /-- FLASH_ERASE, R432 -/
  | flashErase (addr : Nat) (pec : Pec)
  /-- FLASH_STATUS, R432 -/
  | flashStatus
  /-- FLASH_OP_DONE, R432 -/
  | flashOpDone
  /-- TAP_ACCESS, R432 -/
  | tapAccess (tms : Bool) (tdi : Bool)
  /-- HEALTH_REPORT, R383 -/
  | healthReport (dst : TileId) (src : TileId) (pass : Bool)
  /-- ELECTION_FREEZE, R383 -/
  | electionFreeze
  /-- PRIMARY_CLAIM, R383 -/
  | primaryClaim (dst : TileId)
  /-- CLAIM_ACK, R383 -/
  | claimAck (src : TileId)
  /-- BOOT_PHASE_END, R376 -/
  | bootPhaseEnd (rep : PhaseReport)
  /-- READY_DEADLINE, R385 -/
  | readyDeadline
  /-- CONFIG_REQUEST, R335 -/
  | configRequest (p : HPort)
  /-- HOST_PORT_DOWN, R334 -/
  | hostPortDown (p : HPort)
  /-- D3HOT_TRANSITION, R329 -/
  | d3hotTransition (p : HPort)
  /-- HOST_PORT_RETURN, R334 -/
  | hostPortReturn (p : HPort)
  /-- REGISTER_WRITE, R16 -/
  | registerWrite (src : RegSrc) (off : Nat) (size : Nat) (v : W64)
  /-- BAR_UNSUPPORTED_ACCESS, R331 -/
  | barUnsupportedAccess (p : HPort) (bar4 : Bool) (off : Nat) (size : Nat)
  /-- REG_HALF_READ, R405 -/
  | regHalfRead (p : HPort) (off : Nat)
  /-- TILE_WINDOW_ACCESS, R404 -/
  | tileWindowAccess (p : HPort) (x : Nat) (size : Nat) (acc : Access)
  /-- BAR2_READ, R332 -/
  | bar2Read (p : HPort) (off : Nat) (len : Nat) (errs : List ScrubErr)
  /-- BAR2_WRITE, R332 -/
  | bar2Write (p : HPort) (off : Nat) (data : HostWrite)
  /-- BAR2_READ_TIMEOUT, R332 -/
  | bar2ReadTimeout (p : HPort) (len : Nat)
  /-- BAR2_BASE_WRITE, R409 -/
  | bar2BaseWrite (p : HPort) (v : W64)
  /-- BAR2_RESIZE, R409 -/
  | bar2Resize (p : HPort) (log : Nat)
  /-- BAR2_CLEAR, R409 -/
  | bar2Clear
  /-- MBOX_ENABLE, R340 -/
  | mboxEnable (n : MboxId)
  /-- MBOX_DISABLE, R340 -/
  | mboxDisable (n : MboxId)
  /-- SQ_TAIL, R341 -/
  | sqTail (p : HPort) (n : MboxId) (v : W32)
  /-- CQ_HEAD, R341 -/
  | cqHead (p : HPort) (n : MboxId) (v : W32)
  /-- STREAM_RING_HEAD, R344 -/
  | streamRingHead (p : HPort) (r : RingId) (v : W32)
  /-- EVENT_RING_HEAD, R344 -/
  | eventRingHead (p : HPort) (v : W32)
  /-- DMA_DOORBELL, R345 -/
  | dmaDoorbell (p : HPort) (d : DoorId)
  /-- CLEAR_COUNTS, R416 -/
  | clearCounts (c : SubId)
  /-- PWR_CAP_WRITE, R399 -/
  | pwrCapWrite (v : W64)
  /-- UNIT_CAP_WRITE, R414 -/
  | unitCapWrite (sq : SquareId) (v : W64)
  /-- ECC_POLICY_WRITE, R57 -/
  | eccPolicyWrite (sq : SquareId) (v : W64)
  /-- SCRUB_CTRL_WRITE, R414 -/
  | scrubCtrlWrite (sq : SquareId) (v : W64)
  /-- SEG_LAYOUT_WRITE, R53 -/
  | segLayoutWrite (q : TileId) (w : Fin 4) (v : W64)
  /-- CW_PORT_CTRL_WRITE, R413 -/
  | cwPortCtrlWrite (p : CwPortId) (v : W64)
  /-- CW_LEND_CTRL_WRITE, R369 -/
  | cwLendCtrlWrite (v : W64)
  /-- SYNC_MODE_WRITE, R225 -/
  | syncModeWrite (t : TileId) (v : W64)
  /-- TIMER_PERIOD_WRITE, R419 -/
  | timerPeriodWrite (t : TileId) (n : Fin 16) (v : W64)
  /-- ARR_DEBUG_WRITE, R420 -/
  | arrDebugWrite (t : TileId) (v : W64)
  /-- COMMAND_FETCH, R342 -/
  | commandFetch (n : MboxId) (entry : List Byte) (ext : List Byte)
  /-- COMMAND_COMPLETION, R343 -/
  | commandCompletion (n : MboxId)
  /-- MSIX_COALESCE_EXPIRY, R343 -/
  | msixCoalesceExpiry (r : RingRef)
  /-- HOST_READ_TIMEOUT, R337 -/
  | hostReadTimeout (what : HostRead)
  /-- HEARTBEAT, R338 -/
  | heartbeat
  /-- DEVICE_QUERY, R352 -/
  | deviceQuery (h : CmdHdr) (what : W32)
  /-- MODULE_POLICY, R295 -/
  | modulePolicy (h : CmdHdr) (iso : Byte)
  /-- PORT_REBALANCE, R334 -/
  | portRebalance (h : CmdHdr) (mode : Byte)
  /-- TENANT_CREATE, R352 -/
  | tenantCreate (h : CmdHdr) (t : W16)
  /-- TENANT_DELETE, R245 -/
  | tenantDelete (h : CmdHdr) (t : W16)
  /-- QUOTA_SET, R239 -/
  | quotaSet (h : CmdHdr) (t : W16) (tier : Byte) (bytes : W64)
  /-- QUOTA_QUERY, R352 -/
  | quotaQuery (h : CmdHdr)
  /-- PROMPT_WEIGHT, R284 -/
  | promptWeight (h : CmdHdr) (w : W16)
  /-- BUDGET_REFILL, R285 -/
  | budgetRefill (h : CmdHdr) (tick : W32) (items : List Refill)
  /-- BUDGET_QUERY, R352 -/
  | budgetQuery (h : CmdHdr)
  /-- OBJECT_ALLOC, R235 -/
  | objectAlloc (h : CmdHdr) (bytes : W64) (flags : W32) (mirror : W16) (page : Byte)
  /-- OBJECT_FREE, R247 -/
  | objectFree (h : CmdHdr) (obj : W32)
  /-- OBJECT_LOAD, R237 -/
  | objectLoad (h : CmdHdr) (obj : W32) (first : W32) (units : List UnitImage) (addr : W64) (port : Byte)
  /-- PROMOTE, R247 -/
  | promote (h : CmdHdr) (obj : W32) (claim : W32)
  /-- EVICT, R247 -/
  | evict (h : CmdHdr) (obj : W32) (claim : W32)
  /-- OBJECT_QUERY, R352 -/
  | objectQuery (h : CmdHdr) (obj : W32)
  /-- MAP, R183 -/
  | mapPages (h : CmdHdr) (va : W64) (obj : W32) (first : W32) (pages : W32) (key : W16) (attrs : Byte)
  /-- UNMAP, R298 -/
  | unmapPages (h : CmdHdr) (va : W64) (pages : W32)
  /-- WELD_MAP, R183 -/
  | weldMap (h : CmdHdr) (va : W64) (off : W32) (bytes : W32) (tile : Byte)
  /-- POOL_REGISTER, R233 -/
  | poolRegister (h : CmdHdr) (addr : W64) (bytes : W64) (owner : W16) (mask : Byte)
  /-- POOL_DEREGISTER, R233 -/
  | poolDeregister (h : CmdHdr) (pool : W32)
  /-- MODEL_LOAD, R353 -/
  | modelLoad (h : CmdHdr) (m : W16) (image : List Byte)
  /-- MODEL_PUBLISH, R265 -/
  | modelPublish (h : CmdHdr) (m : W16)
  /-- MODEL_RETIRE, R265 -/
  | modelRetire (h : CmdHdr) (m : W16)
  /-- MODEL_CALIB, R140 -/
  | modelCalib (h : CmdHdr) (m : W16) (window : W16) (clamp : W32) (ovf : W32) (sat : W32)
  /-- MODEL_QUERY, R140 -/
  | modelQuery (h : CmdHdr) (m : W16) (what : Byte)
  /-- OVERLAY_LOAD, R266 -/
  | overlayLoad (h : CmdHdr) (ov : W16) (m : W16) (series : W16) (gen : W32) (recs : List Byte)
  /-- OVERLAY_PUBLISH, R266 -/
  | overlayPublish (h : CmdHdr) (ov : W16)
  /-- OVERLAY_RETIRE, R266 -/
  | overlayRetire (h : CmdHdr) (ov : W16)
  /-- OVERLAY_REBIND, R269 -/
  | overlayRebind (h : CmdHdr) (series : W16)
  /-- SCHEDULE_PLAN, R277 -/
  | schedulePlan (h : CmdHdr) (m : W16) (plan : Plan)
  /-- SESSION_OPEN, R271 -/
  | sessionOpen (h : CmdHdr) (m : W16) (series : W16) (prm : SessParams)
  /-- SESSION_APPEND, R272 -/
  | sessionAppend (h : CmdHdr) (hd : W32) (fin : Bool) (tokens : List W32)
  /-- SESSION_CANCEL, R291 -/
  | sessionCancel (h : CmdHdr) (hd : W32)
  /-- SESSION_CLOSE, R272 -/
  | sessionClose (h : CmdHdr) (hd : W32)
  /-- SESSION_FORK, R276 -/
  | sessionFork (h : CmdHdr) (hd : W32) (prm : SessParams)
  /-- SESSION_QUERY, R352 -/
  | sessionQuery (h : CmdHdr) (hd : W32)
  /-- STREAM_RING_CREATE, R344 -/
  | streamRingCreate (h : CmdHdr) (prm : RingParams)
  /-- STREAM_RING_DESTROY, R352 -/
  | streamRingDestroy (h : CmdHdr) (r : W16)
  /-- EVENT_RING_SET, R327 -/
  | eventRingSet (h : CmdHdr) (prm : RingParams)
  /-- MAINT_RETRAIN, R72 -/
  | maintRetrain (h : CmdHdr) (c : W16)
  /-- MAINT_SCRUB, R74 -/
  | maintScrub (h : CmdHdr) (stack : Byte) (hours : Byte)
  /-- MAINT_INIT, R75 -/
  | maintInit (h : CmdHdr) (addr : W64) (bytes : W64)
  /-- MAINT_MAP_OUT, R78 -/
  | maintMapOut (h : CmdHdr) (kind : Byte) (index : W16)
  /-- DIAG_ENTER, R167 -/
  | diagEnter (h : CmdHdr) (t : Byte)
  /-- DIAG_EXIT, R167 -/
  | diagExit (h : CmdHdr) (t : Byte)
  /-- DIAG_TRAFFIC, R390 -/
  | diagTraffic (h : CmdHdr) (c : W16) (pattern : Byte) (duration : W32) (res : TrafficResult)
  /-- KERNEL_LOAD, R380 -/
  | kernelLoad (h : CmdHdr) (addr : W64) (bytes : W32) (port : Byte) (sigOk : Bool)
  /-- KERNEL_UNLOAD, R352 -/
  | kernelUnload (h : CmdHdr) (k : W32)
  /-- UPROG_LOAD, R90 -/
  | uprogLoad (h : CmdHdr) (entry : W16) (words : List W64) (alley : Bool)
  /-- DIAGNOSTIC_ENTRY, R167 -/
  | diagnosticEntry (t : TileId)
  /-- THREAD_LAUNCH, R170 -/
  | threadLaunch (t : ThrId) (rec : LaunchRec)
  /-- THREAD_RELEASE, R169 -/
  | threadRelease (t : ThrId)
  /-- MEMORY_RESPONSE, R171 -/
  | memoryResponse (t : ThrId) (k : Nat) (errs : MemAns)
  /-- WAKE, R220 -/
  | wake (m : WakeMsg)
  /-- WATCH_MESSAGE_STORE, R220 -/
  | watchMessageStore (m : StoreMsg)
  /-- SYNC_ERROR_REPORT, R214 -/
  | syncErrorReport (m : SyncErr)
  /-- THREAD_EXIT_COMPLETE, R174 -/
  | threadExitComplete (t : ThrId)
  /-- ADD, R177 -/
  | add (t : ThrId) (x : RegF)
  /-- SUB, R177 -/
  | sub (t : ThrId) (x : RegF)
  /-- MUL, R177 -/
  | mul (t : ThrId) (x : RegF)
  /-- MULH, R177 -/
  | mulh (t : ThrId) (x : RegF)
  /-- DIV, R177 -/
  | div (t : ThrId) (x : RegF)
  /-- AND, R177 -/
  | and (t : ThrId) (x : RegF)
  /-- OR, R177 -/
  | or (t : ThrId) (x : RegF)
  /-- XOR, R177 -/
  | xor (t : ThrId) (x : RegF)
  /-- SHIFT, R177 -/
  | shift (t : ThrId) (x : RegF)
  /-- CMP, R177 -/
  | cmp (t : ThrId) (x : RegF)
  /-- MINMAX, R177 -/
  | minmax (t : ThrId) (x : RegF)
  /-- ADDI, R177 -/
  | addi (t : ThrId) (x : ImmF)
  /-- ANDI, R177 -/
  | andi (t : ThrId) (x : ImmF)
  /-- ORI, R177 -/
  | ori (t : ThrId) (x : ImmF)
  /-- XORI, R177 -/
  | xori (t : ThrId) (x : ImmF)
  /-- MOVK, R177 -/
  | movk (t : ThrId) (x : ImmF)
  /-- BITS, R177 -/
  | bits (t : ThrId) (x : RegF)
  /-- FADD, R179 -/
  | fadd (t : ThrId) (x : RegF)
  /-- FMUL, R179 -/
  | fmul (t : ThrId) (x : RegF)
  /-- FFMA, R179 -/
  | ffma (t : ThrId) (x : RegF)
  /-- FDIV, R179 -/
  | fdiv (t : ThrId) (x : RegF)
  /-- FCMP, R177 -/
  | fcmp (t : ThrId) (x : RegF)
  /-- FCVT, R178 -/
  | fcvt (t : ThrId) (x : RegF)
  /-- VADD, R177 -/
  | vadd (t : ThrId) (x : VecF)
  /-- VSUB, R177 -/
  | vsub (t : ThrId) (x : VecF)
  /-- VMUL, R177 -/
  | vmul (t : ThrId) (x : VecF)
  /-- VFMA, R177 -/
  | vfma (t : ThrId) (x : VecF)
  /-- VMINMAX, R177 -/
  | vminmax (t : ThrId) (x : VecF)
  /-- VLOGIC, R177 -/
  | vlogic (t : ThrId) (x : VecF)
  /-- VSHIFT, R177 -/
  | vshift (t : ThrId) (x : VecF)
  /-- VRED, R177 -/
  | vred (t : ThrId) (x : VecF)
  /-- VBCAST, R177 -/
  | vbcast (t : ThrId) (x : VecF)
  /-- VGET, R177 -/
  | vget (t : ThrId) (x : VecF)
  /-- VPUT, R177 -/
  | vput (t : ThrId) (x : VecF)
  /-- VCVT, R178 -/
  | vcvt (t : ThrId) (x : VecF)
  /-- VQ8, R180 -/
  | vq8 (t : ThrId) (x : VecF)
  /-- VFN, R179 -/
  | vfn (t : ThrId) (x : VecF)
  /-- VCMP, R177 -/
  | vcmp (t : ThrId) (x : VecF)
  /-- VDOT8, R177 -/
  | vdot8 (t : ThrId) (x : VecF)
  /-- LD, R184 -/
  | ld (t : ThrId) (x : MemF)
  /-- ST, R184 -/
  | st (t : ThrId) (x : MemF)
  /-- VLD, R184 -/
  | vld (t : ThrId) (x : MemF)
  /-- VST, R184 -/
  | vst (t : ThrId) (x : MemF)
  /-- ATOM, R193 -/
  | atom (t : ThrId) (x : RegF)
  /-- CAS, R193 -/
  | cas (t : ThrId) (x : RegF)
  /-- ACOPY, R200 -/
  | acopy (t : ThrId) (x : RegF)
  /-- ACOPY_COMPLETE, R200 -/
  | acopyComplete (k : Nat) (errs : List ScrubErr)
  /-- CFLUSH, R191 -/
  | cflush (t : ThrId) (x : RegF)
  /-- CFLUSH_COMPLETE, R191 -/
  | cflushComplete (k : Nat)
  /-- FENCE_SQ, R198 -/
  | fenceSq (t : ThrId) (x : SysF)
  /-- FENCE_DEV, R198 -/
  | fenceDev (t : ThrId) (x : SysF)
  /-- BR, R177 -/
  | br (t : ThrId) (x : BrF)
  /-- JAL, R177 -/
  | jal (t : ThrId) (x : BrF)
  /-- JR, R177 -/
  | jr (t : ThrId) (x : RegF)
  /-- EXIT, R174 -/
  | exit (t : ThrId) (x : SysF)
  /-- SREAD, R177 -/
  | sread (t : ThrId) (x : SysF)
  /-- SIGNAL, R206 -/
  | signal (t : ThrId) (x : SysF)
  /-- WATCH, R215 -/
  | watch (t : ThrId) (x : SysF)
  /-- WAIT, R220 -/
  | wait (t : ThrId) (x : SysF)
  /-- DMA_KICK, R205 -/
  | dmaKick (t : ThrId) (x : SysF)
  /-- ARRAY_ISSUE, R201 -/
  | arrayIssue (t : ThrId) (x : SysF)
  /-- BANK_ISSUE, R203 -/
  | bankIssue (t : ThrId) (x : SysF)
  /-- COUNTER_SIGNAL, R211 -/
  | counterSignal (m : SignalMsg)
  /-- WATCH_REGISTRATION, R218 -/
  | watchRegistration (r : WatchReq)
  /-- WATCH_SLOT_GRANT, R216 -/
  | watchSlotGrant (t : TileId) (pool : WatchPool)
  /-- WATCH_CANCEL, R222 -/
  | watchCancel (sel : CancelSel)
  /-- COUNTER_WRITE, R223 -/
  | counterWrite (c : CtrId) (v : W32)
  /-- COUNTER_MODE_SET, R209 -/
  | counterModeSet (c : CtrId) (op : ModeOp)
  /-- ARRAY_JOB_START, R145 -/
  | arrayJobStart (a : ArrayId)
  /-- OUTPUT_TILE_SLOT, R157 -/
  | outputTileSlot (a : ArrayId)
  /-- WEIGHT_TILE_LOADED, R142 -/
  | weightTileLoaded (a : ArrayId)
  /-- ROW_PASS, R153 -/
  | rowPass (a : ArrayId)
  /-- FILL_END, R154 -/
  | fillEnd (a : ArrayId)
  /-- REPLAY_PASS_END, R154 -/
  | replayPassEnd (a : ArrayId)
  /-- DRAIN_END, R157 -/
  | drainEnd (a : ArrayId)
  /-- ARRAY_JOB_COMPLETE, R148 -/
  | arrayJobComplete (a : ArrayId)
  /-- ARRAY_HW, R166 -/
  | arrayHw (a : ArrayId)
  /-- ARRAY_HALT, R167 -/
  | arrayHalt (a : ArrayId)
  /-- SC_REQUEST_ARRIVAL, R46 -/
  | scRequestArrival (c : SubId) (r : Req)
  /-- COMMAND_ISSUE, R63 -/
  | commandIssue (c : SubId) (now : Nat)
  /-- READ_RETURN, R57 -/
  | readReturn (c : SubId) (errs : List SymErr)
  /-- REFRESH_BOUNDARY, R65 -/
  | refreshBoundary (c : SubId) (j : Fin 4)
  /-- TEMPERATURE_READ, R66 -/
  | temperatureRead (c : SubId) (temp : Nat)
  /-- ACCOUNTING_PERIOD, R62 -/
  | accountingPeriod (c : SubId)
  /-- DRIFT_TRACKING, R48 -/
  | driftTracking (c : SubId) (drifted : Bool)
  /-- RETRAINING_START, R72 -/
  | retrainingStart (c : SubId)
  /-- RETRAINING_END, R72 -/
  | retrainingEnd (c : SubId) (ok : Bool)
  /-- SPARE_VERIFY_END, R73 -/
  | spareVerifyEnd (c : SubId) (ok : Bool)
  /-- SCRUB_ROW, R74 -/
  | scrubRow (c : SubId) (errs : ScrubRun)
  /-- MAINT_PREEMPT, R71 -/
  | maintPreempt (c : SubId)
  /-- MAINT_SLOT_RELEASE, R71 -/
  | maintSlotRelease (c : SubId)
  /-- WINDOW_START, R94 -/
  | windowStart (u : UnitId) (now : Nat)
  /-- OPEN, R299 -/
  | unitOpen (u : UnitId) (tag : W32)
  /-- STEP, R94 -/
  | unitStep (u : UnitId) (tag : W32)
  /-- CLOSE, R95 -/
  | unitClose (u : UnitId) (tag : W32)
  /-- ABORT, R312 -/
  | unitAbort (u : UnitId) (tag : W32)
  /-- UNIT_ADD, R104 -/
  | unitAdd (u : UnitId) (d : AddCmd)
  /-- YIELD_POINT, R95 -/
  | yieldPoint (u : UnitId) (now : YieldRead)
  /-- BANK_JOB_END, R204 -/
  | bankJobEnd (u : UnitId)
  /-- ALLEY_TIMEOUT, R117 -/
  | alleyTimeout (u : UnitId) (v : UnitId)
  /-- NOP, R88 -/
  | mNop (u : UnitId) (x : Micro)
  /-- END, R88 -/
  | mEnd (u : UnitId) (x : MicroErr)
  /-- SETX, R88 -/
  | mSetx (u : UnitId) (x : Micro)
  /-- ADDX, R88 -/
  | mAddx (u : UnitId) (x : Micro)
  /-- SETK, R88 -/
  | mSetk (u : UnitId) (x : Micro)
  /-- LOOP, R88 -/
  | mLoop (u : UnitId) (x : Micro)
  /-- BRZ, R88 -/
  | mBrz (u : UnitId) (x : Micro)
  /-- ACT, R89 -/
  | mAct (u : UnitId) (x : MicroAt)
  /-- PRE, R89 -/
  | mPre (u : UnitId) (x : MicroAt)
  /-- RD, R100 -/
  | mRd (u : UnitId) (x : MicroAt) (errs : List ScrubErr)
  /-- WR, R101 -/
  | mWr (u : UnitId) (x : MicroAt)
  /-- BOP, R103 -/
  | mBop (u : UnitId) (x : Micro)
  /-- TLU, R106 -/
  | mTlu (u : UnitId) (x : Micro)
  /-- GRP, R106 -/
  | mGrp (u : UnitId) (x : Micro)
  /-- DOT, R88 -/
  | mDot (u : UnitId) (x : Micro)
  /-- EXPW, R110 -/
  | mExpw (u : UnitId) (x : Micro)
  /-- LDR, R88 -/
  | mLdr (u : UnitId) (x : Micro)
  /-- FIN, R88 -/
  | mFin (u : UnitId) (x : Micro)
  /-- ASND, R116 -/
  | mAsnd (u : UnitId) (x : Micro)
  /-- ARCV, R117 -/
  | mArcv (u : UnitId) (x : Micro)
  /-- FILL, R88 -/
  | mFill (u : UnitId) (x : Micro)
  /-- DESCRIPTOR_START, R257 -/
  | descriptorStart (c : ChanId)
  /-- DMA_COPY, R259 -/
  | dmaCopy (c : ChanId) (host : HostData) (errs : BurstErr)
  /-- DMA_ENCODE, R260 -/
  | dmaEncode (c : ChanId) (errs : List ScrubErr)
  /-- DMA_DECODE, R260 -/
  | dmaDecode (c : ChanId) (host : HostData) (errs : List ScrubErr)
  /-- DMA_WAIT, R256 -/
  | dmaWait (c : ChanId)
  /-- TIMER_FIRING, R258 -/
  | timerFiring (t : TileId) (n : Fin 16)
  /-- CHANNEL_TRIGGER, R258 -/
  | channelTrigger (c : ChanId)
  /-- DMA_TRIGGER_DELIVERY, R258 -/
  | dmaTriggerDelivery (c : ChanId)
  /-- BURST_GRANT, R259 -/
  | burstGrant (t : TileId) (ready : List Nat)
  /-- DESCRIPTOR_END, R261 -/
  | descriptorEnd (c : ChanId)
  /-- DMA_ABORT, R255 -/
  | dmaAbort (c : ChanId)
  /-- PROMOTION_END, R247 -/
  | promotionEnd (obj : W32) (res : PromoteResult)
  /-- DEMOTION_RETRY, R248 -/
  | demotionRetry (obj : W32)
  /-- DEMOTION_END, R248 -/
  | demotionEnd (obj : W32)
  /-- FRAMELESS_REENCODE, R247 -/
  | framelessReencode (obj : W32) (unit : W32)
  /-- STAGING_GRACE_EXPIRY, R251 -/
  | stagingGraceExpiry (m : ModelId) (layer : Byte) (ov : Option W16)
  /-- RECALL_MOVES_DONE, R253 -/
  | recallMovesDone (slot : LotSlot)
  /-- BORROWER_RECALL_DEADLINE, R253 -/
  | borrowerRecallDeadline (slot : LotSlot)
  /-- DISPATCHER_PASS, R279 -/
  | dispatcherPass (m : ModelId)
  /-- BOUNDARY_ACTIONS, R279 -/
  | boundaryActions (m : ModelId)
  /-- LAYER_START, R250 -/
  | layerStart (m : ModelId)
  /-- STEP_COMMIT, R283 -/
  | stepCommit (m : ModelId) (outs : List StepOut) (counts : List CalCount)
  /-- STREAM_ENTRY_WRITE, R290 -/
  | streamEntryWrite (r : RingId)
  /-- PADDED_SLOT_START, R301 -/
  | paddedSlotStart (m : ModelId) (outs : List StepOut) (counts : List CalCount) (done : Bool)
  /-- ERROR_REPORT, R308 -/
  | errorReport (e : ErrRep)
  /-- REPLAY_START, R312 -/
  | replayStart (m : ModelId)
  /-- HANDLER_LIMIT_EXPIRY, R310 -/
  | handlerLimitExpiry (d : Domain)
  /-- LIVENESS_PROBE, R309 -/
  | livenessProbe (silent : List TileId)
  /-- TILE_SELF_CHECK_END, R318 -/
  | tileSelfCheckEnd (t : TileId) (pass : Bool)
  /-- ADOPTED_SUBCHANNEL_OPEN, R319 -/
  | adoptedSubchannelOpen (c : SubId)
  /-- PRIMARY_TAKEOVER, R320 -/
  | primaryTakeover
  /-- STANDBY_READY, R320 -/
  | standbyReady
  /-- REBUILD_COPY_DONE, R317 -/
  | rebuildCopyDone (obj : W32) (unit : W32) (ok : Bool)
  /-- REBUILD_RETRY, R317 -/
  | rebuildRetry (obj : W32) (unit : W32)
  /-- EVENT_APPEND, R327 -/
  | eventAppend
  /-- FLIT_RECEIVE, R359 -/
  | flitReceive (p : CwPortId) (flit : List Byte)
  /-- NAK, R363 -/
  | cwNak (p : CwPortId) (ack : W32)
  /-- REPLAY_TIMER, R363 -/
  | replayTimer (p : CwPortId)
  /-- LINK_RETRAIN, R364 -/
  | linkRetrain (p : CwPortId) (cause : LinkCause)
  /-- TRAINING_ATTEMPT_END, R364 -/
  | trainingAttemptEnd (p : CwPortId) (lanes : BitVec 4)
  /-- PORT_RETRY, R365 -/
  | portRetry (p : CwPortId)
  /-- KEEPALIVE_SEND, R366 -/
  | keepaliveSend (p : CwPortId)
  /-- KEEPALIVE_TIMEOUT, R366 -/
  | keepaliveTimeout (p : CwPortId)
  /-- KEEPALIVE, R366 -/
  | keepalive (p : CwPortId) (m : CwMsg) (ident : W64) (epoch : W32)
  /-- LOT_OFFER, R369 -/
  | lotOffer (p : CwPortId) (m : CwMsg)
  /-- LOT_REQUEST, R370 -/
  | lotRequest (p : CwPortId) (m : CwMsg)
  /-- LOT_GRANT, R370 -/
  | lotGrant (p : CwPortId) (m : CwMsg)
  /-- LOT_REFUSE, R370 -/
  | lotRefuse (p : CwPortId) (m : CwMsg)
  /-- LOT_REQUEST_GIVEUP, R370 -/
  | lotRequestGiveup (p : CwPortId)
  /-- LOT_RECALL, R373 -/
  | lotRecall (p : CwPortId) (m : CwMsg)
  /-- LOT_RELEASE, R373 -/
  | lotRelease (p : CwPortId) (m : CwMsg)
  /-- LOT_RELEASED, R373 -/
  | lotReleased (p : CwPortId) (m : CwMsg)
  /-- LENDER_RECALL_DEADLINE, R373 -/
  | lenderRecallDeadline (lot : W32)
  /-- READ, R371 -/
  | cwRead (p : CwPortId) (m : CwMsg) (errs : List ScrubErr)
  /-- BLOCK_READ, R371 -/
  | cwBlockRead (p : CwPortId) (m : CwMsg) (errs : List ScrubErr)
  /-- WRITE, R371 -/
  | cwWrite (p : CwPortId) (m : CwMsg) (data : List Byte)
  /-- DATA, R371 -/
  | cwData (p : CwPortId) (m : CwMsg) (data : List Byte)
  /-- WRITE_ACK, R371 -/
  | cwWriteAck (p : CwPortId) (m : CwMsg)
  /-- ERROR, R371 -/
  | cwError (p : CwPortId) (m : CwMsg)
  /-- REQUEST_TIMEOUT, R371 -/
  | requestTimeout (p : CwPortId) (tag : W32)
  /-- VF_LOOP, R395 -/
  | vfLoop (t : TileId) (x : VfSense)
  /-- DROOP_TRIP, R395 -/
  | droopTrip (t : TileId)
  /-- EYE_MARGIN_LOW, R396 -/
  | eyeMarginLow (site : EyeSite)
  /-- SCRUB_RATE_LOOP, R397 -/
  | scrubRateLoop
  /-- BANK_CONCURRENCY_LOOP, R398 -/
  | bankConcurrencyLoop (sense : List StackSense)
  /-- POWER_MEASURE, R399 -/
  | powerMeasure (w : Nat) (mv : Nat) (ma : Nat)
  /-- POWER_CAP_ENFORCE, R399 -/
  | powerCapEnforce
  /-- FLIT_SLOT, R360 -/
  | flitSlot (p : CwPortId)
  /-- PORT_LINK_TRAINED, R329 -/
  | portLinkTrained (p : HPort) (rate : Nat) (width : Nat)
deriving DecidableEq, Repr

end Sys2Proof
end

