-- ==== Sys2Proof/Config.lean ====
section
/-! DEFINITION. What this machine fixes outside its state: identity fuses, and the free values, which nothing constrains
(notes/assumptions/5.md). -/
namespace Sys2Proof.Config

/-- Verwiyr's PCI-SIG Vendor ID (12 R328): the spec gives no number. DESIGN CHOICE: free (notes/assumptions/5.md). -/
opaque vendorId : W16
/-- The 64-bit module identity (15 Table REGS-2): fused, a free constant. -/
opaque moduleId : W64
/-- The fused minimum security version of a module before its first boot (14 R379): a free constant. -/
opaque fusedSecver : W32

/-- The `n`-th free value, `w` bits wide: a value the spec leaves open (notes/assumptions/5.md). -/
opaque freeBits : (w : Nat) → (n : Nat) → BitVec w
/-- A byte of a segment whose layout has changed `epoch` times (02 R53): undefined contents, by array position. -/
opaque undefByte : (epoch : Nat) → (pos : Nat) → Byte
/-- The lengths the ENCODE engine picks for the codes of a table (08 R243): given the counts of the symbols. -/
opaque huffLengths : (counts : List Nat) → List Nat
/-- The module's fused 256-bit root secret (08 R244): a free constant. -/
opaque rootSecret : BitVec 256
/-- The counters that firmware reserves as start(L) and staged(L) of a model on a home tile (08 R250): the spec names no numbers. -/
opaque startCounter : (model tile layer : Nat) → Nat
opaque stagedCounter : (model tile layer : Nat) → Nat
/-- The DMA channel of a model's staging chain on a home tile, and the 4-KiB page of the tile's Weld from which firmware reserves the chain's descriptors and
staging slots (08 R250): the spec names none. -/
opaque stageChan : (model tile : Nat) → Nat
opaque stagePage : (model tile : Nat) → Nat

/-- The set index function of a Plaza slice (06 R189), before the remainder by the number of sets: the spec gives none. -/
opaque plazaSet : (line : Nat) → Nat
/-- Entries 0 to 383 of the micro-program stores: the standard programs of the signed image (03 R92), whose words the spec does not give. -/
opaque stdWord : (entry : Nat) → W64
/-- How many rows a segment of a standard program carries (03 R91, R92), by its entry point: the image fixes it. -/
opaque segRows : (entry : Nat) → Nat

/-- Messages that one queue of a streets router holds beyond its first (01 R30): the spec gives no depth. -/
opaque streetsRoom : Nat
/-- VFN of an operand at which the function has no value: log2 and 1/√x of ±0 (06 R179). It depends on the function and the operand alone. -/
opaque vfnPole : (f : Nat) → (x : W32) → W32

end Sys2Proof.Config
end

