-- ==== Sys2Proof/Machine/Numbers.lean ====
section
/-! DEFINITION. Number formats (04): exact dyadic values, one rounding function for every floating format, conversions, IEEE 754
operations with round-to-nearest-even (03 R102, 04 R135, 06 R179), weight codes and scales. -/
namespace Sys2Proof.Machine

open Sys2Proof

/-- The number of significant bits of `n`. -/
def bitLen (n : Nat) : Nat := if n = 0 then 0 else Nat.log2 n + 1

/-- ⌊√n⌋ by one bit of the root at a time, from bit `k - 1` down. -/
def isqrtFrom (n : Nat) : Nat → Nat → Nat
  | 0, r => r
  | k + 1, r =>
    let r' := r + 2 ^ k
    isqrtFrom n k (if r' * r' ≤ n then r' else r)

/-- ⌊√n⌋. -/
def isqrt (n : Nat) : Nat := isqrtFrom n (bitLen n / 2 + 1) 0

/-- A binary floating-point format: exponent and fraction widths. Bias is 2^(eb - 1) - 1. -/
structure Fmt where
  eb : Nat
  fb : Nat
deriving DecidableEq, Repr

def fp32 : Fmt := ⟨8, 23⟩
def bf16 : Fmt := ⟨8, 7⟩
def fp16 : Fmt := ⟨5, 10⟩

def fmtBias (f : Fmt) : Nat := 2 ^ (f.eb - 1) - 1
/-- The pattern of infinity without its sign. -/
def fmtInf (f : Fmt) : Nat := (2 ^ f.eb - 1) * 2 ^ f.fb
/-- The quiet NaN with sign 0: 0x7FC0_0000, 0x7FC0, 0x7E00 (04 R135). -/
def fmtNan (f : Fmt) : Nat := fmtInf f + 2 ^ (f.fb - 1)
def fmtSignBit (f : Fmt) : Nat := 2 ^ (f.eb + f.fb)

/-- A number taken apart: NaN, ± infinity, or ± m · 2^e. -/
inductive Num where
  | nan
  | inf (neg : Bool)
  | fin (neg : Bool) (m : Nat) (e : Int)
deriving DecidableEq, Repr

/-- The value of a pattern (subnormals kept). -/
def unpack (f : Fmt) (b : Nat) : Num :=
  let neg := b / fmtSignBit f % 2 == 1
  let e := b / 2 ^ f.fb % 2 ^ f.eb
  let m := b % 2 ^ f.fb
  if e = 2 ^ f.eb - 1 then (if m = 0 then .inf neg else .nan)
  else if e = 0 then .fin neg m (1 - (fmtBias f : Int) - f.fb)
  else .fin neg (m + 2 ^ f.fb) ((e : Int) - fmtBias f - f.fb)

/-- Round half to even: `m / 2^sh`, with `sticky` standing for a positive rest below `m`'s last bit. -/
def roundShift (m sh : Nat) (sticky : Bool) : Nat :=
  let q := m / 2 ^ sh
  let r := m % 2 ^ sh
  if sh = 0 then q
  else
    let half := 2 ^ (sh - 1)
    if half < r || (r == half && (sticky || q % 2 == 1)) then q + 1 else q

/-- The magnitude bits of m · 2^e (plus a positive rest where `sticky`) rounded to nearest, ties to even, subnormals kept; past
the largest finite number it answers the pattern of infinity or above (04 R135). -/
def roundMag (f : Fmt) (m : Nat) (e : Int) (sticky : Bool) : Nat :=
  if m = 0 then 0
  else
    let emin : Int := 1 - (fmtBias f : Int) - f.fb
    let q : Int := max (e + (bitLen m : Int) - 1 - f.fb) emin
    let sig := if q ≤ e then m * 2 ^ (e - q).toNat else roundShift m (q - e).toNat sticky
    (q - emin).toNat * 2 ^ f.fb + sig

/-- Arithmetic rounding: overflow goes to infinity. -/
def packInf (f : Fmt) (neg : Bool) (m : Nat) (e : Int) (sticky : Bool) : Nat :=
  (if neg then fmtSignBit f else 0) + min (roundMag f m e sticky) (fmtInf f)

/-- Conversion rounding: overflow clamps to the largest finite number (04 Table NUMF-6). -/
def packClamp (f : Fmt) (neg : Bool) (m : Nat) (e : Int) (sticky : Bool) : Nat :=
  (if neg then fmtSignBit f else 0) + min (roundMag f m e sticky) (fmtInf f - 1)

/-- True where rounding passes the largest finite number (05 R158). -/
def packOver (f : Fmt) (m : Nat) (e : Int) : Bool := fmtInf f ≤ roundMag f m e false

/-- A signed integer times a power of two. -/
structure Dy where
  v : Int
  e : Int
deriving DecidableEq, Repr

def dyAdd (a b : Dy) : Dy :=
  let e := min a.e b.e
  ⟨a.v * 2 ^ (a.e - e).toNat + b.v * 2 ^ (b.e - e).toNat, e⟩

def dyOf (neg : Bool) (m : Nat) (e : Int) : Dy := ⟨if neg then -(m : Int) else m, e⟩

/-- Sum of two numbers, exact, rounded once to `f` (IEEE 754 binary, nearest even). -/
def numAdd (f : Fmt) : Num → Num → Nat
  | .nan, _ => fmtNan f
  | _, .nan => fmtNan f
  | .inf a, .inf b => if a = b then (if a then fmtSignBit f else 0) + fmtInf f else fmtNan f
  | .inf a, .fin .. => (if a then fmtSignBit f else 0) + fmtInf f
  | .fin .., .inf b => (if b then fmtSignBit f else 0) + fmtInf f
  | .fin an am ae, .fin bn bm be =>
    if am = 0 ∧ bm = 0 then (if an && bn then fmtSignBit f else 0)
    else
      let d := dyAdd (dyOf an am ae) (dyOf bn bm be)
      packInf f (d.v < 0) d.v.natAbs d.e false

/-- Exact product of two numbers; NaN for 0 · ∞. -/
def numMulX : Num → Num → Num
  | .nan, _ => .nan
  | _, .nan => .nan
  | .inf a, .inf b => .inf (a != b)
  | .inf a, .fin b m _ => if m = 0 then .nan else .inf (a != b)
  | .fin a m _, .inf b => if m = 0 then .nan else .inf (a != b)
  | .fin a am ae, .fin b bm be => .fin (a != b) (am * bm) (ae + be)

/-- A number rounded to `f`. -/
def numRound (f : Fmt) : Num → Nat
  | .nan => fmtNan f
  | .inf a => (if a then fmtSignBit f else 0) + fmtInf f
  | .fin a m e => packInf f a m e false

def numNeg : Num → Num
  | .nan => .nan
  | .inf a => .inf (!a)
  | .fin a m e => .fin (!a) m e

/-- Division, rounded once. -/
def numDiv (f : Fmt) : Num → Num → Nat
  | .nan, _ => fmtNan f
  | _, .nan => fmtNan f
  | .inf _, .inf _ => fmtNan f
  | .inf a, .fin b _ _ => (if a != b then fmtSignBit f else 0) + fmtInf f
  | .fin a _ _, .inf b => if a != b then fmtSignBit f else 0
  | .fin a am ae, .fin b bm be =>
    if bm = 0 then (if am = 0 then fmtNan f else (if a != b then fmtSignBit f else 0) + fmtInf f)
    else
      let n := am * 2 ^ 64
      packInf f (a != b) (n / bm) (ae - be - 64) (n % bm != 0)

def u32 (x : W32) : Num := unpack fp32 x.toNat

/-! #### FP32 operations on patterns -/

def fadd (a b : W32) : W32 := BitVec.ofNat 32 (numAdd fp32 (u32 a) (u32 b))
def fsub (a b : W32) : W32 := BitVec.ofNat 32 (numAdd fp32 (u32 a) (numNeg (u32 b)))
def fmul (a b : W32) : W32 := BitVec.ofNat 32 (numRound fp32 (numMulX (u32 a) (u32 b)))
def fdiv (a b : W32) : W32 := BitVec.ofNat 32 (numDiv fp32 (u32 a) (u32 b))
/-- a · b + c, rounded once (06 FFMA). -/
def ffma (a b c : W32) : W32 := BitVec.ofNat 32 (numAdd fp32 (numMulX (u32 a) (u32 b)) (u32 c))

/-- BF16 arithmetic: the exact result rounded once to BF16 (06 R179). -/
def bfNum (x : W16) : Num := unpack bf16 x.toNat
def bfAdd (a b : W16) : W16 := BitVec.ofNat 16 (numAdd bf16 (bfNum a) (bfNum b))
def bfSub (a b : W16) : W16 := BitVec.ofNat 16 (numAdd bf16 (bfNum a) (numNeg (bfNum b)))
def bfMul (a b : W16) : W16 := BitVec.ofNat 16 (numRound bf16 (numMulX (bfNum a) (bfNum b)))
def bfFma (a b c : W16) : W16 := BitVec.ofNat 16 (numAdd bf16 (numMulX (bfNum a) (bfNum b)) (bfNum c))

/-- Comparison of two numbers, `none` where one is a NaN. -/
def numCmp : Num → Num → Option Ordering
  | .nan, _ => none
  | _, .nan => none
  | .inf a, .inf b => some (if a = b then .eq else if a then .lt else .gt)
  | .inf a, .fin .. => some (if a then .lt else .gt)
  | .fin .., .inf b => some (if b then .gt else .lt)
  | .fin a am ae, .fin b bm be =>
    let d := dyAdd (dyOf a am ae) (dyOf (!b) bm be)
    some (compare d.v 0)

/-- FCMP conditions: 0 EQ, 1 LT, 2 LE, 3 UNORD (06 Table TILE-5). -/
def fcmpCond (c : Nat) (a b : Num) : Bool :=
  match numCmp a b with
  | none => c == 3
  | some o =>
    match c with
    | 0 => o == .eq
    | 1 => o == .lt
    | 2 => o != .gt
    | _ => false

/-- The order of minimum and maximum: -0 below +0 (notes/assumptions/31.md). -/
def numLtZ (a b : Num) : Bool :=
  match numCmp a b with
  | some .lt => true
  | some .eq =>
    match a, b with
    | .fin true 0 _, .fin false 0 _ => true
    | _, _ => false
  | _ => false

/-- Minimum or maximum where a NaN loses to a number; two NaNs give the NaN of R135 (06 VMINMAX). -/
def fminmax (f : Fmt) (mx : Bool) (a b : Nat) : Nat :=
  match unpack f a, unpack f b with
  | .nan, .nan => fmtNan f
  | .nan, _ => b
  | _, .nan => a
  | x, y => if mx then (if numLtZ x y then b else a) else (if numLtZ y x then b else a)

/-! #### Conversions (04 R135, Table NUMF-6; 06 Table TILE-6) -/

/-- ⌊m · 2^e⌋ of a signed value. -/
def dyFloor (neg : Bool) (m : Nat) (e : Int) : Int :=
  let v : Int := if neg then -(m : Int) else m
  if 0 ≤ e then v * 2 ^ e.toNat else v / 2 ^ (-e).toNat

/-- The nearest integer, ties to even. -/
def dyRne (neg : Bool) (m : Nat) (e : Int) : Int :=
  let r : Nat := if 0 ≤ e then m * 2 ^ e.toNat else roundShift m (-e).toNat false
  if neg then -(r : Int) else r

def clampI (lo hi x : Int) : Int := if x < lo then lo else if hi < x then hi else x

/-- FP32 to an integer in [lo, hi]: nearest even or toward minus infinity, clamped; NaN gives 0. -/
def numToInt (lo hi : Int) (floor : Bool) : Num → Int
  | .nan => 0
  | .inf a => if a then lo else hi
  | .fin n m e => clampI lo hi (if floor then dyFloor n m e else dyRne n m e)

def i32Min : Int := -2147483648
def i32Max : Int := 2147483647
def i64Min : Int := -9223372036854775808
def i64Max : Int := 9223372036854775807

/-- rne_i32 of R133 (NaN gives 0). -/
def rneI32 (x : W32) : Int := numToInt i32Min i32Max false (u32 x)

/-- An integer to FP32, nearest even (i2f). -/
def i2f (v : Int) : W32 := BitVec.ofNat 32 (packInf fp32 (v < 0) v.natAbs 0 false)

/-- A narrowing conversion that clamps (04 Table NUMF-6). -/
def narrow (f : Fmt) : Num → Nat
  | .nan => fmtNan f
  | .inf a => (if a then fmtSignBit f else 0) + (fmtInf f - 1)
  | .fin a m e => packClamp f a m e false

def f32ToF16 (x : W32) : W16 := BitVec.ofNat 16 (narrow fp16 (u32 x))
def f32ToBf16 (x : W32) : W16 := BitVec.ofNat 16 (narrow bf16 (u32 x))

/-- Widening to FP32: exact, every NaN to 0x7FC0_0000 (R135). -/
def widen (f : Fmt) (x : Nat) : W32 := BitVec.ofNat 32 (numRound fp32 (unpack f x))
def f16ToF32 (x : W16) : W32 := widen fp16 x.toNat
def bf16ToF32 (x : W16) : W32 := widen bf16 x.toNat

/-- E4M4 as an exact value m · 2^e (R124). -/
def e4m4Parts (c : Nat) : Nat × Int :=
  let e := c / 16 % 16
  let m := c % 16
  if e = 0 then (m, -10) else (16 + m, (e : Int) - 11)

def e4m4ToF32 (c : Byte) : W32 :=
  let (m, e) := e4m4Parts c.toNat
  BitVec.ofNat 32 (packInf fp32 false m e false)

/-- FP32 to E4M4: nearest code, ties to even code, 0xFF above 496, 0x00 below 0, NaN to 0x00 (Table NUMF-6). -/
def f32ToE4m4 (x : W32) : Byte :=
  match u32 x with
  | .nan => 0
  | .inf neg => if neg then 0 else 0xFF
  | .fin neg m e => if neg then 0 else BitVec.ofNat 8 (min (roundMag ⟨4, 4⟩ m e false) 0xFF)

/-! #### VFN: exactly rounded functions (06 R179), by fixed point with a sticky rest -/

/-- ln 2 in 192 fraction bits. -/
def ln2Fix : Nat := 0xb17217f7d1cf79abc9e3b39803f2f6af40f343267298b62d

/-- Σ y^k / k! from the term `t` of index `k`, with 192 fraction bits, `n` terms more. -/
def expSeries (y : Nat) : Nat → Nat → Nat → Nat → Nat
  | 0, _, _, acc => acc
  | n + 1, k, t, acc =>
    let t' := t * y / 2 ^ 192 / k
    expSeries y n (k + 1) t' (acc + t')

/-- 2^x of a finite FP32. -/
def exp2F (neg : Bool) (m : Nat) (e : Int) : Nat :=
  if m = 0 then 0x3F800000
  else if 8 ≤ e + (bitLen m : Int) - 1 then (if neg then 0 else fmtInf fp32)
  else
    let v : Int := if neg then -(m : Int) else m
    -- x in 160 fraction bits, exact: e is at least -149
    let x : Int := v * 2 ^ (e + 160).toNat
    let n : Int := x / 2 ^ 160
    let f : Nat := (x % 2 ^ 160).toNat
    if f = 0 then packInf fp32 false 1 n false
    else
      let y := f * ln2Fix / 2 ^ 160
      packInf fp32 false (expSeries y 48 1 (2 ^ 192) (2 ^ 192)) (n - 192) true

/-- `n` more fraction bits of log2 of `m / 2^192` (in [1, 2)), by squaring. -/
def log2Bits : Nat → Nat → Nat → Nat
  | 0, _, acc => acc
  | n + 1, m, acc =>
    let m2 := m * m / 2 ^ 192
    if 2 ^ 193 ≤ m2 then log2Bits n (m2 / 2) (2 * acc + 1) else log2Bits n m2 (2 * acc)

/-- log2 of a positive finite m · 2^e. -/
def log2F (m : Nat) (e : Int) : Nat :=
  let l := bitLen m
  let k : Int := e + l - 1
  if m = 2 ^ (l - 1) then numRound fp32 (.fin (k < 0) k.natAbs 0)
  else
    let fr := log2Bits 112 (m * 2 ^ (193 - l)) 0
    let v : Int := k * 2 ^ 112 + fr
    if v < 0 then packInf fp32 true (v + 1).natAbs (-112) true else packInf fp32 false v.natAbs (-112) true

/-- √(m · 2^e), rounded once. -/
def sqrtF (m : Nat) (e : Int) : Nat :=
  let e2 : Int := (e - 64) - (e % 2)
  let v := m * 2 ^ (e - e2).toNat
  let r := isqrt v
  packInf fp32 false r (e2 / 2) (r * r != v)

/-- 1/√(m · 2^e), rounded once, for m not 0. -/
def rsqrtF (m : Nat) (e : Int) : Nat :=
  let ee : Int := e % 2
  let m2 := m * 2 ^ ee.toNat
  let n := 2 ^ 160
  let t := n / m2
  let r := isqrt t
  packInf fp32 false r (-80 - (e - ee) / 2) (r * r != t || n % m2 != 0)

/-- VFN f[2:0]: 0 2^x, 1 log2 x, 2 1/x, 3 1/√x, 4 √x. `free` stands where no rounded value exists: log2 and 1/√ of ±0
(notes/assumptions/32.md); a negative argument of log2, 1/√ or √ gives the NaN. -/
def vfnF (c : Nat) (x : W32) : W32 :=
  BitVec.ofNat 32 <|
  match c, u32 x with
  | _, .nan => fmtNan fp32
  | 0, .inf neg => if neg then 0 else fmtInf fp32
  | 0, .fin neg m e => exp2F neg m e
  | 1, .inf neg => if neg then fmtNan fp32 else fmtInf fp32
  | 1, .fin neg m e => if m = 0 then (Config.vfnPole 1 x).toNat else if neg then fmtNan fp32 else log2F m e
  | 2, n => numDiv fp32 (.fin false 1 0) n
  | 3, .inf neg => if neg then fmtNan fp32 else 0
  | 3, .fin neg m e => if m = 0 then (Config.vfnPole 3 x).toNat else if neg then fmtNan fp32 else rsqrtF m e
  | _, .inf neg => if neg then fmtNan fp32 else fmtInf fp32
  | _, .fin neg m e => if m = 0 then x.toNat else if neg then fmtNan fp32 else sqrtF m e

/-! #### Weight codes (04 R122) and pairwise sums (03 R106) -/

/-- Weight formats by their code: 0 W8, 1 W4, 2 W3, 3 W2. -/
def codeBits (fmt : Nat) : Nat := match fmt with | 0 => 8 | 1 => 4 | 2 => 3 | _ => 2

/-- v(c) of Table NUMF-1. -/
def codeVal (fmt c : Nat) : Int :=
  match fmt with
  | 0 => if 128 ≤ c then (c : Int) - 256 else c
  | 1 => if 8 ≤ c then (c : Int) - 16 else c
  | 2 => 2 * (c : Int) - 7
  | _ => 2 * (c : Int) - 3

/-- One level of pairwise(): neighbours joined, an odd last element kept. -/
def pairLevel {α : Type} (op : α → α → α) : List α → List α
  | a :: b :: r => op a b :: pairLevel op r
  | l => l

/-- The levels of pairwise(), `fuel` of them. -/
def pairFuel {α : Type} (op : α → α → α) : Nat → List α → List α
  | 0, l => l
  | _ + 1, [] => []
  | _ + 1, [a] => [a]
  | n + 1, l => pairFuel op n (pairLevel op l)

/-- pairwise() of R106 over FP32 patterns. -/
def pairwiseF (l : List W32) : W32 := (pairFuel fadd (bitLen l.length + 1) l).headD 0

end Sys2Proof.Machine
end

