-- ==== Sys2Proof/Machine/State.lean ====
section
/-! DEFINITION. The state of the module as plain data, holding every register, queue, memory and mode the spec names; what a
step can stop on; the state after reset. INVENTORY.md, section State, gives each field's rule and reset value.
Large families of like things are tables: lists of (index, record) pairs in one canonical form (Machine/Ops.lean). -/
namespace Sys2Proof.Machine

open Sys2Proof

/-- A sparse table: indexes strictly rising, and no entry equal to what an unlisted index holds (Machine/Ops.lean, `tget`). -/
abbrev Tab (α : Type) := List (Nat × α)

/-- Why a run stops with a fault. The spec gives every command an effect, and the module's own faults are states (11 R306). -/
inductive Fault where
  /-- Raised by no meaning: it stands for a command to which the spec would give no effect. Safe. -/
  | unspecified
deriving DecidableEq, Repr

/-- Why a command has no meaning. Safe: a refusal proves nothing about the hardware. -/
inductive Refusal where
  /-- Raised by `exec` for a command without a meaning. Safe. -/
  | notModelled (mnemonic : String)
deriving DecidableEq, Repr

/-- One event record (11 R326, Table FALT-7). -/
structure Event where
  seq : W32
  code : W16
  cls : Byte
  nested : Bool
  escalated : Bool
  oos : Bool
  outside : Bool
  lost : Bool
  time : W64
  dom : Byte
  idx : W16
  related : W32
  model : W16
  tenant : W16
  step : W32
  a0 : W64
  a1 : W64
  a2 : W64
  a3 : W64
deriving DecidableEq, Repr

/-! ### Stacks and sub-channel controllers (02) -/

/-- A codeword as the array gave it at the instant of a read command: the stored data bytes, the poison mark, and the policy in force when the
read was issued (02 R57, R437; 03 R96). -/
structure Sample where
  data : List Byte
  mark : Bool
  pol2 : Bool
deriving DecidableEq, Repr

/-- A request in a controller's class queue (02 R46). `stage` follows a read, merge and write (R60): 0 not begun, 1 its read (or the ADD in the
unit) is out, 2 the merged codeword waits for its write; `sample` is what the read that is out found. -/
structure QReq where
  id : Nat
  req : Req
  stage : Nat
  merged : List Byte
  mPoison : Bool
  sample : Option Sample
deriving DecidableEq, Repr

/-- What holds a bank (02 R64). -/
inductive Hold where
  | none
  | window (preemptible : Bool)
  | codeword (col : Nat)
deriving DecidableEq, Repr

/-- One bank as its controller sees it: times in ps of the last commands (02 R49), refresh (R65), tracker (R69). -/
structure Bank where
  openRow : Option Nat
  tAct : Option Nat
  tRd : Option Nat
  tWr : Option Nat
  tPre : Option Nat
  tRef : Option Nat
  debt : BitVec 10
  tracker : List (Nat × Nat)
  walk : Nat
  adopted : Bool
  hold : Hold
  cols : Nat
deriving DecidableEq, Repr

/-- A part of a MAINT_INIT waiting or running on a sub-channel (02 R75): the command, the rows, of the pair `pair` or of all four banks,
and the 32-byte pattern. Once `begun`, `units` are those whose INIT job has not ended, `bursts` the banks (units out of service) still to be filled by
write bursts, and `done` the codewords of the first of them already written; `id` is its place in the order of the controller's requests. -/
structure InitJob where
  cmd : CmdHdr
  firstRow : Nat
  rows : Nat
  pair : Option Nat
  pattern : List Byte
  begun : Bool
  units : List Nat
  bursts : List Nat
  done : Nat
  id : Nat
deriving DecidableEq, Repr

/-- The row that scrub holds (02 R74): its bank by module-wide index and its row, its place in the class-3 order, the symbol errors its codewords will meet,
the corrected codeword that is still to be written back, as (column, data), and whether every codeword has been read. -/
structure ScrubRow where
  id : Nat
  bank : Nat
  row : Nat
  errs : List ScrubErr
  fix : Option (Nat × List Byte)
  shut : Bool
deriving DecidableEq, Repr

/-- A maintenance activity, by its holder code (15 Table REGS-23; 02 R71): 1 retraining, 2 refresh-rate change, 3 lane-spare switch,
4 scrub, 5 initialise. -/
abbrev Activity := Nat

/-- A read answered by the controller. -/
structure ReadResp where
  req : Req
  data : List Byte
  poison : Bool
deriving DecidableEq, Repr

/-- One sub-channel and its controller (02; 15 Table REGS-23). `clean` lists rows initialised in this scrub pass, as (bank, first row, rows):
scrub skips them (R75). `grid` is the end of its last training in ps, the origin of the activation grid (03 R98). `scrub` is the row
that scrub holds; `svcAll` is the burst time of every class in this period. -/
structure SubCh where
  state : Nat
  serving : Nat
  standbyPort : Bool
  spare : Option Nat
  erased : Option Nat
  spareFailed : Bool
  mapoutReported : Bool
  banksOut : BitVec 4
  x2 : Bool
  dieTemp : Byte
  readCe : W32
  scrubCe : W32
  readUe : W32
  scrubUe : W32
  impl : List Nat
  reads : Nat
  holder : Activity
  waiting : List Activity
  scrubPaused : Bool
  initPaused : Bool
  scrubCur : BitVec 25
  scrub : Option ScrubRow
  initCur : BitVec 25
  inits : List InitJob
  clean : List (Nat × Nat × Nat)
  scrubPass : Nat
  retrainCause : Nat
  trainFails : Nat
  rateTo : Option Bool
  drifted : Bool
  tgPattern : Nat
  tgSource : Bool
  tgRunning : Bool
  tgQuick : Bool
  tgDuration : W32
  tgLanes : List Nat
  tgBanks : List (Nat × Nat)
  tgResult : Nat
  queue : List QReq
  stalled : List Req
  nextId : Nat
  out : List Nat
  resp : Option ReadResp
  acts : List Nat
  tCol : Option Nat
  svc1 : Nat
  svc2 : Nat
  svc3 : Nat
  svcAll : Nat
  periodStart : Nat
  grid : Nat
deriving DecidableEq, Repr

/-- One stack: its per-stack registers (15 Table REGS-20) and the loops' counters (14 R397, R398). -/
structure Stack where
  inService : Bool
  policy2 : Bool
  hours : Nat
  period : Nat
  passes : W16
  corrected1h : W32
  quiet : Nat
  cap : Nat
  loopEn : Bool
  cool : Nat
  temp : Nat
  allot : Nat
deriving DecidableEq, Repr

/-- The memory system of the stacks. `madder` lists bytes by array position (bank index · 2^28 + row · 2^11 + byte of the row);
`mark` lists the codewords, by position / 32, that bear the poison mark (02 R437); `reported` those whose damage was reported (11 R316);
`segs` the BANK_LAYOUT segments (R50) as quadrant · 256 + segment; `segEpoch` counts the layout changes of a segment and is
the model's own (notes/assumptions/16.md). -/
structure Dram where
  madder : List Host.Cell
  mark : List Nat
  reported : List Nat
  segs : List Nat
  segEpoch : Tab Nat
  sub : Tab SubCh
  bank : Tab Bank
  stack : Tab Stack
deriving DecidableEq, Repr

/-! ### Tiles and threads (06) -/

/-- The states of a thread (06 Table TILE-2). -/
inductive ThrSt where
  | free | ready | blocked | waiting | faulted
deriving DecidableEq, Repr

/-- The ordering of a memory access (06 R176, R193). -/
structure Order where
  acq : Bool
  rel : Bool
deriving DecidableEq, Repr

/-- What an outstanding access of a thread does when it is performed (06 R172): `size` bytes at the physical address `pa`;
`reg` is the general register (below 32) or the vector register (32 + v) it writes. -/
inductive AccOp where
  | load (reg : Nat) (signed : Bool)
  | store (data : List Byte)
  | atom (op : Nat) (operand : W64) (reg : Option Nat)
  | cas (expect : W64) (new : W64) (reg : Option Nat)
deriving DecidableEq, Repr

/-- An outstanding access: issued and not yet performed. `msg` is its request on the streets, where its home is another tile (01 R19, R22); `parts` lists the
8-byte parts of a 64-byte access that are performed, with the bytes that they read (06 R195). -/
structure Acc where
  pc : W64
  va : W64
  pa : Nat
  size : Nat
  uncached : Bool
  order : Order
  op : AccOp
  msg : Option Nat
  parts : List (Nat × List Byte)
deriving DecidableEq, Repr

/-- What a BLOCKED thread waits for (06 Table TILE-2): a response or resource, each named by what ends the wait. -/
inductive Blk where
  | none
  | regs (rs : List Nat)
  | limit (store : Bool)
  | fenceSq | fenceDev
  | copies | flushes
  | array (a : Nat)
  | bank (c : Nat)
  | chan (c : Nat)
  | watch (c : Nat)
  | watches
  | exit
deriving DecidableEq, Repr

/-- A hardware thread (06 R169, R170, R175). `life` counts the programs it has run; `group` is the model whose step-group it serves, as firmware launched it
(11 R312; notes/assumptions/129.md). -/
structure Thr where
  life : Nat
  st : ThrSt
  pc : W64
  g : Tab W64
  v : Tab W512
  domain : BitVec 14
  service : Bool
  keys : List (BitVec 12)
  exitCtr : Nat
  kernel : W32
  group : Option Nat
  outs : List Acc
  blk : Blk
  fired : List Nat
  fault : Nat
deriving DecidableEq, Repr

/-- An ACOPY in progress (06 R200): the page-checked physical chunks (start, length) of both ranges, whether the ranges overlap, and the
thread's earlier stores to the source that were outstanding at issue (R199). -/
structure Acopy where
  thr : Nat
  ctr : Nat
  cls : Nat
  overlap : Bool
  after : List Acc
  src : List (Nat × Nat)
  dst : List (Nat × Nat)
deriving DecidableEq, Repr

/-- A CFLUSH in progress (06 R191): the physical ranges (start, length) and whether lines stay clean. -/
structure Cflush where
  thr : Nat
  ranges : List (Nat × Nat)
  keep : Bool
deriving DecidableEq, Repr

/-- A line of a Plaza slice (06 R189): 64 bytes with the poison of each codeword, and the way of its set that it occupies. -/
structure Line where
  data : List Byte
  poison : List Bool
  dirty : Bool
  way : Nat
deriving DecidableEq, Repr

/-- A timer of a tile (15 R419). -/
structure Timer where
  period : W32
  phase : W64
  phaseReg : W64
deriving DecidableEq, Repr

/-- A tile (06 R168; 15 Tables REGS-16, REGS-26 to REGS-29). `plru` is the replacement tree of each set of the Plaza slice (06 R189);
`macroOn`: the SerDes macro and the PCIe logic, which every tile carries, are powered; `loopAt`: the last interval of the voltage and frequency loop;
`droopAt`: the last droop (14 R395). -/
structure Tile where
  state : Nat
  heir : Bool
  diagReq : List CmdHdr
  carve : Nat
  strict : W16
  timers : Tab Timer
  haltA : Bool
  haltB : Bool
  freq : Nat
  volt : Nat
  limit : Nat
  temp : Nat
  allot : Nat
  inService : Bool
  stretched : Bool
  missed : Nat
  weldCe : Nat
  weld : List Host.Cell
  weldMark : List Nat
  plaza : Tab Line
  plru : Tab Nat
  macroOn : Bool
  loopAt : Option Nat
  droopAt : Nat
deriving DecidableEq, Repr

/-- Everything the threads hold: the threads, their copies and flushes in progress; `last` is the thread that each processor issued from last (06 R171). -/
structure Threads where
  thr : Tab Thr
  last : Tab Nat
  copies : List Acopy
  flushes : List Cflush
deriving DecidableEq, Repr

/-! ### The streets (01 R20 to R23) -/

/-- A message on the streets: its source and destination tile, its channel (0 response, 1 request, 2 bulk), the tile whose router holds it and the input port
there: 0 north, 1 east, 2 south, 3 west, 4 the tile itself. -/
structure StMsg where
  id : Nat
  src : Nat
  dst : Nat
  vc : Nat
  at_ : Nat
  port : Nat
deriving DecidableEq, Repr

/-- The streets: the messages in the order in which they came into their queues; by output port (5 · tile + port) and channel the input port granted last, and
by output port the grants in a row that passed over bulk. -/
structure Streets where
  msgs : List StMsg
  last : Tab Nat
  passed : Tab Nat
  nextId : Nat
deriving DecidableEq, Repr

def Streets.reset : Streets := ⟨[], [], [], 0⟩

/-! ### Signal counters and watches (07) -/

/-- A counter (07 R207). -/
structure Ctr where
  count : W32
  flag : Bool
  coalesced : Bool
  under : Bool
  ovr : Bool
deriving DecidableEq, Repr

/-- An operation on its way to its counters (07 R210). -/
inductive CtrOp where
  | sig (m : SignalMsg)
  | reg (r : WatchReq)
  | cancel (sel : CancelSel)
deriving DecidableEq, Repr

/-- An operation with TIME at which it left its source. -/
structure SentOp where
  op : CtrOp
  sent : W64
deriving DecidableEq, Repr

/-- Counters, watches and the messages on their way (07). `armed` is in registration order; `queued` holds registrations that wait for a slot (R216); `ops` are the
operations that have left their source and not yet reached their counters, in the order sent (R210, R213); `wakes` are in firing order (R220). `fw` is the queue of
message words of each control core (R220). -/
structure Sync where
  ctr : Tab Ctr
  armed : List WatchReq
  queued : List WatchReq
  ops : List SentOp
  wakes : List WakeMsg
  stores : List StoreMsg
  errs : List SyncErr
  fw : Tab (List W64)
deriving DecidableEq, Repr

/-- Signals on their way. -/
def Sync.sigs (y : Sync) : List SignalMsg := y.ops.filterMap fun o => match o.op with
  | .sig m => some m
  | _ => none

/-- Registrations on their way. -/
def Sync.regs (y : Sync) : List WatchReq := y.ops.filterMap fun o => match o.op with
  | .reg r => some r
  | _ => none

/-! ### Dense arrays (05) -/

/-- A job in an array's queue: its 64-byte descriptor (06 Table TILE-12), its issuer, the Weld ranges it reads and writes, whether its outputs are undefined
(05 R147), and how far it has run (R157): `tiles` output tiles have taken a slot and `drained` are written, the last at `lastOut` (R148). Rows are those marked
unused, refused (R164), or of a poisoned record (R165). -/
structure ArrJob where
  desc : List Byte
  domain : BitVec 14
  service : Bool
  reads : List (Nat × Nat)
  writes : List (Nat × Nat)
  undef : Bool
  group : Option Nat
  lastOut : Option W64
  started : Bool
  refused : Bool
  tiles : Nat
  drained : List Nat
  rowsOff : List Nat
  rowsRefused : List Nat
  rowsPoison : List Nat
  replays : Nat
  saturated : Nat
  poisoned : Nat
  poisonFlag : Bool
deriving DecidableEq, Repr

/-- One accumulator entry of an output slot (05 Table ARRY-1), with the poison its output carries (R165). -/
structure Entry where
  acc : Int
  o : Nat
  ovf : Bool
  sat : Bool
  poison : Bool
deriving DecidableEq, Repr

/-- An output slot (05 R157): `state` 0 FREE, 1 FILL, 2 REPLAY, 3 DRAIN; a FREE slot may be `taken` by output tile `tile` of job `job` (its place
in the queue) whose first weight tile loads. `slice` is the slice whose rows enter, `next` the row that enters next, `full` when every
row of every slice has passed. Entries are kept by 64 · row + column. -/
structure Slot where
  state : Nat
  taken : Bool
  job : Nat
  tile : Nat
  col : Nat
  rows : Nat
  pass : Nat
  slice : Nat
  next : Nat
  full : Bool
  entries : Tab Entry
deriving DecidableEq, Repr

/-- A weight register set (05 Table ARRY-1): the slot it serves, its weight tile's slice, the codes and the 64 records. -/
structure WReg where
  slot : Nat
  slice : Nat
  codes : List Byte
  recs : List Nat
  poison : Bool
deriving DecidableEq, Repr

/-- A dense array (05). `due`: a halt point has come since a halt was requested, and the array goes no further (R167). -/
structure ArrayU where
  jobs : List ArrJob
  slots : Tab Slot
  wregs : List WReg
  stopped : Bool
  oos : Bool
  halted : Bool
  due : Bool
  hwTimes : List W64
deriving DecidableEq, Repr

/-! ### Bank units (03) -/

/-- A bank job in a controller's class-2 queue or in its unit (06 R203, R204; 03 R118 for firmware's own). `id` is its place in the order of the
controller's requests; `init` marks the controller's own INIT job of a bank-range initialise (02 R75); `group` is the model whose step-group
issued it (11 R312). -/
structure BankJob where
  id : Nat
  init : Bool
  desc : List Byte
  domain : BitVec 14
  service : Bool
  tile : Nat
  cls : Nat
  rdBase : Nat
  rdCount : Nat
  wrBase : Nat
  wrCount : Nat
  policy2 : Bool
  group : Option Nat
deriving DecidableEq, Repr

/-- A stream buffer (03 Table BANK-1): 64 bytes with poison. -/
structure Buf where
  data : List Byte
  poison : Bool
deriving DecidableEq, Repr

/-- Instants (ps) of a half-bank's last activation, precharge, read and write by its unit (03 Table BANK-9). -/
structure HalfT where
  act : Option Nat
  pre : Option Nat
  rd : Option Nat
  wr : Option Nat
deriving DecidableEq, Repr

/-- A bank unit (03 Table BANK-1, Table BANK-5). `state` is 0 IDLE, 1 RUNNING, 2 YIELDED, 3 SUSPENDED, 4 DONE, 5 FAULT; `cmd` is the command that the
controller has written and the unit has not yet taken (1 OPEN, 2 STEP, 3 CLOSE, 0 none); `jobs` are the unit's jobs in order, the first being the one it
holds; `acted` where the job has executed an ACT, `wrote` where a micro-instruction of the job has written rows, `prog` the rows of a standard COPY, INIT or BITOP that are done. `shown` is what UNIT_STATUS
shows of state, fault and tag (15 R417). `std`: entries 0 to 383 of the store hold the standard programs (R92). `asked` is when the unit's next window was requested
(R97), `decided` when the controller last wrote a command, `rewrote` that it wrote it a second time (R86), `addReq` the request whose ADD is in the unit. -/
structure BUnit where
  state : Nat
  fault : Nat
  pc : Nat
  poison : Bool
  tag : W32
  x : Tab (BitVec 24)
  k : Tab W16
  bufs : Tab Buf
  table : List Host.Cell
  exps : Tab W16
  store : Tab W64
  segLen : Tab Nat
  result : List Host.Cell
  accs : Tab (BitVec 48)
  recs : List Host.Cell
  log : List (Nat × Nat)
  openRows : Tab (Option Nat)
  poisonRec : Option (Nat × Nat × Nat)
  addDesc : AddDesc
  addOld : W64
  addStatus : Nat
  desc : List Host.Cell
  jobs : List BankJob
  holds : Bool
  wrote : Bool
  acted : Bool
  inWindow : Bool
  prog : Nat
  times : Tab HalfT
  std : Bool
  asked : W64
  cmd : Nat
  decided : Nat
  rewrote : Bool
  addReq : Option Nat
  openAt : Nat
  oos : Bool
  barLo : Bool
  barHi : Bool
  hwTimes : List W64
  shown : Nat × Nat × W32
  alleyIn : List Buf
deriving DecidableEq, Repr

/-! ### Errors and the event log (11) -/

/-- An active handler (11 R310, R311): its domain, whether it is escalated, the seq of the record that started it, and TIME at which it became active. -/
structure Handler where
  dom : Domain
  escalated : Bool
  seq : W32
  since : W64
deriving DecidableEq, Repr

/-- A condition that a record logs and whose report has not yet reached its handler (11 R308). -/
structure Detected where
  seq : W32
  code : W16
  dom : Domain
  a0 : W64
deriving DecidableEq, Repr

/-- A rebuild of a quarantined unit (11 R317): `waiting` for free pages. -/
structure Rebuild where
  obj : W32
  unit : W32
  mirror : Bool
  waiting : Bool
deriving DecidableEq, Repr

/-- Handlers, domains out of service, detections under way, rebuilds, damaged units (Table FALT-4), and the event backlog (R327). -/
structure Faults where
  handlers : List Handler
  out : List Domain
  detected : List Detected
  rebuilds : List Rebuild
  damaged : List (W32 × W32)
  retired : List Nat
  backlog : List Event
  seq : W32
  lostNext : Bool
  dropped : Bool
deriving DecidableEq, Repr

def Faults.reset : Faults := ⟨[], [], [], [], [], [], [], 0, false, false⟩

/-! ### Power, pins, sideband and flash (16; 15 R412) -/

/-- What a sideband transfer answers (16 R432). -/
inductive SbResp where
  | none
  | data (b : List Byte)
  | ack
  | nack
deriving DecidableEq, Repr

/-- A flash write or erase in progress (16 R432). -/
inductive FlashOp where
  | write (addr : Nat) (data : List Byte)
  | erase (addr : Nat)
deriving DecidableEq, Repr

/-- The states of the boundary-scan TAP controller (16 R432: IEEE 1149.1). -/
inductive TapSt where
  | reset | idle
  | selDr | capDr | shDr | ex1Dr | paDr | ex2Dr | upDr
  | selIr | capIr | shIr | ex1Ir | paIr | ex2Ir | upIr
deriving DecidableEq, Repr

/-- Power input, power cap, temperatures, pins, sideband, flash, boundary scan. `driven` says that the outputs are driven (16 R423);
`cond` is the condition of the input (Table PHYS-2): 0 normal, 1 extended range, 2 below the lockout with the hold-up running, 3 above 80 V, and `condAt` the
time of its entry or of its last record; `hot`: stopped by a thermal shutdown (14 R401). -/
structure Power where
  inputMv : Nat
  driven : Bool
  perstLow : Bool
  inReset : Bool
  cond : Nat
  condAt : Nat
  throttleLow : Bool
  cap : Nat
  power : Nat
  voltage : Nat
  current : Nat
  atCap : Bool
  atCapSeen : Bool
  throttleSeen : Bool
  thermalTrip : Bool
  hot : Bool
  flash : List Host.Cell
  flashOp : Option FlashOp
  flashErr : Bool
  sbAddr : Nat
  sb : SbResp
  tap : TapSt
deriving DecidableEq, Repr

/-- 72 V valid, PERST_N low, held in reset (notes/assumptions/1.md); registers as 15 Table REGS-15. -/
def Power.reset : Power :=
  { inputMv := 72000, driven := true, perstLow := true, inReset := true, cond := 0, condAt := 0, throttleLow := false, cap := 2200,
    power := 0, voltage := 0, current := 0, atCap := false, atCapSeen := false, throttleSeen := false, thermalTrip := false, hot := false,
    flash := [], flashOp := none, flashErr := false, sbAddr := 3, sb := .none,
    tap := .reset }
/-! ### DMA engines (08) -/

/-- A burst in flight (08 R259): its position in the transfer, the physical chunks of its two sides, its message on the bulk channel. -/
structure Burst where
  k : Nat
  src : List (Nat × Nat)
  dst : List (Nat × Nat)
  msg : Option Nat
deriving DecidableEq, Repr

/-- A DMA channel (08 R255): `state` 0 IDLE, 1 ARMED, 2 RUNNING, 3 STOPPED with `code`; the current descriptor with its Weld offset, whether its
check passed (R257), the outcome it reached; whether it went over to the other host port and whether its frame was read once more (Table TIER-8); the bursts granted
and those in flight (R259); the frame length written; the last status record; who kicked the chain, and for which model's step-group. `life` counts the descriptors that have become current. -/
structure Chan where
  life : Nat
  state : Nat
  code : Nat
  cur : Nat
  desc : List Byte
  started : Bool
  ended : Option Nat
  other : Bool
  reread : Bool
  granted : Nat
  flight : List Burst
  flen : Nat
  statusAt : Nat
  service : Bool
  domain : BitVec 14
  keys : List (BitVec 12)
  group : Option Nat
deriving DecidableEq, Repr

/-- The engines: channels by 32 · tile + channel; the starvation counts s[p] and the channel last granted at level p, by
4 · tile + p (08 R259). -/
structure Dma where
  chan : Tab Chan
  starve : Tab Nat
  last : Tab Nat
deriving DecidableEq, Repr

def Dma.reset : Dma := ⟨[], [], []⟩

/-! ### Tiers: objects, units, pools (08) -/

/-- An entry of the unit directory (08 R240, R244): 0 unwritten, 1 has a frame, 2 frameless; the frame's tier (1 Woad, 2 Indigo), its
place (host address, or slot · 2^30 + offset), its plaintext and the key epoch it is encrypted under; quarantined (11 R317). -/
structure UnitRec where
  st : Nat
  tier : Nat
  loc : Nat
  plain : List Byte
  epoch : W32
  quarantined : Bool
deriving DecidableEq, Repr

/-- One page of an object that a mapping command mapped: virtual page, page of the object, attributes, share key (12 MAP). -/
structure MapRec where
  vp : Nat
  page : Nat
  attrs : Byte
  key : BitVec 12
deriving DecidableEq, Repr

/-- A claim queued while its object demotes (08 Table TIER-4): a PROMOTE command with its claim, or a claim of the module's own. -/
inductive Claimer where
  | host (h : CmdHdr) (c : W32)
  | module (c : Nat)
deriving DecidableEq, Repr

/-- An object (08 R234 to R248). `state` 0 ABSENT, 1 PROMOTING, 2 RESIDENT, 3 DEMOTING, 4 LOST; `pages` and `mirror` are the 64-KiB page numbers
of its Madder copies in the object's order; waiters and held EVICTs are commands not yet completed with their claim, `queued` the claims that wait for the end
of a demotion. `unmapped`: a demotion has come past its step 2 (R248). `dying`: the object is freed when its movement ends (09 Tables SERV-1, SERV-2). -/
structure Obj where
  live : Bool
  owner : W16
  bytes : Nat
  flags : W32
  mirrorMask : W16
  large : Bool
  unitBytes : Nat
  state : Nat
  claims : List W32
  modClaims : List Nat
  promoter : Option W32
  waiters : List (CmdHdr × W32)
  heldEvict : List CmdHdr
  queued : List Claimer
  units : Tab UnitRec
  pages : List Nat
  mirror : List Nat
  maps : List MapRec
  lostData : Bool
  onMirror : List Nat
  unmapped : Bool
  dying : Bool
deriving DecidableEq, Repr

/-- An Indigo pool (08 R233): frames occupy `used`, as (address, length). -/
structure Pool where
  id : Nat
  owner : W16
  base : Nat
  bytes : Nat
  mask : Nat
  used : List (Nat × Nat)
deriving DecidableEq, Repr

/-- Objects, pools in registration order, allocated 64-KiB Madder pages. -/
structure Tiers where
  obj : Tab Obj
  pools : List Pool
  used : List Nat
deriving DecidableEq, Repr

def Tiers.reset : Tiers := ⟨[], [], []⟩

/-! ### Causeway (13) -/

/-- A request of the borrower outstanding (13 R371): for the channel `chan` (2,048 for the firmware's own), `len` bytes from byte `pos` of its transfer;
the bytes that have come (of a read), how many, the ranges that came poisoned, and the time of sending. -/
structure CwReq where
  tag : W32
  chan : Nat
  read : Bool
  pos : Nat
  len : Nat
  got : List Host.Cell
  recv : Nat
  bad : List (Nat × Nat)
  sent : Nat
deriving DecidableEq, Repr

/-- A DATA flit in the replay buffer (13 R362): its sequence number, channel and payload, and the time from which it waits for its ack (R363). -/
structure RFlit where
  seq : W32
  vc : Nat
  payload : List Byte
  since : Nat
deriving DecidableEq, Repr

/-- A Causeway port (13; 15 Tables REGS-12 to REGS-14). Lists of three are by virtual channel: 0 control, 1 request, 2 response. `out` holds the
messages not yet wholly sent, `inb` those received and not yet acted on, `part` the message being received; `replay` the flits not
acknowledged and `resend` how many of its last flits are to be sent again (R363); `lotReqAt`, `keepAt`, `keepSent`, `downAt` are the times of the
LOT_REQUEST outstanding, of the last KEEPALIVE received and sent on the link, and of the port's going down. -/
structure CwPort where
  enable : Bool
  lend : Nat
  borrow : Nat
  state : Nat
  width : Nat
  excluded : BitVec 4
  failed : Nat
  partnerEpoch : W32
  partnerId : W64
  known : Bool
  txSeq : W32
  rxNext : W32
  replay : List RFlit
  resend : Nat
  expired : Bool
  replayTop : W32
  credits : List Nat
  freed : List Nat
  rot : Nat
  passed : Nat
  nakSeq : Option W32
  nakAt : W64
  nakDue : Bool
  out : List (List (List Byte))
  part : List (List Byte)
  inb : List (List Byte)
  offered : Nat
  lastOffer : Nat
  attempts : Nat
  cause : Option Nat
  lotReq : Option W32
  lotReqAt : Nat
  reqs : List CwReq
  nextTag : W32
  keepAt : W64
  keepSent : Option Nat
  downAt : Nat
  wire : List Byte
deriving DecidableEq, Repr

/-- A lot this module lends (13 R369 to R373): its port, its 64-KiB Madder pages, whether it is recalled, its deadline. -/
structure Lent where
  lot : W32
  port : Nat
  pages : List Nat
  recalled : Bool
  deadline : W64
deriving DecidableEq, Repr

/-- A lot slot (01 Table ARCH-6; 08 R252): `state` 0 unpopulated, 1 GRANTED, 2 RECALLING; frames occupy `used`, as (offset, length). -/
structure LotRec where
  state : Nat
  lot : W32
  port : Nat
  deadline : W64
  used : List (Nat × Nat)
deriving DecidableEq, Repr

/-- The ports, the lots lent (oldest first), the lot slots, CW_LEND_CTRL and the lot count. -/
structure Causeway where
  port : Tab CwPort
  lent : List Lent
  slot : Tab LotRec
  reserve : Nat
  nextLot : W32
deriving DecidableEq, Repr

def Causeway.reset : Causeway := ⟨[], [], [], 64, 0⟩

/-! ### Host interface (12) -/

/-- A command fetched and not yet completed (12 R342, R347, R351), with the values of its operands in order and its extended block; `accepted` numbers
the commands in the order the module accepted them, `started` tells that its execution has begun. -/
structure CmdRec where
  hdr : CmdHdr
  opcode : Nat
  ops : List Nat
  ext : Nat
  extLen : Nat
  accepted : Nat
  started : Bool
deriving DecidableEq, Repr

/-- A completion not yet written (12 Table HOST-7). `wait` is a stream ring and the producer index it must have reached first (R351). -/
structure Cpl where
  tag : W32
  opcode : Nat
  status : Nat
  index : W32
  result : W64
  wait : Option (Nat × W32)
deriving DecidableEq, Repr

/-- The MSI-X and coalescing state of a ring (12 R343): an interval runs, since this time; a message is held. -/
structure Irq where
  running : Bool
  held : Bool
  since : Nat
deriving DecidableEq, Repr

/-- A mailbox (12 R339 to R343; 15 Tables REGS-8 to REGS-11). `rung` lists the tails that doorbells gave and the fetch has not reached, each with its
place in the order of arrival (R351). -/
structure MBox where
  sqBase : W64
  cqBase : W64
  shadow : W64
  m : Nat
  k : Nat
  vector : Nat
  coalesce : Nat
  tail : W32
  rung : List (W32 × Nat)
  fetch : W32
  prod : W32
  head : W32
  enabled : Bool
  draining : Bool
  cfgError : Bool
  port : HPort
  wrongPort : Bool
  dbError : Bool
  cmds : List CmdRec
  done : List Cpl
  irq : Irq
deriving DecidableEq, Repr

/-- A stream ring or the event ring (12 R344), created on port `made`; `queue` holds entries that wait for room. -/
structure Ring where
  active : Bool
  owner : W16
  base : W64
  shadow : W64
  j : Nat
  vector : Nat
  coalesce : Nat
  made : HPort
  port : HPort
  head : W32
  prod : W32
  wrongPort : Bool
  dbError : Bool
  queue : List (List Byte)
  irq : Irq
deriving DecidableEq, Repr

/-- What a port answered last (12 R331, R332, R335). -/
inductive HostResp where
  | none
  | noCompletion
  | unsupported
  | data (b : List Byte)
  | poisoned (b : List Byte)
deriving DecidableEq, Repr

/-- A host port (12 R328 to R335; 15 R404, R405, R409). -/
structure PortSt where
  up : Bool
  degraded : Bool
  rate : Nat
  width : Nat
  disabled : Bool
  cfgReady : Bool
  tileWin : Nat
  bar2Base : Nat
  bar2Log : Nat
  half : Option (Nat × W32)
  msix : List Host.Cell
  pba : W64
  resp : HostResp
deriving DecidableEq, Repr

/-- The host interface. `mem` lists the bytes the module has written to host memory; `bells` counts the tail doorbells taken and `fetched` the commands
accepted (12 R351). -/
structure HostIf where
  portA : PortSt
  portB : PortSt
  bar2Write : Bool
  bar2Timeouts : Nat
  bar2Poisoned : Nat
  mbox : Tab MBox
  ring : Tab Ring
  event : Ring
  eventSet : Bool
  mem : List Host.Cell
  bells : Nat
  fetched : Nat
deriving DecidableEq, Repr

def PortSt.reset : PortSt := ⟨false, false, 0, 0, false, false, 0, 0, 34, none, [], 0, .none⟩
def Ring.reset : Ring := ⟨false, 0, 0, 0, 0, 0, 0, .A, .A, 0, 0, false, false, [], ⟨false, false, 0⟩⟩
def HostIf.reset : HostIf := ⟨.reset, .reset, false, 0, 0, [], [], .reset, false, [], 0, 0⟩

/-! ### The generation service (09) -/

/-- A tenant (08 R238, R244; 09 R284). Quotas and usage: Madder, Woad, Indigo. -/
structure Tenant where
  live : Bool
  epoch : W32
  quota : List W64
  usage : List Nat
  weight : W16
  level : W32
  reserved : W32
deriving DecidableEq, Repr

/-- Calibration settings (04 R140). -/
structure Calib where
  window : Nat
  clamp : W32
  ovf : W32
  sat : W32
deriving DecidableEq, Repr

/-- Which count of a counter set (04 R136): layer, source (overlay or trunk), kind. -/
structure CalKey where
  layer : Nat
  source : Bool
  kind : Nat
deriving DecidableEq, Repr

/-- A window count, the total since publication, and the overlay that first counted in the window (04 R136, R139). -/
structure CalCnt where
  win : Nat
  total : Nat
  overlay : W16
deriving DecidableEq, Repr

/-- A member of a step-group as its formation records it (09 R279, R280): the session slot, its first row's position, its rows, whether the
step samples a token, its cost and the carry its commit leaves (R284), the bound overlay. -/
structure Member where
  slot : Nat
  pos : Nat
  rows : Nat
  samples : Bool
  prefill : Bool
  cost : Nat
  carry : Nat
  overlay : Option W16
deriving DecidableEq, Repr

/-- A piece as a formation records it (01 R42; 09 R281): kind 0 attention of session slot `what`, 1 a prefill chunk of it, 2 a matrix–vector piece of
the weights of object `what` with the sessions it holds, of one tenant where isolation forms it so; its side. -/
structure PieceRec where
  kind : Nat
  what : Nat
  tenant : Option W16
  width : Nat
  bank : Bool
deriving DecidableEq, Repr

/-- A step-group in flight or in replay (09 R279; 11 R312): its pieces, the plan of its formation, the padded slot it was formed in, the layer that
runs, the attempts that were aborted, a replay that has not yet started and when it was aborted, the seq of its cause; the members that a failed staging ends at
the next piece boundary (08 R251); since when nothing of the aborted attempt can signal the group's counters (07 R226). -/
structure Group where
  members : List Member
  pieces : List PieceRec
  plan : Plan
  slot : Nat
  layer : Nat
  attempts : Nat
  replay : Bool
  abortAt : W64
  cause : W32
  doomed : List Nat
  calm : Option W64
deriving DecidableEq, Repr

/-- A model descriptor (09 R263, R265; 04 R136 to R140): `state` 0 FREE, 1 LOADED, 2 PUBLISHED, 3 RETIRING; the image's header, piece records and
schedule entries; calibration; plans; the dispatcher's state; when the layer that runs became ready, and how many signals of staged(L) of a tile no layer has used
yet, by 256 · tile + layer (08 R250, R251). -/
structure ModelD where
  state : Nat
  owner : W16
  hdr : List Byte
  pieces : List (List Byte)
  sched : List (List Byte)
  cal : Calib
  calNext : Option (Calib × Nat)
  counts : List (CalKey × CalCnt)
  window : Nat
  plan : Option Plan
  nextPlan : Option Plan
  tLast : W64
  stepNo : W32
  group : Option Group
  slotNo : Nat
  slotAt : Option Nat
  overrun : Nat
  layerAt : W64
  staged : Tab Nat
deriving DecidableEq, Repr

/-- An overlay descriptor (09 R266, Table SERV-2): `state` 0 FREE, 1 LOADED, 2 CURRENT, 3 SUPERSEDED, 4 RETIRING; an OVERLAY_RETIRE not yet complete. -/
structure Overlay where
  state : Nat
  tenant : W16
  model : W16
  series : W16
  gen : W32
  pieces : List (List Byte)
  retire : Option CmdHdr
deriving DecidableEq, Repr

/-- A session slot (09 R270 to R280): `state` 0 FREE, 1 OPEN, 2 PREFILL, 3 DECODE, 4 ENDED; `parked` 1 BUDGET, 2 KV_SPACE, 3 STREAM; `blocks` the
extents (first 64-KiB page) of each 3,840 positions; `ended` the terminal status. -/
structure Sess where
  gen : BitVec 14
  state : Nat
  tenant : W16
  model : W16
  series : W16
  overlay : Option W16
  seed : W64
  temp : W32
  topP : W32
  topK : W16
  stops : List (List W32)
  maxNew : W32
  ring : W16
  inclStop : Bool
  prompt : List W32
  chunk : Nat
  h : Nat
  last : W32
  held : List W32
  count : W32
  seq : W32
  frac : Nat
  lastStep : W32
  inStep : Bool
  parked : Nat
  rebind : Bool
  blocks : List (List Nat)
  ended : Nat
deriving DecidableEq, Repr

/-- What waits for a step boundary (09 R279): cancel, close, fork of a session by its handle; the end of a session whose history is damaged, with the
seq of the cause (11 R315). -/
inductive Boundary where
  | cancel (h : CmdHdr) (hd : W32)
  | close (h : CmdHdr) (hd : W32)
  | fork (h : CmdHdr) (hd : W32) (prm : SessParams)
  | fail (hd : W32) (seq : W32)
deriving DecidableEq, Repr

/-- An OVERLAY_REBIND not yet complete (09 R269): the sessions that it named, by handle, with the generation each was bound to. -/
structure Rebind where
  hdr : CmdHdr
  named : List (W32 × Option W16)
deriving DecidableEq, Repr

/-- The generation service. `refs` counts the sessions that hold an extent; `kernels` are the kernels loaded (14 R380). -/
structure Service where
  tenant : Tab Tenant
  model : Tab ModelD
  overlay : Tab Overlay
  sess : Tab Sess
  refs : Tab Nat
  bounds : List Boundary
  rebinds : List Rebind
  refillTick : Option W32
  kernels : List W32
deriving DecidableEq, Repr

def Service.reset : Service := ⟨[], [], [], [], [], [], [], none, []⟩

/-! ### Boot, roles, module status (11, 14; 15 Tables REGS-3, REGS-4) -/

/-- Boot (14): BOOT_STATUS's fields, the election, the image and configuration in use, the boot epoch record. -/
structure Boot where
  phase : Nat
  slotUsed : Nat
  slotA : Nat
  slotB : Nat
  cfgDefault : Bool
  cfgCopy : Nat
  quick : Bool
  tickWrap : Bool
  minSecver : W32
  health : Tab W64
  frozen : Bool
  claim : Option W64
  claimed : W64
  acks : W64
  imgSecver : W32
  imgCommit : Bool
  carve : Nat
  epoch : W32
  timeReady : W64
  tickStart : W32
  throttled : Bool
deriving DecidableEq, Repr

/-- Module status and roles (15 Tables REGS-3, REGS-21; 11 R319, R320): `state` 0 BOOTING, 1 READY, 2 FAILED. `running`: agents run. `hbFirst`: the
primary has not written HEARTBEAT yet (12 R338); `ran`: TIME + 1 when a periodic loop ran last (14 Table BOOT-7, R399): 0 scrub rate, 1 bank concurrency,
2 power measurement, 3 power cap. -/
structure Module where
  state : Nat
  failReason : Nat
  isolation : Bool
  takeover : Bool
  primary : Nat
  standby : Nat
  standbyReady : Bool
  hbCount : W32
  hbTime : W64
  hbFirst : Bool
  steward : Tab Nat
  running : Bool
  probeAt : W64
  ran : Tab Nat
deriving DecidableEq, Repr

def Boot.reset : Boot :=
  { phase := 1, slotUsed := 0, slotA := 7, slotB := 7, cfgDefault := false, cfgCopy := 0, quick := false, tickWrap := false, minSecver := 0,
    health := [], frozen := false, claim := none, claimed := 0, acks := 0, imgSecver := 0, imgCommit := false, carve := 8,
    epoch := 0, timeReady := 0, tickStart := 0, throttled := false }

def Module.reset : Module :=
  { state := 0, failReason := 0, isolation := true, takeover := false, primary := 0, standby := 6, standbyReady := true, hbCount := 0,
    hbTime := 0, hbFirst := true, steward := [], running := false, probeAt := 0, ran := [] }


/-- The whole module. `pending` is the queue of waiting commands, first in first out; `freeCount` numbers the free values used
and is the model's own (notes/assumptions/5.md); `time` is TIME in ns (01 R32). -/
structure State where
  pending : List Instr
  freeCount : Nat
  time : W64
  dr : Dram
  th : Threads
  str : Streets
  tile : Tab Tile
  sy : Sync
  pages : Tab W64
  arr : Tab ArrayU
  unit : Tab BUnit
  fl : Faults
  pw : Power
  dm : Dma
  ti : Tiers
  cw : Causeway
  ho : HostIf
  sv : Service
  bt : Boot
  md : Module
deriving DecidableEq, Repr

def Dram.reset : Dram := ⟨[], [], [], [], [], [], [], []⟩
def Threads.reset : Threads := ⟨[], [], [], []⟩
def Sync.reset : Sync := ⟨[], [], [], [], [], [], [], []⟩

/-- The machine right after reset: powered, PERST_N low, nothing running (notes/assumptions/1.md). -/
def State.reset : State :=
  { pending := [], freeCount := 0, time := 0, dr := .reset, th := .reset, str := .reset, tile := [], sy := .reset, pages := [], arr := [], unit := [],
    fl := .reset, pw := .reset, dm := .reset, ti := .reset, cw := .reset, ho := .reset, sv := .reset, bt := .reset, md := .reset }

end Sys2Proof.Machine
end

