-- ==== Sys2Proof/Machine/Ops.lean ====
section
/-! DEFINITION. The named operations every meaning is built from: tables, bytes, bit fields, free values, event records. -/
namespace Sys2Proof.Machine

open Sys2Proof

/-! #### Tables -/

/-- What a table holds at index `i`, `d` being what an unlisted index holds. -/
def tget {α : Type} (d : Nat → α) : Tab α → Nat → α
  | [], i => d i
  | (k, v) :: r, i => if k = i then v else tget d r i

/-- A table with every entry of index `i` removed. -/
def tdel {α : Type} : Tab α → Nat → Tab α
  | [], _ => []
  | (k, v) :: r, i => if k = i then tdel r i else (k, v) :: tdel r i

/-- A table with an entry put in its place among rising indexes. -/
def tins {α : Type} : Tab α → Nat → α → Tab α
  | [], i, v => [(i, v)]
  | (k, w) :: r, i, v => if i < k then (i, v) :: (k, w) :: r else (k, w) :: tins r i v

/-- Writes index `i`. A value that an unlisted index holds anyway removes the entry: the form stays canonical. -/
def tput {α : Type} [DecidableEq α] (d : Nat → α) (t : Tab α) (i : Nat) (v : α) : Tab α :=
  if v = d i then tdel t i else tins (tdel t i) i v

/-- Applies `f` to every listed record, keeping the form canonical. -/
def tmap {α : Type} [DecidableEq α] (d : Nat → α) (f : Nat → α → α) (t : Tab α) : Tab α :=
  t.foldl (fun acc p => tput d acc p.1 (f p.1 p.2)) t

/-- The table of indexes below `n` that hold what `f` gives. -/
def tfill {α : Type} [DecidableEq α] (d : Nat → α) (n : Nat) (f : Nat → α) : Tab α :=
  (List.range n).filterMap fun i => if f i = d i then none else some (i, f i)

/-- The canonical form: indexes strictly rising, and no entry equal to what an unlisted index holds. -/
def tabWf {α : Type} [DecidableEq α] (d : Nat → α) : Tab α → Bool
  | [] => true
  | [(k, v)] => v ≠ d k
  | (k, v) :: (k', v') :: r => v ≠ d k && k < k' && tabWf d ((k', v') :: r)

/-! #### Bytes and bit fields (00 R14) -/

/-- Bits [hi:lo] of a number. -/
def bitsOf (n hi lo : Nat) : Nat := n / 2 ^ lo % 2 ^ (hi + 1 - lo)

def bitAt (n i : Nat) : Bool := n / 2 ^ i % 2 == 1

def b2n (b : Bool) : Nat := if b then 1 else 0

/-- The `n` bytes of a number, least significant first. -/
def toBytes : Nat → Nat → List Byte
  | 0, _ => []
  | n + 1, v => BitVec.ofNat 8 v :: toBytes n (v / 256)

/-- The number whose bytes, least significant first, are given. -/
def ofBytes : List Byte → Nat
  | [] => 0
  | b :: r => b.toNat + 256 * ofBytes r

/-- The little-endian field of `n` bytes at offset `o`. -/
def leAt (l : List Byte) (o n : Nat) : Nat := ofBytes ((l.drop o).take n)

def byteAt (l : List Byte) (o : Nat) : Byte := l.getD o 0

/-- A signed reading of the low `w` bits. -/
def sgn (w n : Nat) : Int := if n % 2 ^ w < 2 ^ (w - 1) then ((n % 2 ^ w : Nat) : Int) else ((n % 2 ^ w : Nat) : Int) - 2 ^ w

/-- The low `w` bits of an integer. -/
def lowBits (w : Nat) (v : Int) : Nat := (v % 2 ^ w).toNat

/-- A variable of w bits keeps the low bits of what is assigned to it (00 scope: pseudocode conventions). -/
def wrapI (w : Nat) (v : Int) : Int := sgn w (lowBits w v)

/-- Packs fields (value, width), first field lowest. -/
def packFields : List (Nat × Nat) → Nat
  | [] => 0
  | (v, w) :: r => v % 2 ^ w + 2 ^ w * packFields r

def satAdd (mx a b : Nat) : Nat := min mx (a + b)

/-- A saturating increment of a 32-bit counter. -/
def satInc (w : W32) : W32 := if w = 0xFFFFFFFF#32 then w else w + 1

/-- The first `n` members of a list, padded. -/
def padTo {α : Type} (d : α) (n : Nat) (l : List α) : List α := (l ++ List.replicate n d).take n

/-- Every element of a list but the `i`-th. -/
def dropAt {α : Type} (l : List α) (i : Nat) : List α := l.take i ++ l.drop (i + 1)

/-! #### Byte memories -/

/-- Reads `n` bytes from `a` on. -/
def mread (d : Nat → Byte) (m : List Host.Cell) (a n : Nat) : List Byte := (List.range n).map fun i => tget d m (a + i)

/-- Writes bytes from `a` on. -/
def mwrite (d : Nat → Byte) : List Host.Cell → Nat → List Byte → List Host.Cell
  | m, _, [] => m
  | m, a, b :: r => mwrite d (tput d m a b) (a + 1) r

def zeroByte : Nat → Byte := fun _ => 0

/-! #### Free values (notes/assumptions/5.md) -/

/-- The next free value, `w` bits wide. -/
def State.freeNow (s : State) (w : Nat) : BitVec w := Config.freeBits w s.freeCount

/-- The state after `n` free values were used. -/
def State.useFree (s : State) (n : Nat) : State := { s with freeCount := s.freeCount + n }

def State.now (s : State) : Nat := s.time.toNat

/-! #### Serial numbers (07 R228) -/

/-- `after`, `before`, `equal` or `unordered`: how b compares with a. -/
inductive Serial where
  | equal | after | before | unordered
deriving DecidableEq, Repr

def serialCmp (a b : W32) : Serial :=
  let d := (b - a).toNat
  if d = 0 then .equal else if d ≤ 0x7FFFFFFF then .after else if 0x80000001 ≤ d then .before else .unordered

/-! #### Places (00 R6 to R11) -/

/-- Owner tile of a sub-channel by module-wide index (R8). -/
def ownerTile (c : Nat) : Nat := 4 * (c / 64) + c % 64 / 16

/-- Quadrant index 4s + q of a bank by module-wide index. -/
def quadOfBank (b : Nat) : Nat := b / 64

/-- Sub-channel of a bank by module-wide index (R9, R11). -/
def subOfBank (b : Nat) : Nat := b / 4

/-- Bank by sub-channel and bank j within it. -/
def bankOf (c j : Nat) : Nat := 4 * c + j

/-- Unit behind a bank (R9). -/
def unitOfBank (b : Nat) : Nat := b / 2

/-- Column and row of a tile on the grid (01 R20). -/
def tileX (t : Nat) : Nat := 2 * (t / 4 % 4) + t % 2
def tileY (t : Nat) : Nat := 2 * (t / 16) + t % 4 / 2

end Sys2Proof.Machine
end

