-- ==== Sys2Proof/Machine/Blocks.lean ====
section
/-! DEFINITION. Weight blocks (04 R123 to R130): geometry, codes, records, the check of R130; A8 segment records (R131, R132). -/
namespace Sys2Proof.Machine

open Sys2Proof

/-- Group size by its code: 0 32, 1 64, 2 128. -/
def groupOf (g : Nat) : Nat := match g with | 0 => 32 | 1 => 64 | _ => 128
def groupCode (g : Nat) : Nat := match g with | 32 => 0 | 64 => 1 | _ => 2

/-- Rows per block (Table NUMF-5). -/
def blkRows (fmt : Nat) : Nat := match fmt with | 0 => 128 | 1 => 256 | 2 => 320 | _ => 512
/-- Code bytes per row. -/
def codeBytes (fmt : Nat) : Nat := 16 * codeBits fmt
/-- Code-sum width (Table NUMF-4). -/
def sumWidth (fmt g : Nat) : Nat :=
  (match fmt with | 0 => 13 | 1 => 9 | 2 => 9 | _ => 8) + groupCode g
/-- Record bits per row: 16 + G · (8 + w). -/
def recBits (fmt g : Nat) : Nat := 16 + 128 / g * (8 + sumWidth fmt g)
/-- Bytes of the record area in use. -/
def recUsed (fmt g : Nat) : Nat := (recBits fmt g * blkRows fmt + 7) / 8
/-- Pair-rows of a block: 4 of codes and those of its records. -/
def blkPairRows (fmt g : Nat) : Nat := 4 + (recUsed fmt g + 4095) / 4096
def blkBytes (fmt g : Nat) : Nat := 4096 * blkPairRows fmt g

/-- `w` bits of a bit string from bit `i` on (R123). -/
def bitString (l : List Byte) (i w : Nat) : Nat := leAt l (i / 8) ((i % 8 + w + 7) / 8) / 2 ^ (i % 8) % 2 ^ w

/-- Code k of a row whose packed codes are given. -/
def codeAt (fmt : Nat) (row : List Byte) (k : Nat) : Nat := bitString row (codeBits fmt * k) (codeBits fmt)

/-- The record of row n of a block, as a number. -/
def recAt (fmt g : Nat) (img : List Byte) (n : Nat) : Nat := bitString (img.drop 16384) (recBits fmt g * n) (recBits fmt g)

/-- The superblock scale, the group scale and the code sum of a record (R128). -/
def recScale2 (r : Nat) : Nat := r % 65536
def recGroup (r j : Nat) : Nat := r / 2 ^ (16 + 8 * j) % 256
def recSum (fmt g r j : Nat) : Int := sgn (sumWidth fmt g) (r / 2 ^ (16 + 8 * (128 / g) + sumWidth fmt g * j))

/-- The codes of row n of an image. -/
def rowCodes (fmt : Nat) (img : List Byte) (n : Nat) : List Byte := (img.drop (codeBytes fmt * n)).take (codeBytes fmt)

def sumInts (l : List Int) : Int := l.foldl (· + ·) 0

/-- Σ v(c) of group j of a row. -/
def groupSum (fmt g : Nat) (row : List Byte) (j : Nat) : Int :=
  sumInts ((List.range g).map fun k => codeVal fmt (codeAt fmt row (g * j + k)))

/-- R130 for one row: a zero row, or finite superblock scale and exact code sums. -/
def rowOk (fmt g : Nat) (img : List Byte) (n : Nat) : Bool :=
  let r := recAt fmt g img n
  let row := rowCodes fmt img n
  let zero := r = 0 ∧ row.all (· = 0)
  r % 65536 / 128 % 256 ≠ 255 &&
    (decide zero || (List.range (128 / g)).all fun j => recSum fmt g r j = groupSum fmt g row j)

/-- R130: every row, every bit required to be 0. -/
def blockOk (fmt g : Nat) (img : List Byte) : Bool :=
  img.length = blkBytes fmt g &&
  (List.range (blkRows fmt)).all (rowOk fmt g img) &&
  ((img.take 16384).drop (codeBytes fmt * blkRows fmt)).all (· = 0) &&
  ofBytes (img.drop 16384) < 2 ^ (recBits fmt g * blkRows fmt)

/-- Positive and finite binary16 (R132). -/
def scaleOk (s : Nat) : Bool := 0 < s && s < 0x7C00

end Sys2Proof.Machine
end

