-- ==== Sys2Proof/Machine/Events.lean ====
section
/-! DEFINITION. The event log (11 R306, R326, R327): classes, domains, the backlog. -/
namespace Sys2Proof.Machine

open Sys2Proof

/-- Class codes of Table FALT-7. -/
def clsInfo : Byte := 0
def clsCe : Byte := 1
def clsUe : Byte := 2
def clsHw : Byte := 3
def clsLink : Byte := 4
def clsSw : Byte := 5
def clsEnv : Byte := 6
def clsService : Byte := 7

/-- The class of an occurrence (11 Table FALT-1): UNIT_FAULT by its fault code in a1, THREAD_FAULT by its code in a0. -/
def eventClass (code : W16) (a0 a1 : W64) : Byte :=
  match code.toNat with
  | 0x0101 | 0x0102 | 0x0201 | 0x0402 => clsUe
  | 0x0103 => clsCe
  | 0x0104 | 0x0209 | 0x0302 | 0x0304 | 0x0307 => clsLink
  | 0x0105 | 0x0106 | 0x0207 | 0x0403 | 0x0404 | 0x0405 | 0x0601 => clsInfo
  | 0x0107 | 0x0203 | 0x0208 | 0x020A | 0x0301 | 0x0306 | 0x0603 => clsHw
  | 0x0202 => if a1 = 3 ∨ a1 = 4 then clsHw else clsSw
  | 0x0204 => if a0 = 7 then clsUe else clsSw
  | 0x0205 | 0x0206 | 0x0303 | 0x0308 | 0x0501 | 0x0502 => clsSw
  | 0x0305 => clsEnv
  | _ => clsService

/-- Domain codes of Table FALT-7 offset 0x10. -/
def domCode : DomKind → Byte
  | .module => 0 | .sub => 1 | .die => 2 | .stack => 3 | .tile => 4 | .square => 5
  | .hostPort => 6 | .cwPort => 7 | .unit => 8 | .array => 9 | .bank => 10

def domOf (k : DomKind) (i : Nat) : Domain := ⟨k, i⟩
def domModule : Domain := ⟨.module, 0⟩

/-- The fields of a record beyond its code and arguments, where they are not the usual ones. -/
structure EvExtra where
  nested : Bool := false
  escalated : Bool := false
  oos : Bool := false
  outside : Bool := false
  related : W32 := 0xFFFFFFFF
  model : W16 := 0xFFFF
  tenant : W16 := 0xFFFF
  step : W32 := 0xFFFFFFFF
deriving DecidableEq, Repr

/-- Drops the oldest INFO or SERVICE record, or the oldest record (11 R327). -/
def dropRecord (l : List Event) : List Event :=
  match l.findIdx? (fun e => e.cls = clsInfo || e.cls = clsService) with
  | some i => dropAt l i
  | none => l.drop 1

/-- Adds a record to the backlog of 8,192, dropping one first where it is full (11 R327). -/
def pushEvent (f : Faults) (e : Event) : Faults :=
  if f.backlog.length < 8192 then { f with backlog := f.backlog ++ [e] }
  else { f with backlog := dropRecord f.backlog ++ [e], lostNext := true, dropped := true }

/-- The record of an occurrence, with the next sequence number (11 R326). -/
def mkEvent (s : State) (code : W16) (d : Domain) (a0 a1 a2 a3 : W64) (x : EvExtra) : Event :=
  { seq := s.fl.seq, code := code, cls := eventClass code a0 a1, nested := x.nested, escalated := x.escalated, oos := x.oos,
    outside := x.outside, lost := false, time := s.time, dom := domCode d.kind, idx := BitVec.ofNat 16 d.idx,
    related := x.related, model := x.model, tenant := x.tenant, step := x.step, a0 := a0, a1 := a1, a2 := a2, a3 := a3 }

/-- Logs one occurrence (11 R306). -/
def State.log (s : State) (code : W16) (d : Domain) (a0 : W64 := 0) (a1 : W64 := 0) (a2 : W64 := 0) (a3 : W64 := 0)
    (x : EvExtra := {}) : State :=
  { s with fl := { pushEvent s.fl (mkEvent s code d a0 a1 a2 a3 x) with seq := s.fl.seq + 1 } }

/-- Logs a condition that its domain's handler has still to be told of (11 R308): ERROR_REPORT then finds its record. -/
def State.detect (s : State) (code : W16) (d : Domain) (a0 : W64 := 0) (a1 : W64 := 0) (a2 : W64 := 0) (a3 : W64 := 0)
    (x : EvExtra := {}) : State :=
  let s1 := s.log code d a0 a1 a2 a3 x
  { s1 with fl := { s1.fl with detected := s1.fl.detected ++ [⟨s.fl.seq, code, d, a0⟩] } }

/-- A domain or unit leaves service: OUT_OF_SERVICE is logged (11 R324, R325). -/
def State.outOfService (s : State) (d : Domain) (x : EvExtra := {}) : State :=
  let s1 := s.log 0x0603 d ((domCode d.kind).setWidth 64) (BitVec.ofNat 64 d.idx) 0 0 { x with oos := true }
  { s1 with fl := { s1.fl with out := if s1.fl.out.contains d then s1.fl.out else s1.fl.out ++ [d] } }

/-- SERIAL_WINDOW (07 R228): the quantity by its code in Table SYNC-5, the reference and the value. -/
def State.logSerial (s : State) (quantity ref v : Nat) : State :=
  s.log 0x0501 domModule (BitVec.ofNat 64 quantity) (BitVec.ofNat 64 ref) (BitVec.ofNat 64 v)

def n64 (n : Nat) : W64 := BitVec.ofNat 64 n
def n32 (n : Nat) : W32 := BitVec.ofNat 32 n

end Sys2Proof.Machine
end

