-- ==== Sys2Proof/Machine/Weld.lean ====
section
/-! DEFINITION. Tiles and their Weld (06 R186, R187): sizes, reads and writes with poison marks; signals on their way (07 R213). -/
namespace Sys2Proof.Machine

open Sys2Proof

def tileInit : Tile :=
  { state := 1, heir := false, diagReq := [], carve := 0, strict := 0, timers := [], haltA := false, haltB := false, freq := 0,
    volt := 0, limit := 0, temp := 0, allot := 0, inService := false, stretched := false, missed := 0, weldCe := 0, weld := [],
    weldMark := [], plaza := [], plru := [], macroOn := false, loopAt := none, droopAt := 0 }

/-- Tiles whose SerDes macro and PCIe logic are powered: t0, t3 and the Causeway tiles (06 R168; 00 R12). -/
def macroTiles : List Nat := [0, 3, 5, 6, 9, 10, 53, 54, 57, 58]

def tileD : Nat → Tile := fun t => { tileInit with macroOn := macroTiles.contains t }

def State.tileAt (s : State) (t : Nat) : Tile := tget tileD s.tile t
def State.setTile (s : State) (t : Nat) (x : Tile) : State := { s with tile := tput tileD s.tile t x }

/-- Weld size in bytes: 32 MiB less the Plaza carve (06 R186). -/
def Tile.weldSize (x : Tile) : Nat := (32 - x.carve) * 1048576

/-- Inserts into a rising list without repeats. -/
def setIns : Nat → List Nat → List Nat
  | i, [] => [i]
  | i, k :: r => if i < k then i :: k :: r else if i = k then k :: r else k :: setIns i r

/-- The indexes of the `w`-byte words that bytes [a, a + n) touch. -/
def wordsOf (w a n : Nat) : List Nat := if n = 0 then [] else (List.range ((a + n - 1) / w - a / w + 1)).map (· + a / w)

/-- Splits [p, p + n) at multiples of `w`: (start, length) pieces. -/
def pieces (w p n : Nat) : List (Nat × Nat) :=
  (wordsOf w p n).map fun k => (max p (w * k), min (p + n) (w * k + w) - max p (w * k))

def Tile.weldRead (x : Tile) (off n : Nat) : List Byte := mread zeroByte x.weld off n

/-- Whether a read of [off, off + n) returns poison (06 R187). -/
def Tile.weldPoison (x : Tile) (off n : Nat) : Bool := (wordsOf 32 off n).any x.weldMark.contains

/-- The poison mark of one word after a write of [off, off + n): poison sets it, a whole clean word clears it (06 R187). -/
def markAfter (off n : Nat) (poison : Bool) (marks : List Nat) (w : Nat) : List Nat :=
  if poison then setIns w marks else if off ≤ 32 * w ∧ 32 * w + 32 ≤ off + n then marks.filter (· ≠ w) else marks

/-- Writes bytes at a Weld offset (06 R187). -/
def Tile.weldWrite (x : Tile) (off : Nat) (b : List Byte) (poison : Bool) : Tile :=
  { x with weld := mwrite zeroByte x.weld off b,
           weldMark := (wordsOf 32 off b.length).foldl (markAfter off b.length poison) x.weldMark }

/-- Writes bytes each with its own poison, one Weld word at a time: poison in a word marks it (06 R187). -/
def Tile.weldWriteMarked (x : Tile) (off : Nat) (b : List (Byte × Bool)) : Tile :=
  (pieces 32 off b.length).foldl (fun x q =>
    let p := (b.drop (q.1 - off)).take q.2
    x.weldWrite q.1 (p.map (·.1)) (p.any (·.2))) x

/-- Whether [off, off + n) and one of the ranges share a byte. -/
def meets (off n : Nat) (l : List (Nat × Nat)) : Bool := l.any fun a => decide (off < a.1 + a.2 ∧ a.1 < off + n ∧ 0 < n ∧ 0 < a.2)

/-- What an access to its tile's Weld does to a queued array job: its outputs are undefined once its areas are disturbed (05 R147; notes/assumptions/133.md). -/
def ArrJob.touched (off n : Nat) (write : Bool) (j : ArrJob) : ArrJob :=
  if meets off n j.writes || (write && meets off n j.reads) then { j with undef := true } else j

/-- An access to [off, off + n) of tile t's Weld while its arrays hold jobs (05 R147). -/
def State.weldTouch (s : State) (t off n : Nat) (write : Bool) : State :=
  { s with arr := s.arr.map fun q => (q.1, if q.1 / 2 = t then { q.2 with jobs := q.2.jobs.map (·.touched off n write) } else q.2) }

def State.weldWrite (s : State) (t off : Nat) (b : List Byte) (poison : Bool) : State :=
  (s.setTile t ((s.tileAt t).weldWrite off b poison)).weldTouch t off b.length true

/-- A read of [off, off + n) of tile t's Weld: the single-bit errors it corrects are counted (06 R187). -/
def State.weldReadBy (s : State) (t off n errs : Nat) : State :=
  let s1 := s.weldTouch t off n false
  if errs = 0 then s1 else s1.setTile t { s1.tileAt t with weldCe := (s1.tileAt t).weldCe + errs }

/-- An operation leaves its source for its counters (07 R210). -/
def State.sendOp (s : State) (o : CtrOp) : State := { s with sy := { s.sy with ops := s.sy.ops ++ [⟨o, s.time⟩] } }

/-- A signal leaves its source for its counter (07 R213). -/
def State.sendSignal (s : State) (m : SignalMsg) : State := s.sendOp (.sig m)

/-- A counter address from its low 18 bits (06 R206). -/
def ctrId (n : Nat) : CtrId := ⟨n % 262144, Nat.mod_lt n (by decide)⟩
def tileId (n : Nat) : TileId := ⟨n % 64, Nat.mod_lt n (by decide)⟩
def thrId (n : Nat) : ThrId := ⟨n % 131072, Nat.mod_lt n (by decide)⟩
def arrayId (n : Nat) : ArrayId := ⟨n % 128, Nat.mod_lt n (by decide)⟩
def unitId (n : Nat) : UnitId := ⟨n % 2048, Nat.mod_lt n (by decide)⟩
def chanId (n : Nat) : ChanId := ⟨n % 2048, Nat.mod_lt n (by decide)⟩
def subId (n : Nat) : SubId := ⟨n % 1024, Nat.mod_lt n (by decide)⟩

/-- A thread that holds no program (06 R169, R170). -/
def thrInit : Thr :=
  { life := 0, st := .free, pc := 0, g := [], v := [], domain := 0, service := false, keys := [], exitCtr := 0, kernel := 0, group := none, outs := [],
    blk := .none, fired := [], fault := 0 }

def thrD : Nat → Thr := fun _ => thrInit

def State.thrAt (s : State) (t : Nat) : Thr := tget thrD s.th.thr t
def State.setThr (s : State) (t : Nat) (x : Thr) : State := { s with th := { s.th with thr := tput thrD s.th.thr t x } }

/-- Marks BLOCKED threads READY that wait for `b` (06 Table TILE-2). -/
def State.wakeFor (s : State) (p : Nat → Blk → Bool) : State :=
  { s with th := { s.th with thr := s.th.thr.map fun q =>
      (q.1, if q.2.st = .blocked ∧ p q.1 q.2.blk then { q.2 with st := .ready, blk := .none } else q.2) } }

end Sys2Proof.Machine
end

