-- ==== Sys2Proof/Machine/Arrays.lean ====
section
/-! DEFINITION. Dense arrays (05): jobs, weight tiles, the arithmetic of one pass, replays, output forms, faults and halts. -/
namespace Sys2Proof.Machine

open Sys2Proof

/-! #### The descriptor (06 Table TILE-12) -/

def jOp (d : List Byte) : Nat := leAt d 0 1
def jFmt (d : List Byte) : Nat := leAt d 1 1
def jG (d : List Byte) : Nat := groupOf (leAt d 2 1)
def jOmode (d : List Byte) : Nat := leAt d 3 1
def jWbase (d : List Byte) : Nat := leAt d 4 4
def jN0 (d : List Byte) : Nat := leAt d 8 4
def jNcol (d : List Byte) : Nat := leAt d 12 4
def jNb (d : List Byte) : Nat := leAt d 16 2
def jFirst (d : List Byte) : Nat := leAt d 18 2
def jCount (d : List Byte) : Nat := leAt d 20 2
def jB (d : List Byte) : Nat := leAt d 22 2
def jKpad (d : List Byte) : Nat := leAt d 24 4
def jRtab (d : List Byte) : Nat := leAt d 28 4
def jEinit (d : List Byte) : Int := sgn 8 (leAt d 32 1)
def jLayer (d : List Byte) : Nat := leAt d 33 1
def jMatrix (d : List Byte) : Nat := leAt d 34 1
def jSource (d : List Byte) : Nat := leAt d 35 1
def jObase (d : List Byte) : Nat := leAt d 36 4
def jOstride (d : List Byte) : Nat := leAt d 40 4
def jStatus (d : List Byte) : Nat := leAt d 44 4
def jCounter (d : List Byte) : Nat := leAt d 48 4
def jNp (d : List Byte) : Nat := leAt d 52 1
def jPlist (d : List Byte) : Nat := leAt d 56 4
def jPstride (d : List Byte) : Nat := leAt d 60 4

/-- Output element size: FP32 4, BF16 2, PART 8. -/
def jSize (d : List Byte) : Nat := match jOmode d with | 0 => 4 | 1 => 2 | _ => 8

/-- The Weld areas (offset, length) a job names, the row activations apart (05 R145). -/
def jAreas (wr : Nat → Nat → List Byte) (d : List Byte) : List (Nat × Nat) :=
  let out := (jObase d, if jB d = 0 then 0 else (jB d - 1) * jOstride d + jNcol d * jSize d)
  if jOp d = 1 then
    [out, (jPlist d, 4 * jNp d)] ++
      (List.range (jNp d)).map fun p =>
        (ofBytes (wr (jPlist d + 4 * p) 4), if jB d = 0 then 0 else (jB d - 1) * jPstride d + jNcol d * 8)
  else [out, (jWbase d, jCount d * jNb d * blkBytes (jFmt d) (jG d)), (jRtab d, 16 * jB d)]

/-- The ranges and relations of Table ARRY-3 and R145. -/
def jRangeOk (d : List Byte) : Bool :=
  jN0 d % 64 = 0 && 64 ≤ jNcol d && jNcol d ≤ 65536 && jNcol d % 64 = 0 &&
  1 ≤ jB d && jB d ≤ 256 && jOstride d % 16 = 0 && jNcol d * jSize d ≤ jOstride d &&
  if jOp d = 1 then jOmode d ≠ 2 && 2 ≤ jNp d && jNp d ≤ 64
  else
    jWbase d % 4096 = 0 && 1 ≤ jNb d && jNb d ≤ 1024 && 1 ≤ jCount d && jCount d ≤ 512 && jFirst d + jCount d ≤ 512 &&
    128 ≤ jKpad d && jKpad d ≤ 65536 && jKpad d % 128 = 0 && jRtab d % 16 = 0 &&
    jFirst d + jCount d ≤ jKpad d / 128 && jN0 d % blkRows (jFmt d) + jNcol d ≤ jNb d * blkRows (jFmt d)

/-- Whether the array runs the job: parameters in range and named areas within Weld (05 R145). A poisoned part list locates no part (R165). -/
def jAccept (x : Tile) (d : List Byte) : Bool :=
  let l := jAreas x.weldRead d
  let named := if jOp d = 1 && x.weldPoison (jPlist d) (4 * jNp d) then l.take 2 else l
  jRangeOk d && named.all fun (o, n) => o + n ≤ x.weldSize

/-! #### Rows (05 R146, R164, R165) -/

def rowRec (x : Tile) (d : List Byte) (i : Nat) : List Byte := x.weldRead (jRtab d + 16 * i) 16
def rowSeed (r : List Byte) : W64 := BitVec.ofNat 64 (leAt r 0 8)
def rowPos (r : List Byte) : Nat := leAt r 8 4
def rowAct (r : List Byte) : Nat := leAt r 12 4

/-- Whether some byte the job reads of the row lies past the Weld size. -/
def rowBeyond (x : Tile) (d : List Byte) (act : Nat) : Bool :=
  x.weldSize < act + 128 * (jFirst d + jCount d) || x.weldSize < act + jKpad d + 4 * (jFirst d + jCount d)

/-! #### Arithmetic of one pass -/

/-- mix64 of R152. -/
def mix64 (z : W64) : W64 :=
  let z1 := (z ^^^ (z >>> 30)) * 0xBF58476D1CE4E5B9#64
  let z2 := (z1 ^^^ (z1 >>> 27)) * 0x94D049BB133111EB#64
  z2 ^^^ (z2 >>> 31)

/-- The keyed generator: `c0` and `c1` mixed twice into the seed (05 R152). -/
def seedMix (seed c0 c1 : W64) : W64 :=
  let h0 := seed ^^^ 0x9E3779B97F4A7C15#64
  let h1 := mix64 (h0 ^^^ c0)
  let h2 := mix64 (h1 ^^^ c1)
  let h3 := mix64 (h2 ^^^ c0)
  mix64 (h3 ^^^ c1)

/-- srbits of R152. -/
def srbits (seed : W64) (pos layer matrix source n jg : Nat) : W64 :=
  seedMix seed
    (BitVec.ofNat 64 (packFields [(pos, 32), (layer, 8), (matrix, 4), (source, 4), (1, 16)]))
    (BitVec.ofNat 64 (packFields [(n, 32), (jg, 32)]))

/-- A group's exact value t · 2^f (05 R150). -/
def groupTF (q : Int) (gs sa sb : Nat) : Int × Int :=
  let (gm, ge) := e4m4Parts gs
  let am := if sa / 1024 % 32 = 0 then sa % 1024 else 1024 + sa % 1024
  let ae : Int := if sa / 1024 % 32 = 0 then -24 else (sa / 1024 % 32 : Nat) - 25
  let bm := if sb / 128 % 256 = 0 then sb % 128 else 128 + sb % 128
  let be : Int := if sb / 128 % 256 = 0 then -133 else (sb / 128 % 256 : Nat) - 134
  let t := wrapI 39 (wrapI 28 (q * gm) * am) * bm
  (wrapI 48 (if sb / 32768 % 2 = 1 then -t else t), ge + ae + be)

/-- The grid integer y of R151. -/
def gridY (t f e : Int) (rw : W64) : Int :=
  let d := e - f
  if d ≤ 0 then t * 2 ^ (-d).toNat else (t * 2 ^ 64 + rw.toNat * 2 ^ d.toNat) / 2 ^ (64 + d.toNat)

def i40Min : Int := -549755813888
def i40Max : Int := 549755813887

/-- Everything one update needs of a row in one slice: its seed and position, raw codes, zero point and segment scale. -/
structure RowIn where
  seed : W64
  pos : Nat
  x : List Byte
  zp : Nat
  sa : Nat
deriving DecidableEq, Repr

/-- The group sum q of R149, an i24 in W8 and else an i20: the products' sum, the zero point folded with the group's stored code sum (04 R126). -/
def groupQ (fmt g : Nat) (codes : List Byte) (rec : Nat) (r : RowIn) (j : Nat) : Int :=
  wrapI (if fmt = 0 then 24 else 20) (sumInts ((List.range g).map fun k =>
    codeVal fmt (codeAt fmt codes (g * j + k)) * ((byteAt r.x (g * j + k)).toNat : Int)) - r.zp * recSum fmt g rec j)

/-- The grid integers of the groups of one column in one slice (05 R153). -/
def placeAll (d : List Byte) (sl n : Nat) (codes : List Byte) (rec : Nat) (r : RowIn) (e : Int) : List Int :=
  let g := jG d
  (List.range (128 / g)).map fun j =>
    let (t, f) := groupTF (groupQ (jFmt d) g codes rec r j) (recGroup rec j) r.sa (recScale2 rec)
    gridY t f e (srbits r.seed r.pos (jLayer d) (jMatrix d) (jSource d) n (sl * (128 / g) + j))

/-- One update of an accumulator (05 R153); `last` selects the saturating accumulation of pass 3 (R155). -/
def accStep (last : Bool) (en : Entry) (y : List Int) : Entry :=
  if en.ovf then en
  else
    let yc := y.map (clampI i40Min i40Max)
    let a := en.acc + sumInts (if last then yc else y)
    let ovr := y ≠ yc ∨ a < i32Min ∨ i32Max < a
    if last then { en with acc := clampI i32Min i32Max a, sat := en.sat || decide ovr }
    else if ovr then { en with ovf := true }
    else { en with acc := a }

/-! #### State access -/

def arrayInit : ArrayU := ⟨[], [], [], false, false, false, false, []⟩
def slotInit : Slot := ⟨0, false, 0, 0, 0, 0, 0, 0, 0, false, []⟩
def entryInit : Entry := ⟨0, 0, false, false, false⟩
def jobInit : ArrJob := ⟨[], 0, false, [], [], false, none, none, false, false, 0, [], [], [], [], 0, 0, 0, false⟩

def arrD : Nat → ArrayU := fun _ => arrayInit
def slotD : Nat → Slot := fun _ => slotInit
def entryD : Nat → Entry := fun _ => entryInit

def State.arrAt (s : State) (a : Nat) : ArrayU := tget arrD s.arr a
def State.setArr (s : State) (a : Nat) (x : ArrayU) : State := { s with arr := tput arrD s.arr a x }
def ArrayU.slot (x : ArrayU) (k : Nat) : Slot := tget slotD x.slots k
def ArrayU.setSlot (x : ArrayU) (k : Nat) (v : Slot) : ArrayU := { x with slots := tput slotD x.slots k v }
def ArrayU.job (x : ArrayU) (j : Nat) : ArrJob := x.jobs.getD j jobInit
def ArrayU.setJob (x : ArrayU) (j : Nat) (v : ArrJob) : ArrayU := { x with jobs := x.jobs.set j v }

/-- Output tiles of a job: none where it is refused or every row is unused (05 R144). -/
def ArrJob.ntiles (j : ArrJob) : Nat :=
  if j.refused then 0
  else if jOp j.desc = 0 ∧ j.rowsOff.length = jB j.desc then 0
  else jNcol j.desc / 64

/-- Rows that enter the grid: those neither unused, nor refused, nor of a poisoned record (05 R144). -/
def ArrJob.active (j : ArrJob) : List Nat :=
  (List.range (jB j.desc)).filter fun i => !(j.rowsOff.contains i || j.rowsRefused.contains i || j.rowsPoison.contains i)

/-- Rows that enter in the slot's present fill or pass: in a replay only those with an entry of the pass (05 R154). -/
def slotRows (j : ArrJob) (sl : Slot) : List Nat :=
  if sl.state = 2 then j.active.filter fun i => sl.entries.any fun p => p.1 / 64 = i && p.2.o = sl.pass
  else j.active

/-- Every row of the slot's fill or pass has entered the grid. -/
def ArrayU.isFull (x : ArrayU) (k : Nat) : Bool :=
  (x.slot k).full || (slotRows (x.job (x.slot k).job) (x.slot k)).isEmpty

/-- Whether the slot still enters rows. -/
def ArrayU.busy (x : ArrayU) (k : Nat) : Bool :=
  (x.slot k).state = 2 || ((x.slot k).state = 1 && !x.isFull k)

/-- The two slots, that of the earlier output tile first. -/
def ArrayU.order (x : ArrayU) : List Nat :=
  let a := x.slot 0
  let b := x.slot 1
  if b.job < a.job ∨ (b.job = a.job ∧ b.tile < a.tile) then [1, 0] else [0, 1]

/-- The slot whose rows may enter the grid now: a replaying slot first, else the filling slot (05 R156, R157). -/
def ArrayU.activeSlot (x : ArrayU) : Option Nat :=
  match x.order.find? (fun k => (x.slot k).state = 2) with
  | some k => some k
  | none => x.order.find? fun k => (x.slot k).state = 1 && !x.isFull k

/-- The job that gives the next output tile: the first that has started and has tiles left. -/
def ArrayU.nextJob (x : ArrayU) : Option Nat := x.jobs.findIdx? fun j => j.started && j.tiles < j.ntiles

/-! #### The Weld a job disturbs (05 R147) -/

/-- The Weld ranges that a job reads, as its tile holds them at its issue: blocks, row table and rows in use, or part list and part records. -/
def jReads (x : Tile) (d : List Byte) : List (Nat × Nat) :=
  ((jAreas x.weldRead d).drop 1) ++
    if jOp d = 1 then []
    else ((List.range (jB d)).filter fun i => !bitAt (rowAct (rowRec x d i)) 31).flatMap fun i =>
      let act := rowAct (rowRec x d i) % 2 ^ 25
      [(act + 128 * jFirst d, 128 * jCount d), (act + jKpad d + 4 * jFirst d, 4 * jCount d)]

/-- The output elements of each row, and the status record. -/
def jWrites (d : List Byte) : List (Nat × Nat) :=
  ((List.range (jB d)).map fun i => (jObase d + i * jOstride d, jNcol d * jSize d)) ++ [(jStatus d, 32)]

/-- A job as it is issued: its outputs are undefined where what it writes overlaps what it reads (R147). -/
def jobOf (x : Tile) (d : List Byte) (domain : BitVec 14) (service : Bool) (group : Option Nat) : ArrJob :=
  { jobInit with desc := d, domain := domain, service := service, group := group, reads := jReads x d, writes := jWrites d,
                 undef := (jWrites d).any fun a => meets a.1 a.2 (jReads x d) }

/-! #### Halt points (05 R167) -/

/-- Whether a halt of the array is requested, which only a tile in DIAGNOSTIC accepts. -/
def State.haltAsked (s : State) (a : Nat) : Bool :=
  let tl := s.tileAt (a / 2)
  tl.state = 3 && (if a % 2 = 0 then tl.haltA else tl.haltB)

/-- Whether the array does nothing: out of work after ARRAY_HW, halted, or at the halt point of a request. -/
def State.arrHeld (s : State) (a : Nat) : Bool :=
  let x := s.arrAt a
  x.stopped || x.halted || (x.due && s.haltAsked a)

/-- The array after an event that is a halt point where `point`. -/
def State.setArrAt (s : State) (a : Nat) (x : ArrayU) (point : Bool) : State := s.setArr a { x with due := point && s.haltAsked a }

/-! #### Meanings -/

/-- A job's rows as its row table gives them when it starts: unused, refused, poisoned (05 R164, R165; 06 R202). -/
def startRows (owned : Nat → Nat → Bool) (x : Tile) (j : ArrJob) : ArrJob :=
  let d := j.desc
  let bad i := x.weldPoison (jRtab d + 16 * i) 16
  let act i := rowAct (rowRec x d i)
  let rows := List.range (jB d)
  let off := rows.filter fun i => !bad i && bitAt (act i) 31
  let refused := rows.filter fun i =>
    !bad i && !bitAt (act i) 31 &&
      (bitsOf (act i) 30 25 ≠ 0 || rowBeyond x d (act i % 2 ^ 25) ||
        (!j.service && !(owned (act i % 2 ^ 25 + 128 * jFirst d) (128 * jCount d) &&
          owned (act i % 2 ^ 25 + jKpad d + 4 * jFirst d) (4 * jCount d))))
  { j with rowsOff := off, rowsRefused := refused, rowsPoison := rows.filter bad }

/-- Whether every Weld page of [off, off + n) on tile t belongs to the domain: set by the page entries (06 R183, Table TILE-9). -/
def weldOwned (pageOf : Nat → Option (BitVec 14)) (dom : BitVec 14) (t off n : Nat) : Bool :=
  (wordsOf 65536 (0x100000000000 + t * 0x2000000 + off) n).all fun p => pageOf p == some dom

/-- The queue place of the job whose turn it is to start. -/
def ArrayU.turn (x : ArrayU) : Option Nat :=
  match x.jobs.findIdx? (fun j => !j.started) with
  | none => none
  | some k => if (x.jobs.take k).all (fun j => !j.refused && j.tiles = j.ntiles) then some k else none

/-- ARRAY_JOB_START (05 R145, R147): the next queued job is run, or refused with RANGE. -/
def arrayJobStart (pageOf : Nat → Option (BitVec 14)) (s : State) (a : Nat) : State :=
  let x := s.arrAt a
  match x.turn with
  | none => s
  | some k =>
    if x.stopped || x.oos then s
    else
      let t := a / 2
      let j := x.job k
      let j1 := { j with started := true }
      let j2 := if jAccept (s.tileAt t) j.desc then
          (if jOp j.desc = 0 then startRows (weldOwned pageOf j.domain t) (s.tileAt t) j1 else j1)
        else { j1 with refused := true }
      s.setArr a (x.setJob k j2)

/-- OUTPUT_TILE_SLOT (05 R157): the next output tile takes a FREE slot. A COMBINE job's group of 64 columns loads no weights and
goes to DRAIN as it is read (notes/assumptions/33.md). -/
def execOutputTileSlot (a : ArrayId) (s : State) : Host.Outcome State Fault Refusal :=
  let x := s.arrAt a
  let free k := (x.slot k).state = 0 ∧ (x.slot k).taken = false
  match x.nextJob with
  | none => .next s
  | some jn =>
    if s.arrHeld a ∨ (¬ free 0 ∧ ¬ free 1) then .next s
    else
      let k := if free 0 then 0 else 1
      let j := x.job jn
      let combine := jOp j.desc = 1
      let sl : Slot := { slotInit with taken := true, job := jn, tile := j.tiles, col := jN0 j.desc + 64 * j.tiles, rows := jB j.desc,
                                       slice := jFirst j.desc, state := if combine then 3 else 0 }
      .next (s.setArr a ((x.setSlot k sl).setJob jn { j with tiles := j.tiles + 1 }))

/-- The (slot, slice) whose weight tile the array loads next: in a replay, which has the weight port and both register sets, its own slice and then the next
(05 R156); else what the filling slot needs, the first tile of a slot just taken, and the filling slot's next slice (R142, R157). -/
def ArrayU.wanted (x : ArrayU) : Option (Nat × Nat) :=
  let has k sl := x.wregs.any fun w => w.slot = k && w.slice = sl
  let need k := (x.slot k).slice
  let after k :=
    let j := x.job (x.slot k).job
    if need k + 1 < jFirst j.desc + jCount j.desc then some (k, need k + 1) else none
  let replays := x.order.filter fun k => (x.slot k).state = 2
  let fills := x.order.filter fun k => (x.slot k).state = 1 && !x.isFull k
  let cands :=
    if !replays.isEmpty then
      let l := replays.filter fun k => !x.isFull k
      l.map (fun k => (k, need k)) ++ l.filterMap after
    else
      fills.map (fun k => (k, need k)) ++ (x.order.filter (fun k => (x.slot k).state = 0 && (x.slot k).taken)).map (fun k => (k, need k)) ++
        fills.filterMap after
  cands.find? fun p => !has p.1 p.2

/-- Register sets still needed: those of a slot's present or later slice. -/
def ArrayU.liveRegs (x : ArrayU) : List WReg :=
  x.wregs.filter fun w =>
    let sl := x.slot w.slot
    ((sl.state = 0 && sl.taken) || sl.state = 2 || (sl.state = 1 && !x.isFull w.slot)) && sl.slice ≤ w.slice

/-- Weld offset of the block of slice `sl` and output column `n` (05 R142, Table ARRY-3). -/
def blockOff (d : List Byte) (sl n : Nat) : Nat :=
  let p := blkRows (jFmt d)
  jWbase d + ((sl - jFirst d) * jNb d + (n / p - jN0 d / p)) * blkBytes (jFmt d) (jG d)

/-- Reads one weight tile from Weld: 64 rows of codes and their records, with the poison of what was read. -/
def loadTile (x : Tile) (d : List Byte) (slot sl n : Nat) : WReg :=
  let off := blockOff d sl n
  let r0 := n % blkRows (jFmt d)
  let cb := codeBytes (jFmt d)
  let rb := recBits (jFmt d) (jG d)
  let recs := x.weldRead (off + 16384) (recUsed (jFmt d) (jG d))
  { slot := slot, slice := sl, codes := x.weldRead (off + cb * r0) (64 * cb),
    recs := (List.range 64).map fun i => bitString recs (rb * (r0 + i)) rb,
    poison := x.weldPoison (off + cb * r0) (64 * cb) ||
      x.weldPoison (off + 16384 + rb * r0 / 8) ((rb * (r0 + 64) + 7) / 8 - rb * r0 / 8) }

/-- WEIGHT_TILE_LOADED (05 R142, R157): the load completes into a free register set, and a slot that waited for its first tile enters FILL
unless the other is still entering rows. -/
def execWeightTileLoaded (a : ArrayId) (s : State) : Host.Outcome State Fault Refusal :=
  let x := s.arrAt a
  match x.wanted with
  | none => .next s
  | some (k, sl) =>
    if s.arrHeld a ∨ 2 ≤ x.liveRegs.length then .next s
    else
      let slot := x.slot k
      let j := x.job slot.job
      let w := loadTile (s.tileAt (a / 2)) j.desc k sl slot.col
      let x1 := { x with wregs := x.liveRegs ++ [w] }
      .next (s.setArr a (if slot.state = 0 ∧ x.busy (1 - k) = false then x1.setSlot k { slot with state := 1 } else x1))

/-- A slot whose first weight tile is in and that waited for the other slot's last row enters FILL (05 R157). -/
def ArrayU.promote (x : ArrayU) : ArrayU :=
  [0, 1].foldl (fun x k =>
    let sl := x.slot k
    if sl.state = 0 ∧ sl.taken ∧ x.wregs.any (fun w => w.slot = k && w.slice = sl.slice) ∧ x.busy (1 - k) = false then
      x.setSlot k { sl with state := 1 }
    else x) x

/-- Where a slot stands after its row `i` entered: the next row, the next slice, or full. -/
def slotAdvance (d : List Byte) (rows : List Nat) (sl : Slot) (i : Nat) : Slot :=
  match rows.find? (fun r => i < r) with
  | some r => { sl with next := r }
  | none =>
    if sl.slice + 1 < jFirst d + jCount d then { sl with slice := sl.slice + 1, next := 0 } else { sl with full := true }

/-- The row's inputs for a slice (05 R146, R131). -/
def rowIn (x : Tile) (d : List Byte) (i sl : Nat) : RowIn :=
  let r := rowRec x d i
  let act := rowAct r % 2 ^ 25
  let seg := x.weldRead (act + jKpad d + 4 * sl) 4
  { seed := rowSeed r, pos := rowPos r, x := x.weldRead (act + 128 * sl) 128, zp := leAt seg 0 1, sa := leAt seg 2 2 }

/-- Poison of a row's activation slice or segment record (05 R165). -/
def rowInPoison (x : Tile) (d : List Byte) (i sl : Nat) : Bool :=
  let act := rowAct (rowRec x d i) % 2 ^ 25
  x.weldPoison (act + 128 * sl) 128 || x.weldPoison (act + jKpad d + 4 * sl) 4

/-- The updates of one row passing one weight tile (05 R153, R154). -/
def passRow (d : List Byte) (sl : Slot) (w : WReg) (r : RowIn) (i : Nat) (psn : Bool) : Tab Entry :=
  (List.range 64).foldl (fun es c =>
    let en := tget entryD es (64 * i + c)
    if sl.state = 2 ∧ en.o ≠ sl.pass then es
    else
      let e := jEinit d + en.o
      let y := placeAll d sl.slice (sl.col + c) (rowCodes (jFmt d) w.codes c) (w.recs.getD c 0) r e
      let en1 := accStep (sl.state = 2 ∧ sl.pass = 3) en y
      tput entryD es (64 * i + c) { en1 with poison := en1.poison || psn }) sl.entries

/-- ROW_PASS (05 R144, R153): the next row of the active slot passes the grid for one slice; a row whose segment scale is not positive and
finite is refused (R164). A slice boundary of a fill and a row boundary of a replay are halt points (R167). -/
def execRowPass (a : ArrayId) (s : State) : Host.Outcome State Fault Refusal :=
  let x := s.arrAt a
  match x.activeSlot with
  | none => .next s
  | some k =>
    let sl := x.slot k
    let j := x.job sl.job
    let rows := slotRows j sl
    match rows.find? (fun r => sl.next ≤ r), x.wregs.find? (fun w => w.slot = k && w.slice = sl.slice) with
    | some i, some w =>
      if s.arrHeld a || x.isFull k then .next s
      else
        let tl := s.tileAt (a / 2)
        let r := rowIn tl j.desc i sl.slice
        let sl1 := slotAdvance j.desc rows sl i
        let point := sl.state == 2 || sl1.slice != sl.slice
        if scaleOk r.sa then
          let psn := w.poison || rowInPoison tl j.desc i sl.slice
          .next (s.setArrAt a ((x.setSlot k { sl1 with entries := passRow j.desc sl w r i psn }).promote) point)
        else
          .next (s.setArrAt a (((x.setSlot k sl1).setJob sl.job { j with rowsRefused := setIns i j.rowsRefused }).promote) point)
    | _, _ => .next s

/-- Begins replay pass `p`: every entry still flagged takes o = p with a cleared flag and accumulator (05 R154). -/
def beginPass (j : ArrJob) (sl : Slot) (p : Nat) : Slot × Nat :=
  let flagged := sl.entries.filter fun q => q.2.ovf && j.active.contains (q.1 / 64)
  let es := flagged.foldl (fun es q => tput entryD es q.1 { q.2 with acc := 0, o := p, ovf := false }) sl.entries
  ({ sl with state := 2, pass := p, slice := jFirst j.desc, next := 0, full := false, entries := es }, flagged.length)

/-- A slot that has finished a fill or a pass makes the next pass or drains; it waits while the other slot drains (05 R154, R157). DEDUCED: a slot with a flagged
entry has not finished until its passes are made, so it starts them at once, also while the other slot drains (notes/assumptions/126.md). -/
def ArrayU.finish (x : ArrayU) (k p : Nat) : ArrayU :=
  let sl := x.slot k
  let j := x.job sl.job
  let flagged := sl.entries.any fun q => q.2.ovf && j.active.contains (q.1 / 64)
  if flagged ∧ p ≤ 3 then
    let (sl1, n) := beginPass j sl p
    (({ x with wregs := [] }).setSlot k sl1).setJob sl.job { j with replays := satAdd (2 ^ 32 - 1) j.replays n }
  else if (x.slot (1 - k)).state = 3 then x
  else (x.setSlot k { sl with state := 3, pass := 0, slice := jFirst j.desc + jCount j.desc - 1 }).promote

/-- FILL_END (05 R154): the last row's update of a fill completes. -/
def execFillEnd (a : ArrayId) (s : State) : Host.Outcome State Fault Refusal :=
  let x := s.arrAt a
  match x.order.find? (fun k => (x.slot k).state = 1 && x.isFull k) with
  | none => .next s
  | some k => if s.arrHeld a then .next s else .next (s.setArrAt a (x.finish k 1) true)

/-- REPLAY_PASS_END (05 R154): a pass ends. -/
def execReplayPassEnd (a : ArrayId) (s : State) : Host.Outcome State Fault Refusal :=
  let x := s.arrAt a
  match x.order.find? (fun k => (x.slot k).state = 2 && x.isFull k) with
  | none => .next s
  | some k => if s.arrHeld a then .next s else .next (s.setArrAt a (x.finish k ((x.slot k).pass + 1)) true)

/-- An element A · 2^e in an output form, and whether it passed the largest finite number (05 R158, R159): for PART the 8-byte record. -/
def outForm (omode : Nat) (acc e : Int) : Nat × Bool :=
  let f := if omode = 1 then bf16 else fp32
  if acc = 0 then (0, false) else (packClamp f (acc < 0) acc.natAbs e false, packOver f acc.natAbs e)

def partRec (acc e : Int) (sat psn : Bool) : List Byte :=
  toBytes 4 (lowBits 32 acc) ++ toBytes 1 (lowBits 8 (min e 127)) ++ [BitVec.ofNat 8 (b2n sat + 2 * b2n psn), 0, 0]

/-- One element of a GEMM job's drain: its bytes, its poison, whether it counts as saturated (05 R155, R158, R164, R165). -/
def drainElem (j : ArrJob) (sl : Slot) (i c : Nat) : List Byte × Bool × Bool :=
  let d := j.desc
  let en := tget entryD sl.entries (64 * i + c)
  let e := jEinit d + en.o
  if j.rowsRefused.contains i then
    (if jOmode d = 2 then partRec 0 (jEinit d) false false else toBytes (jSize d) 0, false, false)
  else
    let psn := en.poison || j.rowsPoison.contains i
    if jOmode d = 2 then (partRec en.acc e en.sat psn, psn, false)
    else
      let (v, ovr) := outForm (jOmode d) en.acc e
      (toBytes (jSize d) v, psn, en.sat || ovr)

/-- One element of a COMBINE job (05 R161, R165): the parts' terms and their sum are i48, so that records whose exponents lie further apart than 3 keep the low bits
(00 Conventions; notes/assumptions/124.md). -/
def combineElem (x : Tile) (d : List Byte) (i n : Nat) : List Byte × Bool × Bool :=
  if x.weldPoison (jPlist d) (4 * jNp d) then (toBytes (jSize d) 0, true, false)
  else
    let ps := (List.range (jNp d)).map fun p =>
      let off := ofBytes (x.weldRead (jPlist d + 4 * p) 4) + i * jPstride d + 8 * (n - jN0 d)
      (x.weldRead off 8, x.weldPoison off 8)
    let e p := sgn 8 (leAt p 4 1)
    let emin := ps.foldl (fun m p => min m (e p.1)) 127
    let c := wrapI 48 (sumInts (ps.map fun p => wrapI 48 (sgn 32 (leAt p.1 0 4) * 2 ^ (e p.1 - emin).toNat)))
    let sat := ps.any fun p => bitAt (leAt p.1 5 1) 0
    let psn := ps.any fun p => p.2 || bitAt (leAt p.1 5 1) 1
    let (v, ovr) := outForm (jOmode d) c emin
    (toBytes (jSize d) v, psn, sat || ovr)

/-- One element of a job whose outputs are undefined: bytes, poison and count are one free value (05 R147). -/
def freeElem (d : List Byte) (n : Nat) : List Byte × Bool × Bool :=
  let w := 8 * jSize d
  let v := (Config.freeBits (w + 2) n).toNat
  (toBytes (jSize d) v, bitAt v w, jOmode d ≠ 2 && bitAt v (w + 1))

/-- The rows of a slot's output tile: the Weld offset of each row's 64 elements, and the elements. `f` numbers the free values of a job whose outputs are undefined. -/
def drainRows (x : Tile) (j : ArrJob) (sl : Slot) (f : Nat) : List (Nat × List (List Byte × Bool × Bool)) :=
  let d := j.desc
  ((List.range (jB d)).filter fun i => !j.rowsOff.contains i).map fun i =>
    (jObase d + i * jOstride d + jSize d * (sl.col - jN0 d),
      (List.range 64).map fun c =>
        if j.undef then freeElem d (f + 64 * i + c)
        else if jOp d = 1 then combineElem x d i (sl.col + c) else drainElem j sl i c)

/-- The elements' bytes, each byte with its element's poison. -/
def markedBytes (l : List (List Byte × Bool × Bool)) : List (Byte × Bool) := l.flatMap fun e => e.1.map fun b => (b, e.2.1)

/-- A tile with the rows of an output tile written, each as one run of 64 outputs (05 R157, R162; 06 R187). -/
def drainTo (x : Tile) (rows : List (Nat × List (List Byte × Bool × Bool))) : Tile :=
  rows.foldl (fun x r => x.weldWriteMarked r.1 (markedBytes r.2)) x

/-- A job once output tile `k` is drained: its counts (R137, R148, R159) and the instant. -/
def ArrJob.afterDrain (j : ArrJob) (k : Nat) (rows : List (Nat × List (List Byte × Bool × Bool))) (now : W64) : ArrJob :=
  let outs := rows.flatMap (·.2)
  let psn := outs.countP (·.2.1)
  { j with drained := j.drained ++ [k], saturated := satAdd (2 ^ 32 - 1) j.saturated (outs.countP (·.2.2)),
           poisoned := satAdd (2 ^ 32 - 1) j.poisoned (if jOp j.desc = 0 ∧ jOmode j.desc = 2 then 0 else psn),
           poisonFlag := j.poisonFlag || psn != 0, lastOut := some now }

/-- DRAIN_END (05 R157): the slot's outputs are in Weld and the slot becomes FREE. -/
def execDrainEnd (a : ArrayId) (s : State) : Host.Outcome State Fault Refusal :=
  let x := s.arrAt a
  match [0, 1].find? (fun k => (x.slot k).state = 3) with
  | none => .next s
  | some k =>
    if s.arrHeld a then .next s
    else
      let sl := x.slot k
      let j := x.job sl.job
      let t := a / 2
      let rows := drainRows (s.tileAt t) j sl s.freeCount
      let s1 := rows.foldl (fun s r => s.weldTouch t r.1 (64 * jSize j.desc) true) (s.setTile t (drainTo (s.tileAt t) rows))
      let x1 := (s1.arrAt a).setSlot k slotInit
      .next ((s1.setArrAt a (x1.setJob sl.job (j.afterDrain sl.tile rows s.time)) true).useFree (if j.undef then 64 * jB j.desc else 0))

/-- The status record (05 Table ARRY-5). -/
def arrStatus (j : ArrJob) (hw : Bool) (time : W64) : List Byte :=
  let refusedRows := if j.refused then 0 else j.rowsRefused.length
  [BitVec.ofNat 8 (b2n j.poisonFlag + 2 * b2n (refusedRows != 0) + 4 * b2n j.refused + 8 * b2n hw), 0] ++
    toBytes 2 refusedRows ++ toBytes 4 j.replays ++ toBytes 4 j.saturated ++ toBytes 4 j.poisoned ++
    toBytes 8 time.toNat ++ List.replicate 8 0

/-- Removes the first job of a queue: places in the slots move down by one. -/
def ArrayU.popJob (x : ArrayU) : ArrayU :=
  { x with jobs := x.jobs.drop 1, slots := tmap slotD (fun _ sl => { sl with job := sl.job - 1 }) x.slots }

/-- time_end of a job (R148): the instant of its last output, else free value `n`: the spec gives none for a job without output (notes/assumptions/127.md). -/
def ArrJob.endTime (j : ArrJob) (n : Nat) : W64 := j.lastOut.getD (Config.freeBits 64 n)

/-- The status record as it stands in Weld: a byte that the job also reads is free (05 R147). `n` numbers the free values. -/
def statusBytes (j : ArrJob) (hw : Bool) (n : Nat) : List Byte :=
  (List.range 32).map fun i =>
    if !j.refused && meets (jStatus j.desc + i) 1 j.reads then Config.freeBits 8 (n + 1 + i) else byteAt (arrStatus j hw (j.endTime n)) i

/-- Ends the first job: status record, signal, and a blocked issuer may go on (05 R148, 06 R201). -/
def endArrayJob (s : State) (a : Nat) (hw : Bool) : State :=
  let j := (s.arrAt a).job 0
  let s1 := (s.weldWrite (a / 2) (jStatus j.desc) (statusBytes j hw s.freeCount) false).useFree 33
  let s2 := (s1.sendSignal ⟨ctrId (jCounter j.desc), 1, .array (arrayId a)⟩).setArr a (s1.arrAt a).popJob
  s2.wakeFor fun _ b => b == .array a

/-- ARRAY_JOB_COMPLETE (05 R148, R157): the last drain of the job in front has ended, or it was refused in its turn. -/
def execArrayJobComplete (a : ArrayId) (s : State) : Host.Outcome State Fault Refusal :=
  let x := s.arrAt a
  match x.jobs with
  | [] => .next s
  | j :: _ => if j.started && !x.stopped && j.drained.length = j.ntiles then .next (endArrayJob s a false) else .next s

/-- Bytes of the outputs a job has not written: undefined after ARRAY_HW (05 R166). -/
def undrained (j : ArrJob) (drainedCols : List Nat) : List Nat :=
  let d := j.desc
  ((List.range (jB d)).filter fun i => !j.rowsOff.contains i).flatMap fun i =>
    ((List.range (jNcol d / 64)).filter fun k => !drainedCols.contains k).flatMap fun k =>
      (List.range (64 * jSize d)).map fun b => jObase d + i * jOstride d + jSize d * 64 * k + b

/-- Writes a free value into each byte listed. -/
def freeWeld (s : State) (t : Nat) (offs : List Nat) : State :=
  (s.setTile t ((List.range offs.length).foldl
    (fun tl i => tl.weldWrite (offs.getD i 0) [Config.freeBits 8 (s.freeCount + i)] false) (s.tileAt t))).useFree offs.length

/-- A job that has to run from its start again. -/
def ArrJob.restart (j : ArrJob) : ArrJob :=
  { jobInit with desc := j.desc, domain := j.domain, service := j.service, reads := j.reads, writes := j.writes, undef := j.undef, group := j.group }

/-- Moves the queue of an array that leaves service to the tile's other array (05 R166). DESIGN CHOICE: its jobs follow those of the other array, whose queue then
holds more than 8 until they have run; issue waits as long (notes/assumptions/125.md). -/
def moveQueue (s : State) (a : Nat) : State :=
  let b := if a % 2 = 0 then a + 1 else a - 1
  let x := s.arrAt a
  let y := s.arrAt b
  (s.setArr b { y with jobs := y.jobs ++ x.jobs.map ArrJob.restart }).setArr a { x with jobs := [], slots := [], wregs := [], oos := true }

/-- An array leaves service (11 R325): OUT_OF_SERVICE is logged and its tile's other array takes its work. -/
def arrayOut (s : State) (a : Nat) : State :=
  let s1 := moveQueue s a
  s1.outOfService (domOf .array a)

/-- ARRAY_HW (05 R166, 11 R325): a parity error ends the job in progress at once and stops the array. -/
def execArrayHw (a : ArrayId) (s : State) : Host.Outcome State Fault Refusal :=
  let x := s.arrAt a
  match x.jobs with
  | [] => .next s
  | j :: _ =>
    if !j.started || j.refused then .next s
    else
      let s1 := freeWeld s (a / 2) (undrained j j.drained)
      let s2 := endArrayJob s1 a true
      let recent := (x.hwTimes.filter fun t => s.time - t ≤ 1000000000) ++ [s.time]
      let s3 := s2.setArr a { s2.arrAt a with jobs := (s2.arrAt a).jobs.map ArrJob.restart, stopped := true, slots := [], wregs := [], hwTimes := recent }
      let s4 := s3.detect 0x0203 (domOf .tile (a / 2)) (n64 (a % 2)) 0 0 0 { tenant := j.domain.setWidth 16 }
      .next (if 2 ≤ recent.length then arrayOut s4 a else s4)

/-- Whether no slot fills, replays or drains. -/
def ArrayU.idle (x : ArrayU) : Bool := [0, 1].all fun k => (x.slot k).state = 0

/-- ARRAY_HALT (05 R167): a requested halt takes effect at the halt point that follows it, or at once where no slot fills, replays or drains. -/
def execArrayHalt (a : ArrayId) (s : State) : Host.Outcome State Fault Refusal :=
  let x := s.arrAt a
  if s.haltAsked a && (x.due || x.idle) then .next (s.setArr a { x with halted := true, due := false }) else .next s

end Sys2Proof.Machine
end

