-- ==== Sys2Proof/Machine/Cipher.lean ====
section
/-! DEFINITION. The cipher of the lower tiers (08 R244): AES-256 (FIPS 197), its XTS mode (IEEE 1619), SHA-384 (FIPS 180-4), HMAC and HKDF (RFC 5869). The
tables of these standards are computed from the formulas that define them. -/
namespace Sys2Proof.Machine

open Sys2Proof

def xorBytes (a b : List Byte) : List Byte := List.zipWith (· ^^^ ·) a b

/-! #### AES-256 -/

/-- Multiplication by x in GF(2^8). -/
def xtime (a : Byte) : Byte := (a <<< 1) ^^^ (if a.msb then 0x1B else 0)

/-- A product in GF(2^8), bit by bit of `b` from the n-th down. -/
def aesMul (a b : Byte) : Nat → Byte
  | 0 => 0
  | n + 1 => xtime (aesMul a (b >>> 1) n) ^^^ (if b.getLsbD 0 then a else 0)

def aesTimes (a b : Byte) : Byte := aesMul a b 8

/-- The inverse a^254, and 0 of 0. -/
def aesInv (a : Byte) : Byte :=
  let a2 := aesTimes a a
  let a3 := aesTimes a2 a
  let a6 := aesTimes a3 a3
  let a12 := aesTimes a6 a6
  let a15 := aesTimes a12 a3
  let a30 := aesTimes a15 a15
  let a60 := aesTimes a30 a30
  let a120 := aesTimes a60 a60
  let a126 := aesTimes a120 a6
  let a127 := aesTimes a126 a
  aesTimes a127 a127

def subByte (a : Byte) : Byte :=
  let b := aesInv a
  b ^^^ b.rotateLeft 1 ^^^ b.rotateLeft 2 ^^^ b.rotateLeft 3 ^^^ b.rotateLeft 4 ^^^ 0x63

def unsubByte (a : Byte) : Byte := aesInv (a.rotateLeft 1 ^^^ a.rotateLeft 3 ^^^ a.rotateLeft 6 ^^^ 0x05)

/-- The round constant of step i of the key expansion: x^(i-1). -/
def rcon : Nat → Byte
  | 0 => 0
  | 1 => 1
  | n + 1 => xtime (rcon n)

/-- The words of the key schedule from the i-th on, the eight before it given, latest first. -/
def keyWords : Nat → Nat → List (List Byte) → List (List Byte)
  | 0, _, ws => ws
  | n + 1, i, ws =>
    let p := ws.headD []
    let t := if i % 8 = 0 then xorBytes ((p.drop 1 ++ p.take 1).map subByte) [rcon (i / 8), 0, 0, 0] else if i % 8 = 4 then p.map subByte else p
    keyWords n (i + 1) (xorBytes (ws.getD 7 []) t :: ws)

/-- The fifteen round keys of a 32-byte key. -/
def roundKeys (key : List Byte) : List (List Byte) :=
  let w0 := ((List.range 8).map fun i => (key.drop (4 * i)).take 4).reverse
  let ws := (keyWords 52 8 w0).reverse
  (List.range 15).map fun r => ((ws.drop (4 * r)).take 4).flatten

/-- Byte r + 4c of a block is row r, column c. -/
def shiftRows (b : List Byte) : List Byte := (List.range 16).map fun i => b.getD ((i + 4 * (i % 4)) % 16) 0
def unshiftRows (b : List Byte) : List Byte := (List.range 16).map fun i => b.getD ((i + 12 * (i % 4)) % 16) 0

/-- Each column times a circulant matrix whose first row is given. -/
def mixWith (m : List Byte) (b : List Byte) : List Byte :=
  (List.range 16).map fun i =>
    (List.range 4).foldl (fun acc k => acc ^^^ aesTimes (b.getD (i / 4 * 4 + k) 0) (m.getD ((k + 4 - i % 4) % 4) 0)) 0

def mixColumns : List Byte → List Byte := mixWith [2, 3, 1, 1]
def unmixColumns : List Byte → List Byte := mixWith [14, 11, 13, 9]

/-- One block under a key schedule. -/
def aesEnc (ks : List (List Byte)) (b : List Byte) : List Byte :=
  let b1 := ((ks.drop 1).take 13).foldl (fun b k => xorBytes (mixColumns (shiftRows (b.map subByte))) k) (xorBytes b (ks.getD 0 []))
  xorBytes (shiftRows (b1.map subByte)) (ks.getD 14 [])

def aesDec (ks : List (List Byte)) (b : List Byte) : List Byte :=
  let b1 := ((ks.drop 1).take 13).reverse.foldl (fun b k => unmixColumns (xorBytes ((unshiftRows b).map unsubByte) k)) (xorBytes b (ks.getD 14 []))
  xorBytes ((unshiftRows b1).map unsubByte) (ks.getD 0 [])

/-! #### XTS -/

/-- Multiplication of a tweak by the primitive element of GF(2^128). -/
def xtsNext (t : Nat) : Nat := (2 * t % 2 ^ 128) ^^^ (if 2 ^ 127 ≤ t then 0x87 else 0)

/-- The blocks of a data unit of whole blocks, each under its tweak. -/
def xtsBlocks (f : List Byte → List Byte) : Nat → Nat → List Byte → List Byte
  | 0, _, _ => []
  | n + 1, t, l => xorBytes (f (xorBytes (l.take 16) (toBytes 16 t))) (toBytes 16 t) ++ xtsBlocks f n (xtsNext t) (l.drop 16)

/-- XTS of a data unit under a key pair and a 128-bit tweak. -/
def xts (dec : Bool) (key : List Byte) (tweak : Nat) (l : List Byte) : List Byte :=
  let k1 := roundKeys (key.take 32)
  xtsBlocks (if dec then aesDec k1 else aesEnc k1) (l.length / 16) (ofBytes (aesEnc (roundKeys (key.drop 32)) (toBytes 16 tweak))) l

/-! #### SHA-384 -/

/-- The largest r below 2^n with r^e at most v. -/
def root (e v : Nat) : Nat → Nat
  | 0 => 0
  | n + 1 =>
    let r := 2 * root e (v / 2 ^ e) n + 1
    if r ^ e ≤ v then r else r - 1

def isPrime (n : Nat) : Bool := 2 ≤ n && (List.range n).all fun d => d < 2 || n % d ≠ 0
def primes : List Nat := (List.range 410).filter isPrime

/-- The first 64 bits of the fraction of the e-th root of p. -/
def rootWord (e p : Nat) : W64 := BitVec.ofNat 64 (root e (p * 2 ^ (64 * e)) 72)

def shaK : List W64 := primes.map (rootWord 3)
def shaInit : List W64 := ((primes.drop 8).take 8).map (rootWord 2)

/-- The 80 words of a block's schedule, latest first. -/
def shaSched : Nat → List W64 → List W64
  | 0, ws => ws
  | n + 1, ws =>
    let a := ws.getD 14 0
    let b := ws.getD 1 0
    let s0 := a.rotateRight 1 ^^^ a.rotateRight 8 ^^^ (a >>> 7)
    let s1 := b.rotateRight 19 ^^^ b.rotateRight 61 ^^^ (b >>> 6)
    shaSched n ((ws.getD 15 0 + s0 + ws.getD 6 0 + s1) :: ws)

/-- The big-endian words of bytes. -/
def beWords (l : List Byte) : List W64 := (List.range (l.length / 8)).map fun i => BitVec.ofNat 64 (ofBytes ((l.drop (8 * i)).take 8).reverse)

def shaRound (h : List W64) (kw : W64) : List W64 :=
  let g (i : Nat) := h.getD i 0
  let s1 := (g 4).rotateRight 14 ^^^ (g 4).rotateRight 18 ^^^ (g 4).rotateRight 41
  let ch := (g 4 &&& g 5) ^^^ (~~~(g 4) &&& g 6)
  let t1 := g 7 + s1 + ch + kw
  let s0 := (g 0).rotateRight 28 ^^^ (g 0).rotateRight 34 ^^^ (g 0).rotateRight 39
  let maj := (g 0 &&& g 1) ^^^ (g 0 &&& g 2) ^^^ (g 1 &&& g 2)
  [t1 + s0 + maj, g 0, g 1, g 2, g 3 + t1, g 4, g 5, g 6]

def shaBlock (h : List W64) (b : List Byte) : List W64 :=
  let ws := (shaSched 64 (beWords b).reverse).reverse
  List.zipWith (· + ·) h ((List.zipWith (· + ·) shaK ws).foldl shaRound h)

/-- SHA-384 of bytes. -/
def sha384 (l : List Byte) : List Byte :=
  let m := l ++ [0x80] ++ List.replicate ((239 - l.length % 128) % 128) 0 ++ (toBytes 16 (8 * l.length)).reverse
  let h := (List.range (m.length / 128)).foldl (fun h i => shaBlock h ((m.drop (128 * i)).take 128)) shaInit
  (h.take 6).flatMap fun w => (toBytes 8 w.toNat).reverse

/-! #### HMAC and HKDF -/

/-- HMAC-SHA-384 under a key of at most 128 bytes. -/
def hmac384 (key m : List Byte) : List Byte :=
  let k := padTo 0 128 key
  sha384 (k.map (· ^^^ 0x5C) ++ sha384 (k.map (· ^^^ 0x36) ++ m))

/-- 64 bytes of HKDF-SHA-384 of a secret with an empty salt. -/
def hkdf64 (secret info : List Byte) : List Byte :=
  let prk := hmac384 (List.replicate 48 0) secret
  let t1 := hmac384 prk (info ++ [1])
  t1 ++ (hmac384 prk (t1 ++ info ++ [2])).take 16

/-! #### The keys and the frames of the module (R244) -/

/-- A tenant's key pair in a key epoch: the first 32 bytes are the data key, the others the tweak key. -/
def tenantKey (tenant : W16) (epoch : W32) : List Byte :=
  hkdf64 (toBytes 32 Config.rootSecret.toNat) (toBytes 2 tenant.toNat ++ toBytes 4 epoch.toNat)

/-- The tweak of a unit. -/
def unitTweak (obj unit : W32) : Nat := obj.toNat + unit.toNat * 2 ^ 32

/-- The cipher text of a frame under a tenant's key of an epoch. -/
def cipherText (tenant : W16) (epoch obj unit : W32) (plain : List Byte) : List Byte := xts false (tenantKey tenant epoch) (unitTweak obj unit) plain

/-- The plain text of a frame's cipher text. -/
def plainText (tenant : W16) (epoch obj unit : W32) (text : List Byte) : List Byte := xts true (tenantKey tenant epoch) (unitTweak obj unit) text

end Sys2Proof.Machine
end

