-- ==== Sys2Proof/Machine/Frames.lean ====
section
/-! DEFINITION. Ochre frames (08 R241 to R244): CRC-32C, page modes, canonical codes, building and checking a frame. -/
namespace Sys2Proof.Machine

open Sys2Proof

/-! #### CRC-32C (08 Table TIER-3) -/

def crcBit (c : Nat) : Nat := if c % 2 = 1 then (c / 2) ^^^ 0x82F63B78 else c / 2
def crcByte (c : Nat) (b : Byte) : Nat :=
  crcBit (crcBit (crcBit (crcBit (crcBit (crcBit (crcBit (crcBit (c ^^^ b.toNat))))))))
def crc32c (l : List Byte) : Nat := (l.foldl crcByte 0xFFFFFFFF) ^^^ 0xFFFFFFFF

/-! #### Canonical prefix codes (08 R242) -/

/-- The codes of one length: symbols in order, from `code` on. -/
def codesOfLen (ls : List Nat) (len : Nat) : Nat → Nat → List (Nat × Nat × Nat) → List (Nat × Nat × Nat) × Nat
  | 0, code, acc => (acc, code)
  | n + 1, code, acc =>
    let s := 16 - (n + 1)
    if ls.getD s 0 = len then codesOfLen ls len n (code + 1) (acc ++ [(s, len, code)]) else codesOfLen ls len n code acc

/-- Canonical codes (symbol, length, code) of the lengths of sixteen symbols. -/
def canonCodes (ls : List Nat) : List (Nat × Nat × Nat) :=
  ((List.range 15).foldl (fun (acc : List (Nat × Nat × Nat) × Nat) k =>
    let (cs, code) := codesOfLen ls (k + 1) 16 acc.2 acc.1
    (cs, 2 * code)) ([], 0)).1

/-- The nibbles of a page in order: low nibble of each byte first. -/
def nibbles (b : List Byte) : List Nat := b.flatMap fun x => [x.toNat % 16, x.toNat / 16]

/-- The bits of a code, most significant first. -/
def codeBitsOf (len code : Nat) : List Bool := (List.range len).map fun i => bitAt code (len - 1 - i)

/-- Packs bits into bytes, the first bit lowest (04 R123), padded with zero bits. -/
def packBits : Nat → List Bool → List Byte
  | 0, _ => []
  | _ + 1, [] => []
  | n + 1, l => BitVec.ofNat 8 (packFields ((l.take 8).map fun b => (b2n b, 1))) :: packBits n (l.drop 8)

def unpackBits (b : List Byte) : List Bool := b.flatMap fun x => (List.range 8).map fun i => x.getLsbD i

/-- How often each symbol occurs. -/
def nibCounts (ns : List Nat) : List Nat := (List.range 16).map fun s => ns.count s

/-! The code lengths of the encoder (R243): those of a Huffman construction; where several are as short, which it takes is free
(notes/assumptions/22.md). Sixteen symbols never need more than 15 bits. -/

/-- A tree of a Huffman construction: its weight and the depth of each of its symbols. -/
abbrev HuffTree := Nat × List (Nat × Nat)

def huffIns (t : HuffTree) : List HuffTree → List HuffTree
  | [] => [t]
  | u :: r => if t.1 ≤ u.1 then t :: u :: r else u :: huffIns t r

/-- Joins the two lightest trees until one is left. -/
def huffJoin : Nat → List HuffTree → List HuffTree
  | n + 1, a :: b :: r => huffJoin n (huffIns (a.1 + b.1, (a.2 ++ b.2).map fun q => (q.1, q.2 + 1)) r)
  | _, ts => ts

/-- The code lengths of one construction; a single symbol has a code of one bit. -/
def huffLens (cs : List Nat) : List Nat :=
  let ts := ((List.range 16).filter fun i => cs.getD i 0 ≠ 0).foldl (fun ts i => huffIns (cs.getD i 0, [(i, 0)]) ts) []
  let ds := ((huffJoin 15 ts).head?.map (·.2)).getD []
  (List.range 16).map fun i => ((ds.find? fun q => q.1 = i).map fun q => max 1 q.2).getD 0

/-- Bits that lengths give the counted symbols. -/
def codeCost (cs ls : List Nat) : Nat := (List.zipWith (· * ·) cs ls).sum

/-- Whether lengths are those of a prefix code for the symbols that occur, as short as the construction's. -/
def huffOk (cs ls : List Nat) : Bool :=
  (List.range 16).all (fun i => (cs.getD i 0 = 0) = (ls.getD i 0 = 0) && ls.getD i 0 ≤ 15) &&
    ((ls.filter (· ≠ 0)).map fun l => 2 ^ (15 - l)).sum ≤ 2 ^ 15 && codeCost cs ls = codeCost cs (huffLens cs)

/-- The code lengths that the encoder takes. -/
def encLengths (ns : List Nat) : List Nat :=
  let cs := nibCounts ns
  let f := padTo 0 16 (Config.huffLengths cs)
  if huffOk cs f then f else huffLens cs

/-- The NIB payload of a page under given code lengths. -/
def nibPayload (ls : List Nat) (ns : List Nat) : List Byte :=
  let cs := canonCodes ls
  let bits := ns.flatMap fun s => match cs.find? (fun c => c.1 = s) with
    | some c => codeBitsOf c.2.1 c.2.2
    | none => []
  toBytes 8 (packFields (ls.map fun l => (l, 4))) ++ packBits (bits.length + 1) bits

/-- The mode and payload the encoder gives a page (08 R243). -/
def encPage (compress : Bool) (page : List Byte) : Nat × List Byte :=
  if page.all (· = 0) then (1, [])
  else
    let ns := nibbles page
    let p := nibPayload (encLengths ns) ns
    if compress ∧ p.length < 4096 then (2, p) else (0, page)

/-- The 4-KiB pages of an image. -/
def pagesOf (img : List Byte) : List (List Byte) := (List.range (img.length / 4096)).map fun i => (img.drop (4096 * i)).take 4096

def pad16 (l : List Byte) : List Byte := l ++ List.replicate ((16 - l.length % 16) % 16) 0

/-- The frame of a unit image (08 R241, Table TIER-3). -/
def buildFrame (compress : Bool) (kind obj unit : Nat) (img : List Byte) : List Byte :=
  let ps := (pagesOf img).map (encPage compress)
  let body := ps.flatMap (·.2)
  let len := (64 + body.length + 15) / 16 * 16
  pad16 ([BitVec.ofNat 8 kind, BitVec.ofNat 8 ps.length, 0, 0] ++ toBytes 4 (crc32c img) ++ toBytes 4 len ++ toBytes 4 obj ++ toBytes 4 unit ++
    toBytes 4 0 ++ (List.range 16).flatMap (fun i => toBytes 2 ((ps.getD i (0, [])).2.length)) ++
    toBytes 4 (packFields (ps.map fun p => (p.1, 2))) ++ toBytes 4 0 ++ body)

/-- Decodes the bits of a NIB payload into `n` nibbles: `len` and `code` are those of the code being read. Answers the bits left. -/
def nibDecode (cs : List (Nat × Nat × Nat)) : List Bool → Nat → Nat → Nat → List Nat → Option (List Nat × List Bool)
  | bits, 0, _, _, acc => some (acc.reverse, bits)
  | [], _ + 1, _, _, _ => none
  | b :: r, n + 1, len, code, acc =>
    let code' := 2 * code + b2n b
    let len' := len + 1
    match cs.find? (fun c => c.2.1 = len' && c.2.2 = code') with
    | some c => nibDecode cs r n 0 0 (c.1 :: acc)
    | none => if 15 ≤ len' then none else nibDecode cs r (n + 1) len' code' acc

def bytesOfNibbles : List Nat → List Byte
  | a :: b :: r => BitVec.ofNat 8 (a + 16 * b) :: bytesOfNibbles r
  | _ => []

/-- A NIB payload's page, where it is valid (08 R242): at least one length, Kraft's sum at most 1, exactly 8,192 codes, zero padding. -/
def nibPage (p : List Byte) : Option (List Byte) :=
  let w := leAt p 0 8
  let ls := (List.range 16).map fun s => bitsOf w (4 * s + 3) (4 * s)
  let kraft := ((ls.filter (· ≠ 0)).map fun l => 2 ^ (15 - l)).sum
  if p.length < 8 ∨ ls.all (· = 0) ∨ 2 ^ 15 < kraft then none
  else match nibDecode (canonCodes ls) (unpackBits (p.drop 8)) 8192 0 0 [] with
    | none => none
    | some (ns, rest) => if rest.length < 8 ∧ rest.all (! ·) then some (bytesOfNibbles ns) else none

/-- One page of a frame by its mode. -/
def decPage (mode : Nat) (p : List Byte) : Option (List Byte) :=
  match mode with
  | 0 => if p.length = 4096 then some p else none
  | 1 => if p = [] then some (List.replicate 4096 0) else none
  | 2 => nibPage p
  | _ => none

/-- The pages of a frame from its payloads: modes word, payload lengths, bytes. -/
def decPages (modes : Nat) : List Nat → List Byte → Option (List Byte)
  | [], rest => if rest.all (· = 0) then some [] else none
  | n :: r, bytes =>
    if bytes.length < n then none
    else match decPage (modes % 4) (bytes.take n), decPages (modes / 4) r (bytes.drop n) with
      | some a, some b => some (a ++ b)
      | _, _ => none

/-- The unit image of a frame, where the frame is valid (08 R242). -/
def decodeFrame (kind obj unit size : Nat) (f : List Byte) : Option (List Byte) :=
  let n := leAt f 1 1
  let modes := leAt f 0x38 4
  let plens := (List.range 16).map fun i => leAt f (0x18 + 2 * i) 2
  if f.length < 64 ∨ leAt f 0 1 ≠ kind ∨ n * 4096 ≠ size ∨ 16 < n ∨ leAt f 2 2 ≠ 0 ∨ leAt f 8 4 ≠ f.length ∨ f.length % 16 ≠ 0 ∨
      leAt f 12 4 ≠ obj ∨ leAt f 16 4 ≠ unit ∨ leAt f 20 4 ≠ 0 ∨ leAt f 0x3C 4 ≠ 0 ∨ !(plens.drop n).all (· = 0) ∨ modes / 4 ^ n ≠ 0 ∨
      16 ≤ f.length - 64 - plens.sum then none
  else match decPages modes (plens.take n) (f.drop 64) with
    | some img => if crc32c img = leAt f 4 4 then some img else none
    | none => none

end Sys2Proof.Machine
end

