-- ==== Sys2Proof/Machine/HostOps.lean ====
section
/-! DEFINITION. Shared operations of the host interface (12): host memory, MSI-X, mailboxes, starting and finishing a command, rings. -/
namespace Sys2Proof.Machine

open Sys2Proof

/-! #### Status codes (12 Table HOST-10) -/

def stDone : Nat := 0x00
def stFormat : Nat := 0x01
def stState : Nat := 0x02
def stDomain : Nat := 0x03
def stLimit : Nat := 0x04
def stQuota : Nat := 0x05
def stFlags : Nat := 0x06
def stLayout : Nat := 0x07
def stStaleHandle : Nat := 0x08
def stStaleGeneration : Nat := 0x09
def stStalePlan : Nat := 0x0A
def stStaleTick : Nat := 0x0B
def stFutureTick : Nat := 0x0C
def stAlreadyFinished : Nat := 0x0D
def stDemoted : Nat := 0x0E
def stNotHeld : Nat := 0x0F
def stPinned : Nat := 0x10
def stInUse : Nat := 0x11
def stTierFailed : Nat := 0x12
def stOpcode : Nat := 0x13
def stPrivilege : Nat := 0x14
def stCheck : Nat := 0x15
def stLink : Nat := 0x16
def stAborted : Nat := 0x17
def stOffline : Nat := 0x18

/-! #### Ports -/

def State.port (s : State) (p : HPort) : PortSt := match p with | .A => s.ho.portA | .B => s.ho.portB
def State.setPort (s : State) (p : HPort) (x : PortSt) : State :=
  match p with
  | .A => { s with ho := { s.ho with portA := x } }
  | .B => { s with ho := { s.ho with portB := x } }

def otherPort : HPort → HPort
  | .A => .B
  | .B => .A

def portNum : HPort → Nat
  | .A => 0
  | .B => 1

def portOf (n : Nat) : HPort := if n = 0 then .A else .B

/-- The tile of a host port (R328). -/
def portTile : HPort → Nat
  | .A => 0
  | .B => 3

/-! #### Accesses (R331) -/

/-- The doorbells of BAR4 (Table HOST-3): SQ_TAIL and CQ_HEAD of a mailbox, DMA doorbells, heads of stream rings, head of the event ring. -/
def isDoorbell (off : Nat) : Bool :=
  (off < 0x40000 && (off % 0x1000 = 0 || off % 0x1000 = 4)) || (0x40000 ≤ off && off < 0x50000 && off % 0x100 = 0) ||
    (0x50000 ≤ off && off < 0x58000 && off % 8 = 0) || off = 0x60000

/-- The accesses that R331 accepts: naturally aligned, of 4 or 8 bytes, a doorbell of 4. -/
def barAccepts (bar4 : Bool) (off size : Nat) : Bool :=
  (size = 4 || size = 8) && off % size = 0 && (if bar4 then off < 0x80000 && (size = 4 || !isDoorbell off) else off < 0x1000000)

/-! #### Host memory and messages -/

def State.hostWrite (s : State) (a : Nat) (b : List Byte) : State :=
  { s with ho := { s.ho with mem := mwrite zeroByte s.ho.mem a b } }

/-- A byte of the MSI-X table before anything is written: every vector masked (PCI Express; notes/assumptions/29.md). -/
def msixD : Nat → Byte := fun o => if o % 16 = 12 then 1 else 0

/-- Sends the message of a vector, or leaves it pending where the vector is masked (R331, R343). -/
def State.msix (s : State) (p : HPort) (v : Nat) : State :=
  let x := s.port p
  if bitAt (ofBytes (mread msixD x.msix (16 * v + 12) 4)) 0 then s.setPort p { x with pba := x.pba ||| (1#64 <<< v) }
  else s.hostWrite (ofBytes (mread msixD x.msix (16 * v) 8)) (mread msixD x.msix (16 * v + 8) 4)

/-- The message after a shadow write, at most one per coalescing interval (R343). -/
def State.irqAfter (s : State) (p : HPort) (v coalesce : Nat) (i : Irq) : State × Irq :=
  if i.running then (s, { i with held := true }) else (s.msix p v, ⟨coalesce ≠ 0, false, s.now⟩)

/-! #### Mailboxes -/

def irqInit : Irq := ⟨false, false, 0⟩

/-- A mailbox after reset: halves of R333; vector n mod 32, m = k = 4 (15 Table REGS-9). -/
def mboxInit (n : Nat) : MBox :=
  { sqBase := 0, cqBase := 0, shadow := 0, m := 4, k := 4, vector := n % 32, coalesce := 0, tail := 0, rung := [], fetch := 0, prod := 0, head := 0,
    enabled := false, draining := false, cfgError := false, port := if n < 32 then .A else .B, wrongPort := false, dbError := false,
    cmds := [], done := [], irq := irqInit }

def State.mbox (s : State) (n : Nat) : MBox := tget mboxInit s.ho.mbox n
def State.setMbox (s : State) (n : Nat) (x : MBox) : State := { s with ho := { s.ho with mbox := tput mboxInit s.ho.mbox n x } }

/-- A command may start: ring order within its mailbox, ORDERED commands alone (R351). -/
def MBox.startable (x : MBox) (h : CmdHdr) (op : Nat) : Bool :=
  match x.cmds.findIdx? (fun r => r.hdr = h) with
  | none => false
  | some i => (x.cmds.drop i).head?.any (fun r => r.opcode = op && !r.started) &&
      (x.cmds.take i).all (fun r => r.started && !r.hdr.ordered) && (!h.ordered || i == 0)

/-- The sessions (1), objects (2), models (3), overlays (4), series (5) and rings (6; the event ring is 7) that a command names (R351, R352). -/
def CmdRec.names (r : CmdRec) : List (Nat × Nat) :=
  let o (i : Nat) : Nat := r.ops.getD i 0
  match r.opcode with
  | 0x0202 | 0x0203 | 0x0204 | 0x0205 | 0x0206 => [(2, o 0)]
  | 0x0207 => [(2, o 1)]
  | 0x0301 | 0x0302 | 0x0303 | 0x0304 | 0x0305 | 0x0501 => [(3, o 0)]
  | 0x0401 => [(4, o 0), (3, o 1), (5, o 2)]
  | 0x0402 | 0x0403 => [(4, o 0)]
  | 0x0404 => [(5, o 0)]
  | 0x0601 => [(3, o 0), (5, o 1), (6, o 2)]
  | 0x0602 | 0x0603 | 0x0604 | 0x0606 => [(1, o 0)]
  | 0x0605 => [(1, o 0), (6, o 1)]
  | 0x0608 => [(6, o 0)]
  | 0x0701 => [(7, 0)]
  | _ => []

def MBox.start (x : MBox) (h : CmdHdr) : MBox :=
  { x with cmds := x.cmds.map fun r => if r.hdr = h then { r with started := true } else r }

/-- The record of a command fetched and not completed. -/
def State.cmdRec (s : State) (h : CmdHdr) : Option CmdRec := (s.mbox h.mb).cmds.find? fun r => r.hdr = h

/-- The command was fetched with these operands, or with these first (R347). -/
def State.fetchedAs (s : State) (h : CmdHdr) (ops : List Nat) : Bool := (s.cmdRec h).any fun r => ops.isPrefixOf r.ops

/-- Commands that name one thing take effect in the order of acceptance (R351): none accepted before this one and not yet begun names what it names
(notes/assumptions/132.md). -/
def State.inTurn (s : State) (h : CmdHdr) : Bool :=
  (s.cmdRec h).all fun r => s.ho.mbox.all fun q => q.2.cmds.all fun e => e.started || r.accepted ≤ e.accepted || !e.names.any r.names.contains

/-- Whether the execution of a command may begin (R347, R351). -/
def State.mayBegin (s : State) (h : CmdHdr) (op : Nat) (ops : List Nat) : Bool :=
  (s.mbox h.mb).startable h op && s.fetchedAs h ops && s.inTurn h

/-- A command completes: its completion waits to be written, after the stream entries that `wait` names (R343, R350, R351). -/
def State.finishAfter (s : State) (h : CmdHdr) (status : Nat) (result : W64) (wait : Option (Nat × W32)) : State :=
  let x := s.mbox h.mb
  match s.cmdRec h with
  | none => s
  | some r =>
    s.setMbox h.mb { x with cmds := x.cmds.filter (fun c => c.hdr ≠ h), done := x.done ++ [⟨h.tag, r.opcode, status, h.index, result, wait⟩] }

def State.finish (s : State) (h : CmdHdr) (status : Nat) (result : W64 := 0) : State := s.finishAfter h status result none

/-- A command with an output block completes: the block is written up to its length, the result is the full length (R347, R349). -/
def State.finishOut (s : State) (h : CmdHdr) (out : List Byte) : State :=
  match s.cmdRec h with
  | none => s
  | some r => (s.hostWrite r.ext (out.take (64 * r.extLen))).finish h stDone (n64 out.length)

/-- MOD_STATUS carriage (15 Table REGS-3): 0 halves, 1 all on port A, 2 all on port B. -/
def State.carriage (s : State) : Nat :=
  match (s.mbox 0).port, (s.mbox 32).port with
  | .A, .A => 1
  | .B, .B => 2
  | _, _ => 0

/-! #### Tenants -/

def tenInit (n : Nat) : Tenant := ⟨n = 0, 0, [0, 0, 0], [0, 0, 0], 0x0100, 0, 0⟩
def State.ten (s : State) (t : Nat) : Tenant := tget tenInit s.sv.tenant t
def State.setTen (s : State) (t : Nat) (x : Tenant) : State := { s with sv := { s.sv with tenant := tput tenInit s.sv.tenant t x } }

/-- Execution of a command fetched with these operands (R347, R348, R351): it starts in its order; a tenant that does not exist gives STATE; then `act`. -/
def State.onCmd (s : State) (h : CmdHdr) (op : Nat) (ops : List Nat) (act : State → State) : State :=
  if s.mayBegin h op ops && s.md.running && s.md.state = 1 then
    let s1 := s.setMbox h.mb ((s.mbox h.mb).start h)
    if (s.ten h.tenant.toNat).live then act s1 else s1.finish h stState
  else s

/-! #### Stream rings and the event ring (R344) -/

def ringD : Nat → Ring := fun _ => Ring.reset
def State.ringAt (s : State) (r : Nat) : Ring := tget ringD s.ho.ring r
def State.setRing (s : State) (r : Nat) (x : Ring) : State := { s with ho := { s.ho with ring := tput ringD s.ho.ring r x } }
def State.setEventRing (s : State) (x : Ring) : State := { s with ho := { s.ho with event := x } }

/-- Entries of a ring. -/
def Ring.size (r : Ring) : Nat := 2 ^ r.j
/-- Entries the host has not consumed. -/
def Ring.inUse (r : Ring) : Nat := (r.prod - r.head).toNat
def Ring.room (r : Ring) : Nat := r.size - r.inUse

/-- Writes one 64-byte entry at the producer index, then the shadow, through the carrying port (R343, R344). -/
def State.ringWrite (s : State) (r : Ring) (e : List Byte) : State × Ring :=
  let s1 := s.hostWrite (r.base.toNat + 64 * (r.prod.toNat % r.size)) e
  let p := r.prod + 1
  let s2 := s1.hostWrite r.shadow.toNat (toBytes 4 p.toNat)
  let (s3, i) := s2.irqAfter r.port r.vector r.coalesce r.irq
  (s3, { r with prod := p, irq := i })

end Sys2Proof.Machine
end

