-- ==== Sys2Proof/Machine/Flags.lean ====
section
/-! DEFINITION. Conditions and fault codes. No flags register exists (06 R175): comparisons write 0 or 1 to a register, or all ones to a
vector element. -/
namespace Sys2Proof.Machine

open Sys2Proof

/-! #### Thread fault codes (06 Table TILE-7) -/

def fIllegal : Nat := 0x01
def fAlign : Nat := 0x02
def fAddress : Nat := 0x03
def fNotPresent : Nat := 0x04
def fDomain : Nat := 0x05
def fWrite : Nat := 0x06
def fPoison : Nat := 0x07
def fAtomicKind : Nat := 0x08
def fSyncUnder : Nat := 0x09
def fSyncOver : Nat := 0x0A
def fFetch : Nat := 0x0B

/-- CMP conditions on values of `w` bits (06 Table TILE-6). -/
def cmpCond {w : Nat} (c : Nat) (a b : BitVec w) : Bool :=
  match c with
  | 0 => a == b
  | 1 => a != b
  | 2 => a.slt b
  | 3 => !a.slt b
  | 4 => a.ult b
  | _ => !a.ult b

/-- The value that a comparison writes. -/
def boolW (b : Bool) : W64 := if b then 1 else 0

end Sys2Proof.Machine
end

