-- ==== Sys2Proof/Machine/Ecc.lean ====
section
/-! DEFINITION. The symbol code RS(36,32) (02 R55 to R59): GF(2^8), syndromes, decoding of an error pattern under a policy. -/
namespace Sys2Proof.Machine

open Sys2Proof

/-- Multiplication by α modulo x^8 + x^4 + x^3 + x^2 + 1 (02 R55). -/
def gfX (a : Nat) : Nat := if 128 ≤ a then (2 * a) % 256 ^^^ 0x1D else 2 * a

/-- a · b in GF(2^8), bit by bit of b from bit `k - 1` down. -/
def gfMulFrom (a b : Nat) : Nat → Nat → Nat
  | 0, acc => acc
  | k + 1, acc => gfMulFrom a b k (gfX acc ^^^ (if bitAt b k then a else 0))

def gfMul (a b : Nat) : Nat := gfMulFrom a b 8 0

/-- α^n. -/
def gfPow : Nat → Nat
  | 0 => 1
  | n + 1 => gfX (gfPow n)

/-- a^n for any element. -/
def gfExp (a : Nat) : Nat → Nat
  | 0 => 1
  | n + 1 => gfMul a (gfExp a n)

/-- The inverse a^254. -/
def gfInv (a : Nat) : Nat := gfExp a 254

/-- The check symbols 32 to 35 of 32 data bytes: the remainder by g(x), whose coefficients below x^4 are 15, 54, 120, 64 (R55). -/
def rsStep (c : Nat × Nat × Nat × Nat) (b : Byte) : Nat × Nat × Nat × Nat :=
  let (c3, c2, c1, c0) := c
  let f := c3 ^^^ b.toNat
  (c2 ^^^ gfMul f 15, c1 ^^^ gfMul f 54, c0 ^^^ gfMul f 120, gfMul f 64)

def rsCheck (d : List Byte) : List Byte :=
  let (c3, c2, c1, c0) := d.foldl rsStep (0, 0, 0, 0)
  [BitVec.ofNat 8 c3, BitVec.ofNat 8 c2, BitVec.ofNat 8 c1, BitVec.ofNat 8 c0]

/-- The locator of symbol j: the coefficient of x^(35 - j). -/
def rsLoc (j : Nat) : Nat := gfPow (35 - j)

/-- Merged errors by symbol: flips of one symbol combine, and empty ones vanish. -/
def symFlip (errs : List SymErr) (j : Nat) : Nat :=
  errs.foldl (fun a e => if e.sym = j then a ^^^ e.flip.toNat else a) 0

def errSyms (errs : List SymErr) : List (Nat × Nat) :=
  ((List.range 36).map fun j => (j, symFlip errs j)).filter fun p => p.2 ≠ 0

/-- Syndrome k: Σ flip_j · locator_j^k. -/
def syndrome (es : List (Nat × Nat)) (k : Nat) : Nat := es.foldl (fun a p => a ^^^ gfMul p.2 (gfExp (rsLoc p.1) k)) 0

/-- The one-symbol error with these syndromes, if there is one. -/
def solve1 (s0 s1 s2 s3 : Nat) : Option (List (Nat × Nat)) :=
  if s0 = 0 then none
  else
    ((List.range 36).find? fun j =>
      let x := rsLoc j
      gfMul s0 x = s1 && gfMul s1 x = s2 && gfMul s2 x = s3).map fun j => [(j, s0)]

/-- The two flips at symbols i and j with syndromes s0 and s1. -/
def solvePair (i j s0 s1 : Nat) : Nat × Nat :=
  let xi := rsLoc i
  let xj := rsLoc j
  let b := gfMul (s1 ^^^ gfMul s0 xi) (gfInv (xi ^^^ xj))
  (s0 ^^^ b, b)

/-- The two-symbol error with these syndromes, if there is one. -/
def solve2 (s0 s1 s2 s3 : Nat) : Option (List (Nat × Nat)) :=
  let pairs := (List.range 36).flatMap fun i => ((List.range 36).filter (fun j => i < j)).map fun j => (i, j)
  (pairs.find? fun p =>
    let (a, b) := solvePair p.1 p.2 s0 s1
    let xi := rsLoc p.1
    let xj := rsLoc p.2
    a ≠ 0 && b ≠ 0 &&
      (gfMul a (gfExp xi 2) ^^^ gfMul b (gfExp xj 2)) = s2 && (gfMul a (gfExp xi 3) ^^^ gfMul b (gfExp xj 3)) = s3).map fun p =>
    let (a, b) := solvePair p.1 p.2 s0 s1
    [(p.1, a), (p.2, b)]

/-- Flips at three erased symbols that explain syndromes 0 to 2; right where they also explain syndrome 3 (R59). -/
def solve3 (l s0 s1 s2 s3 : Nat) : Option (List (Nat × Nat)) :=
  let x := [rsLoc l, rsLoc (l + 12), rsLoc (l + 24)]
  let term (a b c : Nat) :=
    -- the flip at the symbol of locator a, by the polynomial that vanishes at b and c
    let num := s2 ^^^ gfMul s1 (b ^^^ c) ^^^ gfMul s0 (gfMul b c)
    gfMul num (gfInv (gfMul (a ^^^ b) (a ^^^ c)))
  let f0 := term (x.getD 0 0) (x.getD 1 0) (x.getD 2 0)
  let f1 := term (x.getD 1 0) (x.getD 0 0) (x.getD 2 0)
  let f2 := term (x.getD 2 0) (x.getD 0 0) (x.getD 1 0)
  let r := (gfMul f0 (gfExp (x.getD 0 0) 3)) ^^^ (gfMul f1 (gfExp (x.getD 1 0) 3)) ^^^ (gfMul f2 (gfExp (x.getD 2 0) 3))
  if r = s3 then some ([(l, f0), (l + 12, f1), (l + 24, f2)].filter fun p => p.2 ≠ 0) else none

/-- What a decoder makes of an error pattern: clean, corrected (the symbols it corrects), uncorrectable. -/
inductive Decoded where
  | clean
  | corrected (fix : List (Nat × Nat))
  | bad
deriving DecidableEq, Repr

/-- Decoding under a policy, with at most one erased lane (02 R57, R59). -/
def rsDecode (policy2 : Bool) (erased : Option Nat) (errs : List SymErr) : Decoded :=
  let es := errSyms errs
  let s k := syndrome es k
  if s 0 = 0 ∧ s 1 = 0 ∧ s 2 = 0 ∧ s 3 = 0 then .clean
  else
    match erased with
    | some l => match solve3 l (s 0) (s 1) (s 2) (s 3) with
      | some f => .corrected f
      | none => .bad
    | none =>
      match solve1 (s 0) (s 1) (s 2) (s 3) with
      | some f => .corrected f
      | none =>
        if policy2 then
          match solve2 (s 0) (s 1) (s 2) (s 3) with
          | some f => .corrected f
          | none => .bad
        else .bad

/-- Data bytes with flips applied. -/
def flipData (d : List Byte) (fs : List (Nat × Nat)) : List Byte :=
  fs.foldl (fun d p => if p.1 < 32 then d.set p.1 (d.getD p.1 0 ^^^ BitVec.ofNat 8 p.2) else d) d

end Sys2Proof.Machine
end

