-- ==== Sys2Proof/Machine/UnitState.lean ====
section
/-! DEFINITION. Access to the bank units' state and to their job descriptor rows (03 Tables BANK-1, BANK-6). -/
namespace Sys2Proof.Machine

open Sys2Proof

def addDescInit : AddDesc := ⟨0, 0, 0, 0, false, 0⟩
def bufInit : Buf := ⟨List.replicate 64 0, false⟩

def unitInit : BUnit :=
  { state := 0, fault := 0, pc := 0, poison := false, tag := 0, x := [], k := [], bufs := [], table := [], exps := [], store := [],
    segLen := [], result := [], accs := [], recs := [], log := [], openRows := [], poisonRec := none, addDesc := addDescInit, addOld := 0,
    addStatus := 0, desc := [], jobs := [], holds := false, wrote := false, acted := false, inWindow := false,
    prog := 0, times := [], std := false, asked := 0, cmd := 0, decided := 0, rewrote := false, addReq := none, openAt := 0, oos := false,
    barLo := false, barHi := false, hwTimes := [], shown := (0, 0, 0), alleyIn := [] }

def unitD : Nat → BUnit := fun _ => unitInit
def bufD : Nat → Buf := fun _ => bufInit
def rowD : Nat → Option Nat := fun _ => none
def xD : Nat → BitVec 24 := fun _ => 0
def kD : Nat → W16 := fun _ => 0
def accD : Nat → BitVec 48 := fun _ => 0
def storeD : Nat → W64 := fun _ => 0

def State.unitAt (s : State) (u : Nat) : BUnit := tget unitD s.unit u
def State.setUnit (s : State) (u : Nat) (x : BUnit) : State := { s with unit := tput unitD s.unit u x }
def BUnit.xr (u : BUnit) (i : Nat) : BitVec 24 := tget xD u.x i
def BUnit.kr (u : BUnit) (i : Nat) : W16 := tget kD u.k i
def BUnit.setX (u : BUnit) (i : Nat) (v : BitVec 24) : BUnit := { u with x := tput xD u.x i v }
def BUnit.setK (u : BUnit) (i : Nat) (v : W16) : BUnit := { u with k := tput kD u.k i v }
def BUnit.buf (u : BUnit) (i : Nat) : Buf := tget bufD u.bufs i
def BUnit.setBuf (u : BUnit) (i : Nat) (b : Buf) : BUnit := { u with bufs := tput bufD u.bufs i b }

/-! #### The job descriptor row (03 Table BANK-6) -/

def BUnit.dField (u : BUnit) (o n : Nat) : Nat := ofBytes (mread zeroByte u.desc o n)
def BUnit.rdBase (u : BUnit) : Nat := u.dField 0 4
def BUnit.rdCount (u : BUnit) : Nat := u.dField 4 4
def BUnit.wrBase (u : BUnit) : Nat := u.dField 8 4
def BUnit.wrCount (u : BUnit) : Nat := u.dField 12 4
def BUnit.entry (u : BUnit) : Nat := u.dField 16 2 % 512
def BUnit.preempt (u : BUnit) : Bool := bitAt (u.dField 18 1) 0
def BUnit.pol2 (u : BUnit) : Bool := u.dField 19 1 = 1
def BUnit.jobClass (u : BUnit) : Nat := u.dField 22 1
def BUnit.param (u : BUnit) (i : Nat) : Nat := u.dField (128 + 4 * i) 4

/-- Whether row r lies in the read or the write range (R87). -/
def BUnit.inRead (u : BUnit) (r : Nat) : Bool := u.rdBase ≤ r && r < u.rdBase + u.rdCount
def BUnit.inWrite (u : BUnit) (r : Nat) : Bool := u.wrBase ≤ r && r < u.wrBase + u.wrCount


end Sys2Proof.Machine
end

