-- ==== Sys2Proof/Machine/Stacks.lean ====
section
/-! DEFINITION. The stacks (02): their records and resets, the places of addresses (R50 to R53), the timing values of Table STAK-2, the activation tracker (R69),
refresh (R65, R67), and a command at its earliest legal instant (R47). -/
namespace Sys2Proof.Machine

open Sys2Proof

/-! #### Records and their resets -/

def subInit (c : Nat) : SubCh :=
  { state := 0, serving := ownerTile c, standbyPort := false, spare := none, erased := none, spareFailed := false,
    mapoutReported := false, banksOut := 0, x2 := false, dieTemp := 0, readCe := 0, scrubCe := 0, readUe := 0, scrubUe := 0,
    impl := List.replicate 12 0, reads := 0, holder := 0, waiting := [], scrubPaused := false, initPaused := false, scrubCur := 0, scrub := none,
    initCur := 0, inits := [], clean := [], scrubPass := 0, retrainCause := 0, trainFails := 0, rateTo := none, drifted := false,
    tgPattern := 0, tgSource := false, tgRunning := false, tgQuick := false, tgDuration := 0, tgLanes := [], tgBanks := [],
    tgResult := 0, queue := [], stalled := [], nextId := 0, out := [], resp := none, acts := [], tCol := none, svc1 := 0, svc2 := 0,
    svc3 := 0, svcAll := 0, periodStart := 0, grid := 0 }

def bankInit : Bank :=
  { openRow := none, tAct := none, tRd := none, tWr := none, tPre := none, tRef := none, debt := 0, tracker := [], walk := 0,
    adopted := false, hold := .none, cols := 0 }

def stackInit : Stack :=
  { inService := false, policy2 := false, hours := 0, period := 24, passes := 0, corrected1h := 0, quiet := 0, cap := 4,
    loopEn := true, cool := 0, temp := 0, allot := 450 }

def bankD : Nat → Bank := fun _ => bankInit
def stackD : Nat → Stack := fun _ => stackInit

def State.sub (s : State) (c : Nat) : SubCh := tget subInit s.dr.sub c
def State.setSub (s : State) (c : Nat) (x : SubCh) : State := { s with dr := { s.dr with sub := tput subInit s.dr.sub c x } }
def State.bankAt (s : State) (b : Nat) : Bank := tget bankD s.dr.bank b
def State.setBank (s : State) (b : Nat) (x : Bank) : State := { s with dr := { s.dr with bank := tput bankD s.dr.bank b x } }
def State.stackAt (s : State) (k : Nat) : Stack := tget stackD s.dr.stack k
def State.setStack (s : State) (k : Nat) (x : Stack) : State := { s with dr := { s.dr with stack := tput stackD s.dr.stack k x } }

/-! #### Places (02 R50 to R52) -/

/-- Where a byte of Madder lies: bank by module-wide index, row, codeword column, byte of the codeword. -/
structure Place where
  bank : Nat
  row : Nat
  col : Nat
  byte : Nat
deriving DecidableEq, Repr

/-- The interleaved decode of R51, quadrant index `q` (4s + q) and address `a` within it. -/
def placeInter (q a : Nat) : Place :=
  let i := bitsOf a 12 9 ^^^ bitsOf a 20 17 ^^^ bitsOf a 28 25
  let bsel := bitsOf a 16 15 ^^^ bitsOf a 18 17
  { bank := bankOf (16 * q + i) bsel, row := bitsOf a 33 17, col := bitsOf a 14 13 * 16 + bitsOf a 8 5, byte := bitsOf a 4 0 }

/-- The BANK_LAYOUT decode of R52. -/
def placeBank (q a : Nat) : Place :=
  { bank := 64 * q + 2 * bitsOf a 25 21 + bitsOf a 11 11, row := bitsOf a 33 26 * 512 + bitsOf a 20 12, col := bitsOf a 10 5,
    byte := bitsOf a 4 0 }

/-- Whether segment n of quadrant q is BANK_LAYOUT (R50). -/
def State.segBank (s : State) (q n : Nat) : Bool := s.dr.segs.contains (256 * q + n)

/-- The place of Madder physical address p (01 R34, 02 R51, R52). -/
def State.place (s : State) (p : Nat) : Place :=
  let q := p / 2 ^ 34
  let a := p % 2 ^ 34
  if s.segBank q (a / 2 ^ 26) then placeBank q a else placeInter q a

/-- The array position of a place: what `Dram.madder` is listed by. -/
def Place.pos (x : Place) : Nat := x.bank * 2 ^ 28 + x.row * 2048 + x.col * 32 + x.byte

/-- The codeword of an array position. -/
def Place.cw (x : Place) : Nat := x.pos / 32

/-- The segment (256 · quadrant + n) an array position belongs to: both layouts give it the same rows (R52). -/
def segOfPos (pos : Nat) : Nat := pos / 2 ^ 28 / 64 * 256 + pos / 2 ^ 20 % 256

/-- What an unlisted position reads as: 0 (notes/assumptions/4.md), or undefined contents after a layout change (R53). -/
def Dram.byteD (d : Dram) (pos : Nat) : Byte :=
  let e := tget (fun _ => 0) d.segEpoch (segOfPos pos)
  if e = 0 then 0 else Config.undefByte e pos

def Dram.readPos (d : Dram) (pos n : Nat) : List Byte := mread d.byteD d.madder pos n

/-! #### Timing values in ps (02 Table STAK-2) -/

def tRCD : Nat := 18000
def tRP : Nat := 18000
def tRAS : Nat := 42000
def tRC : Nat := 60000
def tRRD : Nat := 5000
def tFAW : Nat := 20000
def tWR : Nat := 28000
def tWTR : Nat := 10000
def tRTP : Nat := 7500
def tRFC : Nat := 140000
/-- One BL24 burst, 1.667 ns. -/
def tBurst : Nat := 1667
/-- The refresh interval in force, in ps: 3.904 µs, halved above 85 °C. -/
def tREFI (x2 : Bool) : Nat := if x2 then 1952000 else 3904000

/-- `now` is at least `d` after an event, or the event has not happened. -/
def since (t : Option Nat) (d now : Nat) : Bool := match t with | none => true | some x => x + d ≤ now

/-! #### The activation tracker (02 R69) -/

/-- The first place of the lowest count. -/
def minIdx : List (Nat × Nat) → Nat
  | [] => 0
  | [_] => 0
  | (_, n) :: r => let j := minIdx r
    if n ≤ (r.getD j (0, 0)).2 then 0 else j + 1

/-- Counts an activation of `row`: a tracked row rises by 1, an untracked one takes the lowest entry. Entries never used stand at the end
with count 0. -/
def trackAct (tr : List (Nat × Nat)) (row : Nat) : List (Nat × Nat) :=
  match tr.findIdx? (fun e => e.1 = row) with
  | some i => tr.set i (row, min 4095 ((tr.getD i (0, 0)).2 + 1))
  | none =>
    let i := minIdx tr
    let low := (tr.getD i (0, 0)).2
    if tr.length < 512 ∧ (tr = [] ∨ 0 < low) then tr ++ [(row, 1)] else tr.set i (row, min 4095 (low + 1))

/-- The trigger of targeted refresh: 2,048, or 1,024 on an adopted bank until its walk returns to row 0 (11 R319). -/
def Bank.trigger (b : Bank) : Nat := if b.adopted then 1024 else 2048

/-- The row whose targeted refresh is due. -/
def Bank.dueRow (b : Bank) : Option Nat := (b.tracker.find? fun e => b.trigger ≤ e.2).map (·.1)

/-- A row number that no row has: an entry cleared. -/
def noRow : Nat := 2 ^ 18

def Bank.targeted (b : Bank) (row now : Nat) : Bank :=
  { b with tracker := b.tracker.map (fun e => if e.1 = row then (noRow, 0) else e), tRef := some now, openRow := none }

/-! #### Refresh (02 R65, R67) -/

def Bank.debtI (b : Bank) : Int := b.debt.toInt

/-- The deferral limit at the die temperature last read: 8 up to 85 °C, 4 above. -/
def debtLimit (temp : Nat) : Int := if 85 < temp then 4 else 8

def Bank.urgent (b : Bank) (temp : Nat) : Bool := debtLimit temp ≤ b.debtI

/-- One per-bank refresh: the debt falls by 1, the walk moves 16 rows on, and at row 0 the tracker is cleared (R69). -/
def Bank.refresh (b : Bank) (now : Nat) : Bank :=
  let w := (b.walk + 1) % 8192
  { b with debt := b.debt - 1, walk := w, tRef := some now, openRow := none,
           tracker := if w = 0 then [] else b.tracker, adopted := if w = 0 then false else b.adopted }

/-- Held by a window or by a read, merge and write (R64). -/
def Bank.held (b : Bank) : Bool := b.hold != .none


/-! #### Commands at their earliest legal instant (R47, R49; 03 R98) -/

/-- The first instant at or after `t` that is at least `d` after an event. -/
def afterEv (e : Option Nat) (d t : Nat) : Nat := match e with | none => t | some x => max t (x + d)

/-- The last write on the sub-channel. -/
def State.lastWrite (s : State) (c : Nat) : Option Nat :=
  ([0, 1, 2, 3].filterMap fun j => (s.bankAt (bankOf c j)).tWr).foldl (fun a t => some (max t (a.getD 0))) none

/-- The other pair of a unit's sub-channel. -/
def twinUnit (u : Nat) : Nat := if u % 2 = 0 then u + 1 else u - 1

/-- The first instant at or after `t` on the phase of unit `u` in the 10 ns grid that counts from `origin`: 0 ns of a slot for unit u(2k), 5 ns for u(2k + 1)
(03 R98). -/
def gridUp (origin u t : Nat) : Nat :=
  let t0 := max t origin
  let p := origin + 5000 * (u % 2)
  if t0 ≤ p then p else p + (t0 - p + 9999) / 10000 * 10000

/-- When the controller may activate a row of bank `b` at or after `t`: on the phase of the bank's own pair while the other pair is inside a window (03 R98). -/
def State.actTime (s : State) (b t : Nat) : Nat :=
  let c := subOfBank b
  let x := s.sub c
  let k := s.bankAt b
  let t1 := afterEv x.acts[3]? tFAW (afterEv x.acts.head? tRRD (afterEv k.tRef tRFC (afterEv k.tAct tRC (afterEv k.tPre tRP t))))
  if (s.unitAt (twinUnit (unitOfBank b))).inWindow then gridUp x.grid (unitOfBank b) t1 else t1

/-- When the bank's open row may be precharged. -/
def Bank.preTime (b : Bank) (t : Nat) : Nat := afterEv b.tWr tWR (afterEv b.tRd tRTP (afterEv b.tAct tRAS t))

/-- Precharges the open row of a bank as soon as it may be at or after `t`. -/
def State.rowClose (s : State) (b t : Nat) : State :=
  let k := s.bankAt b
  if k.openRow.isNone then s else s.setBank b { k with openRow := none, tPre := some (k.preTime t) }

/-- When a bank with no row open may be refreshed. -/
def Bank.refTime (b : Bank) (t : Nat) : Nat := afterEv b.tRef tRFC (afterEv b.tPre tRP t)

/-- A refresh of a bank as soon as it may be: of the row `r`, or the regular one. -/
def State.refreshAt (s : State) (b : Nat) (r : Option Nat) (t : Nat) : State :=
  let s1 := s.rowClose b t
  let k := s1.bankAt b
  s1.setBank b (match r with | some row => k.targeted row (k.refTime t) | none => k.refresh (k.refTime t))

/-- Activates a row as soon as it may be; the activation counts in the tracker (R70). -/
def State.rowAct (s : State) (b row t : Nat) : State :=
  let c := subOfBank b
  let k := s.bankAt b
  let at_ := s.actTime b t
  (s.setBank b { k with openRow := some row, tAct := some at_, cols := 0, tracker := trackAct k.tracker row }).setSub c
    { s.sub c with acts := (at_ :: (s.sub c).acts).take 4 }

/-- Opens a row at or after `t` unless it is open: a targeted refresh that is due, then an urgent one, come before the activation (R67, R69). -/
def State.rowOpen (s : State) (b row t : Nat) : State :=
  if (s.bankAt b).openRow = some row then s
  else
    let s1 := (s.bankAt b).dueRow.elim s fun r => s.refreshAt b (some r) t
    let s2 := if (s1.bankAt b).urgent (s1.sub (subOfBank b)).dieTemp.toNat then s1.refreshAt b none t else s1
    (s2.rowClose b t).rowAct b row t

/-- Charges one burst to a class (R62). -/
def SubCh.charge (c : SubCh) (cls : Nat) : SubCh :=
  let c1 := { c with svcAll := c.svcAll + tBurst }
  match cls with
  | 1 => { c1 with svc1 := c.svc1 + tBurst }
  | 3 => { c1 with svc3 := c.svc3 + tBurst }
  | _ => c1

/-- When a column command to the open row of bank `b` may be issued at or after `t`. -/
def State.colTime (s : State) (b : Nat) (isRead : Bool) (t : Nat) : Nat :=
  let c := subOfBank b
  let t1 := afterEv (s.sub c).tCol tBurst (afterEv (s.bankAt b).tAct tRCD t)
  if isRead then afterEv (s.lastWrite c) tWTR t1 else t1

/-- A column command of class `cls` to the open row of bank `b` at or after `t`. -/
def State.colGo (s : State) (b : Nat) (isRead : Bool) (cls t : Nat) : State :=
  let c := subOfBank b
  let k := s.bankAt b
  let at_ := s.colTime b isRead t
  (s.setBank b { k with cols := k.cols + 1, tRd := if isRead then some at_ else k.tRd, tWr := if isRead then k.tWr else some at_ }).setSub c
    { (s.sub c).charge cls with tCol := some at_ }

/-- The controller's commands for one access to a codeword of bank `b`, from now on: its row is opened and the burst runs (R47, R62, R70). -/
def State.serve (s : State) (b row : Nat) (isRead : Bool) (cls : Nat) : State := (s.rowOpen b row (1000 * s.now)).colGo b isRead cls (1000 * s.now)

end Sys2Proof.Machine
end

