-- ==== Sys2Proof/Machine/Madder.lean ====
section
/-! DEFINITION. Madder (02): places of addresses, codewords with their poison marks, decoding with lane counts, whole and partial
writes, the Plaza slices (06 R188 to R192), atomic adds (03 R104). -/
namespace Sys2Proof.Machine

open Sys2Proof

/-- Writes a codeword whole: new check symbols, with or without the poison mark (R437); its damage is over (11 R316). -/
def Dram.writeCw (d : Dram) (cw : Nat) (b : List Byte) (poison : Bool) : Dram :=
  { d with madder := mwrite d.byteD d.madder (32 * cw) b,
           mark := if poison then setIns cw d.mark else d.mark.filter (· ≠ cw),
           reported := d.reported.filter (· ≠ cw) }

/-- Whether Madder physical address p is populated and in service (01 R33, 02 R78). -/
def State.madderOk (s : State) (p : Nat) : Bool :=
  let x := s.place p
  p < 2 ^ 40 && (s.sub (subOfBank x.bank)).state ≠ 3 && !(s.sub (subOfBank x.bank)).banksOut.getLsbD (x.bank % 4)

/-- Whether the sub-channel behind p is open, so that an access is served now. -/
def State.madderOpen (s : State) (p : Nat) : Bool := (s.sub (subOfBank (s.place p).bank)).state = 1

/-! #### Reads through the code (02 R57 to R59, R437) -/

/-- Counts one read that crosses the lanes; a period of 65,536 reads ends before it where that many have been counted (R59). -/
def SubCh.countRead (c : SubCh) : SubCh :=
  if c.reads = 65536 then { c with reads := 1, impl := List.replicate 12 0 } else { c with reads := c.reads + 1 }

/-- The lanes that now first reach the threshold of 16 (R59). -/
def laneHits (before after : List Nat) : List Nat :=
  (List.range 12).filter fun l => before.getD l 0 < 16 && 16 ≤ after.getD l 0

/-- The lanes that corrected symbols implicate, erased symbols apart (R59); counts saturate at 31. -/
def implicate (erased : Option Nat) (fix : List (Nat × Nat)) (impl : List Nat) : List Nat :=
  fix.foldl (fun im p =>
    let l := p.1 % 12
    if erased = some l then im else im.set l (min 31 (im.getD l 0 + 1))) impl

/-- Marks a lane erased, or reports the sub-channel for mapping out, with LANE_DEGRADED (R59). -/
def State.laneMark (s : State) (c l : Nat) : State :=
  let x := s.sub c
  match x.erased with
  | none => (s.setSub c { x with erased := some l }).detect 0x0103 (domOf .sub c) (n64 l) 0
  | some _ => (s.setSub c { x with mapoutReported := true }).detect 0x0103 (domOf .sub c) (n64 l) 1

/-- The lanes that a read brings to the threshold, lowest first. -/
def State.laneDegraded (s : State) (c : Nat) (before after : List Nat) : State :=
  (laneHits before after).foldl (fun s l => s.laneMark c l) s

/-- A codeword as a read returns it: bytes, poison, and the number of corrections. -/
structure CwRead where
  data : List Byte
  poison : Bool
  fixed : Bool
  ue : Bool
deriving DecidableEq, Repr

/-- Decodes what a read found under the errors met: the mark first, then the policy of the read's issue (R57, R58, R437). -/
def Sample.decode (m : Sample) (erased : Option Nat) (errs : List SymErr) : CwRead × List (Nat × Nat) :=
  let es := errSyms errs
  let got := flipData m.data es
  if m.mark then
    if es = [] then (⟨m.data, true, false, false⟩, []) else (⟨got, true, false, true⟩, [])
  else
    match rsDecode m.pol2 erased errs with
    | .clean => (⟨got, false, false, false⟩, [])
    | .corrected f => (⟨flipData got f, false, true, false⟩, f)
    | .bad => (⟨got, true, false, true⟩, [])

/-- The codeword `cw` as a read issued now under a policy finds it. -/
def Dram.sample (d : Dram) (policy2 : Bool) (cw : Nat) : Sample := ⟨d.readPos (32 * cw) 32, d.mark.contains cw, policy2⟩

/-- Decodes the stored codeword under the errors met. -/
def Dram.decode (d : Dram) (policy2 : Bool) (erased : Option Nat) (cw : Nat) (errs : List SymErr) : CwRead × List (Nat × Nat) :=
  (d.sample policy2 cw).decode erased errs

/-- The object and unit at a physical address, all ones if none (11 UE_DETECTED a1). -/
def State.ownerAt (s : State) (p : Nat) : W64 :=
  let at_ (l : List Nat) := l.findIdx? (· = p / 65536)
  match s.ti.obj.findSome? fun q => ((at_ q.2.pages).orElse fun _ => at_ q.2.mirror).map fun i => (q.1, (i * 65536 + p % 65536) / q.2.unitBytes) with
  | some (n, u) => n64 (n + u * 2 ^ 32)
  | none => 0xFFFFFFFFFFFFFFFF

def srcCode : ReqSrc → Nat
  | .thread => 0 | .dma => 1 | .bank => 2 | .host => 3 | .partner => 1

/-- UE_DETECTED, once for each damaged codeword (11 R308, R316). -/
def State.reportUe (s : State) (cw c : Nat) (a0 a1 : W64) (src : ReqSrc) : State :=
  if s.dr.reported.contains cw then s
  else
    ({ s with dr := { s.dr with reported := setIns cw s.dr.reported } }).detect 0x0101 (domOf .sub c) a0 a1 (n64 (srcCode src))

/-- The class in which an agent's ordinary accesses reach a controller (R62). -/
def srcClass : ReqSrc → Nat
  | .thread => 0 | .dma => 3 | .bank => 2 | .host => 3 | .partner => 3

/-- What a read of the codeword at p issued now finds, under its stack's policy (R57). -/
def State.sampleAt (s : State) (p : Nat) : Sample :=
  let x := s.place p
  s.dr.sample (s.stackAt (x.bank / 256)).policy2 x.cw

/-- A read of the codeword at physical address p returns over the lanes: counts, lanes, corrections and reports (02 R57 to R59). -/
def State.decodeRead (s : State) (p : Nat) (src : ReqSrc) (m : Sample) (errs : List SymErr) : CwRead × State :=
  let x := s.place p
  let c := subOfBank x.bank
  let sc := (s.sub c).countRead
  let (r, fix) := m.decode sc.erased errs
  let impl := implicate sc.erased fix sc.impl
  let sc1 := { sc with impl := impl, readCe := if r.fixed then satInc sc.readCe else sc.readCe,
                       readUe := if r.ue then satInc sc.readUe else sc.readUe }
  let s1 := (s.setSub c sc1).laneDegraded c sc.impl impl
  (r, if r.ue then s1.reportUe x.cw c (n64 (p / 32 * 32)) (s1.ownerAt p) src else s1)

/-- Reads one codeword at physical address p in class `cls`: its controller's commands, then the read's return. -/
def State.readCw (s : State) (p : Nat) (src : ReqSrc) (errs : List SymErr) (cls : Nat := srcClass src) : CwRead × State :=
  let x := s.place p
  let s1 := s.serve x.bank x.row true cls
  s1.decodeRead p src (s1.sampleAt p) errs

/-- The errors met in the k-th codeword of a transfer. -/
def errsOf (errs : List ScrubErr) (k : Nat) : List SymErr :=
  errs.flatMap fun e => if e.col = k then e.errs else []

/-- Reads `n` consecutive codewords from p (32-byte aligned), the k-th of the transfer first. -/
def State.readCws (s : State) (p : Nat) (src : ReqSrc) (errs : List ScrubErr) (cls : Nat := srcClass src) : Nat → Nat → List CwRead × State
  | 0, _ => ([], s)
  | n + 1, k =>
    let (r, s1) := s.readCw p src (errsOf errs k) cls
    let (rs, s2) := State.readCws s1 (p + 32) src errs cls n (k + 1)
    (r :: rs, s2)

/-- A whole codeword goes to the array in class `cls`. -/
def State.putCw (s : State) (p : Nat) (b : List Byte) (poison : Bool) (cls : Nat) : State :=
  let x := s.place p
  let s1 := s.serve x.bank x.row false cls
  { s1 with dr := s1.dr.writeCw x.cw b poison }

/-- Writes bytes [off, off + b.length) of the codeword at p (32-byte aligned): whole, or read under the errors met, merged and written (02 R58, R60). Answers
the status of the write: whether the codeword is now poisoned. -/
def State.writeCwAt (s : State) (p off : Nat) (b : List Byte) (poison : Bool) (src : ReqSrc := .thread) (errs : List SymErr := [])
    (cls : Nat := srcClass src) : Bool × State :=
  if off = 0 ∧ b.length = 32 then (poison, s.putCw p b poison cls)
  else
    let (r, s1) := s.readCw p src errs cls
    let psn := poison || r.poison
    (psn, s1.putCw p (r.data.take off ++ b ++ r.data.drop (off + b.length)) psn cls)

/-! #### The Plaza slices (06 R188 to R192) -/

/-- The tile whose slice caches the line of p: the one that serves its sub-channel (R189, R192). -/
def State.homeTile (s : State) (p : Nat) : Nat := (s.sub (subOfBank (s.place p).bank)).serving

def lineInit : Line := ⟨[], [], false, 0⟩
def lineD : Nat → Line := fun _ => lineInit

def State.plazaGet (s : State) (p : Nat) : Option Line := (s.tileAt (s.homeTile p)).plaza.lookup (p / 64)

def State.plazaPut (s : State) (p : Nat) (l : Line) : State :=
  let t := s.homeTile p
  s.setTile t { s.tileAt t with plaza := tput lineD (s.tileAt t).plaza (p / 64) l }

def State.plazaDrop (s : State) (p : Nat) : State :=
  let t := s.homeTile p
  s.setTile t { s.tileAt t with plaza := tdel (s.tileAt t).plaza (p / 64) }

/-! Sets and replacement (R189): 16 ways, a tree of 15 bits to a set; node n's bit names the half that is replaced next, 0 the lower ways. -/

/-- Sets of a slice: lines of 64 bytes, 16 to a set. -/
def Tile.plazaSets (x : Tile) : Nat := x.carve * 1024

/-- The set of a line: the spec gives no index function (notes/assumptions/13.md). -/
def Tile.setOf (x : Tile) (key : Nat) : Nat := Config.plazaSet key % x.plazaSets

/-- The lines of a set. -/
def Tile.setLines (x : Tile) (set : Nat) : List (Nat × Line) := x.plaza.filter fun q => x.setOf q.1 = set

/-- The way that the tree gives up: from node 1 down four levels. -/
def plruVictim (tree : Nat) : Nat → Nat → Nat
  | 0, node => node - 16
  | n + 1, node => plruVictim tree n (2 * node + b2n (bitAt tree node))

def setBit (n i : Nat) (b : Bool) : Nat := if bitAt n i = b then n else if b then n + 2 ^ i else n - 2 ^ i

/-- The tree after an access to a way: every node on its path points away from it. -/
def plruTouch (way : Nat) : Nat → Nat → Nat → Nat
  | 0, _, tree => tree
  | n + 1, node, tree => plruTouch way n (2 * node + b2n (bitAt way n)) (setBit tree node (!bitAt way n))

/-- An access to the line at p through its home slice. -/
def State.plazaTouch (s : State) (p : Nat) : State :=
  let t := s.homeTile p
  let x := s.tileAt t
  match x.plaza.lookup (p / 64) with
  | none => s
  | some l =>
    let set := x.setOf (p / 64)
    s.setTile t { x with plru := tput (fun _ => 0) x.plru set (plruTouch l.way 4 1 (tget (fun _ => 0) x.plru set)) }

/-! Requests a controller takes (02 R46) -/

/-- Entries of a class queue: its requests, and the bank jobs of the class. -/
def State.classLen (s : State) (c cls : Nat) : Nat :=
  (s.sub c).queue.countP (fun q => q.req.cls.val = cls) + (s.unitAt (2 * c)).jobs.countP (fun j => j.cls = cls) +
    (s.unitAt (2 * c + 1)).jobs.countP fun j => j.cls = cls

/-- Puts a request in its class queue of 64 entries, or keeps it stopped in the streets while the queue is full (R46). -/
def State.accept (s : State) (c : Nat) (r : Req) : State :=
  let x := s.sub c
  if s.classLen c r.cls.val < 64 ∧ x.stalled.all (fun q => q.cls ≠ r.cls) then
    s.setSub c { x with queue := x.queue ++ [⟨x.nextId, r, 0, [], false, none⟩], nextId := x.nextId + 1 }
  else s.setSub c { x with stalled := x.stalled ++ [r] }

/-- Lets stopped requests in, oldest first, where their queues have room. -/
def State.drain (s : State) (c : Nat) : State :=
  (s.sub c).stalled.foldl (fun s r => s.accept c r) (s.setSub c { s.sub c with stalled := [] })

/-- Whether p lies in the read or write range of an unfinished bank job (03 R96). -/
def State.jobRow (s : State) (p : Nat) : Bool :=
  let x := s.place p
  let u := s.unitAt (unitOfBank x.bank)
  u.holds && (u.inRead x.row || u.inWrite x.row)

/-- Writes a dirty line's two codewords back: to the array, or, where an unfinished job's range holds the write, into the controller's queue (03 R96). -/
def State.lineBack (s : State) (p : Nat) (l : Line) : State :=
  if l.dirty then
    [0, 1].foldl (fun s k =>
      let q := p / 64 * 64 + 32 * k
      let b := (l.data.drop (32 * k)).take 32
      let psn := l.poison.getD k false
      if s.jobRow p then s.accept (subOfBank (s.place p).bank) ⟨3, .write 0 b psn, q, .thread⟩
      else (s.writeCwAt q 0 b psn).2) s
  else s

/-- Evicts a line of a slice, writing it back. -/
def State.evictLine (s : State) (t key : Nat) : State :=
  match (s.tileAt t).plaza.lookup key with
  | none => s
  | some l =>
    let s1 := s.lineBack (64 * key) l
    s1.setTile t { s1.tileAt t with plaza := tdel (s1.tileAt t).plaza key }

/-- The way that a new line at p takes in its home slice t: the lowest free way of its set, else the one the tree gives up (R189). -/
def Tile.wayFor (x : Tile) (key : Nat) : Nat :=
  let ls := x.setLines (x.setOf key)
  match (List.range 16).find? fun w => !ls.any fun q => q.2.way = w with
  | some w => w
  | none => plruVictim (tget (fun _ => 0) x.plru (x.setOf key)) 4 1

/-- Brings a line in: the line that held its way is evicted. -/
def State.plazaFill (s : State) (p : Nat) (l : Line) : State :=
  let t := s.homeTile p
  let x := s.tileAt t
  let w := x.wayFor (p / 64)
  let s1 := match (x.setLines (x.setOf (p / 64))).find? fun q => q.2.way = w with
    | some q => s.evictLine t q.1
    | none => s
  (s1.plazaPut p { l with way := w }).plazaTouch p

/-- Whether an unfinished fence-mode job keeps the slice from filling the line at p (03 R120). -/
def State.fenced (s : State) (p : Nat) : Bool :=
  s.jobRow p && bitAt ((s.unitAt (unitOfBank (s.place p).bank)).dField 18 1) 2

/-- The line at p through its home slice; `alloc` where an absent line is brought in (thread accesses, R189). -/
def State.lineRead (s : State) (p : Nat) (src : ReqSrc) (alloc : Bool) (errs : List ScrubErr) (cls : Nat := srcClass src) : Line × State :=
  match s.plazaGet p with
  | some l => (l, s.plazaTouch p)
  | none =>
    let (rs, s1) := s.readCws (p / 64 * 64) src errs cls 2 0
    let l : Line := ⟨rs.flatMap (·.data), rs.map (·.poison), false, 0⟩
    if alloc ∧ 0 < (s.tileAt (s.homeTile p)).carve ∧ s.fenced p = false then (l, s1.plazaFill p l) else (l, s1)

/-- Bytes [off, off + b.length) of a line replaced; whole clean codewords lose their poison, poison sets it (as R60, R437). -/
def Line.write (l : Line) (off : Nat) (b : List Byte) (poison : Bool) : Line :=
  { way := l.way, data := l.data.take off ++ b ++ l.data.drop (off + b.length),
    poison := [0, 1].map fun k =>
      let touched := off < 32 * k + 32 ∧ 32 * k < off + b.length
      let whole := off ≤ 32 * k ∧ 32 * k + 32 ≤ off + b.length
      if touched then poison || (!decide whole && l.poison.getD k false) else l.poison.getD k false,
    dirty := true }

/-- The errors of a transfer from p on that fall in the line at q, by codeword of the line. -/
def lineErrs (p q : Nat) (errs : List ScrubErr) : List ScrubErr :=
  errs.filterMap fun e => if q / 64 * 2 ≤ p / 32 + e.col ∧ p / 32 + e.col < q / 64 * 2 + 2 then some { e with col := (p / 32 + e.col) % 2 } else none

/-- Reads bytes through the home slices (06 R190): bytes and whether any codeword read was poisoned. -/
def State.cohRead (s : State) (p n : Nat) (src : ReqSrc) (alloc : Bool) (errs : List ScrubErr) : List Byte × Bool × State :=
  (pieces 64 p n).foldl (fun acc pc =>
    let (b, psn, s) := acc
    let (l, s1) := s.lineRead pc.1 src alloc (lineErrs p pc.1 errs)
    let o := pc.1 % 64
    let hit := [0, 1].any fun k => l.poison.getD k false && decide (o < 32 * k + 32 ∧ 32 * k < o + pc.2)
    (b ++ (l.data.drop o).take pc.2, psn || hit, s1)) ([], false, s)

/-- Writes bytes through the home slices, `errs` being those that the reads of partial codewords meet. A thread's store allocates; another agent updates a
present line and writes an absent one to the controller (06 R190). Answers whether a codeword written in part is poisoned (02 R60). -/
def State.cohPut (s : State) (p : Nat) (b : List Byte) (poison : Bool) (alloc : Bool) (src : ReqSrc) (errs : List ScrubErr) (cls : Nat) : Bool × State :=
  (pieces 64 p b.length).foldl (fun acc pc =>
    let (psn, s) := acc
    let bytes := (b.drop (pc.1 - p)).take pc.2
    if (s.plazaGet pc.1).isSome ∨ (alloc ∧ 0 < (s.tileAt (s.homeTile pc.1)).carve ∧ s.fenced pc.1 = false) then
      let (l, s1) := s.lineRead pc.1 src true (lineErrs p pc.1 errs) cls
      let l1 := ((s1.plazaGet pc.1).getD l).write (pc.1 % 64) bytes poison
      (psn, s1.plazaPut pc.1 l1)
    else
      (pieces 32 pc.1 pc.2).foldl (fun acc q =>
        let (ps, s1) := acc.2.writeCwAt (q.1 / 32 * 32) (q.1 % 32) ((b.drop (q.1 - p)).take q.2) poison src (errsOf errs (q.1 / 32 - p / 32)) cls
        (acc.1 || ps, s1)) (psn, s)) (false, s)

def State.cohWrite (s : State) (p : Nat) (b : List Byte) (poison : Bool) (alloc : Bool) (src : ReqSrc := .thread) (errs : List ScrubErr := [])
    (cls : Nat := srcClass src) : State := (s.cohPut p b poison alloc src errs cls).2

/-- Whether a write to [p, p + n) reaches the controller, past the slices, in a range of an unfinished bank job, which holds it until the job
ends (03 R96): a write to an uncached page, or to a line that is absent and stays so. -/
def State.writeHeld (s : State) (uncached alloc : Bool) (p n : Nat) : Bool :=
  (pieces 64 p n).any fun q => s.jobRow q.1 &&
    (uncached || !((s.plazaGet q.1).isSome || (alloc && decide (0 < (s.tileAt (s.homeTile q.1)).carve) && !s.fenced q.1)))

/-- Reads bytes straight from the controllers, for uncached pages and bank jobs' neighbours (06 R190). -/
def State.rawRead (s : State) (p n : Nat) (src : ReqSrc) (errs : List ScrubErr) : List Byte × Bool × State :=
  (pieces 32 p n).foldl (fun acc pc =>
    let (b, psn, s) := acc
    let (r, s1) := s.readCw (pc.1 / 32 * 32) src (errsOf errs (pc.1 / 32 - p / 32))
    (b ++ (r.data.drop (pc.1 % 32)).take pc.2, psn || r.poison, s1)) ([], false, s)

/-- Writes bytes straight to the controllers. Answers whether a codeword written is poisoned (02 R60). -/
def State.rawPut (s : State) (p : Nat) (b : List Byte) (poison : Bool) (src : ReqSrc) (errs : List ScrubErr) : Bool × State :=
  (pieces 32 p b.length).foldl (fun acc q =>
    let (ps, s1) := acc.2.writeCwAt (q.1 / 32 * 32) (q.1 % 32) ((b.drop (q.1 - p)).take q.2) poison src (errsOf errs (q.1 / 32 - p / 32))
    (acc.1 || ps, s1)) (false, s)

def State.rawWrite (s : State) (p : Nat) (b : List Byte) (poison : Bool) : State := (s.rawPut p b poison .thread []).2

/-! #### When the controllers serve an access (02 R61, R64) -/

/-- Whether the codeword at p can be accessed now: its sub-channel is open, its bank is not held, and no queued request to it is older (R61, R64). -/
def State.cwFree (s : State) (p : Nat) : Bool :=
  let x := s.place p
  let c := s.sub (subOfBank x.bank)
  c.state = 1 && !(s.bankAt x.bank).held && !(c.queue.any fun q => (s.place q.req.addr).cw = x.cw)

/-- Whether [p, p + n) of Madder can be accessed now: each line is present in its slice, or its codewords are free. -/
def State.spanFree (s : State) (p n : Nat) : Bool := (pieces 32 p n).all fun q => (s.plazaGet q.1).isSome || s.cwFree q.1

/-- Zeroes a range of Madder with clean codewords, dropping any lines of it (08 R248: clearing). -/
def State.clearRange (s : State) (p n : Nat) : State :=
  let s1 := (wordsOf 64 p n).foldl (fun s k => s.plazaDrop (64 * k)) s
  s1.rawWrite p (List.replicate n 0) false

/-! #### Atomic adds (02 R76, 03 R104) -/

/-- Width in bits of an ADD form: 0 i32, 1 i64, 2 FP32, 3 BF16. -/
def addBits (form : Nat) : Nat := match form with | 1 => 64 | 3 => 16 | _ => 32

/-- The sum of R104. -/
def addForm (form old operand : Nat) : Nat :=
  match form with
  | 2 => numAdd fp32 (unpack fp32 (old % 2 ^ 32)) (unpack fp32 (operand % 2 ^ 32))
  | 3 => numAdd bf16 (unpack bf16 (old % 2 ^ 16)) (unpack bf16 (operand % 2 ^ 16))
  | f => (old + operand) % 2 ^ addBits f

/-- ADD on the codeword at an array codeword index, byte offset `off` (R104): old value, status, and the array after it. -/
def State.addAt (s : State) (cw off form operand : Nat) (policy2 : Bool) (errs : List SymErr) : Nat × Nat × CwRead × State :=
  let (r, _) := s.dr.decode policy2 none cw errs
  let n := addBits form / 8
  let old := leAt r.data off n
  if r.poison then (old, 1, r, s)
  else
    let new := r.data.take off ++ toBytes n (addForm form old operand) ++ r.data.drop (off + n)
    (old, 0, r, { s with dr := s.dr.writeCw cw new false })

end Sys2Proof.Machine
end

