-- ==== Sys2Proof/Machine/Operands.lean ====
section
/-! DEFINITION. The operands of thread instructions (06 R175, R176, Table TILE-4): registers, vector elements, addresses and the page
tests of every access (06 R182, R184). -/
namespace Sys2Proof.Machine

open Sys2Proof

/-! #### Registers (06 R175) -/

def gD : Nat → W64 := fun _ => 0
def vD : Nat → W512 := fun _ => 0

/-- General register r: g0 reads as 0. -/
def Thr.rd (x : Thr) (r : BitVec 5) : W64 := if r = 0 then 0 else tget gD x.g r.toNat

/-- Writes general register r: a write to g0 is discarded. -/
def Thr.wr (x : Thr) (r : BitVec 5) (v : W64) : Thr := if r = 0 then x else { x with g := tput gD x.g r.toNat v }

def Thr.rv (x : Thr) (r : BitVec 4) : W512 := tget vD x.v r.toNat
def Thr.wv (x : Thr) (r : BitVec 4) (v : W512) : Thr := { x with v := tput vD x.v r.toNat v }

/-- The program counter moves past the instruction. -/
def Thr.next (x : Thr) : Thr := { x with pc := x.pc + 4 }

/-- The number under which an awaited vector register stands beside the general registers. -/
def vNum (r : BitVec 4) : Nat := 32 + r.toNat

/-! #### Vector elements (06 R175, R176) -/

/-- Element width of type t: 0 i8, 1 u8, 2 i16, 3 i32, 4 i64, 5 binary16, 6 BF16, 7 FP32. -/
def elWidth (t : Nat) : Nat := match t with | 0 | 1 => 8 | 2 | 5 | 6 => 16 | 3 | 7 => 32 | _ => 64

/-- Elements in a vector register. -/
def elCount (t : Nat) : Nat := 512 / elWidth t

/-- Element e of w bits. -/
def vEl (w : Nat) (v : W512) (e : Nat) : BitVec w := (v >>> (w * e)).setWidth w

/-- The vector register with element e, from the list's first on. -/
def vPack (w : Nat) : List (BitVec w) → W512
  | [] => 0
  | a :: r => a.setWidth 512 ||| (vPack w r <<< w)

/-- A vector of `n` elements by index. -/
def vOf (w n : Nat) (f : Nat → BitVec w) : W512 := vPack w ((List.range n).map f)

/-- The vector with element e replaced. -/
def vSet (w : Nat) (v : W512) (e : Nat) (a : BitVec w) : W512 :=
  let mask : W512 := ((BitVec.allOnes w).setWidth 512) <<< (w * e)
  (v &&& ~~~mask) ||| ((a.setWidth 512) <<< (w * e))

/-- An element extended to 64 bits by its type: i8, i16, i32 by sign, the others by zero. -/
def elExt (t : Nat) (v : W512) (e : Nat) : W64 :=
  if t = 0 ∨ t = 2 ∨ t = 3 then (vEl (elWidth t) v e).signExtend 64 else (vEl (elWidth t) v e).setWidth 64

/-! #### Memory operands (06 R176) -/

/-- Bytes that a sz code moves: 0 and 4 one, 1 and 5 two, 2 and 6 four, 3 eight. -/
def szBytes (sz : BitVec 3) : Nat := match sz.toNat with | 0 | 4 => 1 | 1 | 5 => 2 | 2 | 6 => 4 | _ => 8

/-- The address ga + off, off scaled by the access size. -/
def memVa (x : Thr) (f : MemF) (size : Nat) : W64 := x.rd f.a + (f.off.signExtend 64) * BitVec.ofNat 64 size

/-- The value a load of `size` bytes writes. -/
def loadExt (size : Nat) (signed : Bool) (b : List Byte) : W64 :=
  if signed then BitVec.ofInt 64 (sgn (8 * size) (ofBytes b)) else BitVec.ofNat 64 (ofBytes b)

/-! #### Page entries (06 Table TILE-8) -/

def pageD : Nat → W64 := fun _ => 0

/-- The entry that covers virtual page number vp (64 KiB): its own, or the large page's around it. -/
def State.pageEntry (s : State) (vp : Nat) : W64 :=
  let e := tget pageD s.pages vp
  if e ≠ 0 then e
  else
    let b := tget pageD s.pages (vp / 32 * 32)
    if b.getLsbD 1 then b else 0

def pePresent (e : W64) : Bool := e.getLsbD 0
def peLarge (e : W64) : Bool := e.getLsbD 1
def peWritable (e : W64) : Bool := e.getLsbD 2
def peShared (e : W64) : Bool := e.getLsbD 3
def peUncached (e : W64) : Bool := e.getLsbD 4
def peWeld (e : W64) : Bool := e.getLsbD 5
def peExec (e : W64) : Bool := e.getLsbD 6
def peDomain (e : W64) : BitVec 14 := (e >>> 8).setWidth 14
def peKey (e : W64) : BitVec 12 := (e >>> 22).setWidth 12
/-- Physical page number, 64-KiB pages. -/
def pePpn (e : W64) : Nat := e.toNat / 2 ^ 34
/-- The physical address of va under entry e. -/
def pePhys (e : W64) (va : Nat) : Nat := pePpn e * 65536 + va % (if peLarge e then 2097152 else 65536)

/-- Packs a page entry. -/
def mkPage (present large writable shared uncached weld exec : Bool) (dom : BitVec 14) (key : BitVec 12) (ppn : Nat) : W64 :=
  BitVec.ofNat 64 (packFields [(b2n present, 1), (b2n large, 1), (b2n writable, 1), (b2n shared, 1), (b2n uncached, 1), (b2n weld, 1),
    (b2n exec, 1), (0, 1), (dom.toNat, 14), (key.toNat, 12), (ppn, 30)])

/-- Kinds of access that Table TILE-9 tests. -/
inductive Acs where
  | fetch | read | write
deriving DecidableEq, Repr

/-- Virtual addresses outside the mapped ranges of 01 Table ARCH-7. -/
def vaReserved (va : Nat) : Bool := decide (0x800000000000 ≤ va ∧ va < 0xFFFF00000000) || decide (2 ^ 48 ≤ va)

/-- Base of the Weld windows (01 Table ARCH-6). -/
def weldBase : Nat := 0x100000000000

/-- Tile and offset of a physical address in a Weld window. -/
def weldTile (pa : Nat) : Nat := (pa - weldBase) / 0x2000000
def weldOff (pa : Nat) : Nat := (pa - weldBase) % 0x2000000
def isWeld (pa : Nat) : Bool := decide (weldBase ≤ pa ∧ pa < weldBase + 0x80000000)

/-- Whether a thread access or copy may reach the physical address (01 R33, R35, R36; 06 R186): Madder in service, or Weld within its
tile's size, of the thread's own tile unless `anyTile`. -/
def State.reachable (s : State) (tile : Nat) (anyTile : Bool) (pa : Nat) : Bool :=
  if isWeld pa then (anyTile || weldTile pa = tile) && decide (weldOff pa < (s.tileAt (weldTile pa)).weldSize)
  else s.madderOk pa

/-- The domain test of Table TILE-9; SERVICE passes it (06 R184). -/
def domainOk (x : Thr) (k : Acs) (e : W64) : Bool :=
  x.service || match k with
  | .fetch => true
  | .read => peDomain e = x.domain || (peShared e && (peKey e = 0 || x.keys.contains (peKey e)))
  | .write => peDomain e = x.domain

/-- Checks an access to one address and answers its physical address, or the code of Table TILE-7. A test of another kind comes
before the domain test, and the domain test before the writable test (notes/assumptions/40.md). -/
def State.translate (s : State) (x : Thr) (tile : Nat) (anyTile : Bool) (k : Acs) (va : Nat) : Except Nat (Nat × W64) :=
  let e := s.pageEntry (va / 65536)
  let pa := pePhys e va
  if vaReserved va then .error fAddress
  else if !pePresent e then .error fNotPresent
  else if k = .fetch ∧ !peExec e then .error fFetch
  else if !s.reachable tile anyTile pa then .error fAddress
  else if !domainOk x k e then .error fDomain
  else if k = .write ∧ !peWritable e then .error fWrite
  else .ok (pa, e)

/-- Checks every page of [va, va + n), and that no piece of it is mapped out (02 R78), and answers the physical chunks, or the code and the address of the first page that fails. -/
def State.translateRange (s : State) (x : Thr) (tile : Nat) (anyTile : Bool) (k : Acs) : Nat → Nat → Nat → Except (Nat × Nat) (List (Nat × Nat))
  | 0, _, _ => .ok []
  | fuel + 1, va, n =>
    if n = 0 then .ok []
    else
      let m := min n (65536 - va % 65536)
      match s.translate x tile anyTile k va with
      | .error c => .error (c, va)
      | .ok (pa, _) =>
        match (if isWeld pa then none else (pieces 512 pa m).find? fun q => !s.madderOk q.1) with
        | some q => .error (fAddress, va + (q.1 - pa))
        | none => match State.translateRange s x tile anyTile k fuel (va + m) (n - m) with
          | .error c => .error c
          | .ok r => .ok ((pa, m) :: r)

/-- The chunks of a whole range. -/
def State.rangeOf (s : State) (x : Thr) (tile : Nat) (anyTile : Bool) (k : Acs) (va n : Nat) : Except (Nat × Nat) (List (Nat × Nat)) :=
  s.translateRange x tile anyTile k (n / 65536 + 2) va n

/-- The domain of the Weld page that covers 64-KiB physical page pp, where one entry maps it (06 R183). -/
def State.weldPageDomain (s : State) (pp : Nat) : Option (BitVec 14) :=
  (s.pages.find? fun q => pePresent q.2 && peWeld q.2 && decide (pePpn q.2 ≤ pp) &&
    decide (pp < pePpn q.2 + if peLarge q.2 then 32 else 1)).map fun q => peDomain q.2

/-- Whether every Weld page of the part of [off, off + n) within tile t's Weld passes the Weld-area test (Table TILE-9). -/
def State.weldAreaOk (s : State) (service : Bool) (dom : BitVec 14) (t off n : Nat) : Bool :=
  service || (wordsOf 65536 (weldBase + t * 0x2000000 + off) (min n ((s.tileAt t).weldSize - off))).all fun p => s.weldPageDomain p == some dom

end Sys2Proof.Machine
end

