-- ==== Sys2Proof/Machine/Transfer.lean ====
section
/-! DEFINITION. Transfers of engines (ACOPY, DMA, host windows, Causeway): bytes with their poison, 32-byte piece by 32-byte piece, to and from
Madder through the home slices without allocating, and Weld (06 R186, R187, R190; 02 R437). -/
namespace Sys2Proof.Machine

open Sys2Proof

/-- Bytes within one aligned 32-byte word, with their poison. -/
abbrev Piece := List Byte × Bool

/-- One piece of Madder: from a present line of its home slice, else from the controller (06 R190). -/
def State.madderPiece (s : State) (src : ReqSrc) (p n : Nat) (errs : List SymErr) (cls : Nat := srcClass src) : Piece × State :=
  match s.plazaGet p with
  | some l => (((l.data.drop (p % 64)).take n, l.poison.getD (p % 64 / 32) false), s.plazaTouch p)
  | none =>
    let (r, s1) := s.readCw (p / 32 * 32) src errs cls
    (((r.data.drop (p % 32)).take n, r.poison), s1)

/-- Reads [p, p + n) of Madder or Weld as pieces; `errs` are the errors met, by codeword of the transfer from `k0` on. -/
def State.agentRead (s : State) (src : ReqSrc) (p n k0 : Nat) (errs : List ScrubErr) (cls : Nat := srcClass src) : List Piece × State :=
  (pieces 32 p n).foldl (fun acc q =>
    let (ps, s) := acc
    if isWeld q.1 then
      let x := s.tileAt (weldTile q.1)
      (ps ++ [(x.weldRead (weldOff q.1) q.2, x.weldPoison (weldOff q.1) q.2)], s.weldReadBy (weldTile q.1) (weldOff q.1) q.2 (errsOf errs (k0 + (q.1 / 32 - p / 32))).length)
    else
      let (r, s1) := s.madderPiece src q.1 q.2 (errsOf errs (k0 + (q.1 / 32 - p / 32))) cls
      (ps ++ [r], s1)) ([], s)

/-- Writes bytes for an agent in a class, each piece with its poison: a present line is updated, an absent one goes to the controller (06 R190); `errs` are those
that reads of partial codewords meet, by codeword of the write from `k0` on. -/
def State.agentWriteAs (s : State) (src : ReqSrc) (errs : List ScrubErr) (cls k0 : Nat) : Nat → List Piece → State
  | _, [] => s
  | p, (b, psn) :: r =>
    let s1 := if isWeld p then s.weldWrite (weldTile p) (weldOff p) b psn
      else s.cohWrite p b psn false src (errs.filterMap fun e => if k0 ≤ e.col then some { e with col := e.col - k0 } else none) cls
    State.agentWriteAs s1 src errs cls (k0 + 1) (p + b.length) r

/-- An engine's write in its class that meets no error. -/
def State.agentWrite (s : State) (p : Nat) (ps : List Piece) : State := s.agentWriteAs .dma [] 3 0 p ps

/-- Bytes of pieces. -/
def bytesOf (ps : List Piece) : List Byte := ps.flatMap (·.1)

/-- Whether some piece is poisoned. -/
def anyPoison (ps : List Piece) : Bool := ps.any (·.2)

/-- Whether pieces that begin at `at0` hold poison within [a, a + n). -/
def piecesBad : Nat → List Piece → Nat → Nat → Bool
  | _, [], _, _ => false
  | at0, p :: r, a, n => (p.2 && at0 < a + n && a < at0 + p.1.length) || piecesBad (at0 + p.1.length) r a n

/-- Cuts bytes whose poison is given word by word of the source into the pieces of a destination at `p`. -/
def recut (p : Nat) (b : List Byte) (poison : Nat → Bool) : List Piece :=
  (pieces 32 p b.length).map fun q => ((b.drop (q.1 - p)).take q.2, (wordsOf 32 (q.1 - p) q.2).any poison)

/-- Whether every access to a range can be served now. -/
def State.rangeOpen (s : State) (p n : Nat) : Bool := isWeld p || s.spanFree p n

/-- Whether a transfer between physical ranges can be performed now: every access of it can be served (02 R61, R64) and no bank job holds a write of it
(03 R96). Until then it waits. -/
def State.xferReady (s : State) (src dst : List (Nat × Nat)) : Bool :=
  (src ++ dst).all (fun c => s.rangeOpen c.1 c.2) && dst.all fun c => isWeld c.1 || !s.writeHeld false false c.1 c.2

/-- Reads chunks of physical ranges one after the other. -/
def State.readChunks (s : State) (src : ReqSrc) (cs : List (Nat × Nat)) (errs : List ScrubErr) (cls : Nat := srcClass src) : List Piece × State :=
  cs.foldl (fun acc c => let (r, s1) := acc.2.agentRead src c.1 c.2 acc.1.length errs cls; (acc.1 ++ r, s1)) ([], s)

/-- Writes pieces into chunks of physical ranges one after the other, in a class. Chunks are whole 32-byte words. -/
def State.writeChunksAs (s : State) (src : ReqSrc) (cls : Nat) : List (Nat × Nat) → List Piece → State
  | [], _ => s
  | c :: r, ps => State.writeChunksAs (s.agentWriteAs src [] cls 0 c.1 (ps.take (c.2 / 32))) src cls r (ps.drop (c.2 / 32))

def State.writeChunks (s : State) (cs : List (Nat × Nat)) (ps : List Piece) : State := s.writeChunksAs .dma 3 cs ps

/-- `n` free bytes as clean pieces. -/
def State.freePieces (s : State) (n : Nat) : List Piece :=
  (List.range (n / 32)).map fun k => ((List.range 32).map fun i => Config.freeBits 8 (s.freeCount + 32 * k + i), false)

end Sys2Proof.Machine
end

