-- ==== Sys2Proof/Machine/Objects.lean ====
section
/-! DEFINITION. Objects and tiers (08 R232 to R254): flags, placement of pages, charges, mappings, clearing, frames and their places, the residency
transitions of Table TIER-4. -/
namespace Sys2Proof.Machine

open Sys2Proof

/-! #### Flags (Table TIER-2) -/

def fHome (f : W32) : Nat := f.toNat % 65536
def fLower (f : W32) : Nat := bitsOf f.toNat 17 16
def fMirror (f : W32) : Bool := f.getLsbD 18
def fBank (f : W32) : Bool := f.getLsbD 19
def fNear (f : W32) : Bool := f.getLsbD 20
def fShared (f : W32) : Bool := f.getLsbD 21
def fPin (f : W32) : Bool := f.getLsbD 22
def fCompress (f : W32) : Bool := f.getLsbD 23

/-- Squares of a mask, ascending. -/
def squaresOf (m : Nat) : List Nat := (List.range 16).filter fun i => bitAt m i

/-- R235: whether an allocation's flags are allowed. -/
def flagsOk (tenant : Nat) (f : W32) (mirror : Nat) : Bool :=
  f.toNat < 2 ^ 26 && fHome f ≠ 0 && fLower f ≠ 3 && (fLower f ≠ 0) ≠ fPin f && (!fNear f || (fBank f && fPin f && !fMirror f)) &&
    (!fMirror f || ((squaresOf mirror).length = (squaresOf (fHome f)).length && mirror &&& fHome f = 0)) && (!fShared f || tenant = 0)

/-- Bytes of the pieces an object is placed in: a page, or a run of a BANK_LAYOUT object (R236). -/
def granule (f : W32) (large : Bool) : Nat := if large then 2097152 else if fBank f then 1048576 else 65536

/-- The size rounded up to whole granules in each home square (R236). -/
def roundSize (f : W32) (large : Bool) (bytes : Nat) : Nat :=
  let u := (squaresOf (fHome f)).length * granule f large
  (bytes + u - 1) / u * u

/-! #### Free pages -/

/-- 64-KiB pages of a quadrant. -/
def quadPages : Nat := 262144

/-- A page whose addresses are in service, not allocated and not retired (02 R78; 11 R317), in a segment of the layout asked. -/
def State.pageFree (s : State) (used : List Nat) (bank : Bool) (p : Nat) : Bool :=
  !used.contains p && !s.fl.retired.contains p && s.segBank (p / quadPages) (p % quadPages / 1024) = bank &&
    (List.range 128).all fun i => s.madderOk (65536 * p + 512 * i)

/-- The lowest start, a multiple of `n` above `p`, of n free pages. -/
def State.findRun (s : State) (used : List Nat) (bank : Bool) (n : Nat) : Nat → Nat → Option Nat
  | 0, _ => none
  | fuel + 1, p => if (List.range n).all fun i => s.pageFree used bank (p + i) then some p else State.findRun s used bank n fuel (p + n)

/-- Free pages of bank pair r of quadrant q (R236): each BANK_LAYOUT segment holds 32 pages of every pair (02 R52). -/
def State.pairFree (s : State) (used : List Nat) (q r : Nat) : Nat :=
  (((List.range 256).filter fun n => s.segBank q n).map fun n =>
    (List.range 32).countP fun k => s.pageFree used true (q * quadPages + 1024 * n + 32 * r + k)).sum

/-- The first run of n pages in pair r of quadrant q. -/
def State.pairRun (s : State) (used : List Nat) (q r n : Nat) : Option Nat :=
  ((List.range 256).filter fun g => s.segBank q g).findSome? fun g => s.findRun used true n (32 / n) (q * quadPages + 1024 * g + 32 * r)

/-- A run in the quadrant: in the pair with the most free pair-rows, the lowest-numbered among equals (R236). -/
def State.bankRun (s : State) (used : List Nat) (q n : Nat) : Option Nat :=
  let cands := (List.range 32).filterMap fun r => (s.pairRun used q r n).map fun p => (s.pairFree used q r, p)
  (cands.foldl (fun (best : Option (Nat × Nat)) c => match best with
    | none => some c
    | some b => if b.1 < c.1 then some c else some b) none).map (·.2)

/-- One granule of n pages in quadrant q of a square. -/
def State.takeGranule (s : State) (used : List Nat) (bank : Bool) (n q : Nat) : Option Nat :=
  if bank then s.bankRun used q n else s.findRun used false n (quadPages / n) (q * quadPages)

/-- `k` granules of a part in square sq, quadrants in rotation, a full quadrant passed over (R236). -/
def State.takePart (s : State) (bank : Bool) (n sq : Nat) : Nat → Nat → List Nat → List Nat → Option (List Nat × List Nat)
  | 0, _, used, acc => some (used, acc)
  | k + 1, turn, used, acc =>
    match (List.range 4).findSome? fun i => s.takeGranule used bank n (4 * sq + (turn + i) % 4) with
    | none => none
    | some p =>
      let ps := (List.range n).map (p + ·)
      State.takePart s bank n sq k (turn + 1) (used ++ ps) (acc ++ ps)

/-- The pages of one Madder copy over the squares of a mask (R236): parts in ascending square order. -/
def State.takeCopy (s : State) (f : W32) (large : Bool) (bytes mask : Nat) (used : List Nat) : Option (List Nat × List Nat) :=
  let sq := squaresOf mask
  let g := granule f large
  sq.foldl (fun acc q => match acc with
    | none => none
    | some (used, ps) => s.takePart (fBank f) (g / 65536) q (bytes / sq.length / g) 0 used ps) (some (used, []))

/-- Both copies of an object. -/
def State.takePages (s : State) (o : Obj) : Option (List Nat × List Nat × List Nat) :=
  match s.takeCopy o.flags o.large o.bytes (fHome o.flags) s.ti.used with
  | none => none
  | some (used, ps) =>
    if fMirror o.flags then
      match s.takeCopy o.flags o.large o.bytes o.mirrorMask.toNat used with
      | none => none
      | some (used2, ms) => some (used2, ps, ms)
    else some (used, ps, [])

/-- Pages return to the free pool. -/
def State.givePages (s : State) (ps : List Nat) : State := { s with ti := { s.ti with used := s.ti.used.filter fun p => !ps.contains p } }

/-! #### Objects -/

def objInit : Obj :=
  { live := false, owner := 0, bytes := 0, flags := 0, mirrorMask := 0, large := false, unitBytes := 65536, state := 0, claims := [],
    modClaims := [], promoter := none, waiters := [], heldEvict := [], queued := [], units := [], pages := [], mirror := [], maps := [],
    lostData := false, onMirror := [], unmapped := false, dying := false }

def objD : Nat → Obj := fun _ => objInit
def unitRecInit : UnitRec := ⟨0, 0, 0, [], 0, false⟩
def unitRecD : Nat → UnitRec := fun _ => unitRecInit

def State.objAt (s : State) (n : Nat) : Obj := tget objD s.ti.obj n
def State.setObj (s : State) (n : Nat) (o : Obj) : State := { s with ti := { s.ti with obj := tput objD s.ti.obj n o } }
def Obj.unit (o : Obj) (u : Nat) : UnitRec := tget unitRecD o.units u
def Obj.setUnit (o : Obj) (u : Nat) (r : UnitRec) : Obj := { o with units := tput unitRecD o.units u r }
/-- Units counted over the rounded size (R236, R240). -/
def Obj.nUnits (o : Obj) : Nat := o.bytes / o.unitBytes
/-- Frame kind: 1 block, 2 64-KiB page (Table TIER-3). -/
def Obj.kind (o : Obj) : Nat := if o.unitBytes = 65536 then 2 else 1
def Obj.noClaims (o : Obj) : Bool := o.claims.isEmpty && o.modClaims.isEmpty

/-- The object of a command, where it exists and belongs to the header tenant (12 R348). -/
def State.objOf (s : State) (tenant : W16) (n : W32) : Except Nat Obj :=
  let o := s.objAt n.toNat
  if !o.live then .error stState else if o.owner ≠ tenant then .error stDomain else .ok o

/-! #### Charges (R238, R239) -/

/-- Adds to a tenant's usage: tier 0 Madder, 1 Woad, 2 Indigo. -/
def State.charge (s : State) (t tier n : Nat) : State :=
  let x := s.ten t
  s.setTen t { x with usage := x.usage.set tier (x.usage.getD tier 0 + n) }

def State.discharge (s : State) (t tier n : Nat) : State :=
  let x := s.ten t
  s.setTen t { x with usage := x.usage.set tier (x.usage.getD tier 0 - n) }

/-- Whether a charge stays within the quota. -/
def State.quotaOk (s : State) (t tier n : Nat) : Bool := (s.ten t).usage.getD tier 0 + n ≤ ((s.ten t).quota.getD tier 0).toNat

/-- The tenant an object is charged to: SHARED objects to tenant 0. -/
def Obj.payer (o : Obj) : Nat := if fShared o.flags then 0 else o.owner.toNat
/-- Bytes of the Madder charge: both copies of a MIRROR object. -/
def Obj.madderBytes (o : Obj) : Nat := o.bytes * if fMirror o.flags then 2 else 1
/-- The tier a unit is charged to: its frame's, or the object's lower tier. -/
def Obj.unitTier (o : Obj) (u : Nat) : Nat := if (o.unit u).st = 1 then (o.unit u).tier else fLower o.flags

/-- Bytes beyond the last whole unit, charged to the lower tier from the allocation on. -/
def Obj.tailBytes (o : Obj) : Nat := o.bytes - o.nUnits * o.unitBytes

/-- Releases the lower-tier charges of every unit. -/
def State.dischargeUnits (s : State) (o : Obj) : State :=
  (List.range o.nUnits).foldl (fun s u => s.discharge o.payer (o.unitTier u) o.unitBytes) (s.discharge o.payer (fLower o.flags) o.tailBytes)

/-! #### Mappings (06 R182, R183; 01 R38) -/

/-- The page of an object that readers use: the mirror copy's where the unit reads from it (11 R317). -/
def Obj.pageAt (o : Obj) (i : Nat) : Nat := if o.onMirror.contains i then o.mirror.getD i 0 else o.pages.getD i 0

/-- The page entry of one mapped page: present where the object has a complete Madder copy, until step 2 of a demotion (R248). -/
def Obj.entry (o : Obj) (m : MapRec) : W64 :=
  let step := if o.large then 32 else 1
  let here := (o.state = 2 || (o.state = 3 && !o.unmapped)) && !o.pages.isEmpty
  mkPage here o.large (m.attrs.getLsbD 0) (fShared o.flags) (m.attrs.getLsbD 2) false (m.attrs.getLsbD 1) (o.owner.setWidth 14) m.key
    (if here then o.pageAt (m.page * step) else 0)

/-- Writes the page entries of an object's mappings. -/
def State.writeMaps (s : State) (o : Obj) : State :=
  { s with pages := o.maps.foldl (fun ps m => tput pageD ps m.vp (o.entry m)) s.pages }

/-- Removes them. -/
def State.dropMaps (s : State) (o : Obj) : State := { s with pages := o.maps.foldl (fun ps m => tdel ps m.vp) s.pages }

/-! #### Contents of Madder copies -/

/-- Byte i of an object's copy as a physical address. -/
def physOf (pages : List Nat) (i : Nat) : Nat := pages.getD (i / 65536) 0 * 65536 + i % 65536

/-- The physical chunks (start, length) of bytes [a, a + n) of a copy. -/
def chunksOf (pages : List Nat) (a n : Nat) : List (Nat × Nat) := (pieces 65536 a n).map fun q => (physOf pages q.1, q.2)

/-- Writes an image at byte a of a copy. -/
def State.putImage (s : State) (pages : List Nat) (a : Nat) (img : List Byte) : State :=
  (pieces 65536 a img.length).foldl (fun s q => s.agentWrite (physOf pages q.1) (recut (physOf pages q.1) ((img.drop (q.1 - a)).take q.2) fun _ => false)) s

/-- Reads bytes [a, a + n) of a copy as pieces. -/
def State.getImage (s : State) (pages : List Nat) (a n : Nat) : List Piece × State := s.readChunks .dma (chunksOf pages a n) []

/-- Clears pages (R248 step 3; 10 R297): their lines are discarded, then zeros are written. -/
def State.clearPages (s : State) (ps : List Nat) : State := ps.foldl (fun s p => s.clearRange (65536 * p) 65536) s

/-! #### Frames in pools and lots (R233, R252) -/

/-- First fit of n bytes, 16-byte aligned, in a range of `size` bytes with rising used pieces. -/
def firstFit (size n : Nat) : List (Nat × Nat) → Nat → Option Nat
  | [], a => if a + n ≤ size then some a else none
  | (u, l) :: r, a => if a + n ≤ u then some a else firstFit size n r (max a ((u + l + 15) / 16 * 16))

/-- Inserts a piece by its start. -/
def insPiece (a n : Nat) : List (Nat × Nat) → List (Nat × Nat)
  | [] => [(a, n)]
  | (u, l) :: r => if a < u then (a, n) :: (u, l) :: r else (u, l) :: insPiece a n r

def delPiece (a : Nat) (l : List (Nat × Nat)) : List (Nat × Nat) := l.filter fun p => p.1 ≠ a

/-- Whether the port mask holds a port that is up. -/
def State.maskUp (s : State) (m : Nat) : Bool := (bitAt m 0 && s.ho.portA.up) || (bitAt m 1 && s.ho.portB.up)

def lotInit : LotRec := ⟨0, 0, 0, 0, []⟩
def lotD : Nat → LotRec := fun _ => lotInit
def State.lotAt (s : State) (n : Nat) : LotRec := tget lotD s.cw.slot n
def State.setLot (s : State) (n : Nat) (x : LotRec) : State := { s with cw := { s.cw with slot := tput lotD s.cw.slot n x } }

/-- Room for a frame in a GRANTED lot: slot and offset, lowest slot first (R252). -/
def State.lotRoom (s : State) (n : Nat) : Option (Nat × Nat) :=
  s.cw.slot.findSome? fun q => if q.2.state = 1 then (firstFit (2 ^ 30) n q.2.used 0).map fun a => (q.1, a) else none

/-- Room in a tenant's Indigo pools, or the status that R233 gives: pool number and address. -/
def State.poolRoom (s : State) (t n : Nat) : Except Nat (Nat × Nat) :=
  let mine := s.ti.pools.filter fun p => p.owner.toNat = t
  let roomy := mine.filterMap fun p => (firstFit p.bytes n p.used 0).map fun a => (p, a)
  match roomy.find? fun q => s.maskUp q.1.mask with
  | some (p, a) => .ok (p.id, p.base + a)
  | none => .error (if roomy.isEmpty then stLimit else stLink)

/-- Where a frame of tenant t goes: tier 1 a lot, or the tenant's pools where no lot has room; tier 2 the pools (R233, R252). -/
def State.framePlace (s : State) (t tier n : Nat) : Except Nat (Nat × Nat) :=
  match (if tier = 1 then s.lotRoom n else none) with
  | some (k, a) => .ok (1, k * 2 ^ 30 + a)
  | none => match s.poolRoom t n with
    | .ok (_, a) => .ok (2, a)
    | .error e => .error e

/-- Marks the place of a frame used. -/
def State.takePlace (s : State) (tier loc n : Nat) : State :=
  if tier = 1 then
    let k := loc / 2 ^ 30
    s.setLot k { s.lotAt k with used := insPiece (loc % 2 ^ 30) n (s.lotAt k).used }
  else { s with ti := { s.ti with pools := s.ti.pools.map fun p =>
    if p.base ≤ loc ∧ loc < p.base + p.bytes then { p with used := insPiece (loc - p.base) n p.used } else p } }

/-- Frees the place of a frame. -/
def State.freePlace (s : State) (tier loc : Nat) : State :=
  if tier = 1 then
    let k := loc / 2 ^ 30
    s.setLot k { s.lotAt k with used := delPiece (loc % 2 ^ 30) (s.lotAt k).used }
  else { s with ti := { s.ti with pools := s.ti.pools.map fun p =>
    if p.base ≤ loc ∧ loc < p.base + p.bytes then { p with used := delPiece (loc - p.base) p.used } else p } }

/-! #### Frames to the partner module (13 R371) -/

def cwPortInit : CwPort :=
  { enable := false, lend := 0, borrow := 0, state := 0, width := 0, excluded := 0, failed := 0, partnerEpoch := 0, partnerId := 0,
    known := false, txSeq := 0, rxNext := 0, replay := [], resend := 0, expired := false, replayTop := 0, credits := [64, 512, 1024],
    freed := [0, 0, 0], rot := 0, passed := 0, nakSeq := none, nakAt := 0, nakDue := false, out := [[], [], []], part := [[], [], []], inb := [],
    offered := 0, lastOffer := 0, attempts := 0, cause := none, lotReq := none, lotReqAt := 0, reqs := [], nextTag := 0, keepAt := 0,
    keepSent := none, downAt := 0, wire := [] }

def cwD : Nat → CwPort := fun _ => cwPortInit
def State.cwAt (s : State) (p : Nat) : CwPort := tget cwD s.cw.port p
def State.setCw (s : State) (p : Nat) (x : CwPort) : State := { s with cw := { s.cw with port := tput cwD s.cw.port p x } }

/-- A message's 24-byte header and data (13 R367). -/
def cwMessage (type flags : Nat) (tag lot : W32) (off len : Nat) (arg : W32) (data : List Byte) : List Byte :=
  [BitVec.ofNat 8 type, BitVec.ofNat 8 flags, 0, 0] ++ toBytes 4 tag.toNat ++ toBytes 4 lot.toNat ++ toBytes 4 off ++ toBytes 4 len ++
    toBytes 4 arg.toNat ++ data

/-- Queues a message on a virtual channel: 0 control, 1 request, 2 response. -/
def State.cwSend (s : State) (p vc : Nat) (m : List Byte) : State :=
  let x := s.cwAt p
  s.setCw p { x with out := x.out.set vc (x.out.getD vc [] ++ [m]) }

/-- The firmware's own transfers have no channel. -/
def noChan : Nat := 2048

/-- Sends one request of a channel to a lot, and keeps it until it is answered (13 R371). -/
def State.cwRequest (s : State) (l : LotRec) (chan type flags off pos len : Nat) (data : List Byte) : State :=
  let x := s.cwAt l.port
  let r : CwReq := { tag := x.nextTag, chan := chan, read := type ≠ 0x12, pos := pos, len := len, got := [], recv := 0, bad := [], sent := s.now }
  (s.setCw l.port { x with nextTag := x.nextTag + 1, reqs := x.reqs ++ [r] }).cwSend l.port 1
    (cwMessage type flags x.nextTag l.lot (off + pos) len 0 data)

/-- Bursts of up to 512 bytes: (position, length). -/
def bursts (n : Nat) : List (Nat × Nat) := (List.range ((n + 511) / 512)).map fun i => (512 * i, min 512 (n - 512 * i))

/-- Bytes written to a lot become WRITE messages of up to 512 bytes (13 R371); `bad` tells whether part of a burst is poisoned. -/
def State.woadWrite (s : State) (chan slot off : Nat) (b : List Byte) (bad : Nat → Nat → Bool) : State :=
  (bursts b.length).foldl (fun s q =>
    s.cwRequest (s.lotAt slot) chan 0x12 (b2n (bad q.1 q.2)) off q.1 q.2 ((b.drop q.1).take q.2)) s

/-- Writes a frame's cipher text at its place: host memory, or the partner's lot. -/
def State.writeFrame (s : State) (tier loc : Nat) (b : List Byte) : State :=
  if tier = 1 then s.woadWrite noChan (loc / 2 ^ 30) (loc % 2 ^ 30) b fun _ _ => false else s.hostWrite loc b

/-- The key's tenant of an object's frames (R244). -/
def Obj.keyTenant (o : Obj) : W16 := if fShared o.flags then 0 else o.owner

/-- Releases a unit's frame; the unit is then charged to the object's lower tier (R238). -/
def State.dropFrame (s : State) (n u : Nat) : State :=
  let o := s.objAt n
  let r := o.unit u
  if r.st = 1 then
    (((s.freePlace r.tier r.loc).discharge o.payer r.tier o.unitBytes).charge o.payer (fLower o.flags) o.unitBytes).setObj n
      (o.setUnit u { r with st := 2, tier := 0, loc := 0, plain := [] })
  else s

/-- Encodes a unit's image into a new frame in the object's lower tier; its old frame is released once the new one is written (R248 step 1). -/
def State.storeUnit (s : State) (n u : Nat) (img : List Byte) : Except Nat State :=
  let o := s.objAt n
  let plain := buildFrame (fCompress o.flags) o.kind n u img
  let old := o.unit u
  match s.framePlace o.keyTenant.toNat (fLower o.flags) plain.length with
  | .error e => .error e
  | .ok (tier, loc) =>
    let ep := (s.ten o.keyTenant.toNat).epoch
    let s1 := (s.takePlace tier loc plain.length).writeFrame tier loc (cipherText o.keyTenant ep (n32 n) (n32 u) plain)
    let s2 := if old.st = 1 then s1.freePlace old.tier old.loc else s1
    let s3 := (s2.discharge o.payer (o.unitTier u) o.unitBytes).charge o.payer tier o.unitBytes
    .ok (s3.setObj n ((s3.objAt n).setUnit u { old with st := 1, tier := tier, loc := loc, plain := plain, epoch := ep }))

/-- The image of a unit in its lower tier: zeros where unwritten, the decoded frame where it has one (R240, R242). -/
def Obj.imageOf (o : Obj) (n u : Nat) : Option (List Byte) :=
  let r := o.unit u
  if r.st = 0 then some (List.replicate o.unitBytes 0)
  else if r.st = 1 then decodeFrame o.kind n u o.unitBytes r.plain
  else none

/-! #### Residency transitions (Table TIER-4) -/

/-- TIER_LOST of an object and a unit (11 Table FALT-1). -/
def State.tierLost (s : State) (n u : Nat) : State := s.log 0x0401 domModule (n64 n) (n64 u) 0 0 { tenant := (s.objAt n).owner }

/-- A demotion runs as far as it can (R248): every unit that must be encoded is, the mappings go, the pages are cleared and released. Where a
lower tier has no room or port it stays DEMOTING. `poison u` tells whether unit u's primary copy, and its mirror, are poisoned. -/
def State.encodeUnits (s : State) (n : Nat) : List Nat → State × Bool
  | [] => (s, true)
  | u :: r =>
    let o := s.objAt n
    let (ps, s1) := s.getImage o.pages (u * o.unitBytes) o.unitBytes
    let (ps2, s2) := if anyPoison ps ∧ fMirror o.flags then s1.getImage o.mirror (u * o.unitBytes) o.unitBytes else (ps, s1)
    if anyPoison ps2 || s.fl.damaged.contains (n32 n, n32 u) then
      let s3 := (s2.dropFrame n u).tierLost n u
      State.encodeUnits (s3.setObj n { (s3.objAt n).setUnit u { (s3.objAt n).unit u with st := 3 } with lostData := true }) n r
    else match s2.storeUnit n u (bytesOf ps2) with
      | .error _ => (s2, false)
      | .ok s3 => State.encodeUnits s3 n r

/-- Units that a demotion encodes: all where the object has a writable page, else the frameless ones (R248 step 1); once the pages are unmapped, those that lost
their frame meanwhile (Table TIER-4). -/
def Obj.toEncode (o : Obj) : List Nat :=
  (List.range o.nUnits).filter fun u =>
    (o.unit u).st ≠ 3 && ((!o.unmapped && o.maps.any fun m => m.attrs.getLsbD 0) || (o.unit u).st = 2)

/-- Steps 2 to 4 of R248: unmap, clear, release. -/
def State.releasePages (s : State) (n : Nat) : State :=
  let o := s.objAt n
  let s1 := (s.clearPages (o.pages ++ o.mirror)).givePages (o.pages ++ o.mirror)
  (s1.discharge o.payer 0 (if o.pages.isEmpty then 0 else o.madderBytes)).setObj n { o with pages := [], mirror := [], onMirror := [], unmapped := false }

/-- Completes every command of a list. -/
def State.finishAll (s : State) (l : List CmdHdr) (status : Nat) : State := l.foldl (fun s h => s.finish h status) s

/-- A promotion starts: charged, pages taken, PROMOTING; or the status it is refused with (R239). -/
def State.startPromotion (s : State) (n : Nat) : Except Nat State :=
  let o := s.objAt n
  if !s.quotaOk o.payer 0 o.madderBytes then .error stQuota
  else match s.takePages o with
    | none => .error stLimit
    | some (used, ps, ms) =>
      let s1 : State := { s with ti := { s.ti with used := used } }
      .ok ((s1.charge o.payer 0 o.madderBytes).setObj n { o with state := 1, pages := ps, mirror := ms })

/-- ABSENT, PROMOTE(c) (Table TIER-4). `h` waits. -/
def State.beginPromotion (s : State) (n : Nat) (h : CmdHdr) (c : W32) : State :=
  match s.startPromotion n with
  | .error e => s.finish h e
  | .ok s1 => s1.setObj n { s1.objAt n with claims := [c], promoter := some c, waiters := [(h, c)] }

/-- The object becomes DEMOTING; its pages stay mapped until every unit has been encoded or lost (R248). -/
def State.beginDemotion (s : State) (n : Nat) : State := s.setObj n { s.objAt n with state := 3, promoter := none, unmapped := false }

/-- Step 2 of R248: the pages are unmapped. -/
def State.unmapCopy (s : State) (n : Nat) : State :=
  let o := { s.objAt n with unmapped := true }
  (s.setObj n o).writeMaps o

/-- A claim goes: the object demotes where none remains (RESIDENT row of Table TIER-4). -/
def State.afterClaim (s : State) (n : Nat) : State :=
  let o := s.objAt n
  if o.live && o.state = 2 && o.noClaims && !fPin o.flags then s.beginDemotion n else s

/-- A module claim is placed (R246): on an ABSENT object it starts the promotion, on a DEMOTING one it is queued, on a LOST one it is not added. -/
def State.modClaim (s : State) (n c : Nat) : State :=
  let o := s.objAt n
  if !o.live ∨ o.state = 4 then s
  else if o.state = 3 then s.setObj n { o with queued := o.queued.filter (· ≠ .module c) ++ [.module c] }
  else if o.state = 0 ∧ !fPin o.flags then
    match s.startPromotion n with
    | .error _ => s
    | .ok s1 => s1.setObj n { s1.objAt n with modClaims := setIns c o.modClaims }
  else s.setObj n { o with modClaims := setIns c o.modClaims }

/-- A module claim is removed. -/
def State.modUnclaim (s : State) (n c : Nat) : State :=
  let o := s.objAt n
  (s.setObj n { o with modClaims := o.modClaims.filter (· ≠ c), queued := o.queued.filter (· ≠ .module c) }).afterClaim n

/-- A unit's frame becomes unreadable (Table TIER-4): ABSENT → LOST with TIER_LOST; other states mark it frameless. -/
def State.frameGone (s : State) (n u : Nat) : State :=
  let s1 := s.dropFrame n u
  let o := s1.objAt n
  if o.state = 0 then (s1.setObj n { o.setUnit u { o.unit u with st := 2 } with state := 4 }).tierLost n u
  else s1.setObj n (o.setUnit u { o.unit u with st := 2 })

/-- A unit's frame is lost with its lot (R253, R254): TIER_LOST is logged in every state. -/
def State.frameLost (s : State) (n u : Nat) : State :=
  let s1 := s.frameGone n u
  if (s.objAt n).state = 0 then s1 else s1.tierLost n u

/-- An object is freed (R248): mappings, pages, frames, charges. -/
def State.freeObject (s : State) (n : Nat) : State :=
  let o := s.objAt n
  let s1 := (s.dropMaps o).releasePages n
  let s2 := (List.range o.nUnits).foldl (fun s u => s.dropFrame n u) s1
  let s3 := if fPin o.flags then s2 else s2.dischargeUnits (s2.objAt n)
  s3.setObj n objInit

end Sys2Proof.Machine
end

