-- ==== Sys2Proof/Machine/Lend.lean ====
section
/-! DEFINITION. Lending Madder (13 R369 to R373): free Madder, offers, grants of pages, recalls, the return of a lot; when this module asks for a
lot. -/
namespace Sys2Proof.Machine

open Sys2Proof

/-- The tile of a Causeway port (00 R12). -/
def cwTile (p : Nat) : Nat := [5, 6, 9, 10, 53, 54, 57, 58].getD p 0

/-- Whether a port's tile is in service, so that its link can train (14 R384). -/
def State.cwUsable (s : State) (p : Nat) : Bool := (s.tileAt (cwTile p)).state ≠ 0 && (s.tileAt (cwTile p)).macroOn

/-- Free 64-KiB pages of a quadrant: those in service, not allocated, not retired. -/
def State.quadFree (s : State) (q : Nat) : Nat :=
  let whole := (List.range 16).all fun i => (s.sub (16 * q + i)).state ≠ 3 && (s.sub (16 * q + i)).banksOut = 0
  if whole then quadPages - ((s.ti.used ++ s.fl.retired).eraseDups.countP fun p => p / quadPages = q)
  else (List.range quadPages).countP fun i => s.pageFree s.ti.used (s.segBank q (i / 1024)) (q * quadPages + i)

/-- Free Madder in whole GiB (15 Table REGS-19). -/
def State.freeGiB (s : State) : Nat := ((List.range 64).map s.quadFree).sum / 16384

/-- Lots lent on a port. -/
def State.lentOn (s : State) (p : Nat) : Nat := s.cw.lent.countP fun l => l.port = p

/-- Lots borrowed on a port. -/
def State.borrowedOn (s : State) (p : Nat) : Nat := s.cw.slot.countP fun l => l.2.state ≠ 0 && l.2.port = p

/-- Lots a port offers: min(lend limit − lots lent, free whole GiB above the reserve) (R369). -/
def State.offerOf (s : State) (p : Nat) : Nat := min ((s.cwAt p).lend - s.lentOn p) (s.freeGiB - s.cw.reserve)

/-- LOT_OFFER on every port that is up whose figure has changed (R369). -/
def State.offers (s : State) : State :=
  (List.range 8).foldl (fun s p =>
    let x := s.cwAt p
    if x.state = 2 ∧ x.lastOffer ≠ s.offerOf p then
      (s.setCw p { x with lastOffer := s.offerOf p }).cwSend p 0 (cwMessage 0x01 0 0 0 0 0 (n32 (s.offerOf p)) [])
    else s) s

/-- Recalls one lot: notice of 50 ms, the lender's own deadline 51 ms from now (R373). -/
def State.recallLot (s : State) (l : Lent) : State :=
  let s1 : State := { s with cw := { s.cw with lent := s.cw.lent.map fun k =>
    if k.lot = l.lot then { k with recalled := true, deadline := s.time + 51000000 } else k } }
  s1.cwSend l.port 0 (cwMessage 0x05 0 0 l.lot 0 0 50000 [])

/-- Recalls the last `n` of a list of lots not yet recalled. -/
def State.recallLast (s : State) (n : Nat) (ls : List Lent) : State := ((ls.reverse.take n)).foldl State.recallLot s

/-- The recalls that lend limits and the reserve ask for (R373). -/
def State.recalls (s : State) : State :=
  let s1 := (List.range 8).foldl (fun s p =>
    let mine := s.cw.lent.filter fun l => l.port = p && !l.recalled
    s.recallLast (mine.length - (s.cwAt p).lend) mine) s
  let coming := s1.cw.lent.countP (·.recalled)
  s1.recallLast (s1.cw.reserve - (s1.freeGiB + coming)) (s1.cw.lent.filter fun l => !l.recalled)

/-- After a change of free Madder or of a limit: recalls, then offers (R369, R373). -/
def State.lendCheck (s : State) : State :=
  if s.cw.lent.isEmpty ∧ !(s.cw.port.any fun p => p.2.state = 2) then s else s.recalls.offers

/-- Squares by distance on the grid from a square, the lower-numbered first among equals (notes/assumptions/47.md). -/
def nearSquares (sq : Nat) : List Nat :=
  (List.range 7).flatMap fun d => (List.range 16).filter fun k =>
    (max (sq % 4) (k % 4) - min (sq % 4) (k % 4)) + (max (sq / 4) (k / 4) - min (sq / 4) (k / 4)) = d

/-- The first `need` free interleaved pages of a quadrant from page i on. -/
def State.freeIn (s : State) (q : Nat) : Nat → Nat → Nat → List Nat → List Nat × Nat
  | 0, _, need, acc => (acc, need)
  | fuel + 1, i, need, acc =>
    if need = 0 then (acc, 0)
    else if s.pageFree s.ti.used false (q * quadPages + i) then State.freeIn s q fuel (i + 1) (need - 1) (acc ++ [q * quadPages + i])
    else State.freeIn s q fuel (i + 1) need acc

/-- 16,384 free pages for a lot granted on a port, nearest squares first (R370). -/
def State.lotPages (s : State) (p : Nat) : Option (List Nat) :=
  let (ps, need) := ((nearSquares (cwTile p / 4)).flatMap fun k => (List.range 4).map fun i => 4 * k + i).foldl
    (fun acc q => s.freeIn q quadPages 0 acc.2 acc.1) ([], 16384)
  if need = 0 then some ps else none

/-- A lot number that is not lent (R368). -/
def State.newLotNo (s : State) : Nat → W32 → W32
  | 0, n => n
  | fuel + 1, n => if s.cw.lent.any fun l => l.lot = n then State.newLotNo s fuel (n + 1) else n

/-- Grants a lot on a port where R369 allows it and the pages are there. -/
def State.grantLot (s : State) (p : Nat) : Option (W32 × State) :=
  if s.lentOn p < (s.cwAt p).lend ∧ s.cw.reserve + 1 ≤ s.freeGiB then
    match s.lotPages p with
    | none => none
    | some ps =>
      let lot := s.newLotNo (s.cw.lent.length + 1) s.cw.nextLot
      some (lot, { s with ti := { s.ti with used := s.ti.used ++ ps },
                          cw := { s.cw with lent := s.cw.lent ++ [⟨lot, p, ps, false, 0⟩], nextLot := lot + 1 } })
  else none

/-- The lot comes back: its pages are cleared and free (R373 step 3; 10 R297). -/
def State.takeBack (s : State) (l : Lent) : State :=
  let s1 : State := { s with cw := { s.cw with lent := s.cw.lent.filter fun k => k.lot ≠ l.lot } }
  (s1.clearPages l.pages).givePages l.pages

/-- The lot is returned: LOT_RELEASED is sent. -/
def State.returnLot (s : State) (l : Lent) : State :=
  ((s.takeBack l).cwSend l.port 0 (cwMessage 0x07 0 0 l.lot 0 0 0 [])).lendCheck

/-! #### Borrowing (R370) -/

/-- Free bytes in GRANTED lots. -/
def State.lotFree (s : State) : Nat :=
  ((s.cw.slot.filter fun l => l.2.state = 1).map fun l => 2 ^ 30 - (l.2.used.map (·.2)).sum).sum

/-- One LOT_REQUEST where the free space in GRANTED lots is below 256 MiB, on the lowest-numbered port that may borrow, whose partner offers, and
that has no request outstanding. -/
def State.wantLot (s : State) : State :=
  if 268435456 ≤ s.lotFree then s
  else
    match (List.range 8).find? fun p =>
        (s.cwAt p).state = 2 && s.borrowedOn p < (s.cwAt p).borrow && 1 ≤ (s.cwAt p).offered with
    | none => s
    | some p =>
      let x := s.cwAt p
      if x.lotReq.isSome then s
      else (s.setCw p { x with lotReq := some x.nextTag, lotReqAt := s.now, nextTag := x.nextTag + 1 }).cwSend p 0 (cwMessage 0x02 0 x.nextTag 0 0 0 1 [])

end Sys2Proof.Machine
end

