-- ==== Sys2Proof/Machine/Streets.lean ====
section
/-! DEFINITION. The streets (01 R20 to R23, R30): the links of the grid, x-then-y routing, the routers' grants, messages on their way. -/
namespace Sys2Proof.Machine

open Sys2Proof

/-- The tile at a column and row of the grid (R20). -/
def tileOf (x y : Nat) : Nat := 4 * (x / 2 + 4 * (y / 2)) + x % 2 + 2 * (y % 2)

/-- How far two coordinates lie apart. -/
def apart (a b : Nat) : Nat := if a ≤ b then b - a else a - b

/-- Whether a streets link joins two tiles: one coordinate differs by one and the other does not (R20). -/
def linked (a b : Nat) : Bool := a < 64 && b < 64 && apart (tileX a) (tileX b) + apart (tileY a) (tileY b) = 1

/-- The tile at the other end of the link at an output port: 0 north, 1 east, 2 south, 3 west. -/
def neighbour (t port : Nat) : Option Nat :=
  let n := match port with
    | 0 => tileOf (tileX t) (tileY t - 1)
    | 1 => tileOf (tileX t + 1) (tileY t)
    | 2 => tileOf (tileX t) (tileY t + 1)
    | _ => tileOf (tileX t - 1) (tileY t)
  if linked t n then some n else none

/-- The output port that a message for `dst` takes at tile t: in x to the destination's column, then in y to its row; 4 where it has arrived (R22). -/
def outPort (t dst : Nat) : Nat :=
  if tileX t < tileX dst then 1 else if tileX dst < tileX t then 3
  else if tileY t < tileY dst then 2 else if tileY dst < tileY t then 0 else 4

/-- The input port behind a link that is left by `port`. -/
def farPort (port : Nat) : Nat := (port + 2) % 4

/-- Messages in the queue of an input port and channel of a tile. -/
def Streets.inQueue (x : Streets) (t port vc : Nat) : List StMsg := x.msgs.filter fun m => m.at_ = t && m.port = port && m.vc = vc

/-- Whether a queue takes one more: a full queue stops its sender and drops nothing (R30). -/
def Streets.room (x : Streets) (t port vc : Nat) : Bool :=
  let n := (x.inQueue t port vc).length
  n = 0 || n ≤ Config.streetsRoom

/-- The input ports whose oldest message of a channel can leave tile t by `out` now. -/
def Streets.asking (x : Streets) (t out vc : Nat) : List Nat :=
  [0, 1, 2, 3, 4].filter fun i =>
    (x.inQueue t i vc).head?.any (fun m => outPort t m.dst = out) && (out = 4 || (neighbour t out).any fun n => x.room n (farPort out) vc)

/-- The first of the ports that ask after the one granted last, in the order north, east, south, west, own tile (notes/assumptions/118.md). -/
def roundRobin (asking : List Nat) (last : Nat) : Option Nat := ([1, 2, 3, 4, 5].map fun i => (last + i) % 5).find? asking.contains

/-- A grant of an output port: the channel, the input port, the message, and whether it passes over bulk. -/
structure StGrant where
  tile : Nat
  out : Nat
  vc : Nat
  port : Nat
  msg : StMsg
  overBulk : Bool

/-- The grant of output port `out` of tile t (R22): the channels in the order response, request, bulk, but bulk after 16 grants in a row that passed over it;
within a channel round-robin. -/
def Streets.grant (x : Streets) (t out : Nat) : Option StGrant :=
  let bulk := !(x.asking t out 2).isEmpty
  let vc := if bulk && 16 ≤ tget (fun _ => 0) x.passed (5 * t + out) then some 2 else [0, 1, 2].find? fun v => !(x.asking t out v).isEmpty
  vc.bind fun v => (roundRobin (x.asking t out v) (tget (fun _ => 4) x.last (3 * (5 * t + out) + v))).bind fun i =>
    (x.inQueue t i v).head?.map fun m => ⟨t, out, v, i, m, bulk && v ≠ 2⟩

/-- A granted message crosses its link, or leaves the streets at its destination. -/
def Streets.apply (x : Streets) (g : StGrant) : Streets :=
  let rest := x.msgs.filter fun m => m.id ≠ g.msg.id
  { x with msgs := if g.out = 4 then rest else (neighbour g.tile g.out).elim rest fun n => rest ++ [{ g.msg with at_ := n, port := farPort g.out }],
           last := tput (fun _ => 4) x.last (3 * (5 * g.tile + g.out) + g.vc) g.port,
           passed := tput (fun _ => 0) x.passed (5 * g.tile + g.out)
             (if g.overBulk then tget (fun _ => 0) x.passed (5 * g.tile + g.out) + 1 else 0) }

/-- One cycle: every output port of every router grants one message. -/
def Streets.tick (x : Streets) : Streets :=
  let gs := ((List.range 64).filter fun t => x.msgs.any fun m => m.at_ = t).flatMap fun t => [0, 1, 2, 3, 4].filterMap fun o => x.grant t o
  gs.foldl Streets.apply x

/-- The streets run until message `id` has arrived; each cycle moves some message a hop, and no route has more than 14 hops (R24). -/
def Streets.run (id : Nat) : Nat → Streets → Streets
  | 0, x => x
  | n + 1, x => if x.msgs.any fun m => m.id = id then Streets.run id n x.tick else x

/-- A message enters at its source's router. -/
def Streets.send (x : Streets) (src dst vc : Nat) : Streets :=
  { x with msgs := x.msgs ++ [⟨x.nextId, src, dst, vc, src, 4⟩], nextId := x.nextId + 1 }

/-- Sends a message between two tiles. -/
def State.sendMsg (s : State) (src dst vc : Nat) : State := { s with str := s.str.send src dst vc }

/-- Time passes until a message has arrived. -/
def State.carryMsg (s : State) (id : Nat) : State := { s with str := Streets.run id (15 * s.str.msgs.length) s.str }

/-- A message goes from one tile to another and arrives; within a tile none is needed. -/
def State.travel (s : State) (src dst vc : Nat) : State := if src = dst then s else (s.sendMsg src dst vc).carryMsg s.str.nextId

end Sys2Proof.Machine
end

