-- ==== Sys2Proof/Machine/Counters.lean ====
section
/-! DEFINITION. Signal counters and watches (07): signals, watch evaluation, fires, registrations, cancellations, control-core operations. -/
namespace Sys2Proof.Machine

open Sys2Proof

def ctrInit : Ctr := ⟨0, false, false, false, false⟩
def ctrD : Nat → Ctr := fun _ => ctrInit

def State.ctrAt (s : State) (c : Nat) : Ctr := tget ctrD s.sy.ctr c
def State.setCtr (s : State) (c : Nat) (x : Ctr) : State := { s with sy := { s.sy with ctr := tput ctrD s.sy.ctr c x } }

/-- Whether the block of counter c is STRICT (R208). -/
def State.strict (s : State) (c : Nat) : Bool := (s.tileAt (c / 4096)).strict.getLsbD (c % 4096 / 256)

/-- Whether counter c is lost: its tile has left service (R227). Nothing reaches it. -/
def State.ctrGone (s : State) (c : Nat) : Bool := (s.tileAt (c / 4096)).state = 0

/-- The threshold in force: any threshold is 1 on a FLAG counter (R215). -/
def threshold (c : Ctr) (w : WatchReq) : Nat := if c.flag then 1 else w.threshold.toNat

/-- The message word of a fire (Table SYNC-1): `count` is the count at the fire, before a subtraction. -/
def messageWord (s : State) (w : WatchReq) (c : Ctr) : W64 :=
  BitVec.ofNat 64 (packFields [(c.count.toNat, 32), (w.ctr.val, 18), (b2n w.consume, 1), (b2n c.coalesced, 1), (b2n (!s.strict w.ctr), 1)])

/-- Whether a watch belongs to the program that thread t runs now. -/
def State.ownWatch (s : State) (t : Nat) (w : WatchReq) : Bool :=
  match w.owner with
  | .thread i l => i.val == t && l == (s.thrAt t).life
  | _ => false

/-- Wakes on their way to the program that thread t runs now. -/
def State.ownWakes (s : State) (t : Nat) : List WakeMsg :=
  s.sy.wakes.filter fun m => match m.target, m.owner with
    | .thread _, .thread i l => i.val == t && l == (s.thrAt t).life
    | _, _ => false

/-- Watches a thread holds: registered, queued or armed, or fired and not yet returned by WAIT (R216). -/
def State.watchesOf (s : State) (t : Nat) : Nat :=
  (s.sy.regs ++ s.sy.queued ++ s.sy.armed).countP (s.ownWatch t) + (s.ownWakes t).length + (s.thrAt t).fired.length

/-- Threads that waited to hold one watch fewer go on (R216). -/
def State.fewerWatches (s : State) : State := s.wakeFor fun i b => b == .watches && decide (s.watchesOf i < 4)

/-- A fire leaves the counter's tile for its target (R220). -/
def State.fire (s : State) (w : WatchReq) (c : Ctr) : State :=
  let consumed : W32 := if w.consume then BitVec.ofNat 32 (threshold c w) else 0
  match w.target with
  | .thread _ => { s with sy := { s.sy with wakes := s.sy.wakes ++ [⟨w.target, w.owner, w.ctr, consumed⟩] } }
  | .chan _ => ({ s with sy := { s.sy with wakes := s.sy.wakes ++ [⟨w.target, w.owner, w.ctr, consumed⟩] } } : State).fewerWatches
  | .msg t off => ({ s with sy := { s.sy with stores := s.sy.stores ++ [⟨t, off, messageWord s w c⟩] } } : State).fewerWatches
  | .core t => { s with sy := { s.sy with fw := tput (fun _ => []) s.sy.fw t (tget (fun _ => []) s.sy.fw t ++ [messageWord s w c]) } }

/-- Removes the first watch equal to `w`. -/
def disarm (l : List WatchReq) (w : WatchReq) : List WatchReq := l.erase w

/-- Every armed OBSERVE watch whose threshold is at most the count fires (R218 step 1). -/
def State.fireObserve (s : State) (c : Nat) : State :=
  let x := s.ctrAt c
  (s.sy.armed.filter fun w => w.ctr.val = c && !w.consume && threshold x w ≤ x.count.toNat).foldl (fun s w =>
    ({ s with sy := { s.sy with armed := disarm s.sy.armed w } }).fire w x) s

/-- While the oldest CONSUME watch has a threshold at most the count, it fires and its threshold is subtracted (R218 step 2). -/
def State.fireConsume (c : Nat) : Nat → State → State
  | 0, s => s
  | n + 1, s =>
    let x := s.ctrAt c
    match s.sy.armed.find? fun w => w.ctr.val = c && w.consume with
    | none => s
    | some w =>
      if threshold x w ≤ x.count.toNat then
        State.fireConsume c n ((({ s with sy := { s.sy with armed := disarm s.sy.armed w } }).fire w x).setCtr c
          { x with count := x.count - BitVec.ofNat 32 (threshold x w) })
      else s

/-- Watch evaluation (R218). -/
def State.evaluate (s : State) (c : Nat) : State :=
  let s1 := s.fireObserve c
  State.fireConsume c s1.sy.armed.length s1

/-! #### Operations on their way (R210) -/

/-- What a cancellation names. -/
def selects (sel : CancelSel) (w : WatchReq) : Bool :=
  match sel with
  | .one v => w = v
  | .thread t l => w.owner = .thread t l
  | .block t k => w.ctr.val / 256 = 16 * t.val + k.val

/-- Hops between two tiles. -/
def hops (a b : Nat) : Nat := apart (tileX a) (tileX b) + apart (tileY a) (tileY b)

/-- A source of operations: its kind and number, the tile it is on, whether it is a control core. -/
structure OpSource where
  kind : Nat
  idx : Nat
  tile : Nat
  core : Bool
deriving DecidableEq, Repr

def sigSource : SigSrc → OpSource
  | .thread t _ _ => ⟨0, t, t.val / 2048, false⟩
  | .acopy t => ⟨1, t, t.val / 2048, false⟩
  | .array a => ⟨2, a, a.val / 2, false⟩
  | .bank u => ⟨3, u, u.val / 32, false⟩
  | .chan c => ⟨4, c, c.val / 32, false⟩
  | .exit t => ⟨0, t, t.val / 2048, false⟩
  | .core t => ⟨5, t, t, true⟩
  | .host .A => ⟨6, 0, 0, false⟩
  | .host .B => ⟨6, 1, 3, false⟩

def ownerSource : WatchBy → OpSource
  | .thread t _ => ⟨0, t, t.val / 2048, false⟩
  | .chan c _ => ⟨4, c, c.val / 32, false⟩
  | .core t => ⟨5, t, t, true⟩

def CtrOp.source : CtrOp → OpSource
  | .sig m => sigSource m.src
  | .reg r => ownerSource r.owner
  | .cancel (.one w) => ownerSource w.owner
  | .cancel (.thread t _) => ⟨0, t, t.val / 2048, false⟩
  | .cancel (.block t _) => ⟨5, t, t, true⟩

/-- The counters that an operation reaches. -/
def Sync.reaches (y : Sync) : CtrOp → List Nat
  | .sig m => [m.ctr.val]
  | .reg r => [r.ctr.val]
  | .cancel sel => ((y.armed ++ y.queued ++ y.regs).filter (selects sel)).map (·.ctr.val)

/-- The place of an operation among those that reach a counter of tile t in one SCLK cycle: control cores, the tile itself, then the ports north, east, south and
west, the network routing x before y as the streets do (R210; notes/assumptions/128.md). -/
def OpSource.rank (o : OpSource) (t : Nat) : Nat :=
  if o.core then 0 else if o.tile = t then 1
  else if tileY o.tile < tileY t then 2 else if tileY t < tileY o.tile then 4 else if tileX t < tileX o.tile then 3 else 5

/-- The SCLK cycle in which an operation reaches tile t, but for the crossing, which takes as long from every source (Table SYNC-2, Table ARCH-4). -/
def SentOp.cycle (o : SentOp) (t : Nat) : Nat := o.sent.toNat + hops o.op.source.tile t

/-- Whether an operation is a cancellation: two of them have the same effect in either order. -/
def CtrOp.cancels : CtrOp → Bool
  | .cancel _ => true
  | _ => false

/-- Whether operation `a` is performed on counter c before operation `b`: sent earlier by the same source, or of the same cycle and ahead of it in R210's order. -/
def precedes (a b : SentOp) (earlier : Bool) (c : Nat) : Bool :=
  (earlier && a.op.source = b.op.source) ||
    (!(a.op.cancels && b.op.cancels) && a.cycle (c / 4096) = b.cycle (c / 4096) && a.op.source.rank (c / 4096) < b.op.source.rank (c / 4096))

/-- The place of the oldest operation on its way that is `o`. -/
def Sync.findOp (y : Sync) (o : CtrOp) : Option Nat := y.ops.findIdx? fun a => a.op = o

/-- Whether an operation that has been sent may be performed: nothing on its way to one of its counters goes before it (R210). One that is not among them is a control
core's own, performed as it is sent. -/
def Sync.mayPerform (y : Sync) (o : CtrOp) : Bool :=
  match y.findOp o with
  | none => o.source.core
  | some k =>
    let b := y.ops.getD k ⟨o, 0⟩
    (y.reaches o).all fun c => (List.range y.ops.length).all fun i =>
      let a := y.ops.getD i b
      i = k || !((y.reaches a.op).contains c) || !precedes a b (decide (i < k)) c

/-- The operation is no longer on its way. -/
def State.opArrived (s : State) (o : CtrOp) : State := { s with sy := { s.sy with ops := s.sy.ops.eraseP fun a => a.op = o } }

/-! #### Signals (R211 to R214) -/

/-- What a signal does to a counter. -/
inductive SigEffect where
  | nothing
  | set (x : Ctr)
  | error (ovr : Bool)
deriving DecidableEq, Repr

def signalEffect (x : Ctr) (strict : Bool) (amount : W32) : SigEffect :=
  let a := amount.toInt
  let new := (x.count.toNat : Int) + a
  if a = 0 then .nothing
  else if x.flag ∧ 0 < a then .set { x with count := 1, coalesced := x.coalesced || decide (1 < new) }
  else if 0 ≤ new ∧ new ≤ 4294967295 then .set { x with count := BitVec.ofInt 32 new }
  else if strict then .error (0 < new)
  else if new < 0 then .set { x with count := 0, under := true }
  else .set { x with count := 0xFFFFFFFF, ovr := true }

/-- A source as the SYNC records carry it (notes/assumptions/36.md): kind in bits [39:32], index below. -/
def srcWord : SigSrc → W64
  | .thread t _ _ => n64 t.val
  | .acopy t => n64 (0x100000000 + t.val)
  | .array a => n64 (0x200000000 + a.val)
  | .bank u => n64 (0x300000000 + u.val)
  | .chan c => n64 (0x400000000 + c.val)
  | .exit t => n64 (0x500000000 + t.val)
  | .core t => n64 (0x600000000 + t.val)
  | .host p => n64 (0x700000000 + (match p with | .A => 0 | .B => 1))

def chanInit : Chan := ⟨0, 0, 0, 0, [], false, none, false, false, 0, [], 0, 0, false, 0, [], none⟩
def chanD : Nat → Chan := fun _ => chanInit

def State.chanAt (s : State) (c : Nat) : Chan := tget chanD s.dm.chan c
def State.setChan (s : State) (c : Nat) (x : Chan) : State := { s with dm := { s.dm with chan := tput chanD s.dm.chan c x } }

/-! The descriptor of a DMA channel (08 Table TIER-7). -/

def dmOp (d : List Byte) : Nat := leAt d 0 1
def dmTrigger (d : List Byte) : Nat := leAt d 1 1
def dmTindex (d : List Byte) : Nat := leAt d 2 1
def dmFlags (d : List Byte) : Nat := leAt d 3 1
def dmPriority (d : List Byte) : Nat := leAt d 4 1
def dmClass (d : List Byte) : Nat := leAt d 5 1
def dmSrcKind (d : List Byte) : Nat := leAt d 6 1
def dmDstKind (d : List Byte) : Nat := leAt d 7 1
def dmSrc (d : List Byte) : Nat := leAt d 8 8
def dmDst (d : List Byte) : Nat := leAt d 16 8
def dmLen (d : List Byte) : Nat := leAt d 24 4
def dmCounter (d : List Byte) : Nat := leAt d 28 4
def dmTcounter (d : List Byte) : Nat := leAt d 32 4
def dmThreshold (d : List Byte) : Nat := leAt d 36 4
def dmTenant (d : List Byte) : Nat := leAt d 40 2
def dmUkind (d : List Byte) : Nat := leAt d 42 1
def dmObject (d : List Byte) : Nat := leAt d 44 4
def dmUnit (d : List Byte) : Nat := leAt d 48 4
def dmFlen (d : List Byte) : Nat := leAt d 52 4
def dmNext (d : List Byte) : Nat := leAt d 56 4
def dmStatus (d : List Byte) : Nat := leAt d 60 4

/-- Counter of doorbell d (12 R345). -/
def doorCtr (d : Nat) : Nat := (if d < 128 then 0 else 3) * 4096 + 0xF00 + d % 128

/-- The trigger watch of a descriptor, the `life`th of channel c, for counter and doorbell triggers (08 R258). -/
def triggerWatch (c life : Nat) (d : List Byte) : Option WatchReq :=
  match dmTrigger d with
  | 3 => some ⟨ctrId (dmTcounter d), n32 (dmThreshold d), bitAt (dmFlags d) 1, .chan (chanId c), .chan (chanId c) life⟩
  | 4 => some ⟨ctrId (doorCtr (dmTindex d)), 1, true, .chan (chanId c), .chan (chanId c) life⟩
  | _ => none

/-- The trigger watch of a descriptor that has ended ARMED is cancelled (R216). -/
def State.cancelTrigger (s : State) (c : Nat) (x : Chan) : State :=
  if x.state = 1 then (triggerWatch c x.life x.desc).elim s fun w => s.sendOp (.cancel (.one w)) else s

/-- A completion signal of channel c met an error (R214, 08 Table TIER-8): its chain stops with SYNC, which its last status record names,
and a trigger watch of a descriptor that had become current meanwhile is cancelled (R216). -/
def State.chanSyncError (s : State) (c : ChanId) : State :=
  let x := s.chanAt c
  let s1 := (s.setChan c { x with state := 3, code := 8, started := false, ended := none }).weldWrite (c.val / 32) x.statusAt [8] false
  (s1.cancelTrigger c x).wakeFor fun _ b => b == .chan c.val

/-- The log and the report of a STRICT error (R214). -/
def State.signalError (s : State) (m : SignalMsg) (ovr : Bool) : State :=
  let s1 := s.detect (if ovr then 0x0206 else 0x0205) (domOf .tile (m.ctr.val / 4096)) (n64 m.ctr.val) (m.amount.signExtend 64)
    ((s.ctrAt m.ctr).count.setWidth 64) (srcWord m.src)
  match m.src with
  | .thread t pc life => { s1 with sy := { s1.sy with errs := s1.sy.errs ++ [⟨t, life, pc, ovr⟩] } }
  | .chan c => s1.chanSyncError c
  | _ => s1

/-- Whether a signal comes from a doorbell: one that would overflow is discarded in either mode (12 R345). -/
def fromHost : SigSrc → Bool
  | .host _ => true
  | _ => false

/-- A signal reaches its counter (R211 to R214). -/
def State.applySignal (s : State) (m : SignalMsg) : State :=
  if s.ctrGone m.ctr then s else match signalEffect (s.ctrAt m.ctr) (s.strict m.ctr || fromHost m.src) m.amount with
  | .nothing => s
  | .set x => (s.setCtr m.ctr x).evaluate m.ctr
  | .error ovr => s.signalError m ovr

/-- COUNTER_SIGNAL (R210, R211): the signal is performed once nothing goes before it. -/
def execCounterSignal (m : SignalMsg) (s : State) : Host.Outcome State Fault Refusal :=
  if s.sy.mayPerform (.sig m) then .next ((s.opArrived (.sig m)).applySignal m) else .next s

/-! #### Slots and registrations (R216, R217) -/

def poolOf : WatchBy → WatchPool
  | .thread .. => .thread
  | .chan .. => .dma
  | .core _ => .core

def poolSize : WatchPool → Nat
  | .thread => 7680
  | .dma => 256
  | .core => 256

/-- Watch slots of a pool in use on a tile. -/
def State.poolUsed (s : State) (t : Nat) (p : WatchPool) : Nat :=
  s.sy.armed.countP fun w => w.ctr.val / 4096 = t && poolOf w.owner = p

/-- A registration takes a slot, its thread may go on, and the counter evaluates its watches (R217, R218). -/
def State.takeSlot (s : State) (r : WatchReq) : State :=
  let s1 := ({ s with sy := { s.sy with armed := s.sy.armed ++ [r] } }).evaluate r.ctr
  s1.wakeFor fun i b => s1.ownWatch i r && b == .watch r.ctr

/-- WATCH_REGISTRATION (R210, R216, R218): it takes a free slot of its pool that no earlier registration waits for, or queues. -/
def execWatchRegistration (r : WatchReq) (s : State) : Host.Outcome State Fault Refusal :=
  if !s.sy.mayPerform (.reg r) then .next s
  else
    let s1 := s.opArrived (.reg r)
    let t := r.ctr.val / 4096
    let p := poolOf r.owner
    if s.ctrGone r.ctr then .next s1
    else if s1.poolUsed t p < poolSize p ∧ !(s1.sy.queued.any fun q => q.ctr.val / 4096 = t && poolOf q.owner = p) then .next (s1.takeSlot r)
    else .next { s1 with sy := { s1.sy with queued := s1.sy.queued ++ [r] } }

/-- WATCH_SLOT_GRANT (R216): the oldest queued registration of the pool takes a free slot. -/
def execWatchSlotGrant (t : TileId) (p : WatchPool) (s : State) : Host.Outcome State Fault Refusal :=
  match s.sy.queued.find? fun r => r.ctr.val / 4096 = t.val && poolOf r.owner = p with
  | none => .next s
  | some r =>
    if s.poolUsed t p < poolSize p then .next (({ s with sy := { s.sy with queued := s.sy.queued.erase r } }).takeSlot r) else .next s

/-- The armed and the queued watches that a cancellation leaves: a single watch named is the oldest that fits. -/
def Sync.without (y : Sync) (sel : CancelSel) : List WatchReq × List WatchReq :=
  match sel with
  | .one w => if y.armed.contains w then (y.armed.erase w, y.queued) else (y.armed, y.queued.erase w)
  | _ => (y.armed.filter fun w => !selects sel w, y.queued.filter fun w => !selects sel w)

/-- WATCH_CANCEL (R210, R222): the cancellation reaches its counters and frees the slots; a watch that had fired keeps its effect. A thread that
waited to hold one watch fewer may go on (R216). One that no thread or channel sent is a control core's. -/
def execWatchCancel (sel : CancelSel) (s : State) : Host.Outcome State Fault Refusal :=
  if (s.sy.findOp (.cancel sel)).isSome && !s.sy.mayPerform (.cancel sel) then .next s
  else
    let s1 := s.opArrived (.cancel sel)
    let (armed, queued) := s1.sy.without sel
    .next ({ s1 with sy := { s1.sy with armed := armed, queued := queued } } : State).fewerWatches

/-- COUNTER_WRITE (R223). -/
def execCounterWrite (c : CtrId) (v : W32) (s : State) : Host.Outcome State Fault Refusal :=
  if s.ctrGone c then .next s else .next ((s.setCtr c { s.ctrAt c with count := v }).evaluate c)

/-- COUNTER_MODE_SET (R209, R212). -/
def execCounterModeSet (c : CtrId) (op : ModeOp) (s : State) : Host.Outcome State Fault Refusal :=
  let x := s.ctrAt c
  if s.ctrGone c then .next s else match op with
  | .setFlag f => .next (s.setCtr c { x with flag := f })
  | .clear a b d => .next (s.setCtr c { x with coalesced := x.coalesced && !a, under := x.under && !b, ovr := x.ovr && !d })

/-- WATCH_MESSAGE_STORE (R220): an 8-byte store straight to the Weld port. -/
def execWatchMessageStore (m : StoreMsg) (s : State) : Host.Outcome State Fault Refusal :=
  .next (({ s with sy := { s.sy with stores := s.sy.stores.erase m } }).weldWrite m.tile m.off (toBytes 8 m.word.toNat) false)

end Sys2Proof.Machine
end

