-- ==== Sys2Proof/Machine/ThreadCode.lean ====
section
/-! DEFINITION. The encoding of thread instructions (06 R176, R177, Tables TILE-4 and TILE-5): the fields of a word, its opcode, and the command that it
stands for. -/
namespace Sys2Proof.Machine

open Sys2Proof

/-- Bits [hi:lo] of an instruction word. -/
def fld (w : W32) (hi lo : Nat) : Nat := bitsOf w.toNat hi lo

/-! #### The formats (Table TILE-4) -/

def regF (w : W32) : RegF := ⟨BitVec.ofNat 5 (fld w 25 21), BitVec.ofNat 5 (fld w 20 16), BitVec.ofNat 5 (fld w 15 11), BitVec.ofNat 11 (fld w 10 0)⟩
def immF (w : W32) : ImmF := ⟨BitVec.ofNat 5 (fld w 25 21), BitVec.ofNat 5 (fld w 20 16), BitVec.ofNat 16 (fld w 15 0)⟩
def memF (w : W32) : MemF :=
  ⟨BitVec.ofNat 5 (fld w 25 21), BitVec.ofNat 5 (fld w 20 16), BitVec.ofNat 3 (fld w 15 13), BitVec.ofNat 2 (fld w 12 11), BitVec.ofNat 11 (fld w 10 0)⟩
def brF (w : W32) : BrF := ⟨BitVec.ofNat 5 (fld w 25 21), w.getLsbD 20, BitVec.ofNat 20 (fld w 19 0)⟩
def sysF (w : W32) : SysF := ⟨BitVec.ofNat 5 (fld w 25 21), BitVec.ofNat 5 (fld w 20 16), BitVec.ofNat 16 (fld w 15 0)⟩
def vecF (w : W32) : VecF :=
  ⟨BitVec.ofNat 4 (fld w 25 22), BitVec.ofNat 4 (fld w 21 18), BitVec.ofNat 4 (fld w 17 14), BitVec.ofNat 5 (fld w 13 9), BitVec.ofNat 3 (fld w 8 6),
    BitVec.ofNat 6 (fld w 5 0)⟩

/-- The instruction that a word is on thread t, by its opcode (Table TILE-5); none where the opcode is reserved. -/
def threadCode (t : ThrId) (w : W32) : Option Instr :=
  match fld w 31 26 with
  | 0x01 => some (.add t (regF w))
  | 0x02 => some (.sub t (regF w))
  | 0x03 => some (.mul t (regF w))
  | 0x04 => some (.mulh t (regF w))
  | 0x05 => some (.div t (regF w))
  | 0x06 => some (.and t (regF w))
  | 0x07 => some (.or t (regF w))
  | 0x08 => some (.xor t (regF w))
  | 0x09 => some (.shift t (regF w))
  | 0x0A => some (.cmp t (regF w))
  | 0x0B => some (.minmax t (regF w))
  | 0x0C => some (.addi t (immF w))
  | 0x0D => some (.andi t (immF w))
  | 0x0E => some (.ori t (immF w))
  | 0x0F => some (.xori t (immF w))
  | 0x10 => some (.movk t (immF w))
  | 0x11 => some (.bits t (regF w))
  | 0x12 => some (.fadd t (regF w))
  | 0x13 => some (.fmul t (regF w))
  | 0x14 => some (.ffma t (regF w))
  | 0x15 => some (.fdiv t (regF w))
  | 0x16 => some (.fcmp t (regF w))
  | 0x17 => some (.fcvt t (regF w))
  | 0x18 => some (.vadd t (vecF w))
  | 0x19 => some (.vsub t (vecF w))
  | 0x1A => some (.vmul t (vecF w))
  | 0x1B => some (.vfma t (vecF w))
  | 0x1C => some (.vminmax t (vecF w))
  | 0x1D => some (.vlogic t (vecF w))
  | 0x1E => some (.vshift t (vecF w))
  | 0x1F => some (.vred t (vecF w))
  | 0x20 => some (.vbcast t (vecF w))
  | 0x21 => some (.vget t (vecF w))
  | 0x22 => some (.vput t (vecF w))
  | 0x23 => some (.vcvt t (vecF w))
  | 0x24 => some (.vq8 t (vecF w))
  | 0x25 => some (.vfn t (vecF w))
  | 0x26 => some (.vcmp t (vecF w))
  | 0x27 => some (.vdot8 t (vecF w))
  | 0x28 => some (.ld t (memF w))
  | 0x29 => some (.st t (memF w))
  | 0x2A => some (.vld t (memF w))
  | 0x2B => some (.vst t (memF w))
  | 0x2C => some (.atom t (regF w))
  | 0x2D => some (.cas t (regF w))
  | 0x2E => some (.acopy t (regF w))
  | 0x2F => some (.cflush t (regF w))
  | 0x30 => some (if w.getLsbD 0 then .fenceDev t (sysF w) else .fenceSq t (sysF w))
  | 0x31 => some (.br t (brF w))
  | 0x32 => some (.jal t (brF w))
  | 0x33 => some (.jr t (regF w))
  | 0x34 => some (.exit t (sysF w))
  | 0x35 => some (.sread t (sysF w))
  | 0x38 => some (.signal t (sysF w))
  | 0x39 => some (.watch t (sysF w))
  | 0x3A => some (.wait t (sysF w))
  | 0x3C => some (.dmaKick t (sysF w))
  | 0x3D => some (.arrayIssue t (sysF w))
  | 0x3E => some (.bankIssue t (sysF w))
  | _ => none

end Sys2Proof.Machine
end

