-- ==== Sys2Proof/Machine/Threads.lean ====
section
/-! DEFINITION. Threads (06): issue of an instruction with its fetch, encoding and operand tests; thread faults; outstanding accesses and
what unblocks a thread. -/
namespace Sys2Proof.Machine

open Sys2Proof

/-- Tile of a thread. -/
def thrTile (t : Nat) : Nat := t / 2048

/-- A thread fault (R181): the thread is FAULTED with the pc on the instruction, and THREAD_FAULT is logged. -/
def State.thrFaultAt (s : State) (t code : Nat) (pc : W64) (va : Nat) : State :=
  (s.detect 0x0204 (domOf .tile (thrTile t)) (n64 code) pc (n64 (t % 2048)) (n64 va)).setThr t
    { s.thrAt t with st := .faulted, blk := .none, fault := code, pc := pc }

def State.thrFault (s : State) (t code va : Nat) : State := s.thrFaultAt t code (s.thrAt t).pc va

/-- The thread is BLOCKED on the instruction at its pc (R169). -/
def State.block (s : State) (t : Nat) (b : Blk) : State := s.setThr t { s.thrAt t with st := .blocked, blk := b }

/-- The register an outstanding access writes. -/
def AccOp.dest : AccOp → Option Nat
  | .load r _ => some r
  | .store _ => none
  | .atom _ _ r => r
  | .cas _ _ r => r

/-- Registers that outstanding accesses have still to write. -/
def Thr.awaited (x : Thr) : List Nat := x.outs.filterMap fun a => a.op.dest

/-- The word at a physical address of code as it stands: the line in its home slice, else the array; Weld (R189). -/
def State.codeWord (s : State) (pa : Nat) : W32 :=
  BitVec.ofNat 32 <| ofBytes <|
    if isWeld pa then (s.tileAt (weldTile pa)).weldRead (weldOff pa) 4
    else match s.plazaGet pa with
      | some l => (l.data.drop (pa % 64)).take 4
      | none => s.dr.readPos (s.place pa).pos 4

/-- The instruction fetch at the pc: alignment, page (R182, R184), then the word. -/
def State.fetch (s : State) (t : Nat) (x : Thr) : Except Nat W32 :=
  if x.pc.toNat % 4 ≠ 0 then .error fAlign
  else match s.translate x (thrTile t) false .fetch x.pc.toNat with
    | .error c => .error c
    | .ok (pa, _) => .ok (s.codeWord pa)

/-- The fault of a fetch. -/
def State.fetchFault (s : State) (t : Nat) (x : Thr) : Option Nat := match s.fetch t x with | .error c => some c | .ok _ => none

/-- What stands at the thread's pc: an instruction, or none where its opcode is reserved. -/
def State.instrAt (s : State) (t : ThrId) : Option Instr := match s.fetch t (s.thrAt t) with | .error _ => none | .ok w => threadCode t w

/-! #### The turn of a processor's threads (R171) -/

/-- The thread, within its processor, that processor p issued from last: 63 at reset, so that thread 0 comes first (notes/assumptions/119.md). -/
def State.lastIssued (s : State) (p : Nat) : Nat := tget (fun _ => 63) s.th.last p

/-- Whether thread t is the first READY thread of its processor in ascending number after the one that issued last, wrapping from 63 to 0. -/
def State.turn (s : State) (t : Nat) : Bool :=
  let p := t / 64
  let l := s.lastIssued p
  (s.thrAt t).st = .ready && (List.range ((t % 64 + 127 - l) % 64)).all fun i => decide ((s.thrAt (64 * p + (l + 1 + i) % 64)).st ≠ .ready)

/-- Thread t is the one that its processor issued from. -/
def State.issued (s : State) (t : Nat) : State := { s with th := { s.th with last := tput (fun _ => 63) s.th.last (t / 64) (t % 64) } }

/-- Issue of the instruction `c` (R169, R171, R176, R181): the thread whose turn it is issues what stands at its pc; a fetch that fails faults; a reserved
opcode, or an encoding that breaks R176, faults with ILLEGAL; a register of `regs` that an earlier access has still to write blocks the thread;
else the instruction acts. -/
def State.onIssue (s : State) (c : Instr) (t : ThrId) (regs : List Nat) (legal : Bool) (act : Thr → State) : State :=
  let x := s.thrAt t
  if !s.turn t then s
  else match s.fetch t x with
    | .error f => (s.thrFault t f x.pc.toNat).issued t
    | .ok w =>
      match threadCode t w with
      | none => (s.thrFault t fIllegal 0).issued t
      | some k =>
        if k ≠ c then s
        else if !legal then (s.thrFault t fIllegal 0).issued t
        else if regs.any fun r => r ≠ 0 && x.awaited.contains r then
          (s.block t (.regs (regs.filter fun r => r ≠ 0 && x.awaited.contains r))).issued t
        else (act x).issued t

/-- Issue of an instruction that only changes its thread. -/
def State.onRegs (s : State) (c : Instr) (t : ThrId) (regs : List Nat) (legal : Bool) (act : Thr → Thr) : State :=
  s.onIssue c t regs legal fun x => s.setThr t (act x).next

def r5 (r : BitVec 5) : Nat := r.toNat

/-! #### Outstanding accesses (R172, R193 to R198) -/

def AccOp.isStore : AccOp → Bool
  | .store _ => true
  | _ => false

/-- Whether the access is homed in the thread's square: Madder of its stack, Weld of its tile (R198). -/
def Acc.inSquare (a : Acc) (t : Nat) : Bool :=
  if isWeld a.pa then weldTile a.pa = thrTile t else a.pa / 2 ^ 36 = thrTile t / 4

/-- Accesses of a fence's scope still outstanding: 1 square, 2 device. -/
def Thr.pendingScope (x : Thr) (t scope : Nat) : Bool :=
  match scope with
  | 0 => false
  | 1 => x.outs.any fun a => a.inSquare t
  | _ => !x.outs.isEmpty

/-- Whether what a BLOCKED thread waits for among its own accesses has come. -/
def Thr.freed (x : Thr) (t : Nat) : Bool :=
  match x.blk with
  | .regs rs => !rs.any fun r => x.awaited.contains r
  | .limit true => x.outs.countP (fun a => a.op.isStore) < 16
  | .limit false => x.outs.countP (fun a => !a.op.isStore) < 8
  | .fenceSq => !x.pendingScope t 1
  | .fenceDev => x.outs.isEmpty
  | _ => false

/-- The thread goes on if it may. -/
def Thr.settle (x : Thr) (t : Nat) : Thr := if x.st = .blocked ∧ x.freed t then { x with st := .ready, blk := .none } else x

/-- The tile that performs an access: that of the Weld, or the one whose slice or controller serves the address (R189, R192). -/
def State.accHome (s : State) (pa : Nat) : Nat := if isWeld pa then weldTile pa else s.homeTile pa

/-- Issue of an access: it becomes outstanding unless it would exceed the limits of R172. Its request goes to another tile over the streets (01 R19, R22). -/
def State.pushAcc (s : State) (t : Nat) (x : Thr) (a : Acc) : State :=
  let full := if a.op.isStore then 16 ≤ x.outs.countP (fun a => a.op.isStore) else 8 ≤ x.outs.countP (fun a => !a.op.isStore)
  let home := s.accHome a.pa
  if full then s.block t (.limit a.op.isStore)
  else if home = thrTile t then s.setThr t { x with outs := x.outs ++ [a] }.next
  else (s.sendMsg (thrTile t) home 1).setThr t { x with outs := x.outs ++ [{ a with msg := some s.str.nextId }] }.next

/-- Whether the k-th outstanding access may be performed now: no earlier acquire, no earlier access to its bytes, and nothing earlier at all
for a release (R196, R197). -/
def Thr.mayPerform (x : Thr) (k : Nat) : Bool :=
  match x.outs[k]? with
  | none => false
  | some a =>
    if a.order.rel then k = 0
    else (x.outs.take k).all fun b => !b.order.acq && (b.pa + b.size ≤ a.pa || a.pa + a.size ≤ b.pa)

/-- The new value of an atomic (R193): 0 ADD, 1 FADD, 2 MIN, 3 MAX, 4 MINU, 5 MAXU, 6 AND, 7 OR, 8 XOR, 9 SWAP on `size` bytes. -/
def atomNew (op size old operand : Nat) : Nat :=
  let w := 8 * size
  let a := old % 2 ^ w
  let b := operand % 2 ^ w
  match op with
  | 0 => (a + b) % 2 ^ w
  | 1 => addForm (if size = 2 then 3 else 2) a b
  | 2 => if sgn w b < sgn w a then b else a
  | 3 => if sgn w a < sgn w b then b else a
  | 4 => min a b
  | 5 => max a b
  | 6 => a &&& b
  | 7 => a ||| b
  | 8 => a ^^^ b
  | _ => b

/-- What performing an access answers: the bytes read, poison, and the state after. -/
structure Performed where
  data : List Byte
  poison : Bool
  s : State

/-- Reads the bytes of an access where its address is homed (R189, R190). Of a Weld access `errs` are the single-bit errors corrected (R187). -/
def State.accRead (s : State) (a : Acc) (errs : List ScrubErr) : Performed :=
  if isWeld a.pa then
    let x := s.tileAt (weldTile a.pa)
    ⟨x.weldRead (weldOff a.pa) a.size, x.weldPoison (weldOff a.pa) a.size, s.weldReadBy (weldTile a.pa) (weldOff a.pa) a.size errs.length⟩
  else if a.uncached then let (b, p, s1) := s.rawRead a.pa a.size .thread errs; ⟨b, p, s1⟩
  else let (b, p, s1) := s.cohRead a.pa a.size .thread true errs; ⟨b, p, s1⟩

/-- Writes the bytes of an access where its address is homed, `errs` being those that the read of a codeword written in part meets (02 R58, R60). -/
def State.accWrite (s : State) (a : Acc) (b : List Byte) (errs : List ScrubErr) : State :=
  if isWeld a.pa then s.weldWrite (weldTile a.pa) (weldOff a.pa) b false
  else if a.uncached then (s.rawPut a.pa b false .thread errs).2
  else s.cohWrite a.pa b false true .thread errs

/-- The ADD form of an atomic on an uncached page (Table TILE-10, 03 R104): 0 i32, 1 i64, 2 FP32, 3 BF16. -/
def nearForm (op size : Nat) : Nat := if op = 1 then (if size = 2 then 3 else 2) else if size = 8 then 1 else 0

/-- An atomic on an uncached page: the ADD of the bank's unit, through its controller (02 R76, 03 R104). -/
def State.nearAdd (s : State) (a : Acc) (op : Nat) (v : W64) (errs : List ScrubErr) : Performed :=
  let x := s.place a.pa
  let s1 := s.serve x.bank x.row true 0
  let (old, st, r, s2) := s1.addAt x.cw x.byte (nearForm op a.size) v.toNat (s1.stackAt (x.bank / 256)).policy2 (errsOf errs 0)
  let c := subOfBank x.bank
  let s3 := s2.setBank x.bank { s2.bankAt x.bank with tWr := some ((((s2.bankAt x.bank).tRd).getD (1000 * s.now)) + 20000) }
  ⟨toBytes a.size old, st = 1, if r.ue then s3.reportUe x.cw c (n64 (a.pa / 32 * 32)) (s3.ownerAt a.pa) .thread else s3⟩

/-- Performs an access on memory: a poisoned load, atomic or CAS has no effect (R181, Table TILE-7). -/
def State.perform (s : State) (a : Acc) (errs : List ScrubErr) : Performed :=
  match a.op with
  | .store b => ⟨[], false, s.accWrite a b errs⟩
  | .load .. => s.accRead a errs
  | .atom op v _ =>
    if a.uncached && !isWeld a.pa then s.nearAdd a op v errs
    else
      let p := s.accRead a errs
      if p.poison then p else { p with s := p.s.accWrite a (toBytes a.size (atomNew op a.size (ofBytes p.data) v.toNat)) [] }
  | .cas e n _ =>
    let p := s.accRead a errs
    if p.poison ∨ ofBytes p.data ≠ e.toNat % 2 ^ (8 * a.size) then p else { p with s := p.s.accWrite a (toBytes a.size n.toNat) [] }

/-- One aligned 8-byte part of a 64-byte access (R195). -/
def Acc.piece (a : Acc) (i : Nat) : Acc :=
  { a with pa := a.pa + 8 * i, size := 8, op := match a.op with | .store b => .store ((b.drop (8 * i)).take 8) | o => o }

/-- The bytes that a 64-byte access has read once every part is performed. -/
def Acc.gathered (a : Acc) : List Byte := (List.range 8).flatMap fun i => (a.parts.lookup i).getD []

/-- The thread after an access is performed: its register is written. -/
def Thr.receive (x : Thr) (a : Acc) (data : List Byte) : Thr :=
  match a.op with
  | .store _ => x
  | .load r signed =>
    if r < 32 then x.wr (BitVec.ofNat 5 r) (loadExt a.size signed data) else x.wv (BitVec.ofNat 4 (r - 32)) (BitVec.ofNat 512 (ofBytes data))
  | .atom _ _ (some r) => x.wr (BitVec.ofNat 5 r) (loadExt a.size false data)
  | .atom _ _ none => x
  | .cas _ _ (some r) => x.wr (BitVec.ofNat 5 r) (loadExt a.size false data)
  | .cas _ _ none => x

end Sys2Proof.Machine
end

