-- ==== Sys2Proof/Machine/ThreadMem.lean ====
section
/-! DEFINITION. Memory instructions (06): loads, stores, atomics, copies, flushes, fences. -/
namespace Sys2Proof.Machine

open Sys2Proof

/-- Whether an access can be performed now: its sub-channel is open, and no bank job holds its write (03 R96). -/
def State.accReady (s : State) (a : Acc) : Bool :=
  s.rangeOpen a.pa a.size && match a.op with
    | .load .. => true
    | _ => isWeld a.pa || !s.writeHeld a.uncached true a.pa a.size

/-- Issue of one access: alignment, page tests, then it becomes outstanding (R172, R181, R184). `kind` says whether the location performs
the access (Table TILE-10). -/
def State.issueAcc (s : State) (t : Nat) (x : Thr) (k : Acs) (va : W64) (size : Nat) (kind : Bool → Bool) (order : Order) (op : AccOp) : State :=
  if va.toNat % size ≠ 0 then s.thrFault t fAlign va.toNat
  else match s.translate x (thrTile t) false k va.toNat with
    | .error c => s.thrFault t c va.toNat
    | .ok (pa, e) =>
      let uncached := peUncached e && !isWeld pa
      if !kind uncached then s.thrFault t fAtomicKind va.toNat
      else s.pushAcc t x ⟨x.pc, va, pa, size, uncached, order, op, none, []⟩

def anyKind : Bool → Bool := fun _ => true

def execLd (t : ThrId) (x : MemF) (s : State) : Host.Outcome State Fault Refusal :=
  .next (s.onIssue (.ld t x) t [r5 x.a, r5 x.t] (x.sz ≠ 7 && x.o.toNat < 2) fun th =>
    s.issueAcc t th .read (memVa th x (szBytes x.sz)) (szBytes x.sz) anyKind ⟨x.o == 1, false⟩ (.load (r5 x.t) (4 ≤ x.sz.toNat)))

def execSt (t : ThrId) (x : MemF) (s : State) : Host.Outcome State Fault Refusal :=
  .next (s.onIssue (.st t x) t [r5 x.a, r5 x.t] (x.sz ≠ 7 && (x.o == 0 || x.o == 2)) fun th =>
    s.issueAcc t th .write (memVa th x (szBytes x.sz)) (szBytes x.sz) anyKind ⟨false, x.o == 2⟩
      (.store (toBytes (szBytes x.sz) (th.rd x.t).toNat)))

/-- The vector register that t names. -/
def vOfT (t : BitVec 5) : BitVec 4 := t.setWidth 4

def execVld (t : ThrId) (x : MemF) (s : State) : Host.Outcome State Fault Refusal :=
  .next (s.onIssue (.vld t x) t [r5 x.a, vNum (vOfT x.t)] (x.sz == 0 && x.t.toNat < 16 && x.o.toNat < 2) fun th =>
    s.issueAcc t th .read (memVa th x 64) 64 anyKind ⟨x.o == 1, false⟩ (.load (vNum (vOfT x.t)) false))

def execVst (t : ThrId) (x : MemF) (s : State) : Host.Outcome State Fault Refusal :=
  .next (s.onIssue (.vst t x) t [r5 x.a, vNum (vOfT x.t)] (x.sz == 0 && x.t.toNat < 16 && (x.o == 0 || x.o == 2)) fun th =>
    s.issueAcc t th .write (memVa th x 64) 64 anyKind ⟨false, x.o == 2⟩ (.store (toBytes 64 (th.rv (vOfT x.t)).toNat)))

/-! #### Atomics (R193) -/

def atOp (f : BitVec 11) : Nat := bitsOf f.toNat 3 0
def atSz (f : BitVec 11) : Nat := bitsOf f.toNat 5 4
def atOrder (f : BitVec 11) : Order := ⟨f.getLsbD 6, f.getLsbD 7⟩

def atomLegal (x : RegF) : Bool :=
  atOp x.f ≤ 9 && atSz x.f ≠ 3 && (atSz x.f ≠ 0 || atOp x.f = 1) && (atOp x.f ≠ 1 || atSz x.f ≠ 2) && bitsOf x.f.toNat 10 9 = 0 && x.b == 0

/-- ATOM: in uncached Madder only ADD of 32 or 64 bits and FADD (Table TILE-10). -/
def execAtom (t : ThrId) (x : RegF) (s : State) : Host.Outcome State Fault Refusal :=
  .next (s.onIssue (.atom t x) t [r5 x.a, r5 x.d] (atomLegal x) fun th =>
    s.issueAcc t th .write (th.rd x.a) (2 ^ (atSz x.f + 1)) (fun near => !near || atOp x.f ≤ 1) (atOrder x.f)
      (.atom (atOp x.f) (th.rd x.d) (if x.f.getLsbD 8 then none else some (r5 x.d))))

def execCas (t : ThrId) (x : RegF) (s : State) : Host.Outcome State Fault Refusal :=
  .next (s.onIssue (.cas t x) t [r5 x.a, r5 x.b, r5 x.d] (atOp x.f = 0 && (atSz x.f = 1 || atSz x.f = 2) && bitsOf x.f.toNat 10 8 = 0) fun th =>
    s.issueAcc t th .write (th.rd x.a) (2 ^ (atSz x.f + 1)) (fun near => !near) (atOrder x.f)
      (.cas (th.rd x.b) (th.rd x.d) (some (r5 x.d))))

/-! #### Copies and flushes (R191, R200) -/

/-- A value that must be a counter address (R206). -/
def ctrOk (v : W64) : Bool := v.toNat < 2 ^ 18

/-- ACOPY (R200): `a` the source, `b` the destination, `d` the length, g(d + 1) the counter. -/
def execAcopy (t : ThrId) (x : RegF) (s : State) : Host.Outcome State Fault Refusal :=
  .next (s.onIssue (.acopy t x) t [r5 x.a, r5 x.b, r5 x.d, r5 x.d + 1] (x.f.toNat < 2 && x.d ≠ 31) fun th =>
    let n := (th.rd x.d).toNat
    let src := (th.rd x.a).toNat
    let dst := (th.rd x.b).toNat
    let c := th.rd (x.d + 1)
    if n % 64 ≠ 0 ∨ 1048576 < n ∨ (x.f = 1 ∧ 4096 < n) ∨ ctrOk c = false then s.thrFault t fIllegal 0
    else if src % 64 ≠ 0 then s.thrFault t fAlign src
    else if dst % 64 ≠ 0 then s.thrFault t fAlign dst
    else match s.rangeOf th (thrTile t) true .read src n, s.rangeOf th (thrTile t) true .write dst n with
      | .error (f, va), _ => s.thrFault t f va
      | _, .error (f, va) => s.thrFault t f va
      | .ok sp, .ok dp =>
        if 16 ≤ s.th.copies.countP (fun k => k.thr / 64 = t.val / 64) then s.block t .copies
        else
          let after := th.outs.filter fun o => o.op.isStore && sp.any fun p => decide (o.pa < p.1 + p.2 ∧ p.1 < o.pa + o.size)
          let k : Acopy := ⟨t, c.toNat, if x.f = 1 then 0 else 3, decide (src < dst + n ∧ dst < src + n), after, sp, dp⟩
          let s1 : State := { s with th := { s.th with copies := s.th.copies ++ [k] } }
          s1.setThr t th.next)

/-- The copy may be performed: the thread's earlier stores to its source are performed (R199) and nothing keeps the transfer waiting. -/
def State.copyReady (s : State) (k : Acopy) : Bool :=
  k.after.all (fun a => !(s.thrAt k.thr).outs.contains a) && s.xferReady k.src k.dst

/-- ACOPY_COMPLETE: the k-th copy in progress has performed every write and signals its counter (R199, R200). Overlapping ranges,
which the spec forbids, leave free values (notes/assumptions/44.md). -/
def execAcopyComplete (k : Nat) (errs : List ScrubErr) (s : State) : Host.Outcome State Fault Refusal :=
  match s.th.copies[k]? with
  | none => .next s
  | some c =>
    if s.copyReady c then
      let n := (c.dst.map (·.2)).sum
      let (ps, s1) := s.readChunks .thread c.src errs
      let s2 := if c.overlap then (s1.writeChunks c.dst (s1.freePieces n)).useFree n else s1.writeChunks c.dst ps
      let s3 := ({ s2 with th := { s2.th with copies := dropAt s2.th.copies k } }).sendSignal ⟨ctrId c.ctr, 1, .acopy (thrId c.thr)⟩
      .next (s3.wakeFor fun i b => i / 64 = c.thr / 64 && b == .copies)
    else .next s

def execCflush (t : ThrId) (x : RegF) (s : State) : Host.Outcome State Fault Refusal :=
  .next (s.onIssue (.cflush t x) t [r5 x.a, r5 x.b] (x.f.toNat < 2 && x.d == 0) fun th =>
    match s.rangeOf th (thrTile t) false .read (th.rd x.a).toNat (th.rd x.b).toNat with
    | .error (f, va) => s.thrFault t f va
    | .ok r =>
      let c : Cflush := ⟨t, r, x.f == 1⟩
      let s1 : State := { s with th := { s.th with flushes := s.th.flushes ++ [c] } }
      s1.setThr t th.next)

/-- Writes back the line at p and invalidates it, or keeps it clean (R191). -/
def State.flushLine (s : State) (keep : Bool) (p : Nat) : State :=
  match s.plazaGet p with
  | none => s
  | some l => if keep then (s.lineBack p l).plazaPut p { l with dirty := false } else (s.lineBack p l).plazaDrop p

/-- Whether the controllers take the write-backs of a flush now: none goes to a range of an unfinished bank job (03 R96). -/
def State.flushReady (s : State) (c : Cflush) : Bool :=
  c.ranges.all fun r => isWeld r.1 || (wordsOf 64 r.1 r.2).all fun w => !s.jobRow (64 * w) || !((s.plazaGet (64 * w)).any (·.dirty))

/-- CFLUSH_COMPLETE: every write-back of the k-th flush has been accepted (R191). -/
def execCflushComplete (k : Nat) (s : State) : Host.Outcome State Fault Refusal :=
  match s.th.flushes[k]? with
  | none => .next s
  | some c =>
    if !s.flushReady c then .next s else
    let s1 := c.ranges.foldl (fun s r => if isWeld r.1 then s else (wordsOf 64 r.1 r.2).foldl (fun s w => s.flushLine c.keep (64 * w)) s) s
    let s2 := { s1 with th := { s1.th with flushes := dropAt s1.th.flushes k } }
    .next (s2.wakeFor fun i b => i = c.thr && b == .flushes && !s2.th.flushes.any fun f => f.thr = i)

/-- A fence passes when every earlier access of its scope is performed, else the thread blocks (R198). -/
def State.fence (s : State) (c : Instr) (t : ThrId) (x : SysF) (imm : W16) (scope : Nat) (b : Blk) : State :=
  s.onIssue c t [] (x.a == 0 && x.b == 0 && x.imm == imm) fun th => if th.pendingScope t scope then s.block t b else s.setThr t th.next

def execFenceSq (t : ThrId) (x : SysF) (s : State) : Host.Outcome State Fault Refusal := .next (s.fence (.fenceSq t x) t x 0 1 .fenceSq)
def execFenceDev (t : ThrId) (x : SysF) (s : State) : Host.Outcome State Fault Refusal := .next (s.fence (.fenceDev t x) t x 1 2 .fenceDev)

end Sys2Proof.Machine
end

