-- ==== Sys2Proof/Machine/Units.lean ====
section
/-! DEFINITION. Bank units (03): their state, the parameters of the standard programs (R102), what each program computes (R103, R106,
R110, R111), and the checks of the loader (R90). -/
namespace Sys2Proof.Machine

open Sys2Proof

/-- The bytes of the descriptor row that the controller writes for a job (06 R203). -/
def descRow (j : BankJob) : List Byte :=
  toBytes 4 j.rdBase ++ toBytes 4 j.rdCount ++ toBytes 4 j.wrBase ++ toBytes 4 j.wrCount ++
    toBytes 2 (leAt j.desc 24 2 % 512) ++ [byteAt j.desc 26, BitVec.ofNat 8 (b2n j.policy2)] ++
    toBytes 2 j.domain.toNat ++ [BitVec.ofNat 8 j.cls] ++ List.replicate 41 0 ++
    (j.desc.drop 64).take 64 ++ (j.desc.drop 128).take 128

/-! #### The unit's own accesses (03 R83, R87, R100, R101) -/

/-- Codeword index of column c of a row of bank b (0 even, 1 odd) of unit u. -/
def unitCw (u b row col : Nat) : Nat := ((2 * u + b) * 2 ^ 28 + row * 2048 + col * 32) / 32

/-- A codeword's place in the pair: what `ScrubErr.col` names in a unit's run. -/
def runKey (b row col : Nat) : Nat := 2 ^ 23 * b + 64 * row + col

/-- Reads a codeword under the job's policy, without lane erasures (R100). -/
def Dram.unitRead (d : Dram) (pol2 : Bool) (u b row col : Nat) (errs : List SymErr) : CwRead := (d.decode pol2 none (unitCw u b row col) errs).1

/-- Writes chunk j of a row with new check symbols; poisoned input writes a poisoned chunk (R101). -/
def Dram.putChunk (d : Dram) (u b row j : Nat) (data : List Byte) (poison : Bool) : Dram :=
  (d.writeCw (unitCw u b row (2 * j)) (data.take 32) poison).writeCw (unitCw u b row (2 * j + 1)) (data.drop 32) poison

/-- Counts an activation of a row of a unit's bank b in the tracker (02 R70). -/
def Dram.countAct (d : Dram) (u b row : Nat) : Dram :=
  let k := tget bankD d.bank (2 * u + b)
  { d with bank := tput bankD d.bank (2 * u + b) { k with tracker := trackAct k.tracker row } }

/-- The poison record after a read: the first codeword the unit could not correct since the record was last read (R100). -/
def BUnit.noteRead (x : BUnit) (b row col : Nat) (r : CwRead) : BUnit :=
  { x with poison := x.poison || r.poison, poisonRec := if x.poisonRec.isNone ∧ r.ue then some (row, b, col) else x.poisonRec }

/-- A standard program as it runs: the array, the unit, the symbol errors met by place (`runKey`). Once the unit has a fault it does nothing more (R121). -/
structure Run where
  d : Dram
  u : Nat
  x : BUnit
  errs : List ScrubErr
deriving DecidableEq, Repr

def Run.fail (r : Run) (code : Nat) : Run := { r with x := { r.x with fault := code } }

/-- Activates a row, to be written or read: outside the job's ranges the job faults with RANGE (R87). Where the job's own micro-instructions activate its rows,
their log counts them. -/
def Run.touch (r : Run) (write : Bool) (b row : Nat) : Run :=
  if r.x.fault ≠ 0 then r
  else if !(r.x.inWrite row || (!write && r.x.inRead row)) then r.fail 1
  else if r.x.acted then r
  else { r with d := r.d.countAct r.u b row }

/-- Activates rows in turn for reading. -/
def Run.touchAll (r : Run) (l : List (Nat × Nat)) : Run := l.foldl (fun r p => r.touch false p.1 p.2) r

/-- Reads a codeword. -/
def Run.cw (r : Run) (b row col : Nat) : CwRead × Run :=
  let c := r.d.unitRead r.x.pol2 r.u b row col (errsOf r.errs (runKey b row col))
  (c, { r with x := r.x.noteRead b row col c })

/-- Reads chunk j of a row: 64 bytes and poison. -/
def Run.chunk (r : Run) (b row j : Nat) : (List Byte × Bool) × Run :=
  let (c0, r1) := r.cw b row (2 * j)
  let (c1, r2) := r1.cw b row (2 * j + 1)
  ((c0.data ++ c1.data, c0.poison || c1.poison), r2)

def Run.put (r : Run) (b row j : Nat) (data : List Byte) (poison : Bool) : Run := { r with d := r.d.putChunk r.u b row j data poison }

/-- Bytes [o, o + n) of a row as a unit reads them. -/
def Run.rowBytes (r : Run) (b row o n : Nat) : List Byte × Run :=
  (wordsOf 32 o n).foldl (fun acc c =>
    let (v, r1) := acc.2.cw b row c
    let lo := max o (32 * c)
    let hi := min (o + n) (32 * c + 32)
    (acc.1 ++ (v.data.drop (lo - 32 * c)).take (hi - lo), r1)) ([], r)

/-- Bytes [o, o + n) of the image that starts at pair-row `base` (04 R127). -/
def Run.image (r : Run) (base o n : Nat) : List Byte × Run :=
  (pieces 2048 o n).foldl (fun acc q =>
    let (v, r1) := acc.2.rowBytes (q.1 / 2048 % 2) (base + q.1 / 4096) (q.1 % 2048) q.2
    (acc.1 ++ v, r1)) ([], r)

/-- The array read without errors, for the controller's own checks at issue (R102). -/
def Dram.checkRun (d : Dram) (pol2 : Bool) (u : Nat) : Run := ⟨d, u, { unitInit with desc := mwrite zeroByte [] 19 [BitVec.ofNat 8 (b2n pol2)] }, []⟩

/-! #### Parameters (03 R102, R103) -/

/-- A row reference: row [16:0], bank [17]. -/
def refRow (r : Nat) : Nat := r % 2 ^ 17
def refBank (r : Nat) : Nat := r / 2 ^ 17 % 2
def refOk (r : Nat) : Bool := r < 2 ^ 18
/-- The half-bank of a row reference: bank and parity of the row (R103). -/
def refHalf (r : Nat) : Nat := 2 * refBank r + r % 2

/-- No member twice. -/
def distinct : List Nat → Bool
  | [] => true
  | a :: r => !r.contains a && distinct r

def finiteF32 (x : Nat) : Bool := x / 2 ^ 23 % 256 ≠ 255

/-- The shortest delay of an alley COPY between positions a and b: 1 BCLK for each hop within a die, 4 for each between dies, and 8 (R117). -/
def alleyDelay (a b : Nat) : Nat :=
  let dies := max (a / 8) (b / 8) - min (a / 8) (b / 8)
  max a b - min a b - dies + 4 * dies + 8

/-- R102 and R103 for a job's parameters; `p` gives the parameter words, `entry` the program, `here` the unit's own alley position. An alley COPY stays in its
quadrant (R115) and allows for its path (R117). DESIGN CHOICE: an entry point that is no program of Table BANK-10, tenant 0's own or one among the entries below
384, has no parameters to test (notes/assumptions/112.md). -/
def paramsOk (entry : Nat) (p : Nat → Nat) (here : Nat) : Bool :=
  match entry with
  | 0x000 => refOk (p 0) && refOk (p 1) && 1 ≤ p 2 && p 2 ≤ 131072 && refHalf (p 0) ≠ refHalf (p 1)
  | 0x170 | 0x178 => refOk (p 0) && refOk (p 1) && 1 ≤ p 2 && p 2 ≤ 131072 && p 3 < 128 && p 3 / 32 = here / 32 && p 3 ≠ here && alleyDelay here (p 3) ≤ p 4
  | 0x040 => 1 ≤ p 1 && p 1 ≤ 131072 && 1 ≤ p 2 && p 2 ≤ 3 && p 0 < 2 ^ 17
  | 0x060 =>
    let ops := match p 5 with | 3 => [p 0] | 4 => [p 0, p 1, p 2] | _ => [p 0, p 1]
    p 5 ≤ 4 && 1 ≤ p 4 && p 4 ≤ 131072 && [p 0, p 1, p 2, p 3].all refOk && distinct (ops.map refHalf) &&
      (p 3 = p 0 || !(ops.map refHalf).contains (refHalf (p 3))) &&
      (p 3 ≠ p 0 || !((ops.drop 1).map refHalf).contains (refHalf (p 3)))
  | 0x0A0 =>
    p 2 ≤ 3 && (p 3 = 32 || p 3 = 64 || p 3 = 128) && (p 4 = 1 || p 4 = 2) && 1 ≤ p 1 && p 4 * p 1 ≤ 2048 &&
      p 7 = blkRows (p 2) && blkPairRows (p 2) (p 3) ≤ p 9 && p 0 < 2 ^ 17
  | 0x100 =>
    p 0 % 16 = 0 && p 0 < 2 ^ 17 && 1 ≤ p 1 && p 1 ≤ 3840 && 1 ≤ p 2 && p 2 ≤ 8 && (List.range (p 2)).all fun h => finiteF32 (p (8 + h))
  | _ => true

/-- The key or value segment record of token t of an ATTEND job: zero point and scale (R109). -/
def Run.kvRec (r : Run) (b p0 t : Nat) : (Nat × Nat) × Run :=
  let (v, r1) := r.rowBytes b (p0 + 16 * (t / 240) + 15) (4 * (t % 240)) 4
  ((leAt v 0 1, leAt v 2 2), r1)

/-- R110, 04 R132: every key and value scale positive and finite. -/
def Run.kvScalesOk (r : Run) (p0 nt : Nat) : Bool :=
  (List.range nt).all fun t => scaleOk (r.kvRec 0 p0 t).1.2 && scaleOk (r.kvRec 1 p0 t).1.2

/-- The activation scales of a TPROD job (04 R132). -/
def tprodScalesOk (p4 p6 : Nat) : Bool := (List.range p4).all fun ss => scaleOk (p6 / 65536 ^ ss % 65536)

/-- The scales that a job's program reads: positive and finite, else FORMAT (R110, 04 R132). -/
def Run.scalesOk (r : Run) (entry : Nat) (p : Nat → Nat) : Bool :=
  match entry with
  | 0x0A0 => tprodScalesOk (p 4) (p 6)
  | 0x100 => r.kvScalesOk (p 0) (p 1)
  | _ => true

/-! #### COPY, INIT, BITOP (03 R103): one row of each operand at a time -/

def copyRow (src dst i : Nat) (r : Run) : Run :=
  let r1 := (r.touch false (refBank src) (refRow src + i)).touch true (refBank dst) (refRow dst + i)
  if r1.x.fault ≠ 0 then r1
  else (List.range 32).foldl (fun r j =>
    let ((b, psn), r2) := r.chunk (refBank src) (refRow src + i) j
    r2.put (refBank dst) (refRow dst + i) j b psn) r1

def initRow (first mask : Nat) (pat : List Byte) (i : Nat) (r : Run) : Run :=
  ([0, 1].filter fun b => bitAt mask b).foldl (fun r b =>
    let r1 := r.touch true b (first + i)
    if r1.x.fault ≠ 0 then r1 else (List.range 32).foldl (fun r j => r.put b (first + i) j (pat ++ pat) false) r1) r

def bitopByte (op : Nat) (a b m : Byte) : Byte :=
  match op with
  | 0 => a &&& b
  | 1 => a ||| b
  | 2 => a ^^^ b
  | 3 => ~~~a
  | _ => (a &&& m) ||| (b &&& ~~~m)

def bitopList (op : Nat) (a b m : List Byte) : List Byte :=
  (List.range 64).map fun i => bitopByte op (byteAt a i) (byteAt b i) (byteAt m i)

/-- The operand rows that BITOP reads: A; B but for NOT; M for SEL. -/
def bitopOps (A B M op : Nat) : List Nat := if op = 3 then [A] else if op = 4 then [A, B, M] else [A, B]

def bitopRow (A B M D op i : Nat) (r : Run) : Run :=
  let r1 := (r.touchAll ((bitopOps A B M op).map fun o => (refBank o, refRow o + i))).touch true (refBank D) (refRow D + i)
  if r1.x.fault ≠ 0 then r1
  else (List.range 32).foldl (fun r j =>
    let ((a, pa), ra) := r.chunk (refBank A) (refRow A + i) j
    let ((b, pb), rb) := if op = 3 then (([], false), ra) else ra.chunk (refBank B) (refRow B + i) j
    let ((m, pm), rm) := if op = 4 then rb.chunk (refBank M) (refRow M + i) j else (([], false), rb)
    rm.put (refBank D) (refRow D + i) j (bitopList op a b m) (pa || pb || pm)) r1

/-- The rows of each operand of a job of COPY, INIT or BITOP. -/
def BUnit.rowTotal (x : BUnit) : Nat :=
  match x.entry with
  | 0x000 => x.param 2
  | 0x040 => x.param 1
  | 0x060 => x.param 4
  | _ => 0

/-- Row i of such a job. -/
def Run.rowStep (r : Run) (i : Nat) : Run :=
  let p := r.x.param
  match r.x.entry with
  | 0x000 => copyRow (p 0) (p 1) i r
  | 0x040 => initRow (p 0) (p 2) (mread zeroByte r.x.desc 160 32) i r
  | 0x060 => bitopRow (p 0) (p 1) (p 2) (p 3) (p 5) i r
  | _ => r

/-- The next `n` rows. Where micro-instructions of the job write its rows themselves, nothing is added to them (notes/assumptions/20.md). -/
def Run.rows (r : Run) (n : Nat) : Run :=
  if r.x.wrote then r
  else
    let done := min r.x.rowTotal (r.x.prog + n)
    let r1 := (List.range (done - r.x.prog)).foldl (fun q i => if q.x.fault ≠ 0 then q else q.rowStep (r.x.prog + i)) r
    { r1 with x := { r1.x with prog := done } }

/-! #### TPROD (03 R105, R106) -/

/-- The pair-rows that hold the first `m` rows of a block: their codes, and their records from the fifth on (04 R127, R128). -/
def blkRowsUsed (fmt g m : Nat) : List Nat :=
  List.range ((m * codeBytes fmt + 4095) / 4096) ++ (List.range (((m * recBits fmt g + 7) / 8 + 4095) / 4096)).map (4 + ·)

/-- The rows that a TPROD job activates, block by block, in both banks of the pair. -/
def tprodRows (p0 nr fmt g stride : Nat) : List (Nat × Nat) :=
  (List.range ((nr + blkRows fmt - 1) / blkRows fmt)).flatMap fun k =>
    (blkRowsUsed fmt g (min (blkRows fmt) (nr - k * blkRows fmt))).flatMap fun i => [(0, p0 + k * stride + i), (1, p0 + k * stride + i)]

/-- Row n of a weight object's slice: its codes and record (R105, 04 R127, R128). -/
def Run.tprodRow (r : Run) (p0 stride fmt g n : Nat) : (List Byte × Nat) × Run :=
  let base := p0 + n / blkRows fmt * stride
  let i := n % blkRows fmt
  let (codes, r1) := r.image base (codeBytes fmt * i) (codeBytes fmt)
  let rb := recBits fmt g * i
  let lo := 16384 + rb / 8
  let hi := 16384 + (rb + recBits fmt g + 7) / 8
  let (rec, r2) := r1.image base lo (hi - lo)
  ((codes, bitString rec (rb % 8) (recBits fmt g)), r2)

/-- The raw activation x(s, k) of W8, or the table entry of W4, W3 and W2 (R106). -/
def tableI16 (tab : List Host.Cell) (i : Nat) : Int := sgn 16 (ofBytes (mread zeroByte tab (2 * i) 2))

/-- q of group j for session `ss` (R106): an i24 in W8, else an i20. -/
def tprodQ (tab : List Host.Cell) (fmt g ss zp : Nat) (codes : List Byte) (cs : Int) (j : Nat) : Int :=
  let cc := 2 ^ codeBits fmt
  if fmt = 0 then
    wrapI 24 (wrapI 24 (sumInts ((List.range g).map fun k =>
      codeVal 0 (codeAt 0 codes (g * j + k)) * (((tget zeroByte tab (ss * 128 + g * j + k)).toNat : Int) - 128))) + (128 - (zp : Int)) * cs)
  else
    wrapI 20 (wrapI 20 (sumInts ((List.range g).map fun k => tableI16 tab (ss * 128 * cc + (g * j + k) * cc + codeAt fmt codes (g * j + k)))) - zp * cs)

/-- One result of R106. -/
def tprodOut (tab : List Host.Cell) (fmt g ss zp sa : Nat) (codes : List Byte) (rec : Nat) : W32 :=
  let r j :=
    let q := tprodQ tab fmt g ss zp codes (recSum fmt g rec j) j
    fmul (fmul (i2f q) (e4m4ToF32 (BitVec.ofNat 8 (recGroup rec j)))) (f16ToF32 (BitVec.ofNat 16 sa))
  fmul (pairwiseF ((List.range (128 / g)).map r)) (bf16ToF32 (BitVec.ofNat 16 (recScale2 rec)))

/-- A TPROD job. -/
def Run.tprod (r : Run) : Run :=
  let x := r.x
  let fmt := x.param 2
  let g := x.param 3
  let b := x.param 4
  let r1 := r.touchAll (tprodRows (x.param 0) (x.param 1) fmt g (x.param 9))
  if r1.x.fault ≠ 0 then r1
  else if !tprodScalesOk b (x.param 6) then r1.fail 2
  else (List.range (x.param 1)).foldl (fun r n =>
    let ((codes, rec), r2) := r.tprodRow (x.param 0) (x.param 9) fmt g n
    let out := (List.range b).map fun ss =>
      tprodOut x.table fmt g ss (x.param 5 / 256 ^ ss % 256) (x.param 6 / 65536 ^ ss % 65536) codes rec
    { r2 with x := { r2.x with result := mwrite zeroByte r2.x.result (4 * n * b) (out.flatMap fun v => toBytes 4 v.toNat) } }) r1

/-! #### ATTEND (03 R109 to R111) -/

/-- EXP[i] = RNE(32,768 · 2^(−i/256)). -/
def expEntry (i : Nat) : Nat :=
  if i = 0 then 32768
  else
    let y := (256 - i) * ln2Fix / 256
    roundShift (expSeries y 48 1 (2 ^ 192) (2 ^ 192)) (192 - 14) true

/-- norm7 of R110: `w` in 64..127 and its exponent. -/
def norm7 (w : Nat) (f0 : Int) : Nat × Int :=
  let l := bitLen w
  if l ≤ 7 then (w * 2 ^ (7 - l), f0 - (7 - l : Nat))
  else
    let r := roundShift w (l - 7) false
    if r = 128 then (64, f0 + (l - 7 : Nat) + 1) else (r, f0 + (l - 7 : Nat))

def f16Mant (v : Nat) : Nat := if v / 1024 % 32 = 0 then v % 1024 else 1024 + v % 1024
def f16Expo (v : Nat) : Int := if v / 1024 % 32 = 0 then -24 else ((v / 1024 % 32 : Nat) : Int) - 25

/-- acc of R110, into an i48 and an i32. -/
def accX (x e v f : Int) : Int × Int :=
  if e < f then (wrapI 48 (x / 2 ^ (f - e).toNat + v), wrapI 32 f) else (wrapI 48 (x + v / 2 ^ (e - f).toNat), wrapI 32 e)

def accVec (x : List Int) (e : Int) (v : List Int) (f : Int) : List Int × Int :=
  ((x.zip v).map fun p => (accX p.1 e p.2 f).1, wrapI 32 (if e < f then f else e))

/-- Least integer at or above an FP32, clamped to i32 (ceil_sat). -/
def ceilSat (x : W32) : Int :=
  match u32 x with
  | .nan => 0
  | .inf n => if n then i32Min else i32Max
  | .fin n m e => clampI i32Min i32Max (-(dyFloor (!n) m e))

/-- floor_u32 of R110. -/
def floorU32 (x : W32) : Nat :=
  match u32 x with
  | .nan => 0
  | .inf n => if n then 0 else 2 ^ 32 - 1
  | .fin n m e => (clampI 0 (2 ^ 32 - 1) (dyFloor n m e)).toNat

/-- One key or value of an ATTEND job: 128 codes, zero point, scale. -/
structure KvTok where
  k : List Byte
  zk : Nat
  sk : Nat
  v : List Byte
  zv : Nat
  sv : Nat
deriving DecidableEq, Repr

/-- The running partials of one head. -/
structure AttSt where
  m : Int
  a : List Int
  f : Int
  l : Int
  g : Int
  started : Bool
deriving DecidableEq, Repr

def attInit : AttSt := ⟨0, List.replicate 128 0, -(2 ^ 20), 0, -(2 ^ 20), false⟩

def b128 (b : Byte) : Int := (b.toNat : Int) - 128

/-- The score of a token, in log2 units (R110). -/
def attScore (q : List Byte) (zq : Nat) (sqx : W32) (t : KvTok) : W32 :=
  let d := sumInts ((q.zip t.k).map fun p => b128 p.1 * b128 p.2)
  let kk := sumInts (t.k.map b128)
  let q1 := sumInts (q.map b128)
  let s := d + (128 - (t.zk : Int)) * q1 + (128 - (zq : Int)) * kk + 128 * (128 - (zq : Int)) * (128 - (t.zk : Int))
  fmul (fmul (i2f s) (f16ToF32 (BitVec.ofNat 16 t.sk))) sqx

def maxF (l : List W32) : W32 := l.foldl (fun a b => if numCmp (u32 a) (u32 b) = some .lt then b else a) (l.headD 0)

/-- One run of up to 8 tokens for one head (R110); `exps` is the exponent table. -/
def attRun (exps : Nat → Nat) (q : List Byte) (zq : Nat) (sqx : W32) (st : AttSt) (run : List KvTok) : AttSt :=
  let sc := run.map (attScore q zq sqx)
  let mr := ceilSat (maxF sc)
  let st1 :=
    if !st.started then { st with m := mr }
    else if st.m < mr then { st with f := wrapI 32 (st.f - (mr - st.m)), g := wrapI 32 (st.g - (mr - st.m)), m := mr } else st
  let ps := sc.map fun x =>
    let n := min (floorU32 (fmul (fsub (i2f st1.m) x) 0x43800000#32)) 65535
    if 16 ≤ n / 256 then 0 else exps (n % 256) / 2 ^ (n / 256)
  let st2 := ps.foldl (fun (st : AttSt) (p : Nat) =>
    let (l, g) := accX st.l st.g (p : Nat) (-15)
    { st with l := l, g := g }) st1
  let ws := (run.zip ps).map fun p =>
    let w := p.2 * f16Mant p.1.sv
    if w = 0 then (0, (0 : Int)) else norm7 w (-15 + f16Expo p.1.sv)
  let live := ws.filter fun w => w.1 ≠ 0
  if live = [] then { st2 with started := true }
  else
    let fm := live.foldl (fun a w => max a w.2) (live.headD (0, 0)).2
    let w2 : List Int := ws.map fun w => if w.1 = 0 then 0 else (w.1 / 2 ^ (fm - w.2).toNat : Nat)
    let bb := sumInts ((run.zip w2).map fun p => p.2 * (128 - (p.1.zv : Int)))
    let pe := (List.range 128).map fun e => bb + sumInts ((run.zip w2).map fun p => p.2 * b128 (byteAt p.1.v e))
    let (a, f) := accVec st2.a st2.f pe fm
    { st2 with a := a, f := f, started := true }

/-- Runs of 8 tokens, the last perhaps shorter; `fuel` bounds their number. -/
def attRuns (exps : Nat → Nat) (q : List Byte) (zq : Nat) (sqx : W32) : Nat → AttSt → List KvTok → AttSt
  | 0, st, _ => st
  | _ + 1, st, [] => st
  | n + 1, st, l => attRuns exps q zq sqx n (attRun exps q zq sqx st (l.take 8)) (l.drop 8)

def rneI (x e : Int) : W32 := BitVec.ofNat 32 (packInf fp32 (x < 0) x.natAbs e false)

/-- The result bytes of one head (R111). -/
def attResult (st : AttSt) : List Byte :=
  toBytes 4 (lowBits 32 st.m) ++ toBytes 4 (rneI st.l st.g).toNat ++ List.replicate 56 0 ++ st.a.flatMap fun a => toBytes 4 (rneI a st.f).toNat

/-- Token t of a job's pages (R109). -/
def Run.kvTok (r : Run) (p0 t : Nat) : KvTok × Run :=
  let row := p0 + 16 * (t / 240) + t % 240 / 16
  let (k, r1) := r.rowBytes 0 row (128 * (t % 240 % 16)) 128
  let (v, r2) := r1.rowBytes 1 row (128 * (t % 240 % 16)) 128
  let ((zk, sk), r3) := r2.kvRec 0 p0 t
  let ((zv, sv), r4) := r3.kvRec 1 p0 t
  (⟨k, zk, sk, v, zv, sv⟩, r4)

/-- The rows that an ATTEND job activates, page by page, in both banks of the pair. -/
def attendRows (p0 nt : Nat) : List (Nat × Nat) :=
  (List.range ((nt + 239) / 240)).flatMap fun k =>
    (List.range ((min 240 (nt - 240 * k) + 15) / 16) ++ [15]).flatMap fun i => [(0, p0 + 16 * k + i), (1, p0 + 16 * k + i)]

/-- An ATTEND job. -/
def Run.attend (r : Run) : Run :=
  let x := r.x
  let r1 := r.touchAll (attendRows (x.param 0) (x.param 1))
  if r1.x.fault ≠ 0 then r1
  else
    let (toks, r2) := (List.range (x.param 1)).foldl (fun acc t => let (k, q) := acc.2.kvTok (x.param 0) t; (acc.1 ++ [k], q)) (([] : List KvTok), r1)
    if !toks.all fun t => scaleOk t.sk && scaleOk t.sv then r2.fail 2
    else
      let exps i := (tget kD x.exps i).toNat
      let res := (List.range (x.param 2)).foldl (fun m h =>
        let q := mread zeroByte x.table (128 * h) 128
        let st := attRuns exps q (x.param (3 + h / 4) / 256 ^ (h % 4) % 256) (BitVec.ofNat 32 (x.param (8 + h))) 480 attInit toks
        mwrite zeroByte m (576 * h) (attResult st)) x.result
      { r2 with x := { r2.x with result := res } }

/-- A segment of a standard COPY, INIT or BITOP has ended at a yield point: some of its rows are done, as many as the image's program carries in one (R91, R92). -/
def Run.segment (r : Run) : Run := r.rows (1 + Config.segRows r.x.entry % 7)

/-- What a standard program has done at its END (03 Table BANK-10); an alley COPY moves its chunks by ASND and ARCV. -/
def Run.finish (r : Run) : Run :=
  match r.x.entry with
  | 0x0A0 => r.tprod
  | 0x100 => r.attend
  | _ => r.rows r.x.rowTotal

/-! #### The loader's checks (03 R90) -/

/-- The fields of a micro-instruction word (03 Table BANK-7). -/
structure MicroW where
  op : Nat
  y : Bool
  bk : Nat
  xa : Nat
  xb : Nat
  kc : Nat
  mode : Nat
  rep : Nat
  imm : Nat
deriving DecidableEq, Repr

def microOf (w : Nat) : MicroW :=
  { op := bitsOf w 63 58, y := bitAt w 57, bk := bitsOf w 56 55, xa := bitsOf w 54 51, xb := bitsOf w 50 47, kc := bitsOf w 46 45,
    mode := bitsOf w 44 40, rep := bitsOf w 39 32, imm := bitsOf w 31 0 }

/-- Cost per repetition in column cycles, an ACT's grid alignment apart (Table BANK-8). -/
def microCost (m : MicroW) : Nat :=
  match m.op with
  | 0x11 => 8
  | 0x12 => 4
  | 0x13 => 4 + (m.imm % 65536 + 1) / 2
  | _ => 1

/-- R90 item 1 for one word: a defined opcode, bk not 3, and an immediate no wider than what it holds (Table BANK-7; notes/assumptions/34.md). -/
def microWordOk (m : MicroW) : Bool :=
  m.op ≤ 0x14 && m.bk ≠ 3 && match m.op, m.mode with
    | 0x02, 1 => m.imm < 32
    | 0x02, _ => m.imm < 2 ^ 24
    | 0x03, _ => m.imm < 2 ^ 24
    | 0x04, 1 => true
    | 0x04, _ => m.imm < 2 ^ 16
    | 0x05, _ => m.imm < 512
    | 0x06, _ => m.imm < 512
    | 0x13, _ => m.imm < 2 ^ 16
    | _, _ => true

def isYield (m : MicroW) : Bool := m.y || m.op = 0x01
def isBranch (m : MicroW) : Bool := m.op = 0x05 || m.op = 0x06

/-- Where control may go after the instruction at i. -/
def microSucc (i : Nat) (m : MicroW) : List Nat := if m.op = 0x01 then [] else if isBranch m then [i + 1, m.imm % 512] else [i + 1]

/-- What the loader follows of a path: the column cycles it has taken, the rows activated in each bank since it began, the cycles at which each half-bank was
last used (2 · bank + half), and that of the pair's last ACT. -/
structure PathSum where
  cost : Nat
  even : Nat
  odd : Nat
  half : List HalfT
  pair : Option Nat
deriving DecidableEq, Repr

def noHalf : HalfT := ⟨none, none, none, none⟩
def pathInit : PathSum := ⟨0, 0, 0, List.replicate 4 noHalf, none⟩

/-- The half-banks an instruction uses: both of a bank for an ACT, whose row the loader does not know. -/
def microHalves (m : MicroW) : List Nat :=
  (match m.bk with | 0 => [0] | 1 => [1] | _ => [0, 1]).flatMap fun b => if m.op = 0x07 then [2 * b, 2 * b + 1] else [2 * b + m.mode % 2]

/-- The first cycle from `t` on at which the distances of Table BANK-9 let an instruction issue. -/
def pathReady (p : PathSum) (m : MicroW) : Nat :=
  let at_ (h : Nat) : HalfT := p.half.getD h noHalf
  let bankWr (h : Nat) (t : Nat) : Nat := afterEv (at_ (h / 2 * 2)).wr 4 (afterEv (at_ (h / 2 * 2 + 1)).wr 4 t)
  (microHalves m).foldl (fun t h =>
    match m.op with
    | 0x07 => afterEv p.pair 4 (afterEv (at_ h).act 24 (afterEv (at_ h).pre 8 t))
    | 0x08 => afterEv (at_ h).act 17 (afterEv (at_ h).rd 3 (afterEv (at_ h).wr 12 t))
    | 0x09 => bankWr h (afterEv (at_ h).act 8 t)
    | 0x0A => afterEv (at_ h).act 8 t
    | _ => t) p.cost

/-- One repetition of an instruction: its stall, the three cycles that the grid may add to an ACT, its cost. -/
def pathOne (p : PathSum) (m : MicroW) : PathSum :=
  let t := pathReady p m + if m.op = 0x07 then 3 else 0
  let set (x : HalfT) : HalfT :=
    match m.op with
    | 0x07 => { x with act := some t }
    | 0x08 => { x with pre := some t }
    | 0x09 => { x with rd := some t }
    | 0x0A => { x with wr := some t }
    | _ => x
  let act := m.op = 0x07
  { cost := t + microCost m, even := p.even + b2n (act && m.bk ≠ 1), odd := p.odd + b2n (act && m.bk ≠ 0),
    half := (microHalves m).foldl (fun l h => l.set h (set (l.getD h noHalf))) p.half, pair := if act then some t else p.pair }

/-- All repetitions of an instruction, given up once the path is too long. -/
def pathAdd (m : MicroW) : Nat → PathSum → PathSum
  | 0, p => p
  | n + 1, p => if 244 < p.cost then p else pathAdd m n (pathOne p m)

/-- The loop counters a path knows: those set by an immediate (R90 item 3). -/
abbrev KnownK := List (Option Nat)

def stepK (ks : KnownK) (m : MicroW) : KnownK :=
  match m.op with
  | 0x04 => ks.set m.kc (if m.mode = 1 then none else some (m.imm % 65536))
  | 0x05 => ks.set m.kc ((ks.getD m.kc none).map (· - 1))
  | _ => ks

/-- Where control may go: a LOOP of a known count goes one way. -/
def succK (ks : KnownK) (i : Nat) (m : MicroW) : List Nat :=
  match m.op, ks.getD m.kc none with
  | 0x05, some k => if k = 0 then [i + 1] else [m.imm % 512]
  | _, _ => microSucc i m

/-- The worst of the paths from instruction i to the next yield point or END, as cost and rows activated in each bank: `none` where one leaves the program or
costs more than 244 column cycles, of which a path of more than `fuel` instructions is one. -/
def worstPath (prog : Nat → Option MicroW) : Nat → PathSum → KnownK → Nat → Option (Nat × Nat × Nat)
  | 0, _, _, _ => none
  | n + 1, p, ks, i =>
    match prog i with
    | none => none
    | some m =>
      let q := pathAdd m (m.rep + 1) p
      if 244 < q.cost then none
      else if isYield m then some (q.cost, q.even, q.odd)
      else
        (succK ks i m).foldl (fun acc j =>
          match acc, worstPath prog n q (stepK ks m) j with
          | some a, some b => some (max a.1 b.1, max a.2.1 b.2.1, max a.2.2 b.2.2)
          | _, _ => none) (some (0, 0, 0))

def noK : KnownK := [none, none, none, none]

/-- The instructions that control reaches from `acc`, in `n` rounds. -/
def reachN (prog : Nat → Option MicroW) : Nat → List Nat → List Nat
  | 0, acc => acc
  | n + 1, acc => reachN prog n (acc.foldl (fun a i => match prog i with
    | some m => (microSucc i m).foldl (fun a j => if a.contains j then a else a ++ [j]) a
    | none => a) acc)

/-- Where segments start: the entry point and what follows each yield point that control reaches (R90). -/
def segStarts (prog : Nat → Option MicroW) (entry : Nat) (reach : List Nat) : List Nat :=
  entry :: reach.flatMap fun i => match prog i with
    | some m => if isYield m then microSucc i m else []
    | none => []

/-- R90 for a program of micro-instruction words placed at `entry`: item by item. -/
def loaderOk (entry : Nat) (words : List W64) (alley : Bool) : Bool :=
  let ms := words.map fun w => microOf w.toNat
  let n := ms.length
  let prog i := if entry ≤ i ∧ i < entry + n then ms[i - entry]? else none
  let reach := reachN prog n [entry]
  0 < n && entry + n ≤ 512 &&
  ms.all (fun m => microWordOk m && (alley || (m.op ≠ 0x12 && m.op ≠ 0x13)) && (!isBranch m || (prog (m.imm % 512)).isSome)) &&
  ((prog (reach.foldl max 0)).map (·.op) = some 0x01) &&
  (segStarts prog entry reach).all fun i => match worstPath prog 246 pathInit noK i with
    | some (_, even, odd) => even ≤ 8 && odd ≤ 8
    | none => false

/-- The instructions of words placed at `entry`. -/
def progOf (entry : Nat) (words : List W64) (i : Nat) : Option MicroW :=
  if entry ≤ i ∧ i < entry + words.length then (words[i - entry]?).map fun w => microOf w.toNat else none

/-- The recorded length of the segment that starts at i (R90): the worst cost of its paths, 1 to 244. -/
def segLength (entry : Nat) (words : List W64) (i : Nat) : Nat :=
  match worstPath (progOf entry words) 246 pathInit noK i with
  | some p => max 1 p.1
  | none => 244

/-! #### The micro-program store and the command area (03 R85, R92) -/

/-- The standard programs' words (R92). -/
def stdWords : List W64 := (List.range 384).map Config.stdWord

/-- Word i of the store. -/
def BUnit.word (x : BUnit) (i : Nat) : W64 := if i < 384 then (if x.std then Config.stdWord i else 0) else tget storeD x.store i

/-- The recorded length of the segment that starts at i. -/
def BUnit.segLenAt (x : BUnit) (i : Nat) : Nat := if i < 384 then segLength 0 stdWords i else tget (fun _ => 244) x.segLen i

/-- The status word (Table BANK-5). -/
def BUnit.statusWord (x : BUnit) : Nat :=
  x.state % 16 * 2 ^ 60 + x.fault % 16 * 2 ^ 56 + x.pc % 512 * 2 ^ 47 + b2n x.poison * 2 ^ 46 +
    ((List.range 4).map fun i => b2n (tget rowD x.openRows i).isSome * 2 ^ (40 + i)).sum + x.log.length % 256 * 2 ^ 32 + x.tag.toNat

/-- The ADD descriptor as column 5 holds it (R104). -/
def addDescBytes (d : AddDesc) : List Byte := [d.form, d.bank, d.col, d.off, BitVec.ofNat 8 (b2n d.wantOld), 0, 0, 0] ++ toBytes 8 d.operand.toNat

/-- The bytes a read of the control row returns, by column (Table BANK-3). -/
def BUnit.controlRead (x : BUnit) (col : Nat) : List Byte :=
  match col with
  | 1 => toBytes 8 x.statusWord
  | 2 => (List.range 4).flatMap fun i => toBytes 4 ((tget rowD x.openRows i).getD 0)
  | 3 => (x.log.take 8).flatMap fun e => toBytes 4 (e.1 + 2 ^ 17 * e.2)
  | 4 => (x.log.drop 8).flatMap fun e => toBytes 4 (e.1 + 2 ^ 17 * e.2)
  | 6 => toBytes 8 x.addOld.toNat ++ [BitVec.ofNat 8 x.addStatus]
  | 7 => match x.poisonRec with
    | some (row, bank, c) => toBytes 4 (row + 2 ^ 17 * bank + 2 ^ 18 * c + 2 ^ 31)
    | none => []
  | _ => []

/-- A codeword read of the command area, 32 bytes of row 0x2_0000 + `row` at column `col` (Tables BANK-2, BANK-3): reserved rows and the fields that are only written
read 0, as do the bytes beyond a field. Result rows are valid once the job has ended. -/
def BUnit.areaRead (x : BUnit) (row col : Nat) : List Byte :=
  let at_ (f : Nat → List Byte) (n k : Nat) : List Byte := (List.range n).flatMap fun i => f (k + i)
  padTo 0 32 (
    if row = 0 then (x.controlRead col).take 32
    else if row = 1 then if col < 8 then mread zeroByte x.desc (32 * col) 32 else []
    else if row < 4 then at_ (fun i => toBytes 8 (x.word i).toNat) 4 (256 * (row - 2) + 4 * col)
    else if row < 8 then mread zeroByte x.table (2048 * (row - 4) + 32 * col) 32
    else if row = 8 then if col < 16 then at_ (fun i => toBytes 2 (tget kD x.exps i).toNat) 16 (16 * col) else []
    else if 16 ≤ row ∧ row < 20 then mread zeroByte x.result (2048 * (row - 16) + 32 * col) 32
    else [])

end Sys2Proof.Machine
end

