-- ==== Sys2Proof/Machine/Controller.lean ====
section
/-! DEFINITION. Sub-channel controllers (02): requests and the commands legal for them (R47, R61 to R64), shares (R62), the maintenance slot (R71), caps. -/
namespace Sys2Proof.Machine

open Sys2Proof

/-- Free for a refresh: neither held nor in refresh. -/
def Bank.free (b : Bank) (now : Nat) : Bool := !b.held && since b.tRef tRFC now

/-- Urgent at the die temperature last read (R67). -/
def State.urgentAt (s : State) (b : Nat) : Bool := (s.bankAt b).urgent (s.sub (subOfBank b)).dieTemp.toNat

/-- Whether bank b is mapped out (R78). -/
def State.bankGone (s : State) (b : Nat) : Bool := (s.sub (subOfBank b)).banksOut.getLsbD (b % 4)

/-! #### Requests (02 R46, R61, R63) -/

/-- The codeword a request touches. -/
def State.reqCw (s : State) (r : Req) : Nat := (s.place r.addr).cw

/-- Requests with no older request to the same codeword (R61). -/
def State.eligible (s : State) (q : List QReq) : List QReq :=
  q.filter fun r => !(q.any fun o => o.id < r.id && s.reqCw o.req = s.reqCw r.req)

/-- Whether an unfinished bank job holds writes to this row (03 R96). -/
def State.jobHolds (s : State) (r : Req) : Bool :=
  let isRead := match r.kind with | .read => true | _ => false
  !isRead && s.jobRow r.addr

/-- What a request's next command is. -/
inductive Cmd where
  | act (row : Nat)
  | col
  | pre
deriving DecidableEq, Repr

def QReq.reads (q : QReq) : Bool := match q.req.kind with
  | .read => true
  | .write off d _ => q.stage = 0 && !(off = 0 && d.length = 32)
  | .add _ => false

/-- Whether a queued request still needs its row. -/
def QReq.needsRow (o : QReq) : Bool := o.stage ≠ 1 || match o.req.kind with | .read => false | _ => true

/-- The bank, row and column of the next write burst of an initialise whose unit is out of service (R75). -/
def SubCh.burstAt (x : SubCh) : Option (InitJob × Nat × Nat × Nat) :=
  match x.inits with
  | [] => none
  | j :: _ => if j.begun then j.bursts.head?.map fun b => (j, b, j.firstRow + j.done / 64, j.done % 64) else none

/-- Whether a request of the sub-channel targets row `r` of bank `b`, maintenance commands among them (R63). -/
def State.rowWanted (s : State) (c b r : Nat) : Bool :=
  let x := s.sub c
  (x.queue.any fun o => (s.place o.req.addr).bank = b && (s.place o.req.addr).row = r && o.needsRow) ||
    (x.scrub.any fun k => x.holder = 4 && k.bank = b && k.row = r && !k.shut) ||
    (x.burstAt.any fun k => x.holder = 5 && k.2.1 = b && k.2.2.1 = r)

/-- Whether a queued request waits for another row of the bank. -/
def State.otherRow (s : State) (c b r : Nat) : Bool :=
  (s.sub c).queue.any fun o => (s.place o.req.addr).bank = b && (s.place o.req.addr).row ≠ r && o.needsRow

/-- A PHY carries the data of one sub-channel at a time for the two that controllers of one index serve on one tile (R81). -/
def State.phyFree (s : State) (c now : Nat) : Bool :=
  (List.range 4).all fun q =>
    let d := c / 64 * 64 + 16 * q + c % 16
    d = c || (s.sub d).serving ≠ (s.sub c).serving || since (s.sub d).tCol tBurst now

/-- The next command that row `row` of bank b needs for a column access, where it is legal now (R47, R63): an open row closes when no request targets it, or after
16 columns while another row waits. A bank whose refresh is urgent or whose targeted refresh is due takes no command before it (R67, R69), but
the write that ends a read, merge and write under way, `own`. -/
def State.rowCmd (s : State) (b row : Nat) (isRead own : Bool) (now : Nat) : Option Cmd :=
  let k := s.bankAt b
  let c := subOfBank b
  if s.bankGone b || (!own && (s.urgentAt b || k.dueRow.isSome)) then none
  else
    match k.openRow with
    | none => if s.actTime b now = now then some (.act row) else none
    | some r =>
      let full := decide (16 ≤ k.cols) && s.otherRow c b r
      if r = row ∧ (own ∨ full = false) then (if s.colTime b isRead now = now ∧ s.phyFree c now then some .col else none)
      else if (full || !s.rowWanted c b r) && k.preTime now = now then some .pre else none

/-- Whether the unit of bank b can take an ADD: its command area holds no command not yet taken (03 R85). Out of service, it is asked for nothing. -/
def State.addFree (s : State) (b : Nat) : Bool := (s.unitAt (unitOfBank b)).oos || (s.unitAt (unitOfBank b)).cmd = 0

/-- The next command of a request, where it is legal now and its bank is not held (R63, R64). A read, merge and write's own write goes on though
its bank is held for it. -/
def State.nextCmd (s : State) (q : QReq) (now : Nat) : Option Cmd :=
  let p := s.place q.req.addr
  let isAdd := match q.req.kind with | .add _ => true | _ => false
  if ((s.bankAt p.bank).held && q.stage ≠ 2) || q.stage = 1 || s.jobHolds q.req || (isAdd && !s.addFree p.bank) then none
  else s.rowCmd p.bank p.row q.reads (q.stage = 2) now

/-- A class's oldest issuable request with its command. -/
def State.oldest (s : State) (c : Nat) (cls now : Nat) : Option (QReq × Cmd) :=
  ((s.eligible (s.sub c).queue).filter fun q => q.req.cls.val = cls).findSome? fun q => (s.nextCmd q now).map fun k => (q, k)

/-! #### Shares (R62) -/

/-- Minimum shares in percent (02 Table STAK-4). -/
def share (cls : Nat) : Nat := match cls with | 1 => 25 | 2 => 20 | 3 => 5 | _ => 0

def SubCh.svc (c : SubCh) (cls : Nat) : Nat := match cls with | 1 => c.svc1 | 2 => c.svc2 | 3 => c.svc3 | _ => 0

/-- The time of the current period during which a class-2 window of the sub-channel has been open that is still open (Table STAK-4). -/
def State.openSvc (s : State) (c now : Nat) : Nat :=
  let l := ([2 * c, 2 * c + 1].filter fun u => (s.unitAt u).inWindow && (s.unitAt u).jobClass = 2).map fun u => (s.unitAt u).openAt
  match l with
  | [] => 0
  | a :: r => now - max (r.foldl min a) (s.sub c).periodStart

/-- The other sub-channel that the controller of the same index serves on one tile after a takeover (R81). -/
def State.pairedSub (s : State) (c : Nat) : Option Nat :=
  ((List.range 4).map fun q => c / 64 * 64 + 16 * q + c % 16).find? fun d => d ≠ c && (s.sub d).serving = (s.sub c).serving && (s.sub d).state ≠ 3

/-- The time of the period so far over which the sub-channel's shares are measured: less what the PHY gave to the other sub-channel of its pair (R81). -/
def State.elapsed (s : State) (c now : Nat) : Nat :=
  now - (s.sub c).periodStart - (s.pairedSub c).elim 0 fun d => (s.sub d).svcAll

/-- The measured part of owed(c) of R63. -/
def State.owed (s : State) (c cls now : Nat) : Bool :=
  ((s.sub c).svc cls + if cls = 2 then s.openSvc c now else 0) * 100 < share cls * s.elapsed c now

/-! #### The maintenance slot (02 R71) -/

/-- Logs MAINT_PAUSE or MAINT_RESUME (11 Table FALT-1). -/
def State.maintPause (s : State) (c act cursor by_ : Nat) : State := s.log 0x0105 (domOf .sub c) (n64 act) (n64 cursor) (n64 by_)
def State.maintResume (s : State) (c act cursor : Nat) : State := s.log 0x0106 (domOf .sub c) (n64 act) (n64 cursor)

def SubCh.cursor (c : SubCh) (act : Nat) : Nat := if act = 4 then c.scrubCur.toNat else if act = 5 then c.initCur.toNat else 0

/-- The fields of a cursor: bank j [1:0], row [18:2], column [24:19] (15 Table REGS-23). -/
def curBank (c : BitVec 25) : Nat := c.toNat % 4
def curRow (c : BitVec 25) : Nat := c.toNat / 4 % 131072
def curCol (c : BitVec 25) : Nat := c.toNat / 524288
def mkCur (bank row col : Nat) : BitVec 25 := BitVec.ofNat 25 (bank + 4 * row + 524288 * col)

/-! An initialise (R75): INIT jobs of class 3 on the units of its banks, and write bursts where a unit is out of service. -/

/-- The units whose banks an initialise covers: that of its pair, or both. -/
def initUnits (c : Nat) (j : InitJob) : List Nat := match j.pair with | some u => [u] | none => [2 * c, 2 * c + 1]

/-- The bank-job descriptor of an INIT of rows [first, first + n) of both banks of a pair (03 Table BANK-14), as the controller makes it for itself: preemptible
(DESIGN CHOICE: R75 does not say; notes/assumptions/62.md). -/
def initDesc (first n : Nat) (pattern : List Byte) : List Byte :=
  List.replicate 24 0 ++ toBytes 2 0x040 ++ [1, 3] ++ List.replicate 100 0 ++
    toBytes 4 first ++ toBytes 4 n ++ toBytes 4 3 ++ List.replicate 20 0 ++ pattern.take 32 ++ List.replicate 64 0

/-- The controller's own INIT job. -/
def initBankJob (id tile : Nat) (j : InitJob) : BankJob :=
  { id := id, init := true, desc := initDesc j.firstRow j.rows j.pattern, domain := 0, service := true, tile := tile, cls := 3, rdBase := 0, rdCount := 0,
    wrBase := j.firstRow, wrCount := j.rows, policy2 := false, group := none }

/-- A request for a window of unit u stands from now (03 R97). -/
def State.askWindow (s : State) (u : Nat) : State := s.setUnit u { s.unitAt u with asked := s.time }

/-- A job joins the jobs of unit u. -/
def State.pushJob (s : State) (u : Nat) (j : BankJob) : State :=
  let c := u / 2
  let x := s.unitAt u
  let s1 := (s.setUnit u { x with jobs := x.jobs ++ [{ j with id := (s.sub c).nextId }] }).setSub c { s.sub c with nextId := (s.sub c).nextId + 1 }
  if x.jobs.isEmpty then s1.askWindow u else s1

/-- The first initialise of the sub-channel begins once its slot is held: its INIT jobs join their units, and banks whose unit is out of service are left to bursts. -/
def State.beginInit (s : State) (c : Nat) : State :=
  let x := s.sub c
  match x.inits with
  | [] => s
  | j :: r =>
    if x.holder ≠ 5 ∨ j.begun then s
    else
      let us := (initUnits c j).filter fun u => !(s.unitAt u).oos
      let bs := (initUnits c j).filter (fun u => (s.unitAt u).oos) |>.flatMap fun u => [2 * u, 2 * u + 1]
      let s1 := s.setSub c { x with inits := { j with begun := true, units := us, bursts := bs, done := 0, id := x.nextId } :: r, nextId := x.nextId + 1,
                                    initCur := mkCur (if us = [] then bs.headD 0 % 4 else us.headD 0 * 2 % 4) j.firstRow 0 }
      us.foldl (fun s u => s.pushJob u (initBankJob 0 x.serving j)) s1

/-- An activity asks for the slot: it takes a free slot, or waits; asked again while waiting or holding, nothing changes. -/
def State.askSlot (s : State) (c act : Nat) : State :=
  let x := s.sub c
  if x.holder = act ∨ x.waiting.contains act then s
  else if x.holder = 0 then (s.setSub c { x with holder := act }).beginInit c
  else s.setSub c { x with waiting := setIns act x.waiting }

/-- The slot passes to the waiting activity of highest precedence; a paused one resumes at its cursor, with MAINT_RESUME. -/
def State.passSlot (s : State) (c : Nat) : State :=
  let x := s.sub c
  match x.waiting with
  | [] => s.setSub c { x with holder := 0 }
  | a :: r =>
    let paused := (a = 4 ∧ x.scrubPaused) ∨ (a = 5 ∧ x.initPaused)
    let s1 := s.setSub c { x with holder := a, waiting := r, scrubPaused := if a = 4 then false else x.scrubPaused,
                                  initPaused := if a = 5 then false else x.initPaused }
    (if paused then s1.maintResume c a (x.cursor a) else s1).beginInit c

/-- An activity gives up its request for the slot, or the slot. -/
def State.leaveSlot (s : State) (c act : Nat) : State :=
  let x := s.sub c
  if x.holder = act then s.passSlot c else s.setSub c { x with waiting := x.waiting.filter (· ≠ act) }

/-- Whether an activity of higher precedence than initialise waits for the slot. -/
def SubCh.initStops (x : SubCh) : Bool := x.holder ≠ 5 || x.waiting.any fun a => a < 5

/-! #### Caps (03 R97, 14 R398, R400) -/

/-- The window cap in force for a stack: 1 above 100 °C and while FAST_THROTTLE_N is low (15 R414). -/
def State.capInForce (s : State) (k : Nat) : Nat :=
  let x := s.stackAt k
  if s.pw.throttleLow ∨ 100 < x.temp then 1 else x.cap

/-- Units of a die that are inside a window. -/
def State.dieOpen (s : State) (d : Nat) : Nat := (List.range 8).countP fun u => (s.unitAt (8 * d + u)).inWindow

end Sys2Proof.Machine
end

