-- ==== Sys2Proof/Machine/UnitCmds.lean ====
section
/-! DEFINITION. Compute windows, unit commands, job ends (03 R93 to R101, R104, R116, R117, R121; 06 R204; 11 R325). -/
namespace Sys2Proof.Machine

open Sys2Proof

/-- Physical address of pair-row r of unit u in a BANK_LAYOUT segment (02 R52). -/
def pairAddr (u r : Nat) : Nat := u / 32 * 2 ^ 34 + r / 512 * 2 ^ 26 + u % 32 * 2 ^ 21 + r % 512 * 4096

/-- Writes back and invalidates every line of pair-rows [r, r + n) of unit u (03 R120). -/
def State.flushRows (s : State) (u r n : Nat) : State :=
  (List.range n).foldl (fun s i =>
    (List.range 64).foldl (fun s k =>
      let p := pairAddr u (r + i) + 64 * k
      match s.plazaGet p with
      | some l => (s.lineBack p l).plazaDrop p
      | none => s) s) s

/-- The 16-byte completion record of a bank job (06 Table TILE-14). -/
def bankRecord (outcome code : Nat) (poison : Bool) (time : W64) : List Byte :=
  [BitVec.ofNat 8 outcome, BitVec.ofNat 8 code, BitVec.ofNat 8 (b2n poison), 0, 0, 0, 0, 0] ++ toBytes 8 time.toNat

/-- Writes a job's completion record and signals its counter (06 R204). -/
def State.finishBank (s : State) (u : Nat) (j : BankJob) (outcome code : Nat) (poison : Bool) : State :=
  (s.weldWrite j.tile (leAt j.desc 52 4) (bankRecord outcome code poison s.time) false).sendSignal
    ⟨ctrId (leAt j.desc 48 4), 1, .bank (unitId u)⟩

/-- Reports the poison record's codeword as UE_DETECTED, with the unit, the bank and the row, and clears the record (03 R100). -/
def State.reportPoison (s : State) (u : Nat) : State :=
  let x := s.unitAt u
  match x.poisonRec with
  | none => s
  | some (row, bank, col) =>
    let s1 := s.setUnit u { x with poisonRec := none }
    s1.reportUe (unitCw u bank row col) (u / 2) (n64 (2 ^ 63 + u * 2 ^ 32 + bank * 2 ^ 17 + row))
      (s1.ownerAt (pairAddr u row)) .bank

/-- Adds the unit's logged activations to the trackers of its banks and clears the log (03 R95). -/
def State.takeLog (s : State) (u : Nat) : State :=
  let x := s.unitAt u
  let s1 := x.log.foldl (fun s e =>
    let b := 2 * u + e.2
    s.setBank b { s.bankAt b with tracker := trackAct (s.bankAt b).tracker e.1 }) s
  s1.setUnit u { s1.unitAt u with log := [] }

/-- The controller reads the control row: UNIT_STATUS shows state, fault and tag as the status word has them (15 R417). -/
def State.readStatus (s : State) (u : Nat) : State :=
  let x := s.unitAt u
  let w := leAt (x.areaRead 0 1) 0 8
  s.setUnit u { x with shown := (bitsOf w 63 60, bitsOf w 59 56, BitVec.ofNat 32 w) }

/-- A unit's window ends at `now`: its rows are precharged and its banks are free (03 R94); where it has work left, a window is asked for again. -/
def State.endWindow (s : State) (u now : Nat) : State :=
  let x := s.unitAt u
  let s1 := [2 * u, 2 * u + 1].foldl (fun s b => s.setBank b { s.bankAt b with hold := .none, openRow := none, tPre := some now }) s
  let sc := s1.sub (u / 2)
  -- while the other pair's class-2 window is open, only the time before its OPEN is this window's alone
  let y := s1.unitAt (twinUnit u)
  let till := if y.inWindow && y.jobClass = 2 then min now y.openAt else now
  let s2 := s1.setSub (u / 2) { sc with svc2 := if x.jobClass = 2 then sc.svc2 + (till - max x.openAt sc.periodStart) else sc.svc2,
                                        svc3 := if x.jobClass = 3 then sc.svc3 + (now - max x.openAt sc.periodStart) else sc.svc3 }
  s2.setUnit u { x with inWindow := false, openRows := [], times := [], cmd := 0, rewrote := false, asked := s.time }

/-- The controller writes the descriptor row, with the correction policy as it stands (R100), and the table store for a new job, zeroes beyond tab_len included
(06 R204, 10 R299). In fence mode the slice's lines of its ranges are written back and invalidated before (R120). -/
def State.loadJob (s : State) (u : Nat) (j : BankJob) : State :=
  let src := leAt j.desc 32 4
  let len := leAt j.desc 36 4
  let s1 := if bitAt (byteAt j.desc 26).toNat 2 then (s.flushRows u j.rdBase j.rdCount).flushRows u j.wrBase j.wrCount else s
  let j1 := { j with policy2 := (s1.stackAt (u / 128)).policy2 }
  let tab := if src = 0xFFFFFFFF then [] else (s1.tileAt j.tile).weldRead src (min len 8192)
  let s2 := if src = 0xFFFFFFFF then s1 else s1.weldTouch j.tile src (min len 8192) false
  let x := s2.unitAt u
  s2.setUnit u { x with desc := mwrite zeroByte [] 0 (descRow j1), table := mwrite zeroByte [] 0 tab, holds := true, wrote := false, acted := false, prog := 0,
                        jobs := j1 :: x.jobs.drop 1 }

/-! #### Alley pairs (03 R114 to R116) -/

/-- The unit at an alley position of a stack (R114). -/
def alleyUnit (pos : Nat) : Nat := let d := pos / 8 % 16; 8 * d + (if d % 2 = 0 then pos % 8 else 7 - pos % 8)

/-- The alley position of a unit in its stack. -/
def alleyPos (u : Nat) : Nat := let d := u / 8 % 16; 8 * d + (if d % 2 = 0 then u % 8 else 7 - u % 8)

/-- The peer that the unit's first job names, where that is an alley job (Table BANK-6 flag bit 1, parameter p3). -/
def BUnit.alleyPeer (x : BUnit) (u : Nat) : Option Nat :=
  match x.jobs with
  | [] => none
  | j :: _ => if bitAt (byteAt j.desc 26).toNat 1 then some (u / 128 * 128 + alleyUnit (leAt j.desc 140 4 % 128)) else none

/-- Directions in which the first job of unit u uses its path to v, true for upward: a send toward the peer, a receive from it, another
program perhaps both. -/
def BUnit.alleyDirs (x : BUnit) (u v : Nat) : List Bool :=
  let up := alleyPos u < alleyPos v
  match (x.jobs.head?.map fun j => leAt j.desc 24 2 % 512) with
  | some 0x170 => [up]
  | some 0x178 => [!up]
  | _ => [true, false]

/-- Whether the paths of two pairs of units of one stack share a hop. -/
def pathsMeet (u v w z : Nat) : Bool :=
  max (min (alleyPos u) (alleyPos v)) (min (alleyPos w) (alleyPos z)) < min (max (alleyPos u) (alleyPos v)) (max (alleyPos w) (alleyPos z))

/-- Whether every hop between u and v is free in the directions used: reserved by no other pair's open windows, and not barred (R116, 14 R391). -/
def State.hopsFree (s : State) (u v : Nat) : Bool :=
  (s.unit.all fun w => w.1 = u || w.1 = v || !w.2.inWindow || w.1 / 128 ≠ u / 128 || (match w.2.alleyPeer w.1 with
    | none => true
    | some z => z = u || z = v || !pathsMeet u v w.1 z || ((s.unitAt u).alleyDirs u v).all fun d => !(w.2.alleyDirs w.1 z).contains d)) &&
  s.unit.all fun w => w.1 / 128 ≠ u / 128 || !w.2.barHi || !(min (alleyPos u) (alleyPos v) ≤ alleyPos w.1 && alleyPos w.1 < max (alleyPos u) (alleyPos v))

/-- Whether a window of unit u has been asked for and nothing but the cap and its turn keeps it (02 Table STAK-5, 03 R93, R98; R75 for a controller's INIT job). -/
def State.windowReady (s : State) (u now : Nat) : Bool :=
  let x := s.unitAt u
  let sc := s.sub (u / 2)
  !x.inWindow && !x.oos && !x.jobs.isEmpty && x.cmd = 0 && sc.state = 1 && sc.holder ≠ 1 && !sc.waiting.contains 1 &&
    (!(x.jobs.head?.any (·.init)) || !sc.initStops) &&
    ([2 * u, 2 * u + 1].all fun b =>
      let bk := s.bankAt b
      !s.bankGone b && bk.free now && !s.urgentAt b && bk.dueRow.isNone && (bk.openRow.isNone || bk.preTime now = now))

/-- Windows of a die start in the order in which they were asked for, the lower unit first among equals (R97). A window that something else keeps from starting
keeps no other waiting (notes/assumptions/63.md). -/
def State.windowTurn (s : State) (u now : Nat) : Bool :=
  (List.range 8).all fun i =>
    let w := u / 8 * 8 + i
    let a := (s.unitAt w).asked.toNat
    let b := (s.unitAt u).asked.toNat
    w = u || !s.windowReady w now || b < a || (a = b && decide (u < w))

/-- Whether a window may start on unit u now, its alley partner apart: the cap of its die has room (R97). -/
def State.windowOne (s : State) (u now : Nat) : Bool := s.windowReady u now && s.dieOpen (u / 8) < s.capInForce (u / 128)

/-- An alley job starts with its peer's, both windows at once, over free hops; each counts toward the cap of its die (R116). -/
def State.alleyOk (s : State) (u now : Nat) : Bool :=
  match (s.unitAt u).alleyPeer u with
  | none => true
  | some v => v ≠ u && s.windowOne v now && (s.unitAt v).alleyPeer v = some u && s.hopsFree u v &&
      (u / 8 ≠ v / 8 || s.dieOpen (u / 8) + 1 < s.capInForce (u / 128))

/-- Whether a window may start on unit u now (02 Table STAK-5, 03 R93, R97, R116). -/
def State.windowOk (s : State) (u now : Nat) : Bool := s.windowOne u now && s.windowTurn u now && s.alleyOk u now

/-- The controller writes a command to a unit. -/
def State.command (s : State) (u cmd now : Nat) : State := s.setUnit u { s.unitAt u with cmd := cmd, decided := now, rewrote := false }

/-- The controller grants a window start: open rows of the pair are precharged, and OPEN is written (03 R94). -/
def State.startOne (s : State) (u now : Nat) : State :=
  let x := s.unitAt u
  match x.jobs with
  | [] => s
  | j :: _ =>
    let s1 := if x.holds then s else s.loadJob u j
    let x1 := s1.unitAt u
    let s2 := (s1.setUnit u { x1 with inWindow := true, openAt := now }).command u 1 now
    [2 * u, 2 * u + 1].foldl (fun s b =>
      let s1 := s.rowClose b now
      s1.setBank b { s1.bankAt b with hold := .window x1.preempt, cols := 0 }) s2

/-- A window start, with the peer's for an alley job (R116). -/
def State.startWindow (s : State) (u now : Nat) : State :=
  match (s.unitAt u).alleyPeer u with
  | none => s.startOne u now
  | some v => (s.startOne u now).startOne v now

/-- A unit's registers and latches at the start of a job: zeroed, x_init loaded (10 R299). -/
def BUnit.begin (x : BUnit) (tag : W32) : BUnit :=
  { x with state := 1, fault := 0, pc := x.entry, poison := false, tag := tag, result := [], accs := [], recs := [], log := [],
           openRows := [], k := [], cmd := 0, rewrote := false,
           x := (List.range 16).foldl (fun t i => tput xD t i (BitVec.ofNat 24 (x.dField (64 + 4 * i) 4))) [] }

/-- OPEN (03 Table BANK-4, 10 R299): starts the job on an IDLE, DONE or FAULT unit, resumes a SUSPENDED one. -/
def execUnitOpen (u : UnitId) (tag : W32) (s : State) : Host.Outcome State Fault Refusal :=
  let x := s.unitAt u
  if x.cmd ≠ 1 ∨ x.oos then .next s
  else if x.state = 0 ∨ x.state = 4 ∨ x.state = 5 then .next (s.setUnit u (x.begin tag))
  else if x.state = 3 then .next (s.setUnit u { x with state := 1, tag := tag, cmd := 0, rewrote := false, log := [] })
  else .next s

/-- STEP (03 Table BANK-4): a YIELDED unit runs its next segment. -/
def execUnitStep (u : UnitId) (tag : W32) (s : State) : Host.Outcome State Fault Refusal :=
  let x := s.unitAt u
  if x.cmd = 2 ∧ x.state = 2 then .next (s.setUnit u { x with state := 1, tag := tag, cmd := 0, rewrote := false }) else .next s

/-- What ABORT does to the job that unit u holds (Table BANK-4): the job ends and its state is discarded. -/
def State.abortUnit (s : State) (u : Nat) (tag : W32) : State :=
  let x := s.unitAt u
  let s1 := s.takeLog u
  let s2 := if x.inWindow then s1.endWindow u (1000 * s.now) else s1
  let y := s2.unitAt u
  s2.setUnit u { y with state := 0, tag := tag, holds := false, jobs := y.jobs.drop 1, result := [], accs := [], recs := [],
                        openRows := [], pc := 0, cmd := 0, asked := s.time }

/-- Whether a job belongs to a step-group whose attempt is aborted (11 R312). -/
def State.jobDoomed (s : State) (j : BankJob) : Bool :=
  j.group.any fun m => (s.sv.model.lookup m).any fun x => x.group.any (·.replay)

/-- Whether the job that unit u holds is to be aborted at its next yield point or window end (11 R312). -/
def State.unitDoomed (s : State) (u : Nat) : Bool := (s.unitAt u).holds && (s.unitAt u).jobs.head?.any s.jobDoomed

/-- CLOSE (03 R95): the window ends at the yield point and the unit keeps its job, SUSPENDED; a job of an aborted attempt ends there (11 R312). -/
def execUnitClose (u : UnitId) (tag : W32) (s : State) : Host.Outcome State Fault Refusal :=
  let x := s.unitAt u
  if x.cmd = 3 ∧ x.state = 2 then
    let s1 := s.endWindow u (1000 * s.now)
    let s2 := s1.setUnit u { s1.unitAt u with state := 3, tag := tag }
    .next (if s2.unitDoomed u then s2.abortUnit u (tag + 1) else s2)
  else .next s

/-- ABORT (03 Table BANK-4). DESIGN CHOICE: no completion record is written and no counter signalled, for the spec gives an aborted job neither outcome nor record
(notes/assumptions/113.md). -/
def execUnitAbort (u : UnitId) (tag : W32) (s : State) : Host.Outcome State Fault Refusal :=
  if (s.unitAt u).holds then .next (s.abortUnit u tag) else .next s

/-! #### Atomic adds (02 R76, 03 R104) -/

/-- Size in bytes of an ADD form's element. -/
def addSize (d : AddDesc) : Nat := addBits d.form.toNat / 8

/-- Whether a descriptor names one naturally aligned element of a codeword of one of the unit's banks. -/
def addDescOk (d : AddDesc) : Bool :=
  d.bank.toNat < 2 && d.form.toNat < 4 && d.col.toNat < 64 && d.off.toNat + addSize d ≤ 32 && d.off.toNat % addSize d = 0

/-- Removes a request that is done; stopped requests enter where there is room (R46). -/
def State.dropReq (s : State) (c id : Nat) : State :=
  let x := s.sub c
  (s.setSub c { x with queue := x.queue.filter fun o => o.id ≠ id }).drain c

/-- The ADD of a request on its codeword, by the bank's unit or, where that is out of service, by the controller (notes/assumptions/114.md): the old value where it is
asked for, the status, and the poison record, which the controller then reads. The request is answered and gone; tWR runs from the unit's
completion, 20 ns on (R104). -/
def State.addGo (s : State) (q : QReq) (d : AddDesc) (now : Nat) (errs : List SymErr) : State :=
  let p := s.place q.req.addr
  let c := subOfBank p.bank
  let u := unitOfBank p.bank
  let (old, st, r, s1) := s.addAt p.cw d.off.toNat d.form.toNat d.operand.toNat (s.stackAt (c / 64)).policy2 errs
  let x := s1.unitAt u
  let back := if d.wantOld then n64 old else 0
  let rec1 := if x.poisonRec.isNone ∧ r.ue then some (p.row, p.bank % 2, p.col) else x.poisonRec
  let s2 := (s1.setUnit u { x with addDesc := d, addOld := back, addStatus := st, poisonRec := rec1, addReq := none }).reportPoison u
  let s3 := s2.setBank p.bank { s2.bankAt p.bank with tWr := some (now + 20000), hold := .none }
  (s3.setSub c { s3.sub c with resp := some ⟨q.req, (toBytes 8 back.toNat).take (addSize d), st = 1⟩ }).dropReq c q.id

/-- UNIT_ADD (03 R104, Table BANK-4): the unit performs the ADD that the controller has written into its command area and copies the command's tag. -/
def execUnitAdd (u : UnitId) (d : AddCmd) (s : State) : Host.Outcome State Fault Refusal :=
  let x := s.unitAt u
  match x.addReq.bind fun id => (s.sub (u / 2)).queue.find? fun q => q.id = id with
  | none => .next s
  | some q =>
    if x.cmd ≠ 5 ∨ x.oos ∨ x.addDesc ≠ d.desc ∨ addDescOk d.desc = false then .next s
    else .next ((s.setUnit u { x with cmd := 0, rewrote := false, tag := d.tag }).addGo q d.desc (1000 * s.now) d.errs)

/-! #### Yield points (03 R95 to R99) -/

/-- Whether a held request of the pair is one that a yield point admits: a class-0 read or atomic, to a codeword for which no older request waits (03 R95, 02 R61). -/
def admitted (s : State) (u : Nat) (q : QReq) : Bool :=
  let isWrite := match q.req.kind with | .write .. => true | _ => false
  let b := (s.place q.req.addr).bank
  q.req.cls.val = 0 && !isWrite && q.stage = 0 && (b = 2 * u || b = 2 * u + 1) && !s.jobHolds q.req && !s.bankGone b

/-- Carries out one admitted request from `now` on: its row is opened unless an earlier one has opened it, and its column command runs. A read takes the codeword
as it stands (R96); an atomic is performed, its codeword meeting the errors listed for its place. -/
def State.passReq (s : State) (now : Nat) (errs : List ScrubErr) (q : QReq) : State :=
  let p := s.place q.req.addr
  let c := subOfBank p.bank
  match q.req.kind with
  | .add d =>
    let s1 := (s.rowOpen p.bank p.row now).colGo p.bank true 0 now
    let k := s1.bankAt p.bank
    let s2 := s1.addGo q d (k.tRd.getD now) (errsOf errs (runKey (p.bank % 2) p.row p.col))
    s2.setBank p.bank { s2.bankAt p.bank with hold := k.hold }
  | _ =>
    let s1 := (s.rowOpen p.bank p.row now).colGo p.bank true 0 now
    let m := s1.sampleAt q.req.addr
    s1.setSub c { s1.sub c with queue := (s1.sub c).queue.map (fun o => if o.id = q.id then { o with stage := 1, sample := some m } else o),
                                out := (s1.sub c).out ++ [q.id] }

/-- When the rows that the unit has open in bank b (0 even, 1 odd) may be precharged. -/
def BUnit.closeTime (x : BUnit) (b now : Nat) : Nat :=
  [2 * b, 2 * b + 1].foldl (fun t i =>
    let h := tget (fun _ => noHalf) x.times i
    afterEv h.wr tWR (afterEv h.rd tRTP (afterEv h.act tRAS t))) now

/-- Whether the unit has a row open in bank b. -/
def BUnit.rowsIn (x : BUnit) (b : Nat) : List Nat := [0, 1].filterMap fun h => tget rowD x.openRows (2 * b + h)

/-- Targeted refreshes of bank b that are due, one after the other (R95 step 3). -/
def State.dueRefreshes (s : State) (b now : Nat) : State :=
  ((s.bankAt b).tracker.filter fun e => (s.bankAt b).trigger ≤ e.2).foldl (fun s e => s.refreshAt b (some e.1) now) s

/-- Urgent refreshes of bank b, until it is urgent no more (R95 step 4). -/
def State.urgentRefreshes (s : State) (b now : Nat) : State :=
  let limit := debtLimit (s.sub (subOfBank b)).dieTemp.toNat
  (List.range ((s.bankAt b).debtI - limit + 1).toNat).foldl (fun s _ => s.refreshAt b none now) s

/-- The rows that the unit had open in bank b are activated again after an intervention, counting in the tracker, and the bank is the window's again
(R95 step 6, 02 R70). Answers when the last may be used. -/
def State.reopenRows (s : State) (u b now : Nat) : Nat × State :=
  let s1 := s.rowClose b now
  let (t, s2) := ((s.unitAt u).rowsIn (b % 2)).foldl (fun acc r =>
    let s1 := acc.2.rowAct b r now
    ((s1.bankAt b).tAct.getD now + tRCD, s1)) (now, s1)
  (t, s2.setBank b { s2.bankAt b with openRow := none })

/-- Steps 1 to 6 of R95 on one unit, the status having been read at `now`; answers when they are done. -/
def State.intervene (s : State) (u now : Nat) (errs : List ScrubErr) : Nat × State :=
  let c := u / 2
  let held := (s.eligible (s.sub c).queue).filter (admitted s u)
  let r := (Run.mk s.dr u (s.unitAt u) errs).segment
  let x := if r.x.fault = 0 then r.x else { r.x with state := 5 }
  let s1 := ((({ s with dr := r.d }.setUnit u x).readStatus u).takeLog u).reportPoison u
  if x.state = 5 then (now, s1)
  else
    let adm := if x.preempt then held else []
    let used := [2 * u, 2 * u + 1].filter fun b =>
      (s1.bankAt b).dueRow.isSome || s1.urgentAt b || adm.any fun q => (s1.place q.req.addr).bank = b
    let s2 := used.foldl (fun s b =>
      if ((s.unitAt u).rowsIn (b % 2)).isEmpty then s
      else s.setBank b { s.bankAt b with tPre := some ((s.unitAt u).closeTime (b % 2) now) }) s1
    let s3 := used.foldl (fun s b => s.dueRefreshes b now) s2
    let s4 := used.foldl (fun s b => s.urgentRefreshes b now) s3
    let s5 := adm.foldl (fun s q => s.passReq now errs q) s4
    used.foldl (fun acc b => let (t, s1) := acc.2.reopenRows u b now; (max acc.1 t, s1)) (now, s5)

/-- Whether the next segment and its closing precharge end within 2,000 ns of the window's OPEN (03 R95 step 7). -/
def BUnit.fits (x : BUnit) (now : Nat) : Bool := now + 13500 + x.segLenAt x.pc * 2500 + 18000 ≤ x.openAt + 2000000

/-- Whether the window goes on at its yield point: the next segment fits, and an INIT job of an initialise keeps the slot (R95 step 7, R99). -/
def State.goesOn (s : State) (u now : Nat) : Bool :=
  let x := s.unitAt u
  x.fits now && (!(x.jobs.head?.any (·.init)) || !(s.sub (u / 2)).initStops)

/-- The cursor of an initialise: the first codeword that its next segment writes (R99). -/
def State.moveInit (s : State) (u : Nat) : State :=
  let x := s.unitAt u
  let c := u / 2
  if x.jobs.head?.any (·.init) ∧ (((s.sub c).inits.head?.bind fun j => j.units.head?) = some u) then
    s.setSub c { s.sub c with initCur := mkCur (2 * u % 4) (x.param 0 + x.prog) 0 }
  else s

/-- The record of HW-class faults within the last second, with this one (11 R325). -/
def recentHw (l : List W64) (now : W64) : List W64 := (l.filter fun t => now - t ≤ 1000000000) ++ [now]

/-- A job that unit u no longer runs leaves it. A controller's INIT job leaves its rows to write bursts unless they are done (R75); any other
is answered with the outcome given (06 R204). -/
def State.endJob (s : State) (u : Nat) (j : BankJob) (done : Bool) (outcome code : Nat) (poison : Bool) : State :=
  if j.init then
    let c := u / 2
    let x := s.sub c
    s.setSub c { x with inits := match x.inits with
      | [] => []
      | i :: r => { i with units := i.units.filter (· ≠ u), bursts := if done then i.bursts else i.bursts ++ [2 * u, 2 * u + 1] } :: r }
  else s.finishBank u j outcome code poison

/-- A unit is gone: jobs not yet begun are refused with OFFLINE, R43 then applying to their work (02 R80, 06 R204). -/
def State.unitGone (s : State) (u : Nat) : State :=
  let x := s.unitAt u
  if x.oos then s
  else
    let rest := if x.holds then x.jobs.drop 1 else x.jobs
    let s1 := rest.foldl (fun s j => s.endJob u j false 2 8 false) s
    let y := s1.unitAt u
    s1.setUnit u { y with oos := true, jobs := y.jobs.take (y.jobs.length - rest.length) }

/-- A unit leaves service, and OUT_OF_SERVICE is logged (11 R325). -/
def State.unitOut (s : State) (u : Nat) : State := if (s.unitAt u).oos then s else (s.unitGone u).outOfService (domOf .unit u)

/-- The unit's fault is logged, with the unit, the code and the tag; two HW-class faults within 1 s take the unit out of service (11 R325). -/
def State.unitFault (s : State) (u : Nat) : State :=
  let x := s.unitAt u
  let s1 := s.detect 0x0202 (domOf .die (u / 8)) (n64 u) (n64 x.fault) (x.tag.setWidth 64)
  if x.fault = 3 ∨ x.fault = 4 then
    let l := recentHw x.hwTimes s.time
    let s2 := s1.setUnit u { s1.unitAt u with hwTimes := l }
    if 2 ≤ l.length then s2.unitOut u else s2
  else s1

/-- A status read that finds the tag unchanged after a command was written: the die has discarded it. It is written once more; a second discard is a unit fault of
code UNIT_HW (R86). An ADD so lost is its request's to issue again. -/
def State.discarded (s : State) (u now : Nat) : State :=
  let x := s.unitAt u
  if x.rewrote = false then s.setUnit u { x with rewrote := true, decided := now }
  else if x.cmd = 5 then
    let c := u / 2
    let s1 := s.setSub c { s.sub c with queue := (s.sub c).queue.map fun o => if x.addReq = some o.id then { o with stage := 0 } else o }
    let s2 := [2 * u, 2 * u + 1].foldl (fun s b => if (s.bankAt b).hold = .codeword x.addDesc.col.toNat ∧ b % 2 = x.addDesc.bank.toNat then
      s.setBank b { s.bankAt b with hold := .none } else s) s1
    let s3 := (s2.setUnit u { x with cmd := 0, rewrote := false, addReq := none, fault := 4 }).unitFault u
    s3.setUnit u { s3.unitAt u with fault := x.fault }
  else (s.setUnit u { x with state := 5, fault := 4, cmd := 0, rewrote := false }).readStatus u

/-- The units whose yield points the controllers handle together: both of an alley pair, once neither runs (R116). -/
def State.yieldUnits (s : State) (u : Nat) : List Nat :=
  match (s.unitAt u).alleyPeer u with
  | none => [u]
  | some v => if (s.unitAt v).inWindow ∧ (s.unitAt v).alleyPeer v = some u then (if (s.unitAt v).state = 1 then [] else if (s.unitAt v).state = 2 then [u, v] else [u]) else [u]

/-- YIELD_POINT (03 R95): the status is read, then the tracker, refreshes and admitted reads have their turn, and STEP or CLOSE is written, or ABORT to a job of an
aborted attempt (11 R312); a parity error ends the
job with UNIT_HW (R121). Where a command still stands in the command area, the status read shows whether it was discarded (R86). -/
def execYieldPoint (u : UnitId) (y : YieldRead) (s : State) : Host.Outcome State Fault Refusal :=
  let x := s.unitAt u
  let now := y.now
  if x.cmd ≠ 0 then .next (if x.decided < now then s.discarded u now else s)
  else if x.inWindow = false then .next s
  else if y.parity ∧ (x.state = 1 ∨ x.state = 2) then .next ((s.setUnit u { x with state := 5, fault := 4 }).readStatus u)
  else if x.state ≠ 2 then .next s
  else
    let us := s.yieldUnits u
    let (t, s1) := us.foldl (fun acc w => let (t, s1) := acc.2.intervene w now (if w = u.val then y.errs else []); (max acc.1 t, s1)) (now, s)
    let s2 := us.foldl (fun s w => s.moveInit w) s1
    let go := us.all fun w => (s2.unitAt w).state ≠ 2 || s2.goesOn w t
    .next (us.foldl (fun s w =>
      if s.unitDoomed w then s.abortUnit w ((s.unitAt w).tag + 1)
      else if (s.unitAt w).state = 2 then s.command w (if go then 2 else 3) t else s) s2)

/-! #### Job ends -/

/-- Whether the unit waits on ARCV for a chunk that has not come. -/
def BUnit.awaits (x : BUnit) : Bool := x.state = 1 && (microOf (x.word x.pc).toNat).op = 0x13 && x.alleyIn.isEmpty

/-- ALLEY_TIMEOUT (03 R117): u's chunk from its peer v has not come within the delay; both jobs of the pair end. -/
def execAlleyTimeout (u v : UnitId) (s : State) : Host.Outcome State Fault Refusal :=
  let x := s.unitAt u
  let y := s.unitAt v
  if x.holds ∧ y.holds ∧ u ≠ v ∧ x.alleyPeer u = some v.val ∧ x.awaits then
    let s1 := s.setUnit u { x with state := 5, fault := 3 }
    .next (s1.setUnit v { s1.unitAt v with state := 5, fault := 3 })
  else .next s

end Sys2Proof.Machine
end

