-- ==== Sys2Proof/Machine/ThreadCtl.lean ====
section
/-! DEFINITION. Control, synchronisation and issue instructions (06 R174, R177, R201 to R206; 07 R213 to R220), and the start of a queued array
job, which tests page entries (05 R145). -/
namespace Sys2Proof.Machine

open Sys2Proof

/-! #### Jumps -/

/-- pc + 4 · off (Table TILE-4). -/
def brTarget (x : Thr) (f : BrF) : W64 := x.pc + 4 * f.off.signExtend 64

def execBr (t : ThrId) (x : BrF) (s : State) : Host.Outcome State Fault Refusal :=
  .next (s.onIssue (.br t x) t [r5 x.a] true fun th =>
    s.setThr t { th with pc := if (th.rd x.a ≠ 0) = x.c then brTarget th x else th.pc + 4 })

def execJal (t : ThrId) (x : BrF) (s : State) : Host.Outcome State Fault Refusal :=
  .next (s.onIssue (.jal t x) t [r5 x.a] (!x.c) fun th => s.setThr t { th.wr x.a (th.pc + 4) with pc := brTarget th x })

def execJr (t : ThrId) (x : RegF) (s : State) : Host.Outcome State Fault Refusal :=
  .next (s.onIssue (.jr t x) t [r5 x.a, r5 x.d] (x.f == 0 && x.b == 0) fun th => s.setThr t { th.wr x.d (th.pc + 4) with pc := th.rd x.a })

/-- EXIT (R174): the thread waits until its earlier accesses are performed; THREAD_EXIT_COMPLETE ends it. -/
def execExit (t : ThrId) (x : SysF) (s : State) : Host.Outcome State Fault Refusal :=
  .next (s.onIssue (.exit t x) t [] (x.a == 0 && x.b == 0 && x.imm == 0) fun _ => s.block t .exit)

/-- SREAD (Table TILE-5): 0 TIME, 1 identity, 2 domain with SERVICE in bit 15. -/
def specialValue (s : State) (t : Nat) (x : Thr) (c : Nat) : W64 :=
  match c with
  | 0 => s.time
  | 1 => n64 (t / 2048 * 4096 + t % 2048)
  | _ => n64 (x.domain.toNat + if x.service then 2 ^ 15 else 0)

def execSread (t : ThrId) (x : SysF) (s : State) : Host.Outcome State Fault Refusal :=
  .next (s.onRegs (.sread t x) t [r5 x.a] (x.b == 0 && x.imm.toNat < 3) fun th => th.wr x.a (specialValue s t th x.imm.toNat))

/-! #### Synchronisation (R206) -/

/-- SIGNAL: leaves the tile once the accesses of its release scope are performed, until when the thread is BLOCKED (07 R213). -/
def execSignal (t : ThrId) (x : SysF) (s : State) : Host.Outcome State Fault Refusal :=
  .next (s.onIssue (.signal t x) t [r5 x.a, r5 x.b] (x.imm.toNat < 3) fun th =>
    let c := th.rd x.a
    if ctrOk c = false then s.thrFault t fIllegal 0
    else if th.pendingScope t x.imm.toNat then s.block t (if x.imm = 1 then .fenceSq else .fenceDev)
    else (s.sendSignal ⟨ctrId c.toNat, (th.rd x.b).setWidth 32, .thread t th.pc th.life⟩).setThr t th.next)

def watchKind (imm : W16) : Nat := bitsOf imm.toNat 2 1

/-- Encodings of WATCH: a target code, a channel only for target 1, the other bits 0; for target 2 a register a + 1 must exist. -/
def watchLegal (x : SysF) : Bool :=
  watchKind x.imm < 3 && x.imm.toNat < 256 && (watchKind x.imm = 1 || bitsOf x.imm.toNat 7 3 = 0) && (watchKind x.imm ≠ 2 || x.a ≠ 31)

/-- The target of a WATCH, or the fault of its message address (07 R217): an 8-byte aligned address on a Weld page that passes the store
test. -/
def State.watchTarget (s : State) (t : ThrId) (th : Thr) (x : SysF) : Except (Nat × Nat) WatchTarget :=
  match watchKind x.imm with
  | 0 => .ok (.thread t)
  | 1 => .ok (.chan (chanId (32 * thrTile t + bitsOf x.imm.toNat 7 3)))
  | _ =>
    let va := (th.rd (x.a + 1)).toNat
    if va % 8 ≠ 0 then .error (fAlign, va)
    else match s.translate th (thrTile t) false .write va with
      | .error c => .error (c, va)
      | .ok (pa, _) => if isWeld pa then .ok (.msg (tileId (weldTile pa)) (weldOff pa)) else .error (fAddress, va)

/-- WATCH (07 R215 to R217): the registration leaves for the counter's tile; the thread is BLOCKED until its slot is taken. A fifth watch
blocks it until it holds fewer. -/
def execWatch (t : ThrId) (x : SysF) (s : State) : Host.Outcome State Fault Refusal :=
  .next (s.onIssue (.watch t x) t ([r5 x.a, r5 x.b] ++ if watchKind x.imm = 2 then [r5 (x.a + 1)] else []) (watchLegal x) fun th =>
    let c := th.rd x.a
    let thr : W32 := (th.rd x.b).setWidth 32
    if ctrOk c = false ∨ thr = 0 then s.thrFault t fIllegal 0
    else match s.watchTarget t th x with
      | .error (f, va) => s.thrFault t f va
      | .ok tg =>
        if 4 ≤ s.watchesOf t then s.block t .watches
        else
          let s1 := s.sendOp (.reg ⟨ctrId c.toNat, thr, x.imm.getLsbD 0, tg, .thread t th.life⟩)
          s1.setThr t { th.next with st := .blocked, blk := .watch c.toNat })

/-- Whether some watch that targets the thread is registered, armed or has fired (07 R220). -/
def State.hasWatch (s : State) (t : ThrId) : Bool :=
  (s.sy.regs ++ s.sy.queued ++ s.sy.armed).any (fun w => w.target = .thread t && s.ownWatch t w) || !(s.ownWakes t).isEmpty

/-- WAIT (07 R220): the first fired watch is returned; without one the thread is WAITING, or faults where no watch of it is armed. -/
def execWait (t : ThrId) (x : SysF) (s : State) : Host.Outcome State Fault Refusal :=
  .next (s.onIssue (.wait t x) t [r5 x.a] (x.b == 0 && x.imm == 0) fun th =>
    match th.fired with
    | c :: r => s.setThr t { th.wr x.a (n64 c) with fired := r }.next
    | [] => if s.hasWatch t then s.setThr t { th with st := .waiting } else s.thrFault t fIllegal 0)

/-! #### ARRAY.ISSUE (R201) -/

/-- Reads a descriptor of `n` bytes at va in the thread's own Weld, 64-byte aligned. Each page it touches is tested under its own entry (R184), as a Weld area of
the issuing domain (Table TILE-9). -/
def State.weldDesc (s : State) (t : Nat) (x : Thr) (va n : Nat) : Except Nat (List Byte) :=
  if va % 64 ≠ 0 then .error fAlign
  else (pieces 65536 va n).foldl (fun acc q =>
    match acc, s.translate x (thrTile t) false .read q.1 with
    | .error c, _ => .error c
    | _, .error c => .error c
    | .ok b, .ok (pa, e) =>
      if !x.service && peDomain e ≠ x.domain then .error fDomain
      else if isWeld pa then .ok (b ++ (s.tileAt (thrTile t)).weldRead (weldOff pa) q.2) else .error fAddress) (.ok [])

/-- The read of a descriptor of `n` bytes at va in the thread's own Weld. -/
def State.descTouch (s : State) (t : Nat) (x : Thr) (va n : Nat) : State :=
  (pieces 65536 va n).foldl (fun s q =>
    match s.translate x (thrTile t) false .read q.1 with
    | .error _ => s
    | .ok (pa, _) => s.weldTouch (thrTile t) (weldOff pa) q.2 false) s

/-- Every field holds a code of Table TILE-12 and every bit it requires to be 0 is 0. -/
def arrEncOk (d : List Byte) : Bool :=
  jOp d ≤ 1 && jFmt d ≤ 3 && leAt d 2 1 ≤ 2 && jOmode d ≤ 2 && jMatrix d < 16 && jSource d < 2 && jCounter d < 2 ^ 18 && leAt d 0x35 3 = 0 &&
    (jOp d = 1 || (jNp d = 0 && jPlist d = 0 && jPstride d = 0))

/-- The fault of a descriptor at issue: encoding, the status field, the domains of its Weld areas. -/
def State.arrFault (s : State) (t : Nat) (x : Thr) (d : List Byte) : Option Nat :=
  let tl := s.tileAt (thrTile t)
  if !arrEncOk d then some fIllegal
  else if jStatus d % 32 ≠ 0 then some fAlign
  else if tl.weldSize < jStatus d + 32 then some fAddress
  else if (jAreas tl.weldRead d ++ [(jStatus d, 32)]).all (fun a => s.weldAreaOk x.service x.domain (thrTile t) a.1 a.2) then none
  else some fDomain

/-- The array that takes a job issued to array a: the tile's other one where a is out of service (05 R166). -/
def State.arrFor (s : State) (a : Nat) : Nat := if (s.arrAt a).oos then (if a % 2 = 0 then a + 1 else a - 1) else a

def execArrayIssue (t : ThrId) (x : SysF) (s : State) : Host.Outcome State Fault Refusal :=
  .next (s.onIssue (.arrayIssue t x) t [r5 x.a] (x.b == 0 && x.imm.toNat < 2) fun th =>
    let va := (th.rd x.a).toNat
    let a := s.arrFor (2 * thrTile t + x.imm.toNat)
    match s.weldDesc t th va 64 with
    | .error c => s.thrFault t c va
    | .ok d =>
      match s.arrFault t th d with
      | some c => s.thrFault t c va
      | none =>
        let s1 := s.descTouch t th va 64
        let q := s1.arrAt a
        if 8 ≤ q.jobs.length then s1.block t (.array a)
        else (s1.setArr a { q with jobs := q.jobs ++ [jobOf (s1.tileAt (thrTile t)) d th.domain th.service th.group] }).setThr t th.next)

/-- ARRAY_JOB_START (05 R145): rows' Weld areas are tested against the page entries (R202). -/
def execArrayJobStart (a : ArrayId) (s : State) : Host.Outcome State Fault Refusal := .next (arrayJobStart s.weldPageDomain s a)

/-! #### BANK.ISSUE (R203, R204) -/

def bRdVa (d : List Byte) : Nat := leAt d 0 8
def bWrVa (d : List Byte) : Nat := leAt d 8 8
def bRdLen (d : List Byte) : Nat := leAt d 16 4
def bWrLen (d : List Byte) : Nat := leAt d 20 4
def bEntry (d : List Byte) : Nat := leAt d 24 2
def bFlags (d : List Byte) : Nat := leAt d 26 1
def bAlley (d : List Byte) : Bool := bitAt (bFlags d) 1
def bDomain (d : List Byte) : Nat := leAt d 28 2
def bTabSrc (d : List Byte) : Nat := leAt d 32 4
def bTabLen (d : List Byte) : Nat := leAt d 36 4
def bResDst (d : List Byte) : Nat := leAt d 40 4
def bResLen (d : List Byte) : Nat := leAt d 44 4

/-- Every field of Table TILE-13 is inside its encoding. -/
def bankEncOk (service : Bool) (d : List Byte) : Bool :=
  bRdVa d % 4096 = 0 && bWrVa d % 4096 = 0 && bRdLen d % 4096 = 0 && bWrLen d % 4096 = 0 && bEntry d < 512 && bFlags d < 8 &&
    (!bAlley d || service) && leAt d 27 1 = 2 && bDomain d < 2 ^ 14 && leAt d 30 2 = 0 && bTabLen d % 64 = 0 && bTabLen d ≤ 8192 &&
    bResLen d % 32 = 0 && bResLen d ≤ 8192 && leAt d 48 4 < 2 ^ 18 && leAt d 56 8 = 0

/-- Weld areas a bank job names: the table image, the results, the completion record. -/
def bankAreas (d : List Byte) : List (Nat × Nat) :=
  (if bTabSrc d = 0xFFFFFFFF then [] else [(bTabSrc d, bTabLen d)]) ++ [(bResDst d, bResLen d), (leAt d 52 4, 16)]

/-- The fault of a bank descriptor at issue. -/
def State.bankFault (s : State) (t : Nat) (x : Thr) (d : List Byte) : Option Nat :=
  if !bankEncOk x.service d then some fIllegal
  else if (bankAreas d).any (fun a => (s.tileAt (thrTile t)).weldSize < a.1 + a.2) then some fAddress
  else if !x.service && bDomain d ≠ x.domain.toNat then some fDomain
  else if (bankAreas d).all (fun a => s.weldAreaOk x.service x.domain (thrTile t) a.1 a.2) then none
  else some fDomain

/-- The pair-row behind a virtual address: unit, row and page entry, where its page is a present Madder page of a BANK_LAYOUT segment. -/
def State.pairRow (s : State) (va : Nat) : Option (Nat × Nat × W64) :=
  let e := s.pageEntry (va / 65536)
  let pa := pePhys e va
  if pePresent e && !peWeld e && pa < 2 ^ 40 && s.segBank (pa / 2 ^ 34) (pa % 2 ^ 34 / 2 ^ 26) then
    some ((s.place pa).bank / 2, (s.place pa).row, e)
  else none

/-- The unit and first pair-row of a range whose pair-rows rise without gap in one pair. -/
def State.pairRange (s : State) (va len : Nat) : Option (Nat × Nat) :=
  match s.pairRow va with
  | none => none
  | some (u, r, _) =>
    if (List.range (len / 4096)).all fun i => (s.pairRow (va + 4096 * i)).any fun p => p.1 = u && p.2.1 = r + i then some (u, r) else none

/-- The unit a job runs on and its two ranges, or none (LAYOUT, R204 step 1). An alley send runs at the read range's unit, an alley receive at
the write range's, both in one quadrant (03 R115; notes/assumptions/45.md). -/
def State.bankPlace (s : State) (d : List Byte) : Option (Nat × Nat × Nat) :=
  let rd := if bRdLen d = 0 then none else some (s.pairRange (bRdVa d) (bRdLen d))
  let wr := if bWrLen d = 0 then none else some (s.pairRange (bWrVa d) (bWrLen d))
  match rd, wr with
  | none, none => none
  | some none, _ => none
  | _, some none => none
  | some (some (u, r)), none => if bAlley d then none else some (u, r, 0)
  | none, some (some (u, r)) => if bAlley d then none else some (u, 0, r)
  | some (some (u, r)), some (some (v, w)) =>
    if bAlley d then (if u ≠ v ∧ u / 32 = v / 32 then some (if bEntry d = 0x178 then v else u, r, w) else none)
    else if u = v then some (u, r, w) else none

/-- The domain check of 03 R118. -/
def State.bankDomainOk (s : State) (x : Thr) (d : List Byte) : Bool :=
  let dom := BitVec.ofNat 14 (bDomain d)
  ((List.range (bWrLen d / 4096)).all fun i => peDomain (s.pageEntry ((bWrVa d + 4096 * i) / 65536)) = dom) &&
    (List.range (bRdLen d / 4096)).all fun i =>
      let e := s.pageEntry ((bRdVa d + 4096 * i) / 65536)
      peDomain e = dom || (peShared e && peDomain e = 0 && (x.service || peKey e = 0 || x.keys.contains (peKey e)))

/-- Requests and jobs in a controller's class-2 queue (02 R46). -/
def State.class2Len (s : State) (c : Nat) : Nat := s.classLen c 2

/-- Whether an alley job names as its peer the unit of its other range (03 R115, Table BANK-14 p3). -/
def State.alleyPeerOk (s : State) (d : List Byte) (u : Nat) : Bool :=
  !bAlley d || ([(bRdVa d, bRdLen d), (bWrVa d, bWrLen d)].all fun g =>
    (s.pairRange g.1 g.2).all fun p => p.1 = u || p.1 = u / 128 * 128 + alleyUnit (leAt d 140 4 % 128))

/-- Whether the scales that the job reads are ones its program takes (03 R110, 04 R132): those of its parameters, and those in its rows where they lie in its ranges. -/
def State.jobScalesOk (s : State) (d : List Byte) (u : Nat) (j : BankJob) : Bool :=
  let p i := leAt d (128 + 4 * i) 4
  let mine := (attendRows (p 0) (p 1)).all fun q => (j.rdBase ≤ q.2 && q.2 < j.rdBase + j.rdCount) || (j.wrBase ≤ q.2 && q.2 < j.wrBase + j.wrCount)
  (bEntry d = 0x100 && !mine) || (s.dr.checkRun (s.stackAt (u / 128)).policy2 u).scalesOk (bEntry d) p

/-- The refusal code of R204 for a job on unit u, or none. -/
def State.bankRefusal (s : State) (x : Thr) (d : List Byte) (u : Nat) (j : BankJob) : Option Nat :=
  if !s.bankDomainOk x d then some 6
  else if (s.unitAt u).oos then some 8
  else if !paramsOk (bEntry d) (fun i => leAt d (128 + 4 * i) 4) (alleyPos u) || !s.alleyPeerOk d u || !s.jobScalesOk d u j then some 2
  else none

/-- The queued job of a descriptor. -/
def State.bankJob (s : State) (t : Nat) (x : Thr) (d : List Byte) (u rd wr : Nat) : BankJob :=
  { id := 0, init := false, desc := d, domain := BitVec.ofNat 14 (bDomain d), service := x.service, tile := thrTile t, cls := 2, rdBase := rd,
    rdCount := bRdLen d / 4096, wrBase := wr, wrCount := bWrLen d / 4096, policy2 := (s.stackAt (u / 128)).policy2, group := x.group }

def execBankIssue (t : ThrId) (x : SysF) (s : State) : Host.Outcome State Fault Refusal :=
  .next (s.onIssue (.bankIssue t x) t [r5 x.a] (x.b == 0 && x.imm == 0) fun th =>
    let va := (th.rd x.a).toNat
    if s.th.flushes.any (fun f => f.thr = t.val) then s.block t .flushes
    else match s.weldDesc t th va 256 with
    | .error c => s.thrFault t c va
    | .ok d =>
      match s.bankFault t th d with
      | some c => s.thrFault t c va
      | none =>
        let s1 := s.descTouch t th va 256
        match s1.bankPlace d with
        | none => (s1.finishBank 0 (s1.bankJob t th d 0 0 0) 2 7 false).setThr t th.next
        | some (u, rd, wr) =>
          let j := s1.bankJob t th d u rd wr
          if 64 ≤ s1.class2Len (u / 2) then s1.block t (.bank (u / 2))
          else match s1.bankRefusal th d u j with
            | some c => (s1.finishBank u j 2 c false).setThr t th.next
            | none => (s1.pushJob u j).setThr t th.next)

end Sys2Proof.Machine
end

