-- ==== Sys2Proof/Machine/Dma.lean ====
section
/-! DEFINITION. DMA channels (08 R255 to R262, Tables TIER-7 to TIER-9): chains, triggers, checks, ends, grants; DMA.KICK (06 R205). The transfers
themselves are in DmaMove.lean. -/
namespace Sys2Proof.Machine

open Sys2Proof

/-! #### Chains and triggers (R255, R258) -/

/-- Whether channel c is IDLE or STOPPED. -/
def State.chanRests (s : State) (c : Nat) : Bool := (s.chanAt c).state = 0 || (s.chanAt c).state = 3

/-- The encodings of the trigger fields. -/
def triggerOk (d : List Byte) : Bool :=
  match dmTrigger d with
  | 0 => true
  | 1 => dmTindex d < 16
  | 2 => dmTindex d < 32
  | 3 => dmTcounter d < 2 ^ 18 && 1 ≤ dmThreshold d
  | 4 => true
  | _ => false

/-- A channel whose descriptor has not begun to move data. -/
def Chan.fresh (x : Chan) : Chan := { x with started := false, ended := none, other := false, reread := false, granted := 0, flight := [], flen := 0 }

/-- Why no descriptor can become current at Weld offset `off`: R256, the Weld size, or a page of another domain (06 Table TILE-9). -/
def State.descBad (s : State) (c off : Nat) (x : Chan) : Option Nat :=
  if off % 64 ≠ 0 then some 7
  else if (s.tileAt (c / 32)).weldSize < off + 64 then some 1
  else if s.weldAreaOk x.service x.domain (c / 32) off 64 then none else some 2

/-- The descriptor at Weld offset `off` becomes current: ARMED with a trigger, else RUNNING. One that cannot stops the chain. -/
def State.makeCurrent (s : State) (c off : Nat) (x : Chan) : State :=
  match s.descBad c off x with
  | some e => s.setChan c { x.fresh with state := 3, code := e }
  | none =>
    let d := (s.tileAt (c / 32)).weldRead off 64
    let waits := triggerOk d && (dmTrigger d = 1 || (dmTrigger d = 2 && !s.chanRests (c / 32 * 32 + dmTindex d)) || 3 ≤ dmTrigger d)
    let s1 := (s.weldTouch (c / 32) off 64 false).setChan c { x.fresh with life := x.life + 1, state := if waits then 1 else 2, code := 0, cur := off, desc := d }
    match triggerWatch c (x.life + 1) d with
    | some w => if waits then s1.sendOp (.reg w) else s1
    | none => s1

/-- An ARMED channel's trigger comes. -/
def State.trigger (s : State) (c : Nat) : State := s.setChan c { s.chanAt c with state := 2 }

/-- A channel comes to rest: threads that wait to kick it may go on (06 R205). -/
def State.chanRested (s : State) (c : Nat) : State := s.wakeFor fun _ b => b == .chan c

/-- DMA.KICK (06 R205): imm[4:0] names the channel of the thread's tile; the thread blocks while it runs a chain. -/
def execDmaKick (t : ThrId) (x : SysF) (s : State) : Host.Outcome State Fault Refusal :=
  .next (s.onIssue (.dmaKick t x) t [r5 x.a] (x.b == 0 && x.imm.toNat < 32) fun th =>
    let va := (th.rd x.a).toNat
    let c := 32 * thrTile t + x.imm.toNat
    match s.weldDesc t th va 64 with
    | .error f => s.thrFault t f va
    | .ok _ =>
      if !s.chanRests c then s.block t (.chan c)
      else
        let off := weldOff (pePhys (s.pageEntry (va / 65536)) va)
        (s.makeCurrent c off { s.chanAt c with service := th.service, domain := th.domain, keys := th.keys, group := th.group }).setThr t th.next)

/-- Whether timer x fires at an instant: its phase plus a whole multiple of its period, modulo 2^64; a period of 0 never fires (R258; 15 R419). -/
def Timer.fires (x : Timer) (time : W64) : Bool := x.period ≠ 0 && (time - x.phase).toNat % x.period.toNat = 0

/-- TIMER_FIRING (R258): every channel of the tile ARMED on timer n starts its descriptor. -/
def execTimerFiring (t : TileId) (n : Fin 16) (s : State) : Host.Outcome State Fault Refusal :=
  if !(tget (fun _ => (⟨0, 0, 0⟩ : Timer)) (s.tileAt t).timers n).fires s.time then .next s
  else .next ((List.range 32).foldl (fun s k =>
    let x := s.chanAt (32 * t + k)
    if x.state = 1 ∧ dmTrigger x.desc = 1 ∧ dmTindex x.desc = n then s.trigger (32 * t + k) else s) s)

/-- CHANNEL_TRIGGER (R258): the channel that channel c waits for is IDLE or STOPPED. -/
def execChannelTrigger (c : ChanId) (s : State) : Host.Outcome State Fault Refusal :=
  let x := s.chanAt c
  if x.state = 1 ∧ dmTrigger x.desc = 2 ∧ s.chanRests (c / 32 * 32 + dmTindex x.desc) then .next (s.trigger c) else .next s

/-- DMA_TRIGGER_DELIVERY (R258; 07 R220, R222): a fired trigger watch reaches its channel; a channel whose
descriptor no longer waits for it discards it. -/
def execDmaTriggerDelivery (c : ChanId) (s : State) : Host.Outcome State Fault Refusal :=
  match s.sy.wakes.find? fun m => m.target = .chan c with
  | none => .next s
  | some m =>
    let s1 : State := { s with sy := { s.sy with wakes := s.sy.wakes.erase m } }
    let x := s.chanAt c
    let own : Bool := match m.owner with
      | .chan _ l => l == x.life
      | _ => true
    if x.state = 1 ∧ 3 ≤ dmTrigger x.desc ∧ own then .next (s1.trigger c)
    else .next (s1.log 0x0207 (domOf .tile (m.ctr.val / 4096)) (n64 m.ctr.val) (m.consumed.setWidth 64))

/-! #### The check at a descriptor's start (R256, R257) -/

def woadBase : Nat := 0x300000000000
def isWoad (pa : Nat) : Bool := decide (woadBase ≤ pa ∧ pa < woadBase + 2 ^ 42)
def woadSlot (pa : Nat) : Nat := (pa - woadBase) / 2 ^ 30
def woadOff (pa : Nat) : Nat := (pa - woadBase) % 2 ^ 30

/-- Alignment of an address of a kind: 64 bytes, or 16 for host addresses and frames in lots (R251; notes/assumptions/46.md). -/
def dmAligned (kind a : Nat) : Bool := a % (if 2 ≤ kind ∨ isWoad a then 16 else 64) = 0

/-- The size of a unit image: 4,096 · p9 of a block, p9 5 or 6 (04 R127), or a 64-KiB page (R240). -/
def imageLenOk (d : List Byte) : Bool :=
  (dmUkind d = 1 && (dmLen d = 20480 || dmLen d = 24576)) || (dmUkind d = 2 && dmLen d = 65536)

/-- The encodings of Table TIER-7. -/
def dmFormatOk (d : List Byte) : Bool :=
  dmOp d ≤ 3 && triggerOk d && dmFlags d < 8 && dmPriority d ≤ 3 && (dmClass d = 1 || dmClass d = 3) && dmSrcKind d ≤ 3 && dmDstKind d ≤ 3 &&
    dmCounter d < 2 ^ 18 && dmTenant d < 2 ^ 14 && leAt d 43 1 = 0 &&
    (dmOp d = 3 || (dmAligned (dmSrcKind d) (dmSrc d) && dmAligned (dmDstKind d) (dmDst d))) &&
    match dmOp d with
    | 0 => dmLen d % 64 = 0 && 64 ≤ dmLen d && dmLen d ≤ 16777216 && dmFlen d = 0
    | 1 => imageLenOk d && dmFlen d = 0
    | 2 => imageLenOk d && dmFlen d % 16 = 0 && 64 ≤ dmFlen d && dmFlen d ≤ 65600
    | _ => dmFlen d = 0

/-! #### Control blocks as DMA reaches them (01 R33; 15 R403) -/

/-- The module control block without its tile window, and the tile control blocks. -/
def ctrlBase : Nat := 0x200000000000
def tileCtrlBase : Nat := 0x200100000000
def isModCtrl (pa : Nat) : Bool := decide (ctrlBase ≤ pa ∧ pa < ctrlBase + 0x1000000)
def isTileCtrl (pa : Nat) : Bool := decide (tileCtrlBase ≤ pa ∧ pa < tileCtrlBase + 0x40000000)
def isCtrl (pa : Nat) : Bool := isModCtrl pa || isTileCtrl pa

/-- Whether [pa, pa + n) lies in populated control blocks: below the tile window, or in the blocks of tiles in service. -/
def State.ctrlOk (s : State) (pa n : Nat) : Bool :=
  if isModCtrl pa then decide (pa + n ≤ ctrlBase + 0x800000)
  else isTileCtrl pa && isTileCtrl (pa + n - 1) && (wordsOf 0x1000000 (pa - tileCtrlBase) n).all fun t => (s.tileAt t).state ≠ 0

/-- The thread whose domain the chain's pages are tested for. -/
def Chan.asThread (x : Chan) : Thr := { thrInit with domain := x.domain, service := x.service, keys := x.keys }

/-- The physical chunks of a device address range, or the outcome code: ADDRESS, DOMAIN (R257), LOT_GONE (R252). -/
def State.dmRange (s : State) (x : Chan) (kind : Nat) (write : Bool) (a n : Nat) : Except Nat (List (Nat × Nat)) :=
  if 2 ≤ kind then .ok []
  else if kind = 0 then
    match s.rangeOf x.asThread 0 true (if write then .write else .read) a n with
    | .error (c, _) => .error (if c = fAddress then 1 else 2)
    | .ok r => .ok r
  else if isWoad a then
    let st := (s.lotAt (woadSlot a)).state
    if 2 ^ 30 < woadOff a + n then .error 1
    else if st = 1 ∨ (st = 2 ∧ !write) then .ok [(a, n)] else .error 6
  else if isCtrl a then if s.ctrlOk a n then .ok [(a, n)] else .error 1
  else if (pieces 512 a n).all fun q => s.reachable 0 true q.1 && s.reachable 0 true (q.1 + q.2 - 1) then .ok [(a, n)]
  else .error 1

/-- Bytes read at the source and written at the destination. -/
def dmSrcLen (d : List Byte) : Nat := if dmOp d = 2 then dmFlen d else dmLen d

/-- Whether a range of an ENCODE or DECODE, if it is in host memory, lies in a registered pool that the host port may reach (Table TIER-7, R233): the port of its kind,
or with `other` the second one. A frame is written only into a pool of its tenant. -/
def State.inPool (s : State) (kind a n : Nat) (other : Bool) (owner : Option Nat) : Bool :=
  kind < 2 || s.ti.pools.any fun p =>
    decide (p.base ≤ a ∧ a + n ≤ p.base + p.bytes) && bitAt p.mask (if (kind = 2) = !other then 0 else 1) && owner.all fun t => p.owner.toNat = t

/-- The pool test of both sides; `n` is the length written at the destination. -/
def State.poolsOk (s : State) (d : List Byte) (other : Bool) (n : Nat) : Bool :=
  dmOp d = 0 || (s.inPool (dmSrcKind d) (dmSrc d) (dmSrcLen d) other none &&
    s.inPool (dmDstKind d) (dmDst d) n other (if dmOp d = 1 then some (dmTenant d) else none))

/-- The least length that the destination must hold: of a frame, its header. -/
def dmDstLen (d : List Byte) : Nat := if dmOp d = 1 then 64 else dmLen d

/-- Whether the status record lies in pages of the chain's domain (06 Table TILE-9). -/
def State.recordOk (s : State) (c : Nat) (x : Chan) : Bool := s.weldAreaOk x.service x.domain (c / 32) (dmStatus x.desc) 16

/-- The code a descriptor's check fails with, or none (R256, R257). -/
def State.dmCheck (s : State) (c : Nat) (x : Chan) : Option Nat :=
  let d := x.desc
  if !dmFormatOk d then some 7
  else if !x.service && (dmOp d = 1 || dmOp d = 2 || (dmOp d = 0 && (dmSrcKind d ≠ 0 || dmDstKind d ≠ 0)) || dmClass d ≠ 3) then some 2
  else if !s.recordOk c x then some 2
  else if dmOp d = 3 then none
  else if !s.poolsOk d false (dmDstLen d) then some 1
  else match s.dmRange x (dmSrcKind d) false (dmSrc d) (dmSrcLen d), s.dmRange x (dmDstKind d) true (dmDst d) (dmDstLen d) with
    | .error c, _ => some c
    | _, .error c => some c
    | _, _ => none

/-! #### Lots (13 R371) -/

/-- Whether the source of a descriptor is a lot. -/
def fromLot (d : List Byte) : Bool := dmSrcKind d = 1 && isWoad (dmSrc d)
def toLot (d : List Byte) : Bool := dmDstKind d = 1 && isWoad (dmDst d)

/-- The BLOCK_READ that a DECODE from a lot sends. -/
def State.blockRead (s : State) (c : Nat) (d : List Byte) : State :=
  s.cwRequest (s.lotAt (woadSlot (dmSrc d))) c 0x11 0 (woadOff (dmSrc d)) 0 (dmFlen d) []

/-- The READ that one burst of a COPY from a lot sends. -/
def State.burstRequest (s : State) (c : Nat) (d : List Byte) (k : Nat) : State :=
  s.cwRequest (s.lotAt (woadSlot (dmSrc d))) c 0x10 0 (woadOff (dmSrc d)) (512 * k) (min 512 (dmLen d - 512 * k)) []

/-- The requests of a channel not yet answered, over all ports. -/
def State.chanReqs (s : State) (c : Nat) : List CwReq := s.cw.port.flatMap fun p => p.2.reqs.filter fun r => r.chan = c

/-- Forgets a channel's requests. -/
def State.dropReqs (s : State) (c : Nat) : State :=
  { s with cw := { s.cw with port := s.cw.port.map fun p => (p.1, { p.2 with reqs := p.2.reqs.filter fun r => r.chan ≠ c }) } }

/-- A channel's reads of [pos, pos + n) of its transfer. -/
def State.lotReadsOf (s : State) (c pos n : Nat) : List CwReq := (s.chanReqs c).filter fun r => r.read && decide (pos ≤ r.pos ∧ r.pos + r.len ≤ pos + n)

/-- Whether what a channel reads from its lot for [pos, pos + n) has come. -/
def State.lotReady (s : State) (c pos n : Nat) : Bool := (s.lotReadsOf c pos n).all fun r => r.len ≤ r.recv

/-- What a channel read from its lot for [pos, pos + n), word by word with its poison. -/
def State.lotBytes (s : State) (c pos n : Nat) : List Piece :=
  let rs := s.lotReadsOf c pos n
  let bytes := rs.foldl (fun m r => mwrite zeroByte m (r.pos - pos) (mread zeroByte r.got 0 r.len)) []
  let bad := rs.flatMap fun r => r.bad.map fun q => (r.pos - pos + q.1, q.2)
  recut 0 (mread zeroByte bytes 0 n) fun w => bad.any fun q => q.1 < 32 * w + 32 && 32 * w < q.1 + q.2

/-- Forgets a channel's reads of [pos, pos + n). -/
def State.dropReads (s : State) (c pos n : Nat) : State :=
  let gone := s.lotReadsOf c pos n
  { s with cw := { s.cw with port := s.cw.port.map fun p => (p.1, { p.2 with reqs := p.2.reqs.filter fun r => !(r.chan = c && gone.contains r) }) } }

/-- DESCRIPTOR_START (R257): the check; a descriptor that fails it ends with its code and transfers nothing. A DECODE from a lot asks for its frame. -/
def execDescriptorStart (c : ChanId) (s : State) : Host.Outcome State Fault Refusal :=
  let x := s.chanAt c
  if x.state = 2 ∧ x.started = false ∧ x.ended = none then
    match s.dmCheck c x with
    | some e => .next (s.setChan c { x with ended := some e })
    | none =>
      let s1 := s.setChan c { x with started := true }
      .next (if fromLot x.desc ∧ dmOp x.desc = 2 then s1.blockRead c x.desc else s1)
  else .next s

/-! #### Transfers (R259, R260) -/

/-- A transfer of the given op is under way on the channel. -/
def Chan.doing (x : Chan) (op : Nat) : Bool := x.state = 2 && x.started && x.ended == none && dmOp x.desc = op

/-- Ends the transfer with a code; bursts still in flight make no more writes. -/
def State.endXfer (s : State) (c code : Nat) : State := s.setChan c { s.chanAt c with ended := some code, flight := [] }

/-- A side of the transfer uses a host port. -/
def dmOutside (d : List Byte) : Bool := 2 ≤ dmSrcKind d || 2 ≤ dmDstKind d

/-- Whether the host port of an address kind is up; with `other` the second port. -/
def State.kindUp (s : State) (kind : Nat) (other : Bool) : Bool :=
  kind < 2 || (if (kind = 2) = !other then s.ho.portA.up else s.ho.portB.up)

/-- Whether a transfer's host sides have their ports. -/
def State.portsUp (s : State) (d : List Byte) (other : Bool) : Bool := s.kindUp (dmSrcKind d) other && s.kindUp (dmDstKind d) other

/-- A failed link (Table TIER-8 LINK): with flag bit 2 and a usable second port the transfer goes over to it, once; else it ends with LINK. -/
def State.linkFail (s : State) (c : Nat) : State :=
  let x := s.chanAt c
  let d := x.desc
  if !x.other && bitAt (dmFlags d) 2 && dmOutside d && s.portsUp d true && s.poolsOk d true (dmDstLen d) then s.setChan c { x with other := true }
  else s.endXfer c 5

/-- DMA_WAIT (R256): a descriptor without a transfer completes. -/
def execDmaWait (c : ChanId) (s : State) : Host.Outcome State Fault Refusal :=
  if (s.chanAt c).doing 3 then .next (s.endXfer c 0) else .next s

/-! #### Ends (R255, R261) -/

/-- The 16-byte status record (Table TIER-9). -/
def dmRecord (code : Nat) (retried : Bool) (flen : Nat) (time : W64) : List Byte :=
  [BitVec.ofNat 8 code, BitVec.ofNat 8 (b2n retried), 0, 0] ++ toBytes 4 flen ++ toBytes 8 time.toNat

/-- Writes the status record, then signals the counter where flag bit 0 is set (R261). A record outside the chain's own pages is not written
(notes/assumptions/121.md). -/
def State.recordEnd (s : State) (c code : Nat) : State :=
  let x := s.chanAt c
  let d := x.desc
  let tl := s.tileAt (c / 32)
  let s1 := if dmStatus d + 16 ≤ tl.weldSize ∧ s.recordOk c x then s.weldWrite (c / 32) (dmStatus d) (dmRecord code (x.other || x.reread) x.flen s.time) false else s
  let s2 := s1.setChan c { x with statusAt := dmStatus d }
  if bitAt (dmFlags d) 0 then s2.sendSignal ⟨ctrId (dmCounter d), 1, .chan (chanId c)⟩ else s2

/-- The end of a descriptor (R255, R261): the record, the signal, then the next descriptor; any code but DONE stops the chain. -/
def State.descEnd (s : State) (c code : Nat) : State :=
  let x := s.chanAt c
  let s1 := (s.recordEnd c code).dropReqs c
  let y := (s1.chanAt c).fresh
  if code ≠ 0 then (s1.setChan c { y with state := 3, code := code }).chanRested c
  else if dmNext x.desc = 0xFFFFFFFF then (s1.setChan c { y with state := 0, code := 0 }).chanRested c
  else
    let s2 := s1.makeCurrent c (dmNext x.desc) y
    if s2.chanRests c then s2.chanRested c else s2

/-- A control core aborts a channel (R255): the current descriptor ends with ABORT; its trigger watch is cancelled (07 R216). -/
def State.abortChan (s : State) (c : Nat) : State :=
  let x := s.chanAt c
  if s.chanRests c then s
  else
    let s1 := (s.recordEnd c 9).dropReqs c
    let s2 := s1.setChan c { (s1.chanAt c).fresh with state := 3, code := 9 }
    (s2.cancelTrigger c x).chanRested c

/-- DMA_ABORT (R255). -/
def execDmaAbort (c : ChanId) (s : State) : Host.Outcome State Fault Refusal := .next (s.abortChan c)

/-! #### Grants (R259) -/

def natD : Nat → Nat := fun _ => 0

/-- Bursts of a descriptor: 512 bytes each, the last of a COPY possibly shorter (R259); an ENCODE or DECODE counts those of its source (notes/assumptions/120.md). -/
def dmBursts (d : List Byte) : Nat := if dmOp d = 3 then 0 else (dmSrcLen d + 511) / 512

/-- Bursts of a tile's engine in flight. -/
def State.engineFlight (s : State) (t : Nat) : Nat := ((List.range 32).map fun k => (s.chanAt (32 * t + k)).flight.length).sum

/-- Whether channel k of tile t has a burst that it may issue: at most 8 of a channel and 64 of the engine are in flight (R259). -/
def State.canBurst (s : State) (t k : Nat) : Bool :=
  let x := s.chanAt (32 * t + k)
  k < 32 && x.state = 2 && x.started && x.ended == none && decide (x.granted < dmBursts x.desc ∧ x.flight.length < 8 ∧ s.engineFlight t < 64)

/-- The channels of tile t at priority p that are ready. -/
def State.readyAt (s : State) (t : Nat) (ready : List Nat) (p : Nat) : List Nat :=
  ready.filter fun k => s.canBurst t k && dmPriority (s.chanAt (32 * t + k)).desc = p

/-- The next member after `l` in rising order, wrapping. -/
def nextAfter (ks : List Nat) (l : Nat) : Nat :=
  ((List.range 32).map fun i => (l + 1 + i) % 32).find? (fun k => ks.contains k) |>.getD 0

/-- The tile at the end of one side of a burst: of a host port, a lot's Causeway port, a Weld window or a control block, the home of a Madder address. -/
def State.endTile (s : State) (t kind a : Nat) (cs : List (Nat × Nat)) : Nat :=
  if kind = 2 then 0 else if kind = 3 then 3
  else if kind = 1 && isWoad a then cwTile (s.lotAt (woadSlot a)).port
  else match cs with
    | [] => t
    | c :: _ => if isModCtrl c.1 then s.md.primary else if isTileCtrl c.1 then (c.1 - tileCtrlBase) / 0x1000000
      else if isWeld c.1 then weldTile c.1 else s.homeTile c.1

/-- Burst `k` of a descriptor leaves on the bulk channel (R22, R259). A COPY's pages are translated now; one that reads a lot asks for its bytes. -/
def State.grantBurst (s : State) (c k : Nat) : State :=
  let x := s.chanAt c
  let d := x.desc
  let off := 512 * k
  let n := min 512 (dmSrcLen d - off)
  let go (src dst : List (Nat × Nat)) : State :=
    let a := s.endTile (c / 32) (dmSrcKind d) (dmSrc d + off) src
    let b := s.endTile (c / 32) (dmDstKind d) (dmDst d + off) dst
    let s1 := if a = b then s else if dmOp d = 0 then s.sendMsg a b 2 else s.travel a b 2
    s1.setChan c { x with granted := k + 1,
                          flight := if dmOp d = 0 then x.flight ++ [⟨k, src, dst, if a = b then none else some s.str.nextId⟩] else x.flight }
  if dmOp d ≠ 0 then go [] []
  else match s.dmRange x (dmSrcKind d) false (dmSrc d + off) n, s.dmRange x (dmDstKind d) true (dmDst d + off) n with
    | .error e, _ => s.endXfer c e
    | _, .error e => s.endXfer c e
    | .ok src, .ok dst => if fromLot d then (go src dst).burstRequest c d k else go src dst

/-- BURST_GRANT (R259): one grant of tile t's engine among the channels that may issue a burst now. -/
def execBurstGrant (t : TileId) (ready : List Nat) (s : State) : Host.Outcome State Fault Refusal :=
  let rdy p := !(s.readyAt t ready p).isEmpty
  let cnt p := tget natD s.dm.starve (4 * t + p)
  match ([1, 2, 3].find? fun p => rdy p && 64 ≤ cnt p).orElse (fun _ => [0, 1, 2, 3].find? rdy) with
  | none => .next s
  | some P =>
    let k := nextAfter (s.readyAt t ready P) (tget natD s.dm.last (4 * t + P))
    let st := (List.range 4).foldl (fun st p =>
      if p < P then st else if p = P then tput natD st (4 * t + p) 0
      else tput natD st (4 * t + p) (if rdy p then min (cnt p + 1) 255 else 0)) s.dm.starve
    let s1 : State := { s with dm := { s.dm with starve := st, last := tput natD s.dm.last (4 * t + P) k } }
    .next (s1.grantBurst (32 * t + k) (s.chanAt (32 * t + k)).granted)

end Sys2Proof.Machine
end

