-- ==== Sys2Proof/Machine/Tier.lean ====
section
/-! DEFINITION. The tier commands (12 Table HOST-9, 0x02xx), the ends of promotions and demotions, re-encoding, recalls of borrowed lots
(08 R232 to R254). -/
namespace Sys2Proof.Machine

open Sys2Proof

/-! #### Objects -/

/-- The lowest number from 0 that a table does not hold. -/
def lowestFree (p : Nat → Bool) : Nat → Nat → Nat
  | 0, n => n
  | fuel + 1, n => if p n then n else lowestFree p fuel (n + 1)

def State.freeObjNo (s : State) : Nat := lowestFree (fun n => !(s.objAt n).live) s.ti.obj.length 0

/-- OBJECT_ALLOC (0x0201; R235, R236, R238, R239). -/
def State.objectAlloc (s : State) (h : CmdHdr) (bytes : Nat) (flags : W32) (mirror : W16) (page : Byte) : State :=
  if bytes = 0 ∨ 1 < page.toNat then s.finish h stFormat
  else if !flagsOk h.tenant.toNat flags mirror.toNat then s.finish h stFlags
  else
    let large := page = 1
    let n := s.freeObjNo
    let o : Obj := { objInit with live := true, owner := h.tenant, bytes := roundSize flags large bytes, flags := flags,
                                  mirrorMask := mirror, large := large }
    if fPin flags then
      if !s.quotaOk o.payer 0 o.madderBytes then s.finish h stQuota
      else match s.takePages o with
        | none => s.finish h stLimit
        | some (used, ps, ms) =>
          let s1 : State := { s with ti := { s.ti with used := used } }
          ((s1.charge o.payer 0 o.madderBytes).setObj n { o with pages := ps, mirror := ms }).finish h stDone (n64 n)
    else if !s.quotaOk o.payer (fLower flags) o.bytes then s.finish h stQuota
    else ((s.charge o.payer (fLower flags) o.bytes).setObj n o).finish h stDone (n64 n)

def execObjectAlloc (h : CmdHdr) (bytes : W64) (flags : W32) (mirror : W16) (page : Byte) (s : State) : Host.Outcome State Fault Refusal :=
  .next (s.onCmd h 0x0201 [bytes.toNat, flags.toNat, mirror.toNat, page.toNat] fun s => (s.objectAlloc h bytes.toNat flags mirror page).lendCheck)

/-- The object number in a model image's or an overlay's piece record, or in a schedule entry (12 Table HOST-12; Table TIER-5). -/
def pieceObj (p : List Byte) : Nat := leAt p 8 4
def schedObj (e : List Byte) : Nat := leAt e 4 4

/-- The objects that a model needs: its pieces', its schedule's, its static segment records' (12 Table HOST-11). -/
def ModelD.objects (m : ModelD) : List Nat :=
  (m.pieces.map pieceObj ++ m.sched.map schedObj ++ (if leAt m.hdr 0x2C 4 = 0xFFFFFFFF then [] else [leAt m.hdr 0x2C 4])).eraseDups

def Overlay.objects (v : Overlay) : List Nat := (v.pieces.map pieceObj).eraseDups

/-- Whether a session that has not ended needs object n: its model's objects and its bound overlay's (R271). -/
def State.sessBound (s : State) (n : Nat) : Bool :=
  s.sv.sess.any fun q => 1 ≤ q.2.state && q.2.state ≤ 3 &&
    (s.sv.model.any (fun m => m.1 = q.2.model.toNat && m.2.objects.contains n) ||
     s.sv.overlay.any fun v => some v.1 = q.2.overlay.map (·.toNat) && v.2.objects.contains n)

/-- Clears a Weld page that loses its mapping (10 R298). -/
def State.clearWeldPage (s : State) (e : W64) : State :=
  let pa := pePpn e * 65536
  if peWeld e then s.weldWrite (weldTile pa) (weldOff pa) (List.replicate (min 65536 ((s.tileAt (weldTile pa)).weldSize - weldOff pa)) 0) false
  else s

/-- Whether Table TIER-4 refuses a FREE. -/
def State.freeRefused (s : State) (n : Nat) : Bool :=
  let o := s.objAt n
  o.state = 1 || o.state = 3 || (o.state ≠ 4 && !o.noClaims) || s.sessBound n

/-- The FREE of Table TIER-4. -/
def State.objectFree (s : State) (h : CmdHdr) (n : W32) : State :=
  match s.objOf h.tenant n with
  | .error e => s.finish h e
  | .ok _ =>
    if s.freeRefused n.toNat then s.finish h stInUse
    else (s.freeObject n.toNat).finish h stDone

/-- Whether an accepted bank or array job of tile t has a Weld area in one of these 64-KiB physical pages. -/
def State.jobWeld (s : State) (ps : List Nat) : Bool :=
  let hit (t : Nat) (a : Nat × Nat) : Bool := (wordsOf 65536 (weldBase + t * 0x2000000 + a.1) a.2).any ps.contains
  s.arr.any (fun q => q.2.jobs.any fun j => (jAreas (s.tileAt (q.1 / 2)).weldRead j.desc ++ [(jStatus j.desc, 32)]).any (hit (q.1 / 2))) ||
    s.unit.any fun q => q.2.jobs.any fun j => !j.init && (bankAreas j.desc).any (hit j.tile)

/-- Whether something begun under an old page entry still uses one of these 64-KiB physical pages (06 R185): an access, a copy, a CFLUSH, a DMA burst in flight, an
accepted bank job's rows or a job's Weld areas. -/
def State.inFlight (s : State) (ps : List Nat) : Bool :=
  let hit (r : Nat × Nat) : Bool := (wordsOf 65536 r.1 r.2).any ps.contains
  s.th.thr.any (fun t => t.2.outs.any fun a => ps.contains (a.pa / 65536)) || s.th.copies.any (fun c => (c.src ++ c.dst).any hit) ||
    s.th.flushes.any (fun c => c.ranges.any hit) || s.dm.chan.any (fun c => c.2.flight.any fun b => (b.src ++ b.dst).any hit) ||
    s.jobWeld ps || ps.any fun p => p < 2 ^ 24 && (List.range 16).any fun i => s.jobRow (65536 * p + 4096 * i)

/-- Whether the unmapping of a FREE has accesses to wait for (06 R185). -/
def State.freeWaits (s : State) (h : CmdHdr) (n : W32) : Bool :=
  match s.objOf h.tenant n with
  | .error _ => false
  | .ok o => !s.freeRefused n.toNat && s.inFlight (o.pages ++ o.mirror)

/-- OBJECT_FREE (0x0202): it waits for accesses to the object's pages (06 R185). -/
def execObjectFree (h : CmdHdr) (obj : W32) (s : State) : Host.Outcome State Fault Refusal :=
  if s.freeWaits h obj then .next s else .next (s.onCmd h 0x0202 [obj.toNat] fun s => (s.objectFree h obj).lendCheck)

/-- Whether an image of fewer than 65,536 bytes is a weight block of some format (04 R130); a 64-KiB image is a page. -/
def imageOk (b : List Byte) : Bool :=
  b.length = 65536 || (List.range 4).any fun f => [32, 64, 128].any fun g => blockOk f g b

/-- A unit that is rewritten is damaged no longer (11 Table FALT-4). -/
def State.unitMended (s : State) (n u : Nat) : State :=
  let d : W32 × W32 := (n32 n, n32 u)
  if s.fl.damaged.contains d then
    { s with fl := { s.fl with damaged := s.fl.damaged.filter (· ≠ d), rebuilds := s.fl.rebuilds.filter fun r => (r.obj, r.unit) ≠ d } }
  else s

/-- Whether a load of `k` units from `first` must wait for a quarantined unit's rebuild (11 R317). -/
def State.loadWaits (s : State) (n first k : Nat) : Bool :=
  s.fl.rebuilds.any fun r => r.obj.toNat = n && first ≤ r.unit.toNat && r.unit.toNat < first + k && !r.waiting &&
    ((s.objAt n).unit r.unit.toNat).quarantined

/-- Writes units in ascending order (OBJECT_LOAD): frames in the lower tier, then the Madder copies. Answers the units written and the
status. -/
def State.loadUnits (s : State) (n : Nat) : List UnitImage → Nat → Nat → State × Nat × Nat
  | [], _, k => (s, k, stDone)
  | i :: r, u, k =>
    let o := s.objAt n
    if !i.readOk then (s, k, stLink)
    else if i.bytes.length ≠ o.unitBytes ∨ !imageOk i.bytes then (s, k, stFormat)
    else
      match (if fPin o.flags then Except.ok s else s.storeUnit n u i.bytes) with
      | .error e => (s, k, e)
      | .ok s1 =>
        let s2 := if o.pages.isEmpty then s1 else s1.putImage o.pages (u * o.unitBytes) i.bytes
        let s3 := if o.mirror.isEmpty then s2 else s2.putImage o.mirror (u * o.unitBytes) i.bytes
        State.loadUnits (s3.unitMended n u) n r (u + 1) (k + 1)

/-- A LOST object whose every unit has a frame again becomes ABSENT; a PIN object becomes RESIDENT with a load that has completed. -/
def State.afterLoad (s : State) (n st : Nat) : State :=
  let o := s.objAt n
  if o.state = 4 ∧ (List.range o.nUnits).all (fun u => (o.unit u).st < 2) then s.setObj n { o with state := 0, lostData := false }
  else if fPin o.flags ∧ st = stDone then
    let o1 := { o with state := 2 }
    (s.setObj n o1).writeMaps o1
  else s

/-- Sizes of unit images: blocks of p9 5 or 6 (04 R127), 64-KiB pages (R240). -/
def unitLenOk (n : Nat) : Bool := n = 20480 || n = 24576 || n = 65536

/-- The unit size of an object is that of the first images loaded (R240; notes/assumptions/45.md). -/
def State.fixUnits (s : State) (n : Nat) (units : List UnitImage) : State :=
  let o := s.objAt n
  match units.find? (·.readOk) with
  | none => s
  | some i =>
    let fresh := o.units.isEmpty ∧ (o.state = 0 ∨ !fPin o.flags)
    if fresh ∧ unitLenOk i.bytes.length then s.setObj n { o with unitBytes := i.bytes.length }
    else s

/-- OBJECT_LOAD (0x0203; R237). A load that writes no unit changes no state (04 R130). -/
def State.objectLoad (s : State) (h : CmdHdr) (n : W32) (first : Nat) (units : List UnitImage) (port : Byte) : State :=
  match s.objOf h.tenant n with
  | .error e => s.finish h e
  | .ok o =>
    let s1 := s.fixUnits n.toNat units
    if 1 < port.toNat ∨ (s1.objAt n.toNat).nUnits < first + units.length then s.finish h stFormat
    else if o.state = 1 ∨ o.state = 3 then s.finish h stState
    else
      let (s2, k, st) := s1.loadUnits n.toNat units first 0
      if k = 0 ∧ st ≠ stDone then s.finish h st 0 else (s2.afterLoad n.toNat st).finish h st (n64 k)

def execObjectLoad (h : CmdHdr) (obj : W32) (first : W32) (units : List UnitImage) (addr : W64) (port : Byte) (s : State) :
    Host.Outcome State Fault Refusal :=
  if s.loadWaits obj.toNat first.toNat units.length then .next s
  else .next (s.onCmd h 0x0203 [obj.toNat, first.toNat, addr.toNat, units.length, port.toNat] fun s => s.objectLoad h obj first.toNat units port)

/-! #### Claims (Table TIER-4) -/

/-- PROMOTE(c) in each state. -/
def State.promoteAct (s : State) (n : Nat) (h : CmdHdr) (c : W32) : State :=
  let o := s.objAt n
  let new := !o.claims.contains c
  if new && 65535 ≤ o.claims.length && o.state ≠ 4 then s.finish h stLimit
  else if fPin o.flags ∨ o.state = 2 then (s.setObj n { o with claims := if new then o.claims ++ [c] else o.claims }).finish h stDone
  else match o.state with
    | 0 => s.beginPromotion n h c
    | 1 => s.setObj n { o with claims := if new then o.claims ++ [c] else o.claims, waiters := o.waiters ++ [(h, c)] }
    | 3 => s.setObj n { o with queued := o.queued ++ [.host h c] }
    | _ => s.finish h stTierFailed

/-- PROMOTE (0x0204). -/
def execPromote (h : CmdHdr) (obj claim : W32) (s : State) : Host.Outcome State Fault Refusal :=
  .next (s.onCmd h 0x0204 [obj.toNat, claim.toNat] fun s => match s.objOf h.tenant obj with
    | .error e => s.finish h e
    | .ok _ => (s.promoteAct obj.toNat h claim).lendCheck)

/-- EVICT(c) in each state. -/
def State.evictAct (s : State) (n : Nat) (h : CmdHdr) (c : W32) : State :=
  let o := s.objAt n
  if fPin o.flags then s.finish h stPinned
  else if !o.claims.contains c then s.finish h stNotHeld
  else if o.state = 1 ∧ o.promoter = some c then s.setObj n { o with heldEvict := o.heldEvict ++ [h] }
  else
    let o1 := { o with claims := o.claims.erase c, waiters := o.waiters.filter (·.2 ≠ c) }
    let s1 := (s.setObj n o1).finishAll ((o.waiters.filter (·.2 = c)).map (·.1)) stDemoted
    (s1.finish h stDone).afterClaim n

/-- EVICT (0x0205). -/
def execEvict (h : CmdHdr) (obj claim : W32) (s : State) : Host.Outcome State Fault Refusal :=
  .next (s.onCmd h 0x0205 [obj.toNat, claim.toNat] fun s => match s.objOf h.tenant obj with
    | .error e => s.finish h e
    | .ok _ => s.evictAct obj.toNat h claim)

/-- The image of a unit as a promotion reads it: its frame must be readable under the present key (R244, R245). -/
def State.unitImage (s : State) (n u : Nat) : Option (List Byte) :=
  let o := s.objAt n
  let r := o.unit u
  if r.st = 1 ∧ r.epoch ≠ (s.ten o.keyTenant.toNat).epoch then none else o.imageOf n u

/-- Writes every unit into both copies; the first unreadable unit otherwise. -/
def State.fillCopies (s : State) (n : Nat) : List Nat → Except Nat State
  | [] => .ok s
  | u :: r =>
    let o := s.objAt n
    match s.unitImage n u with
    | none => .error u
    | some img =>
      let s1 := s.putImage o.pages (u * o.unitBytes) img
      State.fillCopies (if o.mirror.isEmpty then s1 else s1.putImage o.mirror (u * o.unitBytes) img) n r

/-- An object whose descriptor is gone is freed once its movement has ended and no claim is left (09 Tables SERV-1, SERV-2). -/
def State.settleObj (s : State) (n : Nat) : State :=
  let o := s.objAt n
  if o.live ∧ o.dying ∧ o.noClaims ∧ o.state ≠ 1 ∧ o.state ≠ 3 then s.freeObject n else s

/-- "Promotion completes" (Table TIER-4). -/
def State.promotionDone (s : State) (n : Nat) : State :=
  let o := s.objAt n
  let mine (w : CmdHdr × W32) : Bool := !o.heldEvict.isEmpty && o.promoter == some w.2
  let o1 := { o with state := 2, waiters := [], heldEvict := [], promoter := none,
                     claims := if o.heldEvict.isEmpty then o.claims else o.claims.filter fun c => o.promoter ≠ some c }
  let s1 := (s.setObj n o1).writeMaps o1
  let s2 := s1.finishAll ((o.waiters.filter mine).map (·.1)) stDemoted
  let s3 := s2.finishAll ((o.waiters.filter fun w => !mine w).map (·.1)) stDone
  ((s3.finishAll o.heldEvict stDone).settleObj n).afterClaim n

/-- "Promotion fails" (Table TIER-4). -/
def State.promotionFailed (s : State) (n : Nat) (unreadable : Option Nat) : State :=
  let o := s.objAt n
  let o1 := { o with claims := [], modClaims := [], waiters := [], heldEvict := [], promoter := none,
                     state := if unreadable.isSome then 4 else 0 }
  let s1 := ((s.setObj n o1).finishAll (o.waiters.map (·.1)) stTierFailed).finishAll o.heldEvict stDone
  let s2 := s1.releasePages n
  match unreadable with
  | none => s2.settleObj n
  | some u => ((s2.frameGone n u).tierLost n u).settleObj n

/-- PROMOTION_END (R247, R251). Only a unit that has a frame can turn out unreadable: an unwritten one reads as zeros (R240). -/
def execPromotionEnd (obj : W32) (res : PromoteResult) (s : State) : Host.Outcome State Fault Refusal :=
  let n := obj.toNat
  let o := s.objAt n
  if o.live ∧ o.state = 1 then
    match res with
    | .unreadable u => if (o.unit u.toNat).st = 1 then .next (s.promotionFailed n (some u.toNat)).lendCheck else .next s
    | .link => .next (s.promotionFailed n none).lendCheck
    | .grace => .next (s.promotionFailed n none).lendCheck
    | .done => match s.fillCopies n (List.range o.nUnits) with
      | .error u => .next (s.promotionFailed n (some u)).lendCheck
      | .ok s1 => .next (s1.promotionDone n)
  else .next s

/-- DEMOTION_RETRY (R248 step 1): the encoding is tried again. -/
def execDemotionRetry (obj : W32) (s : State) : Host.Outcome State Fault Refusal :=
  let o := s.objAt obj.toNat
  if o.live ∧ o.state = 3 then .next (s.encodeUnits obj.toNat o.toEncode).1 else .next s

/-- A claim queued during a demotion, at its end. -/
def State.claimQueued (s : State) (n : Nat) (lost : Bool) : Claimer → State
  | .host h c => if lost then s.finish h stTierFailed else s.promoteAct n h c
  | .module c => if lost then s else s.modClaim n c

/-- The claims queued at a demotion's end, in order (Table TIER-4); on a LOST object none is added. -/
def State.afterDemotion (s : State) (n : Nat) : State :=
  let o := s.objAt n
  let lost := decide (o.state = 4)
  (o.queued.foldl (fun s q => s.claimQueued n lost q) (s.setObj n { o with queued := [], modClaims := if lost then [] else o.modClaims })).settleObj n

/-- DEMOTION_END (R248): once every unit is encoded or lost the pages are unmapped; once no access uses them they are cleared and released. Where a step cannot be
taken yet, the demotion waits there. -/
def execDemotionEnd (obj : W32) (s : State) : Host.Outcome State Fault Refusal :=
  let n := obj.toNat
  let o := s.objAt n
  if o.live ∧ o.state = 3 then
    let (s0, done) := s.encodeUnits n o.toEncode
    let s1 := if done then s0.unmapCopy n else s0
    if !done ∨ s1.inFlight (o.pages ++ o.mirror) then .next s1
    else
      let s2 := s1.releasePages n
      .next ((s2.setObj n { s2.objAt n with state := if (s2.objAt n).lostData then 4 else 0 }).afterDemotion n).lendCheck
  else .next s

/-- FRAMELESS_REENCODE (R247): a RESIDENT object's frameless unit is encoded again from Madder, where the lower tier has room. -/
def execFramelessReencode (obj unit : W32) (s : State) : Host.Outcome State Fault Refusal :=
  let n := obj.toNat
  let u := unit.toNat
  let o := s.objAt n
  if o.live ∧ o.state = 2 ∧ (o.unit u).st = 2 then
    let (ps, s1) := s.getImage o.pages (u * o.unitBytes) o.unitBytes
    if anyPoison ps then .next s1
    else match s1.storeUnit n u (bytesOf ps) with
      | .error _ => .next s1
      | .ok s2 => .next s2
  else .next s

/-- OBJECT_QUERY (0x0206): state, claims, charges and a summary of the unit directory (notes/assumptions/26.md). -/
def State.objectReport (o : Obj) : List Byte :=
  let us := (List.range o.nUnits).map fun u => o.unit u
  let madder := if o.pages.isEmpty then 0 else o.madderBytes
  let lower (t : Nat) : Nat := if fPin o.flags then 0 else (List.range o.nUnits).countP (fun u => o.unitTier u = t) * o.unitBytes + if fLower o.flags = t then o.tailBytes else 0
  toBytes 4 o.state ++ toBytes 4 o.claims.length ++ toBytes 4 o.modClaims.length ++ toBytes 4 o.nUnits ++ toBytes 8 o.bytes ++
    toBytes 8 madder ++ toBytes 8 (lower 1) ++ toBytes 8 (lower 2) ++
    toBytes 4 (us.countP (·.st = 0)) ++ toBytes 4 (us.countP fun r => r.st = 1 && r.tier = 1) ++
    toBytes 4 (us.countP fun r => r.st = 1 && r.tier = 2) ++ toBytes 4 (us.countP fun r => 2 ≤ r.st)

def execObjectQuery (h : CmdHdr) (obj : W32) (s : State) : Host.Outcome State Fault Refusal :=
  .next (s.onCmd h 0x0206 [obj.toNat] fun s => match s.objOf h.tenant obj with
    | .error e => s.finish h e
    | .ok o => s.finishOut h (State.objectReport o))

/-! #### Mappings (06 R183, R185; 10 R298) -/

/-- The 64-KiB page numbers and entries that cover virtual pages [vp, vp + n) of 64 KiB. -/
def State.entriesIn (s : State) (vp n : Nat) : Tab W64 :=
  s.pages.filter fun q => q.1 < vp + n && vp < q.1 + if peLarge q.2 then 32 else 1

/-- Removes the entries, clearing Weld pages. -/
def State.unmapEntries (s : State) (es : Tab W64) : State :=
  let s1 := es.foldl (fun s e => s.clearWeldPage e.2) s
  let gone (m : MapRec) : Bool := es.any fun e => e.1 = m.vp
  { s1 with pages := s1.pages.filter (fun q => !es.contains q),
            ti := { s1.ti with obj := s1.ti.obj.map fun o => (o.1, { o.2 with maps := o.2.maps.filter fun m => !gone m }) } }

/-- The physical pages of entries. -/
def ppnsOf (es : Tab W64) : List Nat := es.flatMap fun e => (List.range (if peLarge e.2 then 32 else 1)).map (pePpn e.2 + ·)

/-- Whether [va, va + n) lies in object space, the range that mapping commands reach (01 Table ARCH-7). -/
def objectSpace (va n : Nat) : Bool := va + n ≤ 2 ^ 47

/-- The rules of R183 and R237 for pages of an object. -/
def mapOk (o : Obj) (va first pages : Nat) (key : W16) (attrs : Byte) : Bool :=
  let step := if o.large then 32 else 1
  va % (65536 * step) = 0 && objectSpace va (65536 * step * pages) && attrs.toNat < 8 && key.toNat < 4096 &&
    (attrs.getLsbD 2 = fNear o.flags) && !(attrs.getLsbD 1 && (attrs.getLsbD 0 || o.owner ≠ 0)) && !(fMirror o.flags && attrs.getLsbD 0) &&
    (first + pages) * 65536 * step ≤ o.bytes

/-- MAP (0x0207). -/
def State.mapAct (s : State) (h : CmdHdr) (va : Nat) (n : W32) (first pages : Nat) (key : W16) (attrs : Byte) : State :=
  match s.objOf h.tenant n with
  | .error e => s.finish h e
  | .ok o =>
    if pages = 0 then s.finish h stFormat
    else if !mapOk o va first pages key attrs then s.finish h stFlags
    else
      let step := if o.large then 32 else 1
      let old := s.entriesIn (va / 65536) (step * pages)
      if old.any (fun e => peDomain e.2 ≠ h.tenant.setWidth 14) then s.finish h stDomain
      else
        let s1 := s.unmapEntries old
        let o1 := s1.objAt n.toNat
        let new := (List.range pages).map fun i => (⟨va / 65536 + step * i, first + i, attrs, key.setWidth 12⟩ : MapRec)
        let o2 := { o1 with maps := o1.maps ++ new }
        ((s1.setObj n.toNat o2).writeMaps o2).finish h stDone

def execMapPages (h : CmdHdr) (va : W64) (obj first pages : W32) (key : W16) (attrs : Byte) (s : State) :
    Host.Outcome State Fault Refusal :=
  if s.inFlight (ppnsOf (s.entriesIn (va.toNat / 65536) (pages.toNat * if (s.objAt obj.toNat).large then 32 else 1))) then .next s
  else .next (s.onCmd h 0x0207 [va.toNat, obj.toNat, first.toNat, pages.toNat, key.toNat, attrs.toNat] fun s => s.mapAct h va.toNat obj first.toNat pages.toNat key attrs)

/-- The entries of `n` consecutive pages from virtual page vp on, each of its own size; an address without a page counts as one of 64 KiB. -/
def State.pagesFrom (s : State) : Nat → Nat → Tab W64
  | 0, _ => []
  | n + 1, vp =>
    match s.pages.find? (·.1 = vp) with
    | some e => e :: State.pagesFrom s n (vp + if peLarge e.2 then 32 else 1)
    | none => State.pagesFrom s n (vp + 1)

/-- UNMAP (0x0208). -/
def State.unmapAct (s : State) (h : CmdHdr) (va pages : Nat) : State :=
  let es := s.pagesFrom pages (va / 65536)
  if va % 65536 ≠ 0 then s.finish h stFlags
  else if es.any (fun e => peDomain e.2 ≠ h.tenant.setWidth 14) then s.finish h stDomain
  else (s.unmapEntries es).finish h stDone

def execUnmapPages (h : CmdHdr) (va : W64) (pages : W32) (s : State) : Host.Outcome State Fault Refusal :=
  if s.inFlight (ppnsOf (s.pagesFrom pages.toNat (va.toNat / 65536))) then .next s
  else .next (s.onCmd h 0x0208 [va.toNat, pages.toNat] fun s => s.unmapAct h va.toNat pages.toNat)

/-- WELD_MAP (0x0209): pages of 64 KiB of one tile's Weld, writable by their tenant; a page of Weld has one entry at most. -/
def State.weldMapAct (s : State) (h : CmdHdr) (va off bytes tile : Nat) : State :=
  if 64 ≤ tile ∨ bytes = 0 then s.finish h stFormat
  else if (s.tileAt tile).weldSize < off + bytes then s.finish h stLimit
  else
    let n := bytes / 65536
    let pp := (weldBase + tile * 0x2000000 + off) / 65536
    let old := s.entriesIn (va / 65536) n
    let taken := s.pages.any fun q => peWeld q.2 && pp ≤ pePpn q.2 && pePpn q.2 < pp + n && !old.contains q
    if va % 65536 ≠ 0 ∨ off % 65536 ≠ 0 ∨ bytes % 65536 ≠ 0 ∨ !objectSpace va bytes ∨ taken then s.finish h stFlags
    else if old.any (fun e => peDomain e.2 ≠ h.tenant.setWidth 14) then s.finish h stDomain
    else
      let s1 := s.unmapEntries old
      let s2 : State := { s1 with pages := (List.range n).foldl (fun ps i => tput pageD ps (va / 65536 + i)
        (mkPage true false true false false true false (h.tenant.setWidth 14) 0 (pp + i))) s1.pages }
      s2.finish h stDone

def execWeldMap (h : CmdHdr) (va : W64) (off bytes : W32) (tile : Byte) (s : State) : Host.Outcome State Fault Refusal :=
  if s.inFlight (ppnsOf (s.entriesIn (va.toNat / 65536) (bytes.toNat / 65536))) then .next s
  else .next (s.onCmd h 0x0209 [va.toNat, off.toNat, bytes.toNat, tile.toNat] fun s => s.weldMapAct h va.toNat off.toNat bytes.toNat tile.toNat)

/-! #### Pools (R233) -/

/-- POOL_REGISTER (0x020A). -/
def State.poolRegister (s : State) (h : CmdHdr) (addr bytes : Nat) (owner : W16) (mask : Byte) : State :=
  if mask = 0 ∨ 3 < mask.toNat ∨ addr % 4096 ≠ 0 ∨ bytes = 0 ∨ bytes % 4096 ≠ 0 then s.finish h stFormat
  else if !(s.ten owner.toNat).live then s.finish h stState
  else
    let id := lowestFree (fun n => !s.ti.pools.any fun p => p.id = n) s.ti.pools.length 0
    let s1 : State := { s with ti := { s.ti with pools := s.ti.pools ++ [⟨id, owner, addr, bytes, mask.toNat, []⟩] } }
    s1.finish h stDone (n64 id)

def execPoolRegister (h : CmdHdr) (addr bytes : W64) (owner : W16) (mask : Byte) (s : State) : Host.Outcome State Fault Refusal :=
  .next (s.onCmd h 0x020A [addr.toNat, bytes.toNat, owner.toNat, mask.toNat] fun s => s.poolRegister h addr.toNat bytes.toNat owner mask)

/-- POOL_DEREGISTER (0x020B). -/
def State.poolDeregister (s : State) (h : CmdHdr) (pool : Nat) : State :=
  match s.ti.pools.find? fun p => p.id = pool with
  | none => s.finish h stState
  | some p =>
    if p.owner ≠ h.tenant then s.finish h stDomain
    else if !p.used.isEmpty then s.finish h stInUse
    else
      let s1 : State := { s with ti := { s.ti with pools := s.ti.pools.filter fun q => q.id ≠ pool } }
      s1.finish h stDone

def execPoolDeregister (h : CmdHdr) (pool : W32) (s : State) : Host.Outcome State Fault Refusal :=
  .next (s.onCmd h 0x020B [pool.toNat] fun s => s.poolDeregister h pool.toNat)

/-! #### Borrowed lots (R252 to R254) -/

/-- The frames in a lot slot: (object, unit). -/
def State.framesIn (s : State) (slot : Nat) : List (Nat × Nat) :=
  s.ti.obj.flatMap fun o => (o.2.units.filter fun u => u.2.st = 1 && u.2.tier = 1 && u.2.loc / 2 ^ 30 = slot).map fun u => (o.1, u.1)

/-- Moves one frame unchanged to another GRANTED lot, else to its tenant's pools; the charge follows it whatever the quota (R239, R253). -/
def State.moveFrame (s : State) (n u : Nat) : State :=
  let o := s.objAt n
  let r := o.unit u
  match s.framePlace o.keyTenant.toNat 1 r.plain.length with
  | .error _ => s
  | .ok (tier, loc) =>
    let s1 := (s.takePlace tier loc r.plain.length).writeFrame tier loc (cipherText o.keyTenant r.epoch (n32 n) (n32 u) r.plain)
    let s2 := ((s1.freePlace r.tier r.loc).discharge o.payer r.tier o.unitBytes).charge o.payer tier o.unitBytes
    s2.setObj n (o.setUnit u { r with tier := tier, loc := loc })

/-- RECALL_MOVES_DONE (R253 steps 2 to 4): the frames of a RECALLING slot are moved; once none is left, the release is sent and the slot
becomes unpopulated. -/
def execRecallMovesDone (slot : LotSlot) (s : State) : Host.Outcome State Fault Refusal :=
  let l := s.lotAt slot
  if l.state = 2 then
    let s1 := (s.framesIn slot).foldl (fun s f => s.moveFrame f.1 f.2) s
    if (s1.framesIn slot).isEmpty then .next ((s1.cwSend l.port 0 (cwMessage 0x06 0 0 l.lot 0 0 0 [])).setLot slot lotInit) else .next s1
  else .next s

/-- A lot is lost (R253, R254): its slot becomes unpopulated, every frame in it is lost. -/
def State.loseLot (s : State) (slot : Nat) : State :=
  let fs := s.framesIn slot
  (fs.foldl (fun s f => s.frameLost f.1 f.2) s).setLot slot lotInit

/-- BORROWER_RECALL_DEADLINE (R252, R253). -/
def execBorrowerRecallDeadline (slot : LotSlot) (s : State) : Host.Outcome State Fault Refusal :=
  if (s.lotAt slot).state = 2 ∧ (s.lotAt slot).deadline ≤ s.time then .next (s.loseLot slot) else .next s

end Sys2Proof.Machine
end

