-- ==== Sys2Proof/Machine/Causeway.lean ====
section
/-! DEFINITION. The Causeway ports (13): flits, credits, acknowledgement and replay, training, keepalive, the messages of lending and of remote
reads and writes, and the port control registers. -/
namespace Sys2Proof.Machine

open Sys2Proof

/-! #### Ports going down and coming up (R365, R366, Table CAUS-4) -/

/-- A port as a new link starts it: fresh sequence numbers, full credits, nothing in flight; its settings, its outstanding requests and the lanes
excluded at the last training (15 Table REGS-18) stay. -/
def CwPort.fresh (x : CwPort) (state now : Nat) : CwPort :=
  { cwPortInit with enable := x.enable, lend := x.lend, borrow := x.borrow, state := state, reqs := x.reqs, nextTag := x.nextTag,
                    excluded := x.excluded, downAt := now }

/-- Every lot of the port is lost on both sides: borrowed lots (08 R254), then the lots lent. -/
def State.dropLots (s : State) (p : Nat) : State :=
  let mine := s.cw.slot.filter fun l => l.2.state ≠ 0 && l.2.port = p
  let s1 := mine.foldl (fun s l => s.loseLot l.1) s
  (s1.cw.lent.filter fun l => l.port = p).foldl State.takeBack s1

/-- The port goes down: CW_PORT_DOWN with the partner's identity, its lots lost. `state` is 3, or 0 where it is disabled. -/
def State.portDown (s : State) (p state : Nat) : State :=
  let x := s.cwAt p
  let s1 := (s.log 0x0304 (domOf .cwPort p) x.partnerId).dropLots p
  (s1.setCw p (x.fresh state s.now)).lendCheck

/-! #### Flits (R359 to R363) -/

/-- The sequence number of the last DATA flit received in order. -/
def CwPort.ack (x : CwPort) : W32 := x.rxNext - 1

/-- A flit of 128 bytes with its CRC (Table CAUS-2). -/
def mkFlit (type vcs credits : Nat) (seq ack : W32) (payload : List Byte) : List Byte :=
  let head := [BitVec.ofNat 8 type, BitVec.ofNat 8 vcs] ++ toBytes 2 credits ++ toBytes 4 seq.toNat ++ toBytes 4 ack.toNat
  let body := padTo 0 112 payload
  head ++ toBytes 4 (crc32c (head ++ [0, 0, 0, 0] ++ body)) ++ body

/-- Whether a flit's CRC and type pass. -/
def flitOk (f : List Byte) : Bool :=
  f.length = 128 && leAt f 0 1 ≤ 2 && leAt f 12 4 = crc32c (f.take 12 ++ [0, 0, 0, 0] ++ f.drop 16)

/-- Takes an acknowledgement: flits up to it leave the replay buffer; a replay that it passes has succeeded (R362, R363). An UNORDERED
one is stale and logged (07 R228). -/
def State.takeAck (s : State) (p : Nat) (ack : W32) : State :=
  let x := s.cwAt p
  match x.replay with
  | [] => s
  | f :: _ =>
    match serialCmp f.seq ack with
    | .before => s
    | .unordered => s.logSerial 6 f.seq.toNat ack.toNat
    | _ =>
      let left := x.replay.filter fun g => serialCmp ack g.seq == .after
      let passed := x.expired && !(left.any fun g => g.seq = x.replayTop)
      s.setCw p { x with replay := left, resend := min x.resend left.length, expired := x.expired && !passed,
                         failed := if passed then 0 else x.failed }

/-- Go-back-N: every buffered flit is sent again, and waits anew (R363). -/
def CwPort.goBack (x : CwPort) (now : Nat) : CwPort :=
  match x.replay with
  | [] => x
  | f :: _ => { x with replay := x.replay.map fun g => { g with since := now }, resend := x.replay.length, expired := true, replayTop := f.seq }

/-- The bytes of a message once its header is there: data follow WRITE, DATA and KEEPALIVE (R367, R368). -/
def cwTotal (m : List Byte) : Nat :=
  match leAt m 0 1 with
  | 0x12 => 24 + leAt m 16 4
  | 0x18 => 24 + leAt m 16 4
  | 0x20 => 36
  | _ => 24

def cwTypes : List Nat := [0x01, 0x02, 0x03, 0x04, 0x05, 0x06, 0x07, 0x10, 0x11, 0x12, 0x18, 0x19, 0x1A, 0x20]

/-- CW_PROTOCOL (R367). -/
def State.cwProtocol (s : State) (p type : Nat) (tag : Option W32) (off : Nat) : State :=
  s.detect 0x0308 (domOf .cwPort p) (n64 type) (match tag with | some t => t.setWidth 64 | none => 0xFFFFFFFFFFFFFFFF) (n64 off)

/-- A whole message received: it waits to be acted on; one of a reserved type is logged and discarded. -/
def State.deliver (s : State) (p : Nat) (m : List Byte) : State :=
  if cwTypes.contains (leAt m 0 1) then
    let x := s.cwAt p
    s.setCw p { x with inb := x.inb ++ [m] }
  else s.cwProtocol p (leAt m 0 1) none 0xFF

/-- Accepts a DATA flit's payload on its virtual channel (R360). -/
def State.takePayload (s : State) (p vc : Nat) (b : List Byte) : State :=
  let x := s.cwAt p
  let part := x.part.getD vc [] ++ b
  let y := { x with rxNext := x.rxNext + 1, freed := x.freed.set vc (x.freed.getD vc 0 + 1), nakSeq := none }
  if cwTotal part ≤ part.length then (s.setCw p { y with part := x.part.set vc [] }).deliver p (part.take (cwTotal part))
  else s.setCw p { y with part := x.part.set vc part }

/-- A discarded DATA flit is answered by one NAK, and by no other for the same seq within 1 µs (R362). -/
def State.discardData (s : State) (p : Nat) : State :=
  let x := s.cwAt p
  if x.nakSeq = some x.rxNext ∧ s.now < x.nakAt.toNat + 1000 then s
  else s.setCw p { x with nakSeq := some x.rxNext, nakAt := s.time, nakDue := true }

/-- Credits of a flit (R361). -/
def CwPort.takeCredits (x : CwPort) (vc n : Nat) : CwPort :=
  { x with credits := if vc < 3 then x.credits.set vc (x.credits.getD vc 0 + n) else x.credits }

/-- FLIT_RECEIVE (R359, R361, R362): credits and ack, then a NAK's replay or a DATA flit's payload where it is the next in order. -/
def execFlitReceive (p : CwPortId) (f : List Byte) (s : State) : Host.Outcome State Fault Refusal :=
  let x := s.cwAt p
  if x.state ≠ 2 then .next s
  else if !flitOk f then .next (if leAt f 0 1 = 1 then s.discardData p else s)
  else
    let s1 := (s.setCw p (x.takeCredits (leAt f 1 1 / 4 % 4) (leAt f 2 2))).takeAck p (n32 (leAt f 8 4))
    let seq := n32 (leAt f 4 4)
    match leAt f 0 1 with
    | 0 => .next s1
    | 1 =>
      if seq = x.rxNext ∧ leAt f 1 1 % 4 < 3 then .next (s1.takePayload p (leAt f 1 1 % 4) (f.drop 16))
      else
        let s2 := if serialCmp x.rxNext seq = .unordered then s1.logSerial 6 x.rxNext.toNat seq.toNat else s1
        .next (s2.discardData p)
    | _ => .next (s1.setCw p ((s1.cwAt p).goBack s.now))

/-- NAK (R363): its ack, then go-back-N at once. -/
def execCwNak (p : CwPortId) (ack : W32) (s : State) : Host.Outcome State Fault Refusal :=
  if (s.cwAt p).state ≠ 2 then .next s
  else
    let s1 := s.takeAck p ack
    .next (s1.setCw p ((s1.cwAt p).goBack s.now))

/-- REPLAY_TIMER (R363): the oldest flit has waited 1 µs. A replay that the timer meets again has failed. -/
def execReplayTimer (p : CwPortId) (s : State) : Host.Outcome State Fault Refusal :=
  let x := s.cwAt p
  if x.state ≠ 2 ∨ !(x.replay.head?.any fun f => decide (f.since + 1000 ≤ s.now)) then .next s
  else
    let failed := if x.expired then min 15 (x.failed + 1) else x.failed
    .next (s.setCw p { x.goBack s.now with failed := failed })

/-- The virtual channel whose flit goes next (R360): response, control, request; a request passed over 16 times goes first. -/
def CwPort.nextVc (x : CwPort) : Option Nat :=
  let can (v : Nat) : Bool := !(x.out.getD v []).isEmpty && 1 ≤ x.credits.getD v 0
  if 1024 ≤ x.replay.length then none
  else if 16 ≤ x.passed && can 1 then some 1
  else [2, 0, 1].find? can

/-- Sends a flit: it carries the credits of one channel and the ack. -/
def CwPort.emit (x : CwPort) (type vc : Nat) (seq : W32) (payload : List Byte) : CwPort :=
  { x with wire := mkFlit type (vc + 4 * x.rot) (x.freed.getD x.rot 0) seq x.ack payload, freed := x.freed.set x.rot 0, rot := (x.rot + 1) % 3 }

/-- A new DATA flit of channel v, sent now: the next 112 bytes of its first message. -/
def CwPort.sendNew (x : CwPort) (v now : Nat) : CwPort :=
  let q := x.out.getD v []
  let m := q.headD []
  let rest := if m.length ≤ 112 then q.drop 1 else m.drop 112 :: q.drop 1
  let y := x.emit 1 v x.txSeq (m.take 112)
  { y with txSeq := x.txSeq + 1, out := x.out.set v rest, credits := x.credits.set v (x.credits.getD v 0 - 1),
           replay := x.replay ++ [⟨x.txSeq, v, padTo 0 112 (m.take 112), now⟩],
           passed := if v = 1 ∨ (x.out.getD 1 []).isEmpty then 0 else x.passed + 1 }

/-- FLIT_SLOT (R360 to R363): a NAK that is due, a flit to resend, a new flit, or an IDLE flit. -/
def execFlitSlot (p : CwPortId) (s : State) : Host.Outcome State Fault Refusal :=
  let x := s.cwAt p
  if x.state ≠ 2 then .next s
  else if x.nakDue then .next (s.setCw p { x.emit 2 0 0 [] with nakDue := false })
  else match x.replay.drop (x.replay.length - x.resend) with
    | f :: _ => .next (s.setCw p { x.emit 1 f.vc f.seq f.payload with resend := x.resend - 1 })
    | [] => match x.nextVc with
      | some v => .next (s.setCw p (x.sendNew v s.now))
      | none => .next (s.setCw p (x.emit 0 0 0 []))

/-! #### Training (R364, R365) -/

/-- LINK_RETRAIN (R364): the link is down after 8 failed replays, or without a valid codeword for 1 µs; it trains again. -/
def execLinkRetrain (p : CwPortId) (cause : LinkCause) (s : State) : Host.Outcome State Fault Refusal :=
  let x := s.cwAt p
  if x.state ≠ 2 ∨ (cause = .replays ∧ x.failed < 8) then .next s
  else .next (s.setCw p { x with state := 1, attempts := 0, failed := 0, expired := false, cause := some (if cause = .replays then 0 else 1) })

/-- The width that passing lanes give (R364). -/
def cwWidth (l : BitVec 4) : Nat :=
  if l = 15 then 4 else if l.toNat % 4 = 3 ∨ l.toNat / 4 = 3 then 2 else if l = 0 then 0 else 1

/-- TRAINING_ATTEMPT_END (R364, R365): the lanes that passed. A third failure in a row takes the port down. -/
def execTrainingAttemptEnd (p : CwPortId) (lanes : BitVec 4) (s : State) : Host.Outcome State Fault Refusal :=
  let x := s.cwAt p
  if x.state ≠ 1 then .next s
  else
    let w := cwWidth lanes
    let s1 := match x.cause with
      | some c => s.log 0x0307 (domOf .cwPort p) (n64 c) (n64 (x.attempts + 1)) (n64 w) ((~~~lanes).setWidth 64)
      | none => s
    let y := { x with width := w, excluded := ~~~lanes }
    if w ≠ 0 then .next (s1.setCw p { y with state := 2, attempts := 0, cause := none, keepAt := s.time, resend := x.replay.length }).lendCheck
    else if 2 ≤ x.attempts then .next ((s1.setCw p y).portDown p 3)
    else .next (s1.setCw p { y with attempts := x.attempts + 1 })

/-- PORT_RETRY (R365): a port that is down trains again every 100 ms, as a new link. -/
def execPortRetry (p : CwPortId) (s : State) : Host.Outcome State Fault Refusal :=
  let x := s.cwAt p
  if x.state = 3 ∧ x.enable ∧ s.cwUsable p ∧ x.downAt + 100000000 ≤ s.now then .next (s.setCw p (x.fresh 1 s.now)) else .next s

/-! #### Keepalive (R366) -/

/-- KEEPALIVE_SEND: every 100 µs while the link is up. -/
def execKeepaliveSend (p : CwPortId) (s : State) : Host.Outcome State Fault Refusal :=
  let x := s.cwAt p
  if x.state ≠ 2 ∨ x.keepSent.any (fun t => decide (s.now < t + 100000)) then .next s
  else .next ((s.setCw p { x with keepSent := some s.now }).cwSend p 0 (cwMessage 0x20 0 0 0 0 0 (n32 (s.offerOf p)) (toBytes 8 Config.moduleId.toNat ++ toBytes 4 s.bt.epoch.toNat)))

/-- KEEPALIVE_TIMEOUT: none for 500 µs. -/
def execKeepaliveTimeout (p : CwPortId) (s : State) : Host.Outcome State Fault Refusal :=
  let x := s.cwAt p
  if x.state = 2 ∧ x.keepAt.toNat + 500000 ≤ s.now then .next (s.portDown p 3) else .next s

/-! #### Messages (R367, R368) -/

/-- The first broken header field by its byte offset: fields a type does not use are 0; fields it uses are in range. -/
def cwBroken (type : Nat) (m : CwMsg) : Option Nat :=
  let o := m.off.toNat
  let l := m.len.toNat
  let a := m.arg.toNat
  let bad (tag lot : Bool) (off len arg : Bool) : Option Nat :=
    if (if type = 0x18 ∨ type = 0x12 then decide (1 < m.flags.toNat) else m.flags ≠ 0) then some 1
    else if m.rsv ≠ 0 then some 2
    else if !tag && m.tag ≠ 0 then some 4
    else if !lot && m.lot ≠ 0 then some 8
    else if !off then some 12
    else if !len then some 16
    else if !arg then some 20
    else none
  match type with
  | 0x02 => bad true false (o = 0) (l = 0) (a = 1)
  | 0x03 => bad true true (o = 0) (l = 0) (a = 0)
  | 0x04 => bad true false (o = 0) (l = 0) (a = 0)
  | 0x05 => bad false true (o = 0) (l = 0) (a = 50000)
  | 0x06 => bad false true (o = 0) (l = 0) (a = 0)
  | 0x07 => bad false true (o = 0) (l = 0) (a = 0)
  | 0x10 => bad true true (o % 64 = 0) (l % 64 = 0 && 64 ≤ l && l ≤ 512) (a = 0)
  | 0x11 => bad true true (o % 16 = 0) (l % 16 = 0 && 16 ≤ l && l ≤ 65600) (a = 0)
  | 0x12 => bad true true (o % 16 = 0) (l % 16 = 0 && 16 ≤ l && l ≤ 512) (a = 0)
  | 0x18 => bad true false true (16 ≤ l && l ≤ 4096) (a = 0)
  | 0x19 => bad true false (o = 0) (l = 0) (a = 0)
  | 0x1A => bad true false (o = 0) (l = 0) (1 ≤ a && a ≤ 3)
  | _ => bad false false (o = 0) (l = 0) true

/-- Types that carry a tag. -/
def cwTagged (type : Nat) : Bool := [0x02, 0x03, 0x04, 0x10, 0x11, 0x12, 0x18, 0x19, 0x1A].contains type

/-- The bytes of a message. -/
def cwBytes (type : Nat) (m : CwMsg) (data : List Byte) : List Byte :=
  [BitVec.ofNat 8 type, m.flags] ++ toBytes 2 m.rsv.toNat ++ toBytes 4 m.tag.toNat ++ toBytes 4 m.lot.toNat ++ toBytes 4 m.off.toNat ++
    toBytes 4 m.len.toNat ++ toBytes 4 m.arg.toNat ++ data

/-- ERROR with a code: 1 LOT_GONE, 2 ADDRESS, 3 FORMAT. -/
def State.cwErr (s : State) (p : Nat) (tag : W32) (code : Nat) : State := s.cwSend p 2 (cwMessage 0x1A 0 tag 0 0 0 (n32 code) [])

/-- The bytes of a lot that a request of these bytes names, in whole codewords (R371): reads and writes. -/
def cwSpan (m : List Byte) : Option (Nat × Nat × Nat) :=
  if [0x10, 0x11, 0x12].contains (leAt m 0 1) then some (leAt m 8 4, leAt m 12 4 / 32, (leAt m 12 4 + leAt m 16 4 + 31) / 32) else none

/-- A message may not be acted on before another received earlier: control messages keep their order, and so do requests to one 32-byte codeword (R360,
R371; 02 R61). -/
def cwBefore (a b : List Byte) : Bool :=
  match cwSpan a, cwSpan b with
  | some (l, i, j), some (l', i', j') => l = l' && i < j' && i' < j
  | none, none => (leAt a 0 1 < 8 || leAt a 0 1 = 0x20) && (leAt b 0 1 < 8 || leAt b 0 1 = 0x20)
  | _, _ => false

/-- Nothing received earlier on the port stands before a message. -/
def CwPort.turn (x : CwPort) (m : List Byte) : Bool := (x.inb.takeWhile (· ≠ m)).all fun e => !x.inb.contains m || !cwBefore e m

/-- A message is acted on, on a port that is up, in its turn: a broken field is logged, and answered with FORMAT where the message has a tag (R367). -/
def State.onMsg (s : State) (p type : Nat) (m : CwMsg) (data : List Byte) (act : State → State) : State :=
  let x := s.cwAt p
  if x.state ≠ 2 ∨ !x.turn (cwBytes type m data) then s
  else
    let s1 := s.setCw p { x with inb := x.inb.erase (cwBytes type m data) }
    match cwBroken type m with
    | some o =>
      let s2 := s1.cwProtocol p type (if cwTagged type then some m.tag else none) o
      if cwTagged type then s2.cwErr p m.tag 3 else s2
    | none => act s1

/-- KEEPALIVE: the first names the partner; another identity or epoch takes the port down. -/
def execKeepalive (p : CwPortId) (m : CwMsg) (ident : W64) (epoch : W32) (s : State) : Host.Outcome State Fault Refusal :=
  .next (s.onMsg p 0x20 m (toBytes 8 ident.toNat ++ toBytes 4 epoch.toNat) fun s =>
    let x := s.cwAt p
    if x.known ∧ (x.partnerId ≠ ident ∨ x.partnerEpoch ≠ epoch) then s.portDown p 3
    else (s.setCw p { x with known := true, partnerId := ident, partnerEpoch := epoch, keepAt := s.time, offered := m.arg.toNat }).wantLot)

/-- LOT_OFFER (R369, R370). -/
def execLotOffer (p : CwPortId) (m : CwMsg) (s : State) : Host.Outcome State Fault Refusal :=
  .next (s.onMsg p 0x01 m [] fun s => (s.setCw p { s.cwAt p with offered := m.arg.toNat }).wantLot)

/-- LOT_REQUEST (R370): LOT_GRANT or LOT_REFUSE. -/
def execLotRequest (p : CwPortId) (m : CwMsg) (s : State) : Host.Outcome State Fault Refusal :=
  .next (s.onMsg p 0x02 m [] fun s => match s.grantLot p with
    | some (lot, s1) => (s1.cwSend p 0 (cwMessage 0x03 0 m.tag lot 0 0 0 [])).lendCheck
    | none => s.cwSend p 0 (cwMessage 0x04 0 m.tag 0 0 0 0 []))

/-- LOT_GRANT (R370): the lowest free lot slot; a grant no longer waited for is answered with LOT_RELEASE. -/
def execLotGrant (p : CwPortId) (m : CwMsg) (s : State) : Host.Outcome State Fault Refusal :=
  .next (s.onMsg p 0x03 m [] fun s =>
    let x := s.cwAt p
    let slot := lowestFree (fun n => (s.lotAt n).state = 0) 4096 0
    if x.lotReq = some m.tag ∧ slot < 4096 then (s.setCw p { x with lotReq := none }).setLot slot ⟨1, m.lot, p, 0, []⟩
    else s.cwSend p 0 (cwMessage 0x06 0 0 m.lot 0 0 0 []))

/-- LOT_REFUSE (R370). -/
def execLotRefuse (p : CwPortId) (m : CwMsg) (s : State) : Host.Outcome State Fault Refusal :=
  .next (s.onMsg p 0x04 m [] fun s =>
    let x := s.cwAt p
    if x.lotReq = some m.tag then s.setCw p { x with lotReq := none } else s)

/-- LOT_REQUEST_GIVEUP (R370): 2 ms have passed. -/
def execLotRequestGiveup (p : CwPortId) (s : State) : Host.Outcome State Fault Refusal :=
  let x := s.cwAt p
  .next (if x.lotReqAt + 2000000 ≤ s.now then s.setCw p { x with lotReq := none } else s)

/-- The slot of a lot borrowed on a port. -/
def State.slotOf (s : State) (p : Nat) (lot : W32) : Option Nat :=
  (s.cw.slot.find? fun q => q.2.state ≠ 0 && q.2.port = p && q.2.lot = lot).map (·.1)

/-- LOT_RECALL (R373, 08 R253 step 1): RECALLING with a deadline 50 ms from now; a lot already RECALLING or released is left. -/
def execLotRecall (p : CwPortId) (m : CwMsg) (s : State) : Host.Outcome State Fault Refusal :=
  .next (s.onMsg p 0x05 m [] fun s => match s.slotOf p m.lot with
    | none => s
    | some k => if (s.lotAt k).state = 1 then s.setLot k { s.lotAt k with state := 2, deadline := s.time + 50000000 } else s)

/-- LOT_RELEASE (R373 step 3). -/
def execLotRelease (p : CwPortId) (m : CwMsg) (s : State) : Host.Outcome State Fault Refusal :=
  .next (s.onMsg p 0x06 m [] fun s => match s.cw.lent.find? fun l => l.lot = m.lot && l.port = p.val with
    | none => s
    | some l => s.returnLot l)

/-- LOT_RELEASED (R373): a lot that this module still holds is gone. -/
def execLotReleased (p : CwPortId) (m : CwMsg) (s : State) : Host.Outcome State Fault Refusal :=
  .next (s.onMsg p 0x07 m [] fun s => match s.slotOf p m.lot with
    | none => s
    | some k => s.loseLot k)

/-- LENDER_RECALL_DEADLINE (R373): the lot is taken back and LOT_RECLAIMED logged. -/
def execLenderRecallDeadline (lot : W32) (s : State) : Host.Outcome State Fault Refusal :=
  match s.cw.lent.find? fun l => l.lot = lot && l.recalled with
  | none => .next s
  | some l =>
    if l.deadline ≤ s.time then
      .next ((s.log 0x0405 (domOf .cwPort l.port) (lot.setWidth 64) (l.deadline - 51000000)).returnLot l)
    else .next s

/-- DATA messages of up to 4,096 bytes (R371). -/
def State.sendData (s : State) (p : Nat) (tag : W32) (ps : List Piece) : State :=
  let b := bytesOf ps
  (List.range ((b.length + 4095) / 4096)).foldl (fun s i =>
    let n := min 4096 (b.length - 4096 * i)
    s.cwSend p 2 (cwMessage 0x18 (b2n (piecesBad 0 ps (4096 * i) n)) tag 0 (4096 * i) n 0 ((b.drop (4096 * i)).take n))) s

/-- The lot a request names, or the ERROR code (R372). -/
def State.lentLot (s : State) (p : Nat) (m : CwMsg) : Except Nat Lent :=
  match s.cw.lent.find? fun l => l.lot = m.lot && l.port = p with
  | none => .error 1
  | some l => if 2 ^ 30 < m.off.toNat + m.len.toNat then .error 2 else .ok l

/-- Whether the Madder behind a request can be read or written now. -/
def State.lotOpen (s : State) (p type : Nat) (m : CwMsg) (write : Bool) : Bool :=
  (cwBroken type m).isSome || match s.lentLot p m with
  | .error _ => true
  | .ok l =>
    let cs := chunksOf l.pages m.off.toNat m.len.toNat
    if write then s.xferReady [] cs else s.xferReady cs []

/-- Serves a read of a lot (R371, R372). -/
def State.serveRead (s : State) (p : Nat) (m : CwMsg) (errs : List ScrubErr) : State :=
  match s.lentLot p m with
  | .error e => s.cwErr p m.tag e
  | .ok l =>
    let (ps, s1) := s.readChunks .partner (chunksOf l.pages m.off.toNat m.len.toNat) errs
    s1.sendData p m.tag ps

/-- READ. -/
def execCwRead (p : CwPortId) (m : CwMsg) (errs : List ScrubErr) (s : State) : Host.Outcome State Fault Refusal :=
  if !s.lotOpen p 0x10 m false then .next s else .next (s.onMsg p 0x10 m [] fun s => s.serveRead p m errs)

/-- BLOCK_READ. -/
def execCwBlockRead (p : CwPortId) (m : CwMsg) (errs : List ScrubErr) (s : State) : Host.Outcome State Fault Refusal :=
  if !s.lotOpen p 0x11 m false then .next s else .next (s.onMsg p 0x11 m [] fun s => s.serveRead p m errs)

/-- WRITE (R371): performed in Madder, then WRITE_ACK. -/
def execCwWrite (p : CwPortId) (m : CwMsg) (data : List Byte) (s : State) : Host.Outcome State Fault Refusal :=
  if !s.lotOpen p 0x12 m true then .next s else .next (s.onMsg p 0x12 m data fun s => match s.lentLot p m with
    | .error e => s.cwErr p m.tag e
    | .ok l =>
      let ps := recut m.off.toNat (padTo 0 m.len.toNat data) fun _ => m.flags = 1
      (s.writeChunksAs .partner 3 (chunksOf l.pages m.off.toNat m.len.toNat) ps).cwSend p 2 (cwMessage 0x19 0 m.tag 0 0 0 0 []))

/-- DATA (R371): bytes of a read arrive; poison marks them. -/
def execCwData (p : CwPortId) (m : CwMsg) (data : List Byte) (s : State) : Host.Outcome State Fault Refusal :=
  .next (s.onMsg p 0x18 m data fun s =>
    let x := s.cwAt p
    let o := m.off.toNat
    let n := m.len.toNat
    s.setCw p { x with reqs := x.reqs.map fun r =>
      if r.tag = m.tag ∧ r.read ∧ o + n ≤ r.len then
        { r with got := mwrite zeroByte r.got o (padTo 0 n data), recv := r.recv + n, bad := if m.flags = 1 then r.bad ++ [(o, n)] else r.bad }
      else r })

/-- WRITE_ACK. -/
def execCwWriteAck (p : CwPortId) (m : CwMsg) (s : State) : Host.Outcome State Fault Refusal :=
  .next (s.onMsg p 0x19 m [] fun s =>
    let x := s.cwAt p
    s.setCw p { x with reqs := x.reqs.filter fun r => !(r.tag = m.tag && !r.read) })

/-- A request of a channel fails: its descriptor ends with a code (R371). -/
def State.reqFailed (s : State) (p : Nat) (tag : W32) (code : Nat) : State :=
  let x := s.cwAt p
  match x.reqs.find? fun r => r.tag = tag with
  | none => s
  | some r =>
    let s1 := s.setCw p { x with reqs := x.reqs.erase r }
    if r.chan < 2048 ∧ (s.chanAt r.chan).state = 2 then (s1.dropReqs r.chan).endXfer r.chan code else s1

/-- ERROR (R371): LOT_GONE, ADDRESS or FORMAT. -/
def execCwError (p : CwPortId) (m : CwMsg) (s : State) : Host.Outcome State Fault Refusal :=
  .next (s.onMsg p 0x1A m [] fun s => s.reqFailed p m.tag (match m.arg.toNat with | 1 => 6 | 2 => 1 | _ => 7))

/-- REQUEST_TIMEOUT (R371): not answered within 2 ms of its sending: LINK. -/
def execRequestTimeout (p : CwPortId) (tag : W32) (s : State) : Host.Outcome State Fault Refusal :=
  .next (if (s.cwAt p).reqs.any fun r => r.tag = tag && decide (r.sent + 2000000 ≤ s.now) then s.reqFailed p tag 5 else s)

/-! #### Control registers (15 R413) -/

/-- CW_PORT_CTRL_WRITE (R356, R369, R373; 15 R413, Table REGS-17): disabling a port whose link is up or in retraining takes the port down. -/
def execCwPortCtrlWrite (p : CwPortId) (v : W64) (s : State) : Host.Outcome State Fault Refusal :=
  let x := s.cwAt p
  let y := { x with enable := v.getLsbD 0, lend := bitsOf v.toNat 11 4, borrow := bitsOf v.toNat 19 12 }
  let s1 := s.setCw p y
  if y.enable ∧ x.state = 0 then .next (s1.setCw p (y.fresh (if s.cwUsable p then 1 else 3) s.now)).lendCheck
  else if !y.enable ∧ (x.state = 2 ∨ x.cause.isSome) then .next (s1.portDown p 0)
  else if !y.enable then .next (s1.setCw p (y.fresh 0 s.now)).lendCheck
  else .next s1.lendCheck.wantLot

/-- CW_LEND_CTRL_WRITE (R369, R373; 15 Table REGS-19): a reserve above 1,024 GiB is 1,024. -/
def execCwLendCtrlWrite (v : W64) (s : State) : Host.Outcome State Fault Refusal :=
  let s1 : State := { s with cw := { s.cw with reserve := min 1024 (v.toNat % 2048) } }
  .next s1.lendCheck

end Sys2Proof.Machine
end

