-- ==== Sys2Proof/Machine/Host.lean ====
section
/-! DEFINITION. The host interface (12 R328 to R351): ports and carriage, BAR2, mailboxes, doorbells, command fetch and completion, ring
heads, MSI-X. -/
namespace Sys2Proof.Machine

open Sys2Proof

/-! #### Ports (R329, R333 to R335) -/

/-- What configuration space answers first: the Vendor ID and the Device ID of the function (R328). -/
def configData (p : HPort) : List Byte := toBytes 2 Config.vendorId.toNat ++ toBytes 2 (match p with | .A => 0x6416 | .B => 0x6417)

/-- CONFIG_REQUEST (R335): no completion until the port answers, which it does once its link has trained and no later than 100 ms after PERST_N
is deasserted. -/
def execConfigRequest (p : HPort) (s : State) : Host.Outcome State Fault Refusal :=
  let x := s.port p
  .next (s.setPort p { x with resp := if !s.pw.inReset && !x.disabled && (x.cfgReady || decide (100000000 ≤ s.now)) then .data (configData p) else .noCompletion })

/-- The producer shadows that R334 step 2 writes again for what is carried by another port than in `old`: of completion, stream and event rings. The
entries written again with them are those the slots hold, which changes nothing. -/
def State.shadowsAgain (s old : State) : State :=
  let one (s : State) (on : Bool) (a b : HPort) (at_ : W64) (prod : W32) : State :=
    if on && a != b then s.hostWrite at_.toNat (toBytes 4 prod.toNat) else s
  let s1 := (List.range 64).foldl (fun t n => one t ((s.mbox n).enabled || (s.mbox n).draining) (old.mbox n).port (s.mbox n).port (s.mbox n).shadow (s.mbox n).prod) s
  let s2 := s.ho.ring.foldl (fun t r => one t r.2.active (old.ringAt r.1).port r.2.port r.2.shadow r.2.prod) s1
  one s2 s.ho.event.active old.ho.event.port s.ho.event.port s.ho.event.shadow s.ho.event.prod

/-- Every mailbox and ring is carried by the port that `f` and `g` name (R333), under the steps of R334. -/
def State.carry (s : State) (f : Nat → HPort) (g : Ring → HPort) : State :=
  State.shadowsAgain { s with ho := { s.ho with
      mbox := (List.range 64).foldl (fun t n => tput mboxInit t n { s.mbox n with port := f n }) s.ho.mbox,
      ring := s.ho.ring.map fun r => (r.1, { r.2 with port := g r.2 }),
      event := { s.ho.event with port := g s.ho.event } } } s

/-- Everything carried by port `a` is carried by port `b` (R334). -/
def State.moveCarriage (s : State) (a b : HPort) : State :=
  let next (p : HPort) : HPort := if p = a then b else p
  s.carry (fun n => next (s.mbox n).port) fun r => next r.port

/-- A port goes down: a port that is up takes over what it carried (R334), and HOST_PORT_DOWN is logged. -/
def State.hostPortFails (s : State) (p : HPort) : State :=
  let x := s.port p
  if !x.up then s
  else
    let s1 := s.setPort p { x with up := false }
    let s2 := if (s.port (otherPort p)).up then s1.moveCarriage p (otherPort p) else s1
    s2.detect 0x0302 (domOf .hostPort (portNum p)) (n64 (portNum p))

/-- HOST_PORT_DOWN (R334). -/
def execHostPortDown (p : HPort) (s : State) : Host.Outcome State Fault Refusal := .next (s.hostPortFails p)

/-- D3HOT_TRANSITION (R329): as the port going down. -/
def execD3hotTransition (p : HPort) (s : State) : Host.Outcome State Fault Refusal := .next (s.hostPortFails p)

/-- A port comes up; where both were down, it takes over what the other carries (R334; notes/assumptions/48.md). -/
def State.portUp (s : State) (p : HPort) : State :=
  let s1 := s.setPort p { s.port p with up := true }
  if (s.port (otherPort p)).up then s1 else s1.moveCarriage (otherPort p) p

/-- HOST_PORT_RETURN (R334): the port is up again and takes nothing back. -/
def execHostPortReturn (p : HPort) (s : State) : Host.Outcome State Fault Refusal :=
  let x := s.port p
  if x.up ∨ x.disabled ∨ s.pw.inReset then .next s else .next (s.portUp p)

/-- PORT_LINK_TRAINED (R329; 15 Table REGS-7): at its rate code and width; below 64 GT/s or x8 it is degraded. -/
def execPortLinkTrained (p : HPort) (rate width : Nat) (s : State) : Host.Outcome State Fault Refusal :=
  if s.pw.inReset ∨ (s.port p).disabled then .next s
  else .next (s.setPort p { s.port p with up := true, cfgReady := true, rate := rate, width := width, degraded := decide (rate < 6 ∨ width < 8) })

/-- BAR_UNSUPPORTED_ACCESS (R331): an access that is not accepted completes with Unsupported Request and changes nothing else. -/
def execBarUnsupportedAccess (p : HPort) (bar4 : Bool) (off size : Nat) (s : State) : Host.Outcome State Fault Refusal :=
  .next (if barAccepts bar4 off size then s else s.setPort p { s.port p with resp := .unsupported })

/-! #### BAR2 (R332; 15 R409) -/

/-- Whether the base of a window is no multiple of its size: BAR2_STATUS misaligned. -/
def PortSt.misaligned (x : PortSt) : Bool := x.bar2Base % 2 ^ x.bar2Log ≠ 0

/-- The Madder address of window offset o, where the access decodes inside populated Madder. -/
def State.bar2Addr (s : State) (p : HPort) (off len : Nat) : Option Nat :=
  let x := s.port p
  let a := x.bar2Base + off
  if x.misaligned ∨ 2 ^ x.bar2Log < off + len then none
  else if (pieces 512 a len).all fun q => s.madderOk q.1 then some a else none

/-- HOST_ADDRESS (11 Table FALT-1): a1 0 for a read, 1 for a write. -/
def State.hostAddress (s : State) (p : HPort) (off write : Nat) : State :=
  s.detect 0x0303 (domOf .hostPort (portNum p)) (n64 off) (n64 write)

/-- BAR2_READ (R332, 11 R307): through the home slices; all ones outside Madder; a Poisoned TLP for poisoned codewords. -/
def execBar2Read (p : HPort) (off len : Nat) (errs : List ScrubErr) (s : State) : Host.Outcome State Fault Refusal :=
  match s.bar2Addr p off len with
  | none => .next ((s.setPort p { s.port p with resp := .data (List.replicate len 0xFF) }).hostAddress p off 0)
  | some a =>
    if !s.xferReady [(a, len)] [] then .next s else
    let (ps, s1) := s.agentRead .host a len 0 errs
    let b := bytesOf ps
    if anyPoison ps then
      let s2 : State := { s1 with ho := { s1.ho with bar2Poisoned := satAdd 0xFFFFFF s1.ho.bar2Poisoned 1 } }
      .next (s2.setPort p { s2.port p with resp := .poisoned b })
    else .next (s1.setPort p { s1.port p with resp := .data b })

/-- BAR2_READ_TIMEOUT (R332): all ones as a Poisoned TLP, counted. -/
def execBar2ReadTimeout (p : HPort) (len : Nat) (s : State) : Host.Outcome State Fault Refusal :=
  let s1 : State := { s with ho := { s.ho with bar2Timeouts := satAdd 0xFFFFFF s.ho.bar2Timeouts 1 } }
  .next (s1.setPort p { s1.port p with resp := .poisoned (List.replicate len 0xFF) })

/-- BAR2_WRITE (R332): only while write_en is 1; else discarded and logged. -/
def execBar2Write (p : HPort) (off : Nat) (data : HostWrite) (s : State) : Host.Outcome State Fault Refusal :=
  match (if s.ho.bar2Write then s.bar2Addr p off data.bytes.length else none) with
  | none => .next (s.hostAddress p off 1)
  | some a => if !s.xferReady [] [(a, data.bytes.length)] then .next s else .next (s.agentWriteAs .host data.errs 3 0 a (recut a data.bytes fun _ => false))

/-- BAR2_BASE_WRITE (15 R409, Table REGS-6): bits [45:30]; ignored unless a multiple of the window's size. -/
def execBar2BaseWrite (p : HPort) (v : W64) (s : State) : Host.Outcome State Fault Refusal :=
  let b := v.toNat % 2 ^ 46 / 2 ^ 30 * 2 ^ 30
  let x := s.port p
  if b % 2 ^ x.bar2Log = 0 then .next (s.setPort p { x with bar2Base := b }) else .next s

/-- BAR2_RESIZE (R330; 15 R409): 2^log bytes, 1 GiB to 1 TiB. -/
def execBar2Resize (p : HPort) (log : Nat) (s : State) : Host.Outcome State Fault Refusal :=
  if 30 ≤ log ∧ log ≤ 40 then .next (s.setPort p { s.port p with bar2Log := log }) else .next s

/-- BAR2_CLEAR (15 Table REGS-6). -/
def execBar2Clear (s : State) : Host.Outcome State Fault Refusal :=
  .next { s with ho := { s.ho with bar2Timeouts := 0, bar2Poisoned := 0 } }

/-! #### Mailboxes (R339 to R343) -/

/-- MBOX_CFG's ranges (15 R410). -/
def MBox.cfgOk (x : MBox) : Bool := 4 ≤ x.m && x.m ≤ 12 && 4 ≤ x.k && x.k ≤ 12 && x.vector ≤ 63 && x.coalesce ≤ 100

/-- MBOX_ENABLE (R335, R340; 15 R410). -/
def execMboxEnable (n : MboxId) (s : State) : Host.Outcome State Fault Refusal :=
  let x := s.mbox n
  if s.md.state ≠ 1 ∨ x.enabled ∨ x.draining then .next s
  else if !x.cfgOk then .next (s.setMbox n { x with cfgError := true })
  else .next ((s.hostWrite x.shadow.toNat [0, 0, 0, 0]).setMbox n
    { x with enabled := true, tail := 0, rung := [], fetch := 0, prod := 0, head := 0, irq := irqInit })

/-- Once nothing fetched is left, a disabled mailbox has drained. -/
def MBox.settle (x : MBox) : MBox := if x.draining ∧ x.cmds.isEmpty ∧ x.done.isEmpty then { x with draining := false } else x

/-- MBOX_DISABLE (R340). -/
def execMboxDisable (n : MboxId) (s : State) : Host.Outcome State Fault Refusal :=
  let x := s.mbox n
  if x.enabled then .next (s.setMbox n { x with enabled := false, draining := true }.settle) else .next s

/-- Entries of the rings. -/
def MBox.sqSize (x : MBox) : Nat := 2 ^ x.m
def MBox.cqSize (x : MBox) : Nat := 2 ^ x.k
def MBox.outstanding (x : MBox) : Nat := x.cmds.length + x.done.length

/-- An index that is UNORDERED against its reference is logged (07 R228, Table SYNC-5). -/
def State.ringIndexLog (s : State) (ref v : W32) : State := if serialCmp ref v = .unordered then s.logSerial 4 ref.toNat v.toNat else s

/-- The tail doorbells after another, the `n`th to arrive, gives tail v: those that give more are cut to it (R341, R351). -/
def MBox.ring (x : MBox) (v : W32) (n : Nat) : List (W32 × Nat) :=
  let below := x.rung.filter fun q => (q.1 - x.fetch).toNat < (v - x.fetch).toNat
  match x.rung.find? fun q => (v - x.fetch).toNat ≤ (q.1 - x.fetch).toNat with
  | some q => if v = x.fetch then below else below ++ [(v, q.2)]
  | none => if v = x.fetch then below else below ++ [(v, n)]

/-- SQ_TAIL (R333, R341). -/
def execSqTail (p : HPort) (n : MboxId) (v : W32) (s : State) : Host.Outcome State Fault Refusal :=
  let x := s.mbox n
  if x.port ≠ p then .next (s.setMbox n { x with wrongPort := true })
  else if (v - x.fetch).toNat ≤ x.sqSize then
    .next (({ s with ho := { s.ho with bells := s.ho.bells + 1 } } : State).setMbox n { x with tail := v, rung := x.ring v s.ho.bells })
  else .next ((s.ringIndexLog x.fetch v).setMbox n { x with dbError := true })

/-- CQ_HEAD (R333, R341). -/
def execCqHead (p : HPort) (n : MboxId) (v : W32) (s : State) : Host.Outcome State Fault Refusal :=
  let x := s.mbox n
  if x.port ≠ p then .next (s.setMbox n { x with wrongPort := true })
  else if (x.prod - v).toNat ≤ x.cqSize then .next (s.setMbox n { x with head := v })
  else .next ((s.ringIndexLog x.prod v).setMbox n { x with dbError := true })

/-- A ring head doorbell (R344). -/
def Ring.takeHead (r : Ring) (p : HPort) (v : W32) : Ring :=
  if r.port ≠ p then { r with wrongPort := true }
  else if (r.prod - v).toNat ≤ r.size then { r with head := v }
  else { r with dbError := true }

/-- STREAM_RING_HEAD (R344); a ring that does not exist takes none. -/
def execStreamRingHead (p : HPort) (r : RingId) (v : W32) (s : State) : Host.Outcome State Fault Refusal :=
  let x := s.ringAt r
  if !x.active then .next s
  else .next ((if x.port = p ∧ (x.takeHead p v).head ≠ v then s.ringIndexLog x.prod v else s).setRing r (x.takeHead p v))

/-- EVENT_RING_HEAD (R344). -/
def execEventRingHead (p : HPort) (v : W32) (s : State) : Host.Outcome State Fault Refusal :=
  let x := s.ho.event
  if !x.active then .next s
  else .next ((if x.port = p ∧ (x.takeHead p v).head ≠ v then s.ringIndexLog x.prod v else s).setEventRing (x.takeHead p v))

/-- DMA_DOORBELL (R345). -/
def execDmaDoorbell (p : HPort) (d : DoorId) (s : State) : Host.Outcome State Fault Refusal :=
  .next (s.sendSignal ⟨ctrId (doorCtr d), 1, .host p⟩)

/-! #### Fetching a command (R342, R346 to R349) -/

/-- How the extended block of an opcode is used (R349). -/
inductive ExtKind where
  | none
  | out
  | fixed (n : Nat)
  | image
deriving DecidableEq, Repr

/-- An opcode's row of Table HOST-9: marked ctl, its operand sizes in order, its extended block (of the command's entry). -/
structure OpRow where
  ctl : Bool
  sizes : List Nat
  ext : ExtKind
deriving DecidableEq, Repr

/-- Table HOST-9; none for an undefined opcode. -/
def opRow (op : Nat) (e : List Byte) : Option OpRow :=
  match op with
  | 0x0001 => some ⟨false, [4], .out⟩
  | 0x0002 => some ⟨true, [1], .none⟩
  | 0x0003 => some ⟨true, [1], .none⟩
  | 0x0101 => some ⟨true, [2], .none⟩
  | 0x0102 => some ⟨true, [2], .none⟩
  | 0x0103 => some ⟨true, [2, 1, 8], .none⟩
  | 0x0104 => some ⟨false, [], .out⟩
  | 0x0105 => some ⟨false, [2], .none⟩
  | 0x0106 => some ⟨false, [4, 2], .fixed (leAt e 0x1C 2 * 8)⟩
  | 0x0107 => some ⟨false, [], .none⟩
  | 0x0201 => some ⟨false, [8, 4, 2, 1], .none⟩
  | 0x0202 => some ⟨false, [4], .none⟩
  | 0x0203 => some ⟨false, [4, 4, 8, 4, 1], .none⟩
  | 0x0204 => some ⟨false, [4, 4], .none⟩
  | 0x0205 => some ⟨false, [4, 4], .none⟩
  | 0x0206 => some ⟨false, [4], .out⟩
  | 0x0207 => some ⟨false, [8, 4, 4, 4, 2, 1], .none⟩
  | 0x0208 => some ⟨false, [8, 4], .none⟩
  | 0x0209 => some ⟨false, [8, 4, 4, 1], .none⟩
  | 0x020A => some ⟨true, [8, 8, 2, 1], .none⟩
  | 0x020B => some ⟨true, [4], .none⟩
  | 0x0301 => some ⟨false, [2], .image⟩
  | 0x0302 => some ⟨false, [2], .none⟩
  | 0x0303 => some ⟨false, [2], .none⟩
  | 0x0304 => some ⟨false, [2, 2, 4, 4, 4], .none⟩
  | 0x0305 => some ⟨false, [2, 1], .out⟩
  | 0x0401 => some ⟨false, [2, 2, 2, 4, 4], .fixed (leAt e 0x24 4 * 32)⟩
  | 0x0402 => some ⟨false, [2], .none⟩
  | 0x0403 => some ⟨false, [2], .none⟩
  | 0x0404 => some ⟨false, [2], .none⟩
  | 0x0501 => some ⟨false, [2, 4, 2, 2, 2, 2, 1, 1, 4, 4, 2], .fixed (leAt e 0x34 2 * 2)⟩
  | 0x0601 => some ⟨false, [2, 2, 2, 1, 1, 8, 4, 4, 4, 2], .fixed (leAt e 0x1F 1 * 68)⟩
  | 0x0602 => some ⟨false, [4, 1, 2], .fixed (leAt e 0x1E 2 * 4)⟩
  | 0x0603 => some ⟨false, [4], .none⟩
  | 0x0604 => some ⟨false, [4], .none⟩
  | 0x0605 => some ⟨false, [4, 2, 1, 1, 8, 4, 4, 4, 2], .fixed (leAt e 0x1F 1 * 68)⟩
  | 0x0606 => some ⟨false, [4], .out⟩
  | 0x0607 => some ⟨false, [8, 8, 1, 1, 1, 1], .none⟩
  | 0x0608 => some ⟨false, [2], .none⟩
  | 0x0701 => some ⟨true, [8, 8, 1, 1, 1, 1], .none⟩
  | 0x0801 => some ⟨true, [2], .none⟩
  | 0x0802 => some ⟨true, [1, 1], .none⟩
  | 0x0803 => some ⟨true, [8, 8], .none⟩
  | 0x0804 => some ⟨true, [1, 2], .none⟩
  | 0x0901 => some ⟨true, [1], .none⟩
  | 0x0902 => some ⟨true, [1], .none⟩
  | 0x0903 => some ⟨true, [2, 1, 4], .out⟩
  | 0x0A01 => some ⟨true, [8, 4, 1], .none⟩
  | 0x0A02 => some ⟨true, [4], .none⟩
  | 0x0A03 => some ⟨true, [2, 2, 8, 1], .none⟩
  | _ => none

/-- The offsets that fields of these sizes take from `o` on, each at a multiple of its own size (R347). -/
def usedBytes : List Nat → Nat → List Nat
  | [], _ => []
  | n :: r, o =>
    let a := (o + n - 1) / n * n
    (List.range n).map (a + ·) ++ usedBytes r (a + n)

/-- Bytes of a model image, from its header (R349, R353). -/
def imageBytes (ext : List Byte) : Nat := 96 + 32 * leAt ext 0x20 4 + 16 * leAt ext 0x24 2

/-- Whether EXT and ext_len agree with the opcode (R349). -/
def extOk (k : ExtKind) (hasExt : Bool) (len : Nat) (ext : List Byte) : Bool :=
  match k with
  | .none => !hasExt && len = 0
  | .out => hasExt && 1 ≤ len
  | .fixed n => if n = 0 then !hasExt && len = 0 else hasExt && len = (n + 63) / 64
  | .image => hasExt && len = (imageBytes ext + 63) / 64

/-- The values of the operands of these sizes from offset `o` of an entry on (R347). -/
def operandsAt (e : List Byte) : List Nat → Nat → List Nat
  | [], _ => []
  | n :: r, o =>
    let a := (o + n - 1) / n * n
    leAt e a n :: operandsAt e r (a + n)

/-- The operands of an entry, in the order of Table HOST-9. -/
def operandsOf (e : List Byte) : List Nat :=
  match opRow (leAt e 0 2) e with
  | some r => operandsAt e r.sizes 0x18
  | none => []

/-- The flags operands of SESSION_OPEN, SESSION_APPEND and SESSION_FORK have one bit. -/
def oneBitFlags (e : List Byte) : Bool :=
  match leAt e 0 2 with
  | 0x0601 => leAt e 0x1E 1 < 2
  | 0x0602 => leAt e 0x1C 1 < 2
  | 0x0605 => leAt e 0x1E 1 < 2
  | _ => true

/-- Steps 1 to 3 of R348: the status a command is refused with at its fetch, or none. -/
def fetchCheck (mb : Nat) (e ext : List Byte) : Option Nat :=
  match opRow (leAt e 0 2) e with
  | none => some stOpcode
  | some r =>
    let used := usedBytes r.sizes 0x18
    let hasExt := bitAt (leAt e 2 1) 1
    let clean := leAt e 2 1 < 4 && leAt e 3 1 = 0 && leAt e 8 2 < 2 ^ 14 && leAt e 12 4 = 0 &&
      (if hasExt then leAt e 16 8 % 64 = 0 else leAt e 16 8 = 0) &&
      (List.range 40).all fun i => used.contains (0x18 + i) || leAt e (0x18 + i) 1 = 0
    if !(clean && oneBitFlags e && extOk r.ext hasExt (leAt e 10 2) ext) then some stFormat
    else if r.ctl && mb ≠ 0 && mb ≠ 32 then some stPrivilege
    else none

/-- The header of the command at index `index`. -/
def hdrOf (mb : MboxId) (index : W32) (e : List Byte) : CmdHdr :=
  ⟨mb, index, n32 (leAt e 4 4), BitVec.ofNat 16 (leAt e 8 2), bitAt (leAt e 2 1) 0⟩

/-- Whether the next command may be fetched (R342). -/
def State.mayFetch (s : State) (n : Nat) : Bool :=
  let x := s.mbox n
  s.md.state = 1 && s.md.running && x.enabled && (s.port x.port).up && x.fetch ≠ x.tail && x.outstanding < 256 &&
    (x.prod - x.head).toNat + x.outstanding < x.cqSize

/-- A mailbox whose next command has been fetched. -/
def MBox.taken (x : MBox) : MBox := { x with fetch := x.fetch + 1, rung := x.rung.filter fun q => q.1 ≠ x.fetch + 1 }

/-- The place in the order of arrival of the doorbell that announced the next command of a mailbox. -/
def MBox.bell (x : MBox) : Nat := (x.rung.map (·.2)).head?.getD 0

/-- Commands are accepted in the order in which their doorbells arrived, across the mailboxes of one port (R351): no other mailbox of the port that
may fetch was rung earlier. DEDUCED: a mailbox whose fetch R342 holds up holds up no other (notes/assumptions/130.md). -/
def State.bellTurn (s : State) (n : Nat) : Bool :=
  (List.range 64).all fun m => m = n || (s.mbox m).port ≠ (s.mbox n).port || !s.mayFetch m || (s.mbox n).bell ≤ (s.mbox m).bell

/-- COMMAND_FETCH (R342, R348): the entry at F, `ext` being the start of its extended block. A refused command completes at once. -/
def execCommandFetch (n : MboxId) (entry ext : List Byte) (s : State) : Host.Outcome State Fault Refusal :=
  if !(s.mayFetch n && s.bellTurn n) then .next s
  else
    let x := s.mbox n
    let h := hdrOf n x.fetch entry
    let s1 := ({ s with ho := { s.ho with fetched := s.ho.fetched + 1 } } : State).setMbox n { x.taken with
      cmds := x.cmds ++ [⟨h, leAt entry 0 2, operandsOf entry, leAt entry 16 8, leAt entry 10 2, s.ho.fetched, false⟩] }
    match fetchCheck n entry ext with
    | some e => .next (s1.finish h e)
    | none => .next s1

/-! #### Completions (R343, R350) -/

/-- The 32-byte completion entry (Table HOST-7). -/
def cplBytes (c : Cpl) (mb : Nat) (p : HPort) (time : W64) : List Byte :=
  toBytes 4 c.tag.toNat ++ toBytes 2 c.opcode ++ toBytes 2 c.status ++ toBytes 4 c.index.toNat ++
    [BitVec.ofNat 8 mb, BitVec.ofNat 8 (portNum p), 0, 0] ++ toBytes 8 c.result.toNat ++ toBytes 8 time.toNat

/-- Whether the stream entries that a completion waits for are written: the ring's producer has reached the index. -/
def State.waited (s : State) : Option (Nat × W32) → Bool
  | none => true
  | some (r, t) => !(s.ringAt r).active || (t - (s.ringAt r).prod).toNat = 0 || 2 ^ 31 ≤ (t - (s.ringAt r).prod).toNat

/-- COMMAND_COMPLETION (R343): the oldest completion that waits for nothing is written at P, then the shadow, then the message. -/
def execCommandCompletion (n : MboxId) (s : State) : Host.Outcome State Fault Refusal :=
  let x := s.mbox n
  match x.done.find? fun c => s.waited c.wait with
  | none => .next s
  | some c =>
    if !(s.port x.port).up then .next s
    else
      let s1 := s.hostWrite (x.cqBase.toNat + 32 * (x.prod.toNat % x.cqSize)) (cplBytes c n x.port s.time)
      let s2 := s1.hostWrite x.shadow.toNat (toBytes 4 (x.prod + 1).toNat)
      let (s3, i) := s2.irqAfter x.port x.vector x.coalesce x.irq
      .next (s3.setMbox n { x with prod := x.prod + 1, done := x.done.erase c, irq := i }.settle)

/-- The end of a coalescing interval of so many µs: a held message is sent and opens the next interval (R343). -/
def State.coalesceEnd (s : State) (p : HPort) (v us : Nat) (i : Irq) : State × Irq :=
  if i.running ∧ s.now < i.since + 1000 * us then (s, i)
  else if i.running ∧ i.held then (s.msix p v, ⟨true, false, s.now⟩) else (s, irqInit)

/-- MSIX_COALESCE_EXPIRY (R343). -/
def execMsixCoalesceExpiry (r : RingRef) (s : State) : Host.Outcome State Fault Refusal :=
  match r with
  | .mbox n =>
    let x := s.mbox n
    let (s1, i) := s.coalesceEnd x.port x.vector x.coalesce x.irq
    .next (s1.setMbox n { x with irq := i })
  | .stream r =>
    let x := s.ringAt r
    let (s1, i) := s.coalesceEnd x.port x.vector x.coalesce x.irq
    .next (s1.setRing r { x with irq := i })
  | .event =>
    let x := s.ho.event
    let (s1, i) := s.coalesceEnd x.port x.vector x.coalesce x.irq
    .next (s1.setEventRing { x with irq := i })

/-- HOST_READ_TIMEOUT (R337): a command whose read fails completes with LINK; a command slot that cannot be read is passed over with a
completion of opcode 0 and tag 0; a descriptor ends with LINK (notes/assumptions/49.md). -/
def execHostReadTimeout (what : HostRead) (s : State) : Host.Outcome State Fault Refusal :=
  match what with
  | .chan c => if (s.chanAt c).state = 2 ∧ (s.chanAt c).started ∧ (s.chanAt c).ended = none then .next (s.linkFail c) else .next s
  | .command n index =>
    let x := s.mbox n
    match x.cmds.find? fun r => r.hdr.index = index with
    | some r => .next (s.finish r.hdr stLink)
    | none =>
      if x.fetch = index ∧ s.mayFetch n then
        .next (s.setMbox n { x.taken with done := x.done ++ [⟨0, 0, stLink, index, 0, none⟩] })
      else .next s

/-- HEARTBEAT (R338; 15 R408): HEARTBEAT_TIME, then the count; only while agents run, and, of one primary, no sooner than 90 µs after the last. -/
def execHeartbeat (s : State) : Host.Outcome State Fault Refusal :=
  if s.md.running ∧ (s.md.hbFirst ∨ s.md.hbTime.toNat + 90000 ≤ s.now) then .next { s with md := { s.md with hbTime := s.time, hbCount := s.md.hbCount + 1, hbFirst := false } } else .next s

end Sys2Proof.Machine
end

