-- ==== Sys2Proof/Machine/Handlers.lean ====
section
/-! DEFINITION. Containment domains and their handlers (11 R310, R311): which domain lies in which, which handler is active, when its action is
complete. -/
namespace Sys2Proof.Machine

open Sys2Proof

/-- A domain and every domain that contains it, innermost first (11 Table FALT-2). -/
def State.chain (s : State) (d : Domain) : List Domain :=
  let sq (k : Nat) : List Domain := [⟨.square, k⟩, ⟨.module, 0⟩]
  let die (i : Nat) : List Domain := ⟨.die, i⟩ :: ⟨.stack, i / 16⟩ :: sq (i / 16)
  let sub (c : Nat) : List Domain := ⟨.sub, c⟩ :: ⟨.die, c / 4⟩ :: ⟨.tile, (s.sub c).serving⟩ :: ⟨.stack, c / 64⟩ :: sq (c / 64)
  let tile (t : Nat) : List Domain := ⟨.tile, t⟩ :: sq (t / 4)
  match d.kind with
  | .module => [d]
  | .square => sq d.idx
  | .stack => ⟨.stack, d.idx⟩ :: sq d.idx
  | .tile => tile d.idx
  | .die => die d.idx
  | .sub => sub d.idx
  | .unit => die (d.idx / 8)
  | .array => tile (d.idx / 2)
  | .bank => sub (d.idx / 4)
  | .hostPort => [d]
  | .cwPort => [d]

/-- The parent to which containment escalates (Table FALT-2). -/
def parentDom (d : Domain) : Option Domain :=
  match d.kind with
  | .sub => some ⟨.stack, d.idx / 64⟩
  | .die => some ⟨.stack, d.idx / 16⟩
  | .stack => some ⟨.square, d.idx⟩
  | .tile => some ⟨.square, d.idx / 4⟩
  | .square => some ⟨.module, 0⟩
  | _ => none

/-- Whether domain d lies inside D, or is D. -/
def State.inside (s : State) (d D : Domain) : Bool := (s.chain d).contains D

/-- The active handler whose domain contains d, the innermost. -/
def State.handlerOf (s : State) (d : Domain) : Option Handler := (s.chain d).findSome? fun D => s.fl.handlers.find? fun h => h.dom = D

/-- Sub-channels that a domain's containment action may close. -/
def subsOf (d : Domain) : List Nat :=
  match d.kind with
  | .sub => [d.idx]
  | .die => (List.range 4).map (4 * d.idx + ·)
  | .stack | .square => (List.range 64).map (64 * d.idx + ·)
  | _ => []

/-- A sub-channel whose retraining, with the switch after it, is asked for or runs. -/
def SubCh.trains (x : SubCh) : Bool := x.state = 2 || x.holder = 1 || x.holder = 3 || x.waiting.contains 1

/-- Tiles that a domain's containment action may restart. -/
def tilesOf (d : Domain) : List Nat :=
  match d.kind with
  | .tile => [d.idx]
  | .square => (List.range 4).map (4 * d.idx + ·)
  | _ => []

/-- Whether a containment action is complete: its groups wait no longer, its sub-channels and tiles run again (R310). -/
def State.handlerDone (s : State) (h : Handler) : Bool :=
  !(s.sv.model.any fun m => match m.2.group with
    | some g => g.replay && g.cause = h.seq
    | none => false) &&
  (subsOf h.dom).all (fun c => !(s.sub c).trains) &&
  (tilesOf h.dom).all (fun t => (s.tileAt t).state ≠ 1 && !(s.dr.sub.any fun c => c.2.state = 0 && c.2.standbyPort && ownerTile c.1 = t)) &&
  (h.dom.kind ≠ .cwPort || (s.cw.port.lookup h.dom.idx).all fun p => p.state ≠ 1)

/-- Handlers whose action is complete are active no longer; sub-channels they held open again. -/
def State.settle (s : State) : State :=
  let hs := s.fl.handlers.filter fun h => !s.handlerDone h
  let s1 : State := { s with fl := { s.fl with handlers := hs } }
  if hs = s.fl.handlers then s
  else (s.dr.sub.filter fun c => c.2.state = 4 && (s1.handlerOf ⟨.sub, c.1⟩).isNone).foldl
    (fun s c => s.setSub c.1 { s.sub c.1 with state := 1 }) s1

/-- A containment action holds a sub-channel. -/
def State.holdSub (s : State) (c : Nat) : State := if (s.sub c).state = 1 then s.setSub c { s.sub c with state := 4 } else s

end Sys2Proof.Machine
end

