-- ==== Sys2Proof/Machine/Sampling.lean ====
section
/-! DEFINITION. Sampling (09 R286, R287), stop matching (R288) and completion entries (R289): functions of one session's data. -/
namespace Sys2Proof.Machine

open Sys2Proof

/-! #### Sampling (R286, R287) -/

/-- The sampling word of the token at position p: user 0x0002 of the seed. -/
def sampleWord (seed : W64) (p : Nat) : W64 := seedMix seed (BitVec.ofNat 64 (p % 2 ^ 32 + 0x0002 * 2 ^ 48)) 0

def isNaN (x : W32) : Bool := u32 x == .nan
def fLt (a b : W32) : Bool := numCmp (u32 a) (u32 b) == some .lt
def fEq (a b : W32) : Bool := numCmp (u32 a) (u32 b) == some .eq
def fGe (a b : W32) : Bool := fLt b a || fEq a b

/-- The lowest index of a maximal logit, NaN ignored: `best` so far, index `i` next. -/
def argMax : List W32 → Nat → Option (Nat × W32) → Option (Nat × W32)
  | [], _, best => best
  | z :: r, i, best =>
    argMax r (i + 1) (if isNaN z then best else match best with
      | none => some (i, z)
      | some (_, b) => if fLt b z then some (i, z) else best)

/-- Puts a candidate after all that are not smaller, keeping the `kk` first. -/
def insTop (kk : Nat) (c : Nat × W32) (l : List (Nat × W32)) : List (Nat × W32) :=
  ((l.takeWhile fun d => !fLt d.2 c.2) ++ c :: (l.dropWhile fun d => !fLt d.2 c.2)).take kk

/-- The `kk` largest, y descending, then index ascending. -/
def topK (kk : Nat) (ys : List W32) : List (Nat × W32) :=
  ((List.range ys.length).zip ys).foldl (fun acc c => insTop kk c acc) []

/-- log2(e) in FP32. -/
def log2e : W32 := 0x3FB8AA3B
def oneF : W32 := 0x3F800000
/-- exp2 is VFN 2^x. -/
def expTerm (y y0 : W32) : W32 := vfnF 0 (fmul (fsub y y0) log2e)

/-- The number of candidates that top_p keeps: the first at which the running sum reaches `lim`, else all. -/
def nucleus (lim : W32) : List W32 → Nat → W32 → Nat → Nat
  | [], _, _, all => all
  | e :: r, j, a, all => if fGe (fadd a e) lim then j + 1 else nucleus lim r (j + 1) (fadd a e) all

/-- The first candidate whose running sum exceeds t. -/
def pickAt (t : W32) : List (Nat × W32) → W32 → Option Nat
  | [], _ => none
  | (c, e) :: r, a => if fLt t (fadd a e) then some c else pickAt t r (fadd a e)

/-- sample() of R287: the token, and whether every logit is NaN. -/
def sampleToken (z : List W32) (T : W32) (k : Nat) (pp : W32) (seed : W64) (p : Nat) : Nat × Bool :=
  match argMax z 0 none with
  | none => (0, true)
  | some (best, _) =>
    if fEq T 0 then (best, false)
    else
      let ys := z.map fun v => if isNaN v then (0xFF800000 : W32) else fdiv v T
      let kk := min (if k = 0 then 256 else k) z.length
      let cs := topK kk ys
      let y0 := (cs.headD (0, 0)).2
      let es := cs.map fun c => expTerm c.2 y0
      let nk := if fLt pp oneF then
          let S := if k = 0 then pairwiseF (ys.map fun y => expTerm y y0) else pairwiseF es
          nucleus (fmul pp S) es 0 0 kk
        else kk
      let ces := ((cs.map (·.1)).zip es).take nk
      let Sk := ces.foldl (fun a c => fadd a c.2) (0 : W32)
      let t := fmul (fmul (i2f ((sampleWord seed p >>> 40).toNat : Int)) 0x33800000) Sk
      ((pickAt t ces 0).getD ((ces.getLast?.map (·.1)).getD 0), false)

/-! #### Stop matching (R288) -/

/-- What a committed token leads to: the tokens held, those released, and the status and matched code where it ends the session. -/
structure TokOut where
  held : List W32
  rel : List W32
  fin : Option (Nat × Nat)
deriving DecidableEq, Repr

/-- The longest stop sequence that is a suffix of w, the lowest index among equals: its index and length. -/
def stopMatch (w : List W32) : List (List W32) → Nat → Option (Nat × Nat) → Option (Nat × Nat)
  | [], _, best => best
  | p :: r, i, best =>
    let hit := p.length ≤ w.length && w.drop (w.length - p.length) == p
    let better := match best with
      | none => true
      | some (_, n) => decide (n < p.length)
    stopMatch w r (i + 1) (if hit && better then some (i, p.length) else best)

/-- The longest suffix of w, of at most 15 tokens, that is a proper prefix of a stop sequence. -/
def holdLen (stops : List (List W32)) (w : List W32) : Nat :=
  ((List.range (min w.length 15 + 1)).reverse.find? fun L =>
    stops.any fun p => decide (L < p.length) && p.take L == w.drop (w.length - L)).getD 0

/-- on_token() of R288. `count` is the new-token count with this token, `full` whether H has reached the maximum context. -/
def onToken (held : List W32) (stops : List (List W32)) (incl : Bool) (eos : List W32) (count maxNew : Nat) (full : Bool) (t : W32) : TokOut :=
  let w := held ++ [t]
  match stopMatch w stops 0 none with
  | some (i, n) => ⟨[], if incl then w else w.take (w.length - n), some (1, i)⟩
  | none =>
    match eos.findIdx? (· = t) with
    | some e => ⟨[], if incl then w else held, some (1, 0x80 + e)⟩
    | none =>
      if count = maxNew ∨ full then ⟨[], w, some (2, 0xFF)⟩
      else
        let L := holdLen stops w
        ⟨w.drop (w.length - L), w.take (w.length - L), none⟩

/-! #### Completion entries (R289, R290) -/

/-- One entry (Table SERV-8). -/
def entryBytes (handle seq : W32) (toks : List W32) (flags status matched : Nat) (count : W32) (time : W64) (gen : W32) (tenant : W16) : List Byte :=
  toBytes 4 handle.toNat ++ toBytes 4 seq.toNat ++ [BitVec.ofNat 8 toks.length, BitVec.ofNat 8 flags, BitVec.ofNat 8 status, BitVec.ofNat 8 matched] ++
    toBytes 4 count.toNat ++ ((padTo 0 8 toks).flatMap fun t => toBytes 4 t.toNat) ++ toBytes 8 time.toNat ++ toBytes 4 gen.toNat ++
    toBytes 2 tenant.toNat ++ [0, 0]

/-- Groups of up to 8 tokens; one empty group where the session ends with nothing to release. -/
def tokenGroups (rel : List W32) (ends : Bool) : List (List W32) :=
  if rel.isEmpty then (if ends then [[]] else [])
  else (List.range ((rel.length + 7) / 8)).map fun i => (rel.drop (8 * i)).take 8

end Sys2Proof.Machine
end

