-- ==== Sys2Proof/Machine/Sessions.lean ====
section
/-! DEFINITION. Shared operations of the generation service (09): models, overlays and sessions as records, their claims, entries, ends and
key/value extents. -/
namespace Sys2Proof.Machine

open Sys2Proof

/-! #### Records -/

/-- The defaults of calibration (04 R140). -/
def calDefault : Calib := ⟨1000, 65536, 4096, 1⟩

def modelInit : ModelD :=
  { state := 0, owner := 0, hdr := [], pieces := [], sched := [], cal := calDefault, calNext := none, counts := [], window := 0, plan := none,
    nextPlan := none, tLast := 0, stepNo := 0, group := none, slotNo := 0, slotAt := none, overrun := 0, layerAt := 0, staged := [] }
def modelD : Nat → ModelD := fun _ => modelInit
def State.modelAt (s : State) (m : Nat) : ModelD := tget modelD s.sv.model m
def State.setModel (s : State) (m : Nat) (x : ModelD) : State := { s with sv := { s.sv with model := tput modelD s.sv.model m x } }

/-- Fields of a model image's header (12 Table HOST-11). -/
def ModelD.layers (m : ModelD) : Nat := leAt m.hdr 0 1 + 1
def ModelD.kvHeads (m : ModelD) : Nat := leAt m.hdr 1 1
def ModelD.vocab (m : ModelD) : Nat := leAt m.hdr 4 4
def ModelD.maxCtx (m : ModelD) : Nat := leAt m.hdr 8 4
def ModelD.home (m : ModelD) : Nat := leAt m.hdr 12 2
def ModelD.eos (m : ModelD) : List W32 := (List.range (leAt m.hdr 3 1)).map fun i => n32 (leAt m.hdr (0x10 + 4 * i) 4)
/-- The lead square: the lowest-numbered of the home (01 R26). -/
def ModelD.lead (m : ModelD) : Nat := (squaresOf m.home).headD 0

def ovInit : Overlay := ⟨0, 0, 0, 0, 0, [], none⟩
def ovD : Nat → Overlay := fun _ => ovInit
def State.ovAt (s : State) (v : Nat) : Overlay := tget ovD s.sv.overlay v
def State.setOv (s : State) (v : Nat) (x : Overlay) : State := { s with sv := { s.sv with overlay := tput ovD s.sv.overlay v x } }

/-- A slot that no session has used: generation 1 (R270). -/
def sessInit : Sess :=
  { gen := 1, state := 0, tenant := 0, model := 0, series := 0xFFFF, overlay := none, seed := 0, temp := 0, topP := 0, topK := 0, stops := [],
    maxNew := 0, ring := 0, inclStop := false, prompt := [], chunk := 0, h := 0, last := 0, held := [], count := 0, seq := 0, frac := 0,
    lastStep := 0, inStep := false, parked := 0, rebind := false, blocks := [], ended := 0 }
def sessD : Nat → Sess := fun _ => sessInit
def State.sessAt (s : State) (k : Nat) : Sess := tget sessD s.sv.sess k
def State.setSess (s : State) (k : Nat) (x : Sess) : State := { s with sv := { s.sv with sess := tput sessD s.sv.sess k x } }

/-- The handle of slot k (R270). -/
def Sess.handle (x : Sess) (k : Nat) : W32 := n32 (x.gen.toNat * 2 ^ 18 + k)
def hdSlot (hd : W32) : Nat := hd.toNat % 2 ^ 18
/-- A session that has not ended: OPEN, PREFILL or DECODE. -/
def Sess.live (x : Sess) : Bool := 1 ≤ x.state && x.state ≤ 3

/-- The session a handle names, or the status that refuses it: STALE_HANDLE (R270), DOMAIN (12 R348). -/
def State.sessOf (s : State) (tenant : W16) (hd : W32) : Except Nat Sess :=
  let x := s.sessAt (hdSlot hd)
  if x.state = 0 ∨ x.gen.toNat ≠ hd.toNat / 2 ^ 18 then .error stStaleHandle
  else if x.tenant ≠ tenant then .error stDomain
  else .ok x

/-! #### Objects and claims (R246, R271) -/

/-- Module claim numbers: a published model's, an open session's. -/
def claimModel (m : Nat) : Nat := m
def claimSess (k : Nat) : Nat := 4096 + k

/-- The objects of a bound overlay. -/
def State.ovObjects (s : State) (v : Option W16) : List Nat := match v with | some n => (s.ovAt n.toNat).objects | none => []

/-- The objects a session needs. -/
def State.sessObjects (s : State) (x : Sess) : List Nat := (s.modelAt x.model.toNat).objects ++ s.ovObjects x.overlay

/-- Whether an object is RESIDENT, or staged by the model's prefetch schedule (08 R248; 09 R272), with no unit that waits to be read again
(11 Table FALT-4). -/
def State.objReady (s : State) (m : ModelD) (n : Nat) : Bool :=
  let o := s.objAt n
  o.live && (o.state = 2 || (o.state ≠ 4 && !fPin o.flags && m.sched.any fun e => schedObj e = n)) &&
    (fPin o.flags || !(s.fl.damaged.any fun d => d.1.toNat = n))

/-- The PENDING condition of R272. -/
def State.sessPending (s : State) (x : Sess) : Bool := !(s.sessObjects x).all (s.objReady (s.modelAt x.model.toNat))

/-- Whether an object is LOST, or has a damaged unit without a frame (08 R251; 11 Table FALT-4). -/
def State.objLost (s : State) (n : Nat) : Bool :=
  let o := s.objAt n
  o.live && !fPin o.flags && (o.state = 4 || s.fl.damaged.any fun d => d.1.toNat = n && 2 ≤ (o.unit d.2.toNat).st)

/-- Whether a session needs such an object. -/
def State.sessLost (s : State) (x : Sess) : Bool := (s.sessObjects x).any s.objLost

def State.claimAll (s : State) (ns : List Nat) (c : Nat) : State := ns.foldl (fun s n => s.modClaim n c) s
def State.unclaimAll (s : State) (ns : List Nat) (c : Nat) : State := ns.foldl (fun s n => s.modUnclaim n c) s

/-! #### Descriptors that become FREE (Tables SERV-1, SERV-2) -/

/-- Whether a loaded model or overlay names an object. -/
def State.objNamed (s : State) (n : Nat) : Bool :=
  s.sv.model.any (fun m => m.2.state ≠ 0 && m.2.objects.contains n) || s.sv.overlay.any fun v => v.2.state ≠ 0 && v.2.objects.contains n

/-- Frees the objects of a descriptor that is gone: those of its owner that nothing else names and no host claim holds. One that is PROMOTING or DEMOTING is
freed when its movement ends (08 Table TIER-4). -/
def State.freeObjects (s : State) (owner : W16) (ns : List Nat) : State :=
  ns.foldl (fun s n =>
    let o := s.objAt n
    if o.live ∧ o.owner = owner ∧ o.claims.isEmpty ∧ !s.objNamed n then
      if o.state = 1 ∨ o.state = 3 then s.setObj n { o with modClaims := [], dying := true } else s.freeObject n
    else s) s

/-- Whether an overlay is bound by a session that has not ended, or by a step-group. -/
def State.ovUsed (s : State) (v : Nat) : Bool :=
  s.sv.sess.any (fun q => q.2.live && q.2.overlay == some (BitVec.ofNat 16 v)) ||
    s.sv.model.any fun m => match m.2.group with
      | some g => g.members.any fun k => k.overlay == some (BitVec.ofNat 16 v)
      | none => false

/-- The claims that sessions which have ended still hold for overlay v are evicted: on its objects, but for those of the session's model. -/
def State.dropOvClaims (s : State) (v : Nat) : State :=
  (s.sv.sess.filter fun q => q.2.state ≠ 0 && q.2.overlay == some (BitVec.ofNat 16 v)).foldl (fun s q =>
    s.unclaimAll ((s.ovAt v).objects.filter fun n => !(s.modelAt q.2.model.toNat).objects.contains n) (claimSess q.1)) s

/-- SUPERSEDED or RETIRING with nothing bound → FREE, its claims evicted; a pending OVERLAY_RETIRE completes. -/
def State.tryFreeOverlay (s : State) (v : Nat) : State :=
  let x := s.ovAt v
  if 3 ≤ x.state ∧ !s.ovUsed v then
    let s1 := ((s.dropOvClaims v).setOv v ovInit).freeObjects x.tenant x.objects
    match x.retire with
    | some h => s1.finish h stDone
    | none => s1
  else s

/-- RETIRING with the last session closed and the last overlay freed → FREE. -/
def State.tryFreeModel (s : State) (m : Nat) : State :=
  let x := s.modelAt m
  if x.state = 3 ∧ !s.sv.sess.any (fun q => q.2.state ≠ 0 && q.2.model.toNat = m) ∧
      !s.sv.overlay.any (fun v => v.2.state ≠ 0 && v.2.model.toNat = m) then
    ((s.setModel m modelInit).freeObjects x.owner x.objects).unclaimAll x.objects (claimModel m)
  else s

/-- Whether a session that an OVERLAY_REBIND named has neither rebound nor ended. -/
def State.unbound (s : State) (q : W32 × Option W16) : Bool :=
  let x := s.sessAt (hdSlot q.1)
  x.live && x.handle (hdSlot q.1) = q.1 && x.overlay == q.2

/-- OVERLAY_REBINDs whose sessions have all rebound or ended complete (R269). -/
def State.tryRebinds (s : State) : State :=
  let open? (r : Rebind) : Bool := r.named.any s.unbound
  let s1 : State := { s with sv := { s.sv with rebinds := s.sv.rebinds.filter open? } }
  (s.sv.rebinds.filter fun r => !open? r).foldl (fun s r => s.finish r.hdr stDone) s1

/-- What an end or a rebinding may set free, and the handlers it may end. -/
def State.sweep (s : State) : State :=
  let s1 := (s.sv.overlay.map (·.1)).foldl State.tryFreeOverlay s
  ((s.sv.model.map (·.1)).foldl State.tryFreeModel s1).tryRebinds.settle

/-! #### Entries and ends (R273, R289, R290) -/

/-- Queues the entries of a commit or an end to the session's ring. -/
def State.putEntries (s : State) (k : Nat) (rel : List W32) (fin : Option (Nat × Nat)) (ov : Option W16) : State :=
  let x := s.sessAt k
  let gs := tokenGroups rel fin.isSome
  let es := (List.range gs.length).map fun i =>
    let last := i + 1 = gs.length && fin.isSome
    let seq := x.seq + n32 i
    let flags := b2n last + 2 * b2n (seq = 0) + 4 * b2n (!x.held.isEmpty) + 8 * b2n ov.isSome
    let (st, mt) := if last then fin.getD (0, 0xFF) else (0, 0xFF)
    entryBytes (x.handle k) seq (gs.getD i []) flags st mt x.count s.time (match ov with | some v => (s.ovAt v.toNat).gen | none => 0) x.tenant
  let r := s.ringAt x.ring.toNat
  (s.setRing x.ring.toNat { r with queue := r.queue ++ es }).setSess k { x with seq := x.seq + n32 es.length }

/-- The producer index at which everything now queued to a ring has been written. -/
def State.ringTarget (s : State) (r : W16) : Option (Nat × W32) :=
  let x := s.ringAt r.toNat
  some (r.toNat, x.prod + n32 x.queue.length)

/-- Removes a member from its model's step-group; its reservation is returned (R283). A group without members is over. -/
def State.dropMember (s : State) (k : Nat) : State :=
  let x := s.sessAt k
  let m := s.modelAt x.model.toNat
  match m.group with
  | none => s
  | some g =>
    let mine := g.members.filter fun q => q.slot = k
    let left := g.members.filter fun q => q.slot ≠ k
    let t := s.ten x.tenant.toNat
    let cost := (mine.map (·.cost)).sum
    let s1 := (s.setTen x.tenant.toNat { t with reserved := t.reserved - n32 cost }).setSess k { x with inStep := false }
    if mine.isEmpty then s
    else s1.setModel x.model.toNat { m with group := if left.isEmpty then none else some { g with members := left } }

/-- A session ends otherwise than by its own token: its held tokens go out in the terminal record (R288, R291). -/
def State.endSession (s : State) (k status : Nat) : State :=
  let s1 := s.dropMember k
  let x := s1.sessAt k
  if !x.live then s
  else
    let s2 := s1.setSess k { x with state := 4, ended := status, held := [], parked := 0, rebind := false }
    (s2.putEntries k x.held (some (status, 0xFF)) x.overlay).sweep

/-- Ends every session of a list. -/
def State.endAll (s : State) (ks : List Nat) (status : Nat) : State := ks.foldl (fun s k => s.endSession k status) s

/-- Members of a model's step-group whose piece needs a block of the trunk, or of overlay `ov`: they leave at the next piece boundary (08 R251). -/
def State.failMembers (s : State) (m : Nat) (ov : Option W16) : State :=
  let x := s.modelAt m
  match x.group with
  | none => s
  | some g => s.setModel m { x with group := some { g with
      doomed := (g.members.filter fun q => ov.isNone || q.overlay == ov).foldl (fun l q => setIns q.slot l) g.doomed } }

/-- A piece boundary: the members that a failed staging ended leave the group, and their sessions end ERROR_TIER (08 R251). -/
def State.dropDoomed (s : State) (m : Nat) : State :=
  match (s.modelAt m).group with
  | none => s
  | some g => s.endAll g.doomed 4

/-- Sessions of a model that need a LOST object end ERROR_TIER at a piece boundary (08 R251). -/
def State.tierCheck (s : State) (m : Nat) : State :=
  let s1 := s.dropDoomed m
  s1.endAll ((s1.sv.sess.filter fun q => q.2.live && q.2.model.toNat = m && s1.sessLost q.2).map (·.1)) 4

/-! #### Key/value extents (R274, R276) -/

def refD : Nat → Nat := fun _ => 0
/-- How many sessions hold the extent that begins at page p. -/
def State.extRefs (s : State) (p : Nat) : Nat := tget refD s.sv.refs p
def State.setRefs (s : State) (p n : Nat) : State := { s with sv := { s.sv with refs := tput refD s.sv.refs p n } }

/-- A run of 16 pages in the home squares, the i-th of a set starting from the i-th square and quadrant in rotation
(notes/assumptions/50.md). -/
def State.extentPlace (s : State) (home i : Nat) : Option Nat :=
  let sq := squaresOf home
  ((List.range sq.length).flatMap fun a => (List.range 4).map fun b => 4 * sq.getD ((i + a) % sq.length) 0 + (i / sq.length + b) % 4).findSome?
    fun q => s.bankRun s.ti.used q 16

/-- Takes `n` extents, cleared (10 R297) and held once. -/
def State.takeExtents (s : State) (home : Nat) : Nat → Nat → List Nat → Option (State × List Nat)
  | 0, _, acc => some (s, acc)
  | n + 1, i, acc =>
    match s.extentPlace home i with
    | none => none
    | some p =>
      let ps := (List.range 16).map (p + ·)
      let s1 : State := { s with ti := { s.ti with used := s.ti.used ++ ps } }
      State.takeExtents ((s1.clearPages ps).setRefs p 1) home n (i + 1) (acc ++ [p])

/-- The extents of one more 3,840 positions: one per layer and key/value head, charged to the tenant's Madder. -/
def State.addBlock (s : State) (tenant : Nat) (m : ModelD) : Except Nat (State × List Nat) :=
  let n := m.layers * m.kvHeads
  if !s.quotaOk tenant 0 (1048576 * n) then .error stQuota
  else match s.takeExtents m.home n 0 [] with
    | none => .error stLimit
    | some (s1, ps) => .ok (s1.charge tenant 0 (1048576 * n), ps)

/-- Releases one hold of an extent; its pages are free at 0. -/
def State.dropExtent (s : State) (tenant p : Nat) : State :=
  if s.extRefs p ≤ 1 then ((s.setRefs p 0).givePages ((List.range 16).map (p + ·))).discharge tenant 0 1048576
  else s.setRefs p (s.extRefs p - 1)

/-- Pair-rows of an extent that hold the first `c` tokens (03 R109): of each page the token rows in use and the record row. -/
def extentRows (c : Nat) : List Nat :=
  (List.range 16).flatMap fun pg =>
    let n := min 240 (c - 240 * pg)
    if n = 0 then [] else (List.range ((n + 15) / 16)).map (16 * pg + ·) ++ [16 * pg + 15]

/-- Copies the committed pair-rows of one extent to another (R276): by the bank unit, or in class 3 by DMA where that unit is out of service (01 R43). -/
def State.copyExtent (s : State) (src dst c : Nat) : State :=
  (extentRows c).foldl (fun s r =>
    let up := !(s.unitAt (unitOfBank (s.place (65536 * src)).bank)).oos
    let (ps, s1) := s.readChunks (if up then .bank else .dma) [(65536 * src + 4096 * r, 4096)] []
    s1.writeChunks [(65536 * dst + 4096 * r, 4096)] ps) s

end Sys2Proof.Machine
end

