-- ==== Sys2Proof/Machine/Tenants.lean ====
section
/-! DEFINITION. Commands of the module, tenants, budgets and rings (12 Table HOST-9, 0x0001 to 0x0107, 0x0607, 0x0608, 0x0701), and the
appending of event records (11 R327). -/
namespace Sys2Proof.Machine

open Sys2Proof

/-! #### The module (R295, R334, R352) -/

/-- Packs a bit per index. -/
def bitmap (n : Nat) (p : Nat → Bool) : List Byte :=
  (List.range (n / 8)).map fun i => BitVec.ofNat 8 (packFields ((List.range 8).map fun j => (b2n (p (8 * i + j)), 1)))

/-- Identity and the counts of 00 Table SCOP-1 (notes/assumptions/26.md). -/
def identityBlock : List Byte :=
  toBytes 8 Config.moduleId.toNat ++ toBytes 8 (2 ^ 40) ++ toBytes 8 (2 ^ 31) ++
    ([64, 16, 256, 1024, 2048, 131072, 262144, 16384, 4096, 65536].flatMap fun n => toBytes 4 n)

/-- The out-of-service map: a bit for each tile, stack, die, sub-channel, bank, unit and array (notes/assumptions/26.md). -/
def State.oosMap (s : State) : List Byte :=
  bitmap 64 (fun t => (s.tileAt t).state = 0) ++ bitmap 16 (fun k => !(s.stackAt k).inService) ++
    bitmap 256 (fun d => (List.range 4).all fun i => (s.sub (4 * d + i)).state = 3) ++ bitmap 1024 (fun c => (s.sub c).state = 3) ++
    bitmap 4096 (fun b => (s.sub (b / 4)).banksOut.getLsbD (b % 4)) ++ bitmap 2048 (fun u => (s.unitAt u).oos) ++
    bitmap 128 fun a => (s.arrAt a).oos

def stewardD : Nat → Nat := fun k => 4 * k
/-- The tile that holds the steward role of square k (02 R81; 15 Table REGS-21). -/
def State.stewardOf (s : State) (k : Nat) : Nat := tget stewardD s.md.steward k

/-- Roles of tiles and ports (notes/assumptions/26.md). -/
def State.roleBlock (s : State) : List Byte :=
  toBytes 1 s.md.primary ++ toBytes 1 s.md.standby ++ toBytes 1 (b2n s.md.standbyReady) ++ toBytes 1 s.carriage ++
    toBytes 1 (b2n s.ho.portA.up) ++ toBytes 1 (b2n s.ho.portB.up) ++ [0, 0] ++ (List.range 16).flatMap fun k => toBytes 1 (s.stewardOf k)

/-- DEVICE_QUERY (0x0001). -/
def execDeviceQuery (h : CmdHdr) (what : W32) (s : State) : Host.Outcome State Fault Refusal :=
  .next (s.onCmd h 0x0001 [what.toNat] fun s =>
    if what = 0 then s.finishOut h identityBlock
    else if what = 1 then s.finishOut h s.oosMap
    else if what = 2 then s.finishOut h s.roleBlock
    else s.finish h stFormat)

/-- Whether a session of a tenant other than tenant 0 is open (R295). -/
def State.otherSessions (s : State) : Bool := s.sv.sess.any fun q => q.2.state ≠ 0 && q.2.tenant ≠ 0

/-- MODULE_POLICY (0x0002, R295). -/
def execModulePolicy (h : CmdHdr) (iso : Byte) (s : State) : Host.Outcome State Fault Refusal :=
  .next (s.onCmd h 0x0002 [iso.toNat] fun s =>
    if 1 < iso.toNat then s.finish h stFormat
    else if s.otherSessions then s.finish h stState
    else ({ s with md := { s.md with isolation := iso = 1 } }).finish h stDone)

/-- PORT_REBALANCE (0x0003). -/
def execPortRebalance (h : CmdHdr) (mode : Byte) (s : State) : Host.Outcome State Fault Refusal :=
  .next (s.onCmd h 0x0003 [mode.toNat] fun s =>
    let set (s : State) : State := s.finish h stDone
    if mode = 0 then
      if s.ho.portA.up && s.ho.portB.up then set (s.carry (fun n => if n < 32 then .A else .B) (·.made)) else s.finish h stOffline
    else if mode = 1 then if s.ho.portA.up then set (s.carry (fun _ => .A) fun _ => .A) else s.finish h stOffline
    else if mode = 2 then if s.ho.portB.up then set (s.carry (fun _ => .B) fun _ => .B) else s.finish h stOffline
    else s.finish h stFormat)

/-! #### Tenants (R238, R239, R245, R284, R285) -/

/-- TENANT_CREATE (0x0101). -/
def execTenantCreate (h : CmdHdr) (t : W16) (s : State) : Host.Outcome State Fault Refusal :=
  .next (s.onCmd h 0x0101 [t.toNat] fun s =>
    if 16384 ≤ t.toNat then s.finish h stFormat
    else if (s.ten t.toNat).live then s.finish h stState
    else (s.setTen t.toNat { s.ten t.toNat with live := true }).finish h stDone)

/-- Whether a tenant still has sessions, objects, overlays, rings or pools. -/
def State.tenantInUse (s : State) (t : W16) : Bool :=
  s.sv.sess.any (fun q => q.2.state ≠ 0 && q.2.tenant = t) || s.ti.obj.any (fun q => q.2.live && q.2.owner = t) ||
    s.sv.overlay.any (fun q => q.2.state ≠ 0 && q.2.tenant = t) || s.ho.ring.any (fun q => q.2.active && q.2.owner = t) ||
    s.ti.pools.any fun p => p.owner = t

/-- TENANT_DELETE (0x0102): raises the key epoch (R245). -/
def execTenantDelete (h : CmdHdr) (t : W16) (s : State) : Host.Outcome State Fault Refusal :=
  .next (s.onCmd h 0x0102 [t.toNat] fun s =>
    let x := s.ten t.toNat
    if 16384 ≤ t.toNat then s.finish h stFormat
    else if !x.live then s.finish h stState
    else if s.tenantInUse t then s.finish h stInUse
    else (s.setTen t.toNat { tenInit t.toNat with live := false, epoch := x.epoch + 1 }).finish h stDone)

/-- QUOTA_SET (0x0103, R239). -/
def execQuotaSet (h : CmdHdr) (t : W16) (tier : Byte) (bytes : W64) (s : State) : Host.Outcome State Fault Refusal :=
  .next (s.onCmd h 0x0103 [t.toNat, tier.toNat, bytes.toNat] fun s =>
    let x := s.ten t.toNat
    if 16384 ≤ t.toNat ∨ 2 < tier.toNat then s.finish h stFormat
    else if !x.live then s.finish h stState
    else (s.setTen t.toNat { x with quota := x.quota.set tier.toNat bytes }).finish h stDone)

/-- QUOTA_QUERY (0x0104): 3 × (u64 quota, u64 usage). -/
def execQuotaQuery (h : CmdHdr) (s : State) : Host.Outcome State Fault Refusal :=
  .next (s.onCmd h 0x0104 [] fun s =>
    let x := s.ten h.tenant.toNat
    s.finishOut h ((List.range 3).flatMap fun i => toBytes 8 (x.quota.getD i 0).toNat ++ toBytes 8 (x.usage.getD i 0)))

/-- PROMPT_WEIGHT (0x0105, R284). -/
def execPromptWeight (h : CmdHdr) (w : W16) (s : State) : Host.Outcome State Fault Refusal :=
  .next (s.onCmd h 0x0105 [w.toNat] fun s =>
    (s.setTen h.tenant.toNat { s.ten h.tenant.toNat with weight := w }).finish h stDone)

/-- The tick count (R285). -/
def State.budgetTick (s : State) : W32 := s.bt.tickStart + n32 ((s.time - s.bt.timeReady).toNat / 1000000)

/-- ADD, saturating, or SET, no lower than the reserved amount (R285). -/
def Tenant.refill (x : Tenant) (r : Refill) : Tenant :=
  { x with level := if r.op = 0 then n32 (min (2 ^ 32 - 1) (x.level.toNat + r.amount.toNat))
                    else if r.amount.toNat < x.reserved.toNat then x.reserved else r.amount }

/-- A comparison that comes out UNORDERED is logged (07 R228). -/
def State.serialLog (s : State) (q : Nat) (ref v : W32) : State := if serialCmp ref v = .unordered then s.logSerial q ref.toNat v.toNat else s

/-- The tests of R285 in order, then the refill. -/
def State.refill (s : State) (h : CmdHdr) (n : W32) (items : List Refill) : State :=
  if serialCmp s.budgetTick n = .after ∧ 1000 < (n - s.budgetTick).toNat then s.finish h stFutureTick
  else
    let s1 := s.serialLog 2 s.budgetTick n
    let apply (s : State) : State :=
      let s2 := items.foldl (fun s r => s.setTen r.tenant.toNat ((s.ten r.tenant.toNat).refill r)) s
      ({ s2 with sv := { s2.sv with refillTick := some n } }).finish h stDone
    match s1.sv.refillTick with
    | none => apply s1
    | some last => if serialCmp last n = .after then apply s1 else (s1.serialLog 2 last n).finish h stStaleTick

/-- BUDGET_REFILL (0x0106). -/
def execBudgetRefill (h : CmdHdr) (tick : W32) (items : List Refill) (s : State) : Host.Outcome State Fault Refusal :=
  .next (s.onCmd h 0x0106 [tick.toNat, items.length] fun s =>
    if items.isEmpty ∨ 4096 < items.length ∨ items.any (fun r => 16384 ≤ r.tenant.toNat || 1 < r.op.toNat) then s.finish h stFormat
    else if items.any fun r => !(s.ten r.tenant.toNat).live then s.finish h stDomain
    else s.refill h tick items)

/-- BUDGET_QUERY (0x0107). -/
def execBudgetQuery (h : CmdHdr) (s : State) : Host.Outcome State Fault Refusal :=
  .next (s.onCmd h 0x0107 [] fun s =>
    let x := s.ten h.tenant.toNat
    s.finish h stDone (n64 (x.level.toNat + 2 ^ 32 * x.reserved.toNat)))

/-! #### Rings (R339, R344) -/

/-- The ranges of a ring's parameters, with the least j. -/
def ringParamsOk (jmin : Nat) (r : RingParams) : Bool :=
  r.base.toNat % 4096 = 0 && r.shadow.toNat % 4 = 0 && jmin ≤ r.j.toNat && r.j.toNat ≤ 16 && r.vector.toNat ≤ 63 && r.port.toNat ≤ 1 &&
    r.coalesce.toNat ≤ 100

/-- The operands that carry a ring's parameters. -/
def ringOps (r : RingParams) : List Nat := [r.base.toNat, r.shadow.toNat, r.j.toNat, r.vector.toNat, r.port.toNat, r.coalesce.toNat]

/-- A new, empty ring, on the port named, or on the other where that is down. -/
def State.newRing (s : State) (owner : W16) (r : RingParams) : Ring :=
  let p := portOf r.port.toNat
  { Ring.reset with active := true, owner := owner, base := r.base, shadow := r.shadow, j := r.j.toNat, vector := r.vector.toNat,
                    coalesce := r.coalesce.toNat, made := p, port := if (s.port p).up then p else if (s.port (otherPort p)).up then otherPort p else p }

/-- STREAM_RING_CREATE (0x0607): the lowest free ring. -/
def execStreamRingCreate (h : CmdHdr) (prm : RingParams) (s : State) : Host.Outcome State Fault Refusal :=
  .next (s.onCmd h 0x0607 (ringOps prm) fun s =>
    let n := lowestFree (fun n => !(s.ringAt n).active) s.ho.ring.length 0
    if !ringParamsOk 4 prm then s.finish h stFormat
    else if 4096 ≤ n then s.finish h stLimit
    else (s.setRing n (s.newRing h.tenant prm)).finish h stDone (n64 n))

/-- STREAM_RING_DESTROY (0x0608). -/
def execStreamRingDestroy (h : CmdHdr) (r : W16) (s : State) : Host.Outcome State Fault Refusal :=
  .next (s.onCmd h 0x0608 [r.toNat] fun s =>
    let x := s.ringAt r.toNat
    if 4096 ≤ r.toNat then s.finish h stFormat
    else if !x.active then s.finish h stState
    else if x.owner ≠ h.tenant then s.finish h stDomain
    else if s.sv.sess.any fun q => q.2.state ≠ 0 && q.2.ring = r then s.finish h stInUse
    else (s.setRing r.toNat Ring.reset).finish h stDone)

/-- EVENT_RING_SET (0x0701): the backlog then replays through EVENT_APPEND. -/
def execEventRingSet (h : CmdHdr) (prm : RingParams) (s : State) : Host.Outcome State Fault Refusal :=
  .next (s.onCmd h 0x0701 (ringOps prm) fun s =>
    if !ringParamsOk 6 prm then s.finish h stFormat
    else
      let s1 := s.setEventRing (s.newRing h.tenant prm)
      ({ s1 with ho := { s1.ho with eventSet := true } }).finish h stDone)

/-- The 64 bytes of a record (11 Table FALT-7). -/
def eventBytes (e : Event) : List Byte :=
  toBytes 4 e.seq.toNat ++ toBytes 2 e.code.toNat ++
    [e.cls, BitVec.ofNat 8 (packFields [(b2n e.nested, 1), (b2n e.escalated, 1), (b2n e.oos, 1), (b2n e.outside, 1), (b2n e.lost, 1)])] ++
    toBytes 8 e.time.toNat ++ [e.dom, 0] ++ toBytes 2 e.idx.toNat ++ toBytes 4 e.related.toNat ++ toBytes 2 e.model.toNat ++
    toBytes 2 e.tenant.toNat ++ toBytes 4 e.step.toNat ++ [e.a0, e.a1, e.a2, e.a3].flatMap fun a => toBytes 8 a.toNat

/-- EVENT_APPEND (11 R327): the oldest record goes to the ring where it has room; the first after a drop carries LOST. -/
def execEventAppend (s : State) : Host.Outcome State Fault Refusal :=
  let r := s.ho.event
  match s.fl.backlog with
  | [] => .next s
  | e :: l =>
    if !r.active ∨ r.room = 0 ∨ !(s.port r.port).up then .next s
    else
      let (s1, r1) := s.ringWrite r (eventBytes { e with lost := s.fl.lostNext })
      let s2 := s1.setEventRing r1
      .next { s2 with fl := { s2.fl with backlog := l, lostNext := false } }

end Sys2Proof.Machine
end

