-- ==== Sys2Proof/Machine/Models.lean ====
section
/-! DEFINITION. The commands of models, overlays and plans (09 R263 to R269, R277, R300; 04 R140; 12 R353, R354). -/
namespace Sys2Proof.Machine

open Sys2Proof

/-! #### Images (12 Tables HOST-11, HOST-12; 08 Table TIER-5) -/

/-- The mirror squares of a model: none, or as many squares as the home and none of them (08 R235; notes/assumptions/122.md). -/
def mirrorOk (home mirror : Nat) : Bool := mirror = 0 || ((squaresOf mirror).length = (squaresOf home).length && mirror &&& home = 0)

/-- Ranges of a model image's header (R263, R249). -/
def headerOk (b : List Byte) : Bool :=
  let v := leAt b 4 4
  1 ≤ leAt b 1 1 && 1 ≤ leAt b 2 1 && leAt b 3 1 ≤ 4 && 1 ≤ v && v ≤ 2 ^ 20 && 1 ≤ leAt b 8 4 && leAt b 8 4 ≤ 131072 &&
    leAt b 12 2 ≠ 0 && ((List.range (leAt b 3 1)).all fun i => leAt b (0x10 + 4 * i) 4 < v) && 1 ≤ leAt b 0x26 1 && leAt b 0x26 1 ≤ 8 &&
    leAt b 0x27 1 = 0 && 100 ≤ leAt b 0x28 4 && leAt b 0x28 4 ≤ 1000000 && leAt b 0x50 16 = 0 && mirrorOk (leAt b 12 2) (leAt b 14 2)

/-- Ranges of a piece record of a model with `nl` layers. -/
def pieceOk (nl : Nat) (p : List Byte) : Bool :=
  p.length = 32 && leAt p 0 1 < nl && leAt p 1 1 < 16 && leAt p 2 1 < 4 && leAt p 3 1 < 64 && leAt p 4 1 < 2 && leAt p 6 2 = 0 && leAt p 28 4 = 0

/-- Ranges of a schedule entry. -/
def schedOk (nl : Nat) (e : List Byte) : Bool :=
  e.length = 16 && leAt e 0 1 < nl && leAt e 1 1 < 64 && 1 ≤ leAt e 12 2 && leAt e 12 2 ≤ 1024 && leAt e 14 2 = 0

/-- `n` records of `w` bytes from offset o on. -/
def recordsAt (b : List Byte) (o w n : Nat) : List (List Byte) := (List.range n).map fun i => (b.drop (o + w * i)).take w

def imgPieces (b : List Byte) : List (List Byte) := recordsAt b 96 32 (leAt b 0x20 4)
def imgSched (b : List Byte) : List (List Byte) := recordsAt b (96 + 32 * leAt b 0x20 4) 16 (leAt b 0x24 2)

/-- Whether a tenant may name an object: its own, or a SHARED one (12 R348). -/
def State.mayName (s : State) (t : W16) (n : Nat) : Bool := (s.objAt n).owner = t || fShared (s.objAt n).flags

/-- R264: every tile lies in the home; boundaries lie on slices by the record's form. -/
def layoutOk (home : Nat) (ps : List (List Byte)) : Bool := ps.all fun p => bitAt home (leAt p 3 1 / 4)

/-- R130 for a unit of a weight object. Neither the object nor a record names its format and group size: a block valid under any of them passes
(notes/assumptions/45.md). -/
def blockImage (b : List Byte) : Bool := (List.range 4).any fun f => [32, 64, 128].any fun g => blockOk f g b

/-- Every block of the weight objects that piece records name passes R130: of columns, K-split parts and bank-unit pieces; a combine (kind 2) has no weights of its
own. An object whose units are 64-KiB pages, or that is gone, has no block. -/
def State.blocksOk (s : State) (ps : List (List Byte)) : Bool :=
  ((ps.filter fun p => leAt p 2 1 ≠ 2).map pieceObj).eraseDups.all fun n =>
    let o := s.objAt n
    o.live && o.unitBytes ≠ 65536 && (List.range o.nUnits).all fun u =>
      let img := if o.state = 2 ∨ fPin o.flags then some (bytesOf (s.getImage o.pages (u * o.unitBytes) o.unitBytes).1) else s.unitImage n u
      match img with
      | some b => blockImage b
      | none => false

/-- The model a command names, where it belongs to the header tenant. -/
def State.ownModel (s : State) (h : CmdHdr) (m : W16) : Except Nat ModelD :=
  let x := s.modelAt m.toNat
  if 4096 ≤ m.toNat then .error stFormat
  else if x.state ≠ 0 ∧ x.owner ≠ h.tenant then .error stDomain
  else .ok x

/-- A model that the header tenant may use: its own or a shared trunk of tenant 0. -/
def State.useModel (s : State) (t : W16) (m : W16) : Except Nat ModelD :=
  let x := s.modelAt m.toNat
  if 4096 ≤ m.toNat then .error stFormat
  else if x.state ≠ 0 ∧ x.owner ≠ t ∧ x.owner ≠ 0 then .error stDomain
  else .ok x

/-! #### Models (Table SERV-1) -/

/-- The checks of a descriptor's contents (R263). -/
def ModelD.contentsOk (x : ModelD) : Bool := headerOk x.hdr && x.pieces.all (pieceOk x.layers) && x.sched.all (schedOk x.layers)

/-- MODEL_LOAD: the descriptor takes the image; the objects it names exist already (notes/assumptions/51.md). -/
def State.modelLoad (s : State) (h : CmdHdr) (m : W16) (b : List Byte) : State :=
  match s.ownModel h m with
  | .error e => s.finish h e
  | .ok x =>
    let y : ModelD := { modelInit with state := 1, owner := h.tenant, hdr := b.take 96, pieces := imgPieces b, sched := imgSched b }
    if y.objects.any fun n => (s.objAt n).live && !s.mayName h.tenant n then s.finish h stDomain
    else if !y.contentsOk then s.finish h stFormat
    else if x.state ≠ 0 then s.finish h stState
    else if y.objects.any fun n => !(s.objAt n).live then s.finish h stLayout
    else (s.setModel m.toNat y).finish h stDone

/-- MODEL_LOAD (0x0301). -/
def execModelLoad (h : CmdHdr) (m : W16) (image : List Byte) (s : State) : Host.Outcome State Fault Refusal :=
  .next (s.onCmd h 0x0301 [m.toNat] fun s => s.modelLoad h m image)

/-- MODEL_PUBLISH (0x0302): LAYOUT (R264), FORMAT (R263, R130); claims are placed. -/
def State.modelPublish (s : State) (h : CmdHdr) (m : W16) : State :=
  match s.ownModel h m with
  | .error e => s.finish h e
  | .ok x =>
    if x.state ≠ 1 then s.finish h stState
    else if !layoutOk x.home x.pieces then s.finish h stLayout
    else if !x.contentsOk ∨ !s.blocksOk x.pieces then s.finish h stFormat
    else ((s.setModel m.toNat { x with state := 2 }).claimAll x.objects (claimModel m.toNat)).finish h stDone

def execModelPublish (h : CmdHdr) (m : W16) (s : State) : Host.Outcome State Fault Refusal :=
  .next (s.onCmd h 0x0302 [m.toNat] fun s => s.modelPublish h m)

/-- MODEL_RETIRE (0x0303): completes on entry to RETIRING. -/
def execModelRetire (h : CmdHdr) (m : W16) (s : State) : Host.Outcome State Fault Refusal :=
  .next (s.onCmd h 0x0303 [m.toNat] fun s => match s.ownModel h m with
    | .error e => s.finish h e
    | .ok x =>
      if x.state ≠ 2 then s.finish h stState
      else ((s.setModel m.toNat { x with state := 3 }).finish h stDone).sweep)

/-! #### Calibration settings (04 R138, R140) -/

/-- Start of the next window after a time. -/
def nextWindow (w now : Nat) : Nat := (now / (w * 1000000) + 1) * (w * 1000000)

/-- A pending setting whose window has begun is in force. -/
def ModelD.calAt (x : ModelD) (now : Nat) : ModelD :=
  match x.calNext with
  | some (c, t) => if t ≤ now then { x with cal := c, calNext := none } else x
  | none => x

/-- MODEL_CALIB (0x0304). -/
def execModelCalib (h : CmdHdr) (m window : W16) (clamp ovf sat : W32) (s : State) : Host.Outcome State Fault Refusal :=
  .next (s.onCmd h 0x0304 [m.toNat, window.toNat, clamp.toNat, ovf.toNat, sat.toNat] fun s => match s.ownModel h m with
    | .error e => s.finish h e
    | .ok x0 =>
      let x := x0.calAt s.now
      if window = 0 then s.finish h stFormat
      else if x.state = 0 then s.finish h stState
      else (s.setModel m.toNat { x with calNext := some (⟨window.toNat, clamp, ovf, sat⟩, nextWindow x.cal.window s.now) }).finish h stDone)

def cntD : CalKey → CalCnt := fun _ => ⟨0, 0, 0xFFFF⟩
/-- A count of a model's counter sets. -/
def ModelD.cnt (x : ModelD) (k : CalKey) : CalCnt := (x.counts.lookup k).getD (cntD k)
def ModelD.setCnt (x : ModelD) (k : CalKey) (c : CalCnt) : ModelD := { x with counts := (x.counts.filter fun q => q.1 ≠ k) ++ [(k, c)] }

/-- The counts of every layer, source and kind: u32 window, u32 0, u64 total (notes/assumptions/26.md). -/
def ModelD.countBlock (x : ModelD) : List Byte :=
  (List.range x.layers).flatMap fun l => [false, true].flatMap fun sr => [0, 1, 2].flatMap fun k =>
    let c := x.cnt ⟨l, sr, k⟩
    toBytes 4 c.win ++ [0, 0, 0, 0] ++ toBytes 8 c.total

/-- Codes of Table SERV-1's states, the owner, the plan version in force, the step number (notes/assumptions/26.md). -/
def ModelD.stateBlock (x : ModelD) : List Byte :=
  toBytes 1 x.state ++ [BitVec.ofNat 8 (b2n x.plan.isSome)] ++ toBytes 2 x.owner.toNat ++
    toBytes 4 (match x.plan with | some p => p.version.toNat | none => 0) ++ toBytes 4 x.stepNo.toNat ++ toBytes 4 x.cal.window

/-- MODEL_QUERY (0x0305). -/
def execModelQuery (h : CmdHdr) (m : W16) (what : Byte) (s : State) : Host.Outcome State Fault Refusal :=
  .next (s.onCmd h 0x0305 [m.toNat, what.toNat] fun s => match s.useModel h.tenant m with
    | .error e => s.finish h e
    | .ok x =>
      if what = 0 then s.finishOut h x.stateBlock
      else if what = 1 then s.finishOut h x.countBlock
      else s.finish h stFormat)

/-! #### Overlays (Table SERV-2) -/

/-- The CURRENT generation of a tenant's series. -/
def State.current (s : State) (t series : W16) : Option Nat :=
  (s.sv.overlay.find? fun v => v.2.state = 2 && v.2.tenant = t && v.2.series = series).map (·.1)

/-- The overlay a command names, where it belongs to the header tenant. -/
def State.ownOverlay (s : State) (h : CmdHdr) (v : W16) : Except Nat Overlay :=
  let x := s.ovAt v.toNat
  if x.state ≠ 0 ∧ x.tenant ≠ h.tenant then .error stDomain else .ok x

/-- OVERLAY_LOAD (0x0401). -/
def State.overlayLoad (s : State) (h : CmdHdr) (v m series : W16) (gen : W32) (recs : List Byte) : State :=
  match s.ownOverlay h v, s.useModel h.tenant m with
  | .error e, _ => s.finish h e
  | _, .error e => s.finish h e
  | .ok x, .ok y =>
    let ps := recordsAt recs 0 32 (recs.length / 32)
    if ps.any fun p => (s.objAt (pieceObj p)).live && !s.mayName h.tenant (pieceObj p) then s.finish h stDomain
    else if series = 0xFFFF ∨ recs.length % 32 ≠ 0 ∨ ps.isEmpty ∨ 131070 < ps.length ∨ !ps.all (pieceOk y.layers) then s.finish h stFormat
    else if x.state ≠ 0 ∨ y.state = 0 then s.finish h stState
    else if !layoutOk y.home ps ∨ ps.any (fun p => !(s.objAt (pieceObj p)).live) then s.finish h stLayout
    else (s.setOv v.toNat ⟨1, h.tenant, m, series, gen, ps, none⟩).finish h stDone

def execOverlayLoad (h : CmdHdr) (ov m series : W16) (gen : W32) (recs : List Byte) (s : State) : Host.Outcome State Fault Refusal :=
  .next (s.onCmd h 0x0401 [ov.toNat, m.toNat, series.toNat, gen.toNat, recs.length / 32] fun s => s.overlayLoad h ov m series gen recs)

/-- OVERLAY_PUBLISH (0x0402): a generation AFTER the series' current one becomes CURRENT in one action (R266, R267). -/
def State.overlayPublish (s : State) (h : CmdHdr) (v : W16) : State :=
  match s.ownOverlay h v with
  | .error e => s.finish h e
  | .ok x =>
    if x.state ≠ 1 ∨ (s.modelAt x.model.toNat).state ≠ 2 then s.finish h stState
    else if !s.blocksOk x.pieces then s.finish h stFormat
    else match s.current x.tenant x.series with
      | none => (s.setOv v.toNat { x with state := 2 }).finish h stDone
      | some c =>
        let y := s.ovAt c
        if serialCmp y.gen x.gen = .after then
          (((s.setOv v.toNat { x with state := 2 }).setOv c { y with state := 3 }).finish h stDone).sweep
        else (s.serialLog 1 y.gen x.gen).finish h stStaleGeneration

def execOverlayPublish (h : CmdHdr) (ov : W16) (s : State) : Host.Outcome State Fault Refusal :=
  .next (s.onCmd h 0x0402 [ov.toNat] fun s => s.overlayPublish h ov)

/-- Flags the sessions that are to rebind (R269). -/
def State.flagRebind (s : State) (p : Sess → Bool) : State :=
  { s with sv := { s.sv with sess := s.sv.sess.map fun q => (q.1, if q.2.live && p q.2 then { q.2 with rebind := true } else q.2) } }

/-- OVERLAY_RETIRE (0x0403): completes when the descriptor is freed; STATE if CURRENT. -/
def execOverlayRetire (h : CmdHdr) (ov : W16) (s : State) : Host.Outcome State Fault Refusal :=
  .next (s.onCmd h 0x0403 [ov.toNat] fun s => match s.ownOverlay h ov with
    | .error e => s.finish h e
    | .ok x =>
      if x.state ≠ 3 then s.finish h stState
      else ((s.setOv ov.toNat { x with state := 4, retire := some h }).flagRebind fun q => q.overlay == some ov).sweep)

/-- OVERLAY_REBIND (0x0404): every session of the series bound to a generation older than CURRENT (R269). -/
def execOverlayRebind (h : CmdHdr) (series : W16) (s : State) : Host.Outcome State Fault Refusal :=
  .next (s.onCmd h 0x0404 [series.toNat] fun s => match s.current h.tenant series with
    | none => s.finish h stState
    | some c =>
      let old (q : Sess) : Bool := q.tenant = h.tenant && q.series = series && q.overlay.isSome && q.overlay != some (BitVec.ofNat 16 c)
      let s1 := s.flagRebind old
      let named := (s.sv.sess.filter fun q => q.2.live && old q.2).map fun q => (q.2.handle q.1, q.2.overlay)
      ({ s1 with sv := { s1.sv with rebinds := s1.sv.rebinds ++ [Rebind.mk h named] } }).tryRebinds)

/-! #### Plans (R277, R300; Table SERV-5) -/

/-- The ranges of Table SERV-5 and, of a padded plan, those of R300. -/
def planOk (p : Plan) : Bool :=
  1 ≤ p.maxGroup.toNat && p.maxGroup.toNat ≤ 256 && 1 ≤ p.tenantCap.toNat && p.tenantCap.toNat ≤ 256 && p.bankWidth.toNat ≤ 4 &&
    16 ≤ p.chunk.toNat && p.chunk.toNat ≤ 512 && p.chunk.toNat % 16 = 0 && p.prefillRows.toNat ≤ 2048 && p.minInterval.toNat ≤ 1000000 &&
    (if p.padded = 0 then p.slots.isEmpty
     else p.padded = 1 && 10000 ≤ p.slotNs.toNat && p.slotNs.toNat ≤ 1000000 && 1 ≤ p.slots.length && p.slots.length ≤ 256 &&
       p.slots.all fun t => t.toNat < 16384)

/-- The operands of SCHEDULE_PLAN. -/
def planOps (m : W16) (p : Plan) : List Nat :=
  [m.toNat, p.version.toNat, p.maxGroup.toNat, p.tenantCap.toNat, p.chunk.toNat, p.prefillRows.toNat, p.bankWidth.toNat, p.padded.toNat,
    p.minInterval.toNat, p.slotNs.toNat, p.slots.length]

/-- SCHEDULE_PLAN (0x0501). -/
def execSchedulePlan (h : CmdHdr) (m : W16) (plan : Plan) (s : State) : Host.Outcome State Fault Refusal :=
  .next (s.onCmd h 0x0501 (planOps m plan) fun s => match s.ownModel h m with
    | .error e => s.finish h e
    | .ok x =>
      if !planOk plan then s.finish h stFormat
      else if x.state ≠ 2 ∧ x.state ≠ 3 then s.finish h stState
      else match x.nextPlan.orElse (fun _ => x.plan) with
        | none => (s.setModel m.toNat { x with nextPlan := some plan }).finish h stDone
        | some p =>
          if serialCmp p.version plan.version = .after then (s.setModel m.toNat { x with nextPlan := some plan }).finish h stDone
          else (s.serialLog 3 p.version plan.version).finish h stStalePlan)

end Sys2Proof.Machine
end

