-- ==== Sys2Proof/Machine/SessionCmds.lean ====
section
/-! DEFINITION. The session commands (09 R270 to R276, R291; 12 Table HOST-9, 0x0601 to 0x0606) and the boundary actions (09 R279). -/
namespace Sys2Proof.Machine

open Sys2Proof

/-! #### Parameters (R271) -/

/-- Finite and not negative. -/
def tempOk (t : W32) : Bool := finiteF32 t.toNat && !fLt t 0

/-- The operands that carry a session's parameters. -/
def sessOps (p : SessParams) : List Nat :=
  [p.ring.toNat, b2n p.includeStop, p.stops.length, p.seed.toNat, p.maxNew.toNat, p.temperature.toNat, p.topP.toNat, p.topK.toNat]

/-- The FORMAT tests of R271, and max_new_tokens from 1 to 2^24. -/
def sessParamsOk (vocab : Nat) (p : SessParams) : Bool :=
  tempOk p.temperature && p.topK.toNat ≤ 256 && fLt 0 p.topP && !fLt oneF p.topP && p.stops.length ≤ 8 && 1 ≤ p.maxNew.toNat && p.maxNew.toNat ≤ 2 ^ 24 &&
    p.stops.all fun q => 1 ≤ q.length && q.length ≤ 16 && q.all fun t => t.toNat < vocab

/-- The stream ring a session names: its tenant's, or the status. -/
def State.ringOk (s : State) (t : W16) (r : W16) : Option Nat :=
  let x := s.ringAt r.toNat
  if 4096 ≤ r.toNat then some stFormat else if !x.active then some stState else if x.owner ≠ t then some stDomain else none

/-- The lowest free slot. -/
def State.freeSlot (s : State) : Nat := lowestFree (fun k => (s.sessAt k).state = 0) s.sv.sess.length 0

/-- A session with the parameters of SESSION_OPEN or SESSION_FORK. -/
def Sess.withParams (x : Sess) (p : SessParams) : Sess :=
  { x with seed := p.seed, temp := p.temperature, topP := p.topP, topK := p.topK, stops := p.stops, maxNew := p.maxNew, ring := p.ring,
           inclStop := p.includeStop }

/-! #### SESSION_OPEN, SESSION_APPEND -/

/-- Whether a series number is another tenant's and none of this tenant's. -/
def State.foreignSeries (s : State) (t series : W16) : Bool :=
  s.sv.overlay.any (fun v => v.2.state ≠ 0 && v.2.series = series && v.2.tenant ≠ t) &&
    !s.sv.overlay.any fun v => v.2.state ≠ 0 && v.2.series = series && v.2.tenant = t

/-- The open of R271: binds the CURRENT generation and places claims. -/
def State.sessionOpen (s : State) (h : CmdHdr) (m series : W16) (p : SessParams) : State :=
  match s.useModel h.tenant m with
  | .error e => s.finish h e
  | .ok x =>
    let cur := if series = 0xFFFF then none else s.current h.tenant series
    let k := s.freeSlot
    if s.ringOk h.tenant p.ring = some stDomain ∨ (series ≠ 0xFFFF ∧ s.foreignSeries h.tenant series) then s.finish h stDomain
    else if !sessParamsOk x.vocab p ∨ s.ringOk h.tenant p.ring = some stFormat then s.finish h stFormat
    else if x.state ≠ 2 ∨ s.ringOk h.tenant p.ring ≠ none then s.finish h stState
    else if series ≠ 0xFFFF ∧ !(cur.any fun v => (s.ovAt v).model = m) then s.finish h stState
    else if 262144 ≤ k then s.finish h stLimit
    else
      let chunk := match x.plan.orElse (fun _ => x.nextPlan) with
        | some q => q.chunk.toNat
        | none => 512
      let y := { (sessInit.withParams p) with gen := (s.sessAt k).gen, state := 1, tenant := h.tenant, model := m, series := series,
                                              overlay := cur.map (BitVec.ofNat 16), chunk := chunk }
      let s1 := s.setSess k y
      (s1.claimAll (s1.sessObjects y) (claimSess k)).finish h stDone (n64 (y.handle k).toNat)

/-- SESSION_OPEN (0x0601). -/
def execSessionOpen (h : CmdHdr) (m series : W16) (prm : SessParams) (s : State) : Host.Outcome State Fault Refusal :=
  .next (s.onCmd h 0x0601 (m.toNat :: series.toNat :: sessOps prm) fun s => s.sessionOpen h m series prm)

/-- SESSION_APPEND (0x0602, Table SERV-4). -/
def State.sessionAppend (s : State) (h : CmdHdr) (hd : W32) (fin : Bool) (toks : List W32) : State :=
  match s.sessOf h.tenant hd with
  | .error e => s.finish h e
  | .ok x =>
    let m := s.modelAt x.model.toNat
    let y := { x with prompt := x.prompt ++ toks }
    if x.state ≠ 1 then s.finish h stState
    else if 16384 < toks.length ∨ toks.any (fun t => m.vocab ≤ t.toNat) ∨ (fin ∧ y.prompt.isEmpty) then s.finish h stFormat
    else if m.maxCtx < y.prompt.length then s.finish h stLimit
    else (s.setSess (hdSlot hd) { y with state := if fin then 2 else 1 }).finish h stDone

def execSessionAppend (h : CmdHdr) (hd : W32) (fin : Bool) (tokens : List W32) (s : State) : Host.Outcome State Fault Refusal :=
  .next (s.onCmd h 0x0602 [hd.toNat, b2n fin, tokens.length] fun s => s.sessionAppend h hd fin tokens)

/-! #### Commands that wait for a step boundary (R279) -/

def State.atBoundary (s : State) (b : Boundary) : State := { s with sv := { s.sv with bounds := s.sv.bounds ++ [b] } }

/-- SESSION_CANCEL (0x0603, Table SERV-9): an ended session's cancel completes at once, unless a cancel of it is pending. -/
def execSessionCancel (h : CmdHdr) (hd : W32) (s : State) : Host.Outcome State Fault Refusal :=
  .next (s.onCmd h 0x0603 [hd.toNat] fun s => match s.sessOf h.tenant hd with
    | .error e => s.finish h e
    | .ok x =>
      let pending := s.sv.bounds.any fun b => match b with
        | .cancel _ g => g = hd
        | _ => false
      if x.state = 4 ∧ !pending then s.finishAfter h stAlreadyFinished 0 (s.ringTarget x.ring) else s.atBoundary (.cancel h hd))

/-- SESSION_CLOSE (0x0604). -/
def execSessionClose (h : CmdHdr) (hd : W32) (s : State) : Host.Outcome State Fault Refusal :=
  .next (s.onCmd h 0x0604 [hd.toNat] fun s => match s.sessOf h.tenant hd with
    | .error e => s.finish h e
    | .ok _ => s.atBoundary (.close h hd))

/-- SESSION_FORK (0x0605, R276): its parameters are checked as at an open; it takes effect at the parent's next step boundary. -/
def execSessionFork (h : CmdHdr) (hd : W32) (prm : SessParams) (s : State) : Host.Outcome State Fault Refusal :=
  .next (s.onCmd h 0x0605 (hd.toNat :: sessOps prm) fun s => match s.sessOf h.tenant hd with
    | .error e => s.finish h e
    | .ok x =>
      match s.ringOk h.tenant prm.ring with
      | some e => s.finish h e
      | none =>
        if !sessParamsOk (s.modelAt x.model.toNat).vocab prm then s.finish h stFormat
        else if x.state ≠ 2 ∧ x.state ≠ 3 then s.finish h stState
        else s.atBoundary (.fork h hd prm))

/-- SESSION_QUERY (0x0606): state, conditions (bit 0 IN_STEP, 1 PENDING, [5:4] PARKED), H, new-token count, generation
(notes/assumptions/26.md). -/
def State.sessReport (s : State) (x : Sess) : List Byte :=
  [BitVec.ofNat 8 x.state, BitVec.ofNat 8 (b2n x.inStep + 2 * b2n (x.live && s.sessPending x) + 16 * x.parked), 0, 0] ++ toBytes 4 x.h ++
    toBytes 4 x.count.toNat ++ toBytes 4 (match x.overlay with | some v => (s.ovAt v.toNat).gen.toNat | none => 0)

def execSessionQuery (h : CmdHdr) (hd : W32) (s : State) : Host.Outcome State Fault Refusal :=
  .next (s.onCmd h 0x0606 [hd.toNat] fun s => match s.sessOf h.tenant hd with
    | .error e => s.finish h e
    | .ok x => s.finishOut h (s.sessReport x))

/-! #### Boundary actions -/

/-- Evicts the pending claims of a session that is cancelled while PENDING (Table SERV-9 case 2). -/
def State.dropPending (s : State) (k : Nat) : State :=
  let x := s.sessAt k
  if s.sessPending x then
    s.unclaimAll ((s.sessObjects x).filter fun n => (s.objAt n).state = 1 || (s.objAt n).state = 3) (claimSess k)
  else s

/-- A cancel takes effect (Table SERV-9); `done` tells the statuses of cancels that took effect at this boundary. -/
def State.cancelAt (s : State) (h : CmdHdr) (hd : W32) (done : List (W32 × Nat)) : State × List (W32 × Nat) :=
  match s.sessOf h.tenant hd with
  | .error e => (s.finish h e, done)
  | .ok x =>
    match done.lookup hd with
    | some st => (s.finishAfter h st 0 (s.ringTarget x.ring), done)
    | none =>
      if x.state = 4 then (s.finishAfter h stAlreadyFinished 0 (s.ringTarget x.ring), done ++ [(hd, stAlreadyFinished)])
      else
        let s1 := (s.dropPending (hdSlot hd)).endSession (hdSlot hd) 3
        (s1.finishAfter h stDone 0 (s1.ringTarget x.ring), done ++ [(hd, stDone)])

/-- A close takes effect: pages released, claims evicted, the slot FREE with its generation advanced (Table SERV-4, R270). -/
def State.closeAt (s : State) (h : CmdHdr) (hd : W32) : State :=
  match s.sessOf h.tenant hd with
  | .error e => s.finish h e
  | .ok x =>
    if x.state ≠ 4 then s.finish h stState
    else
      let k := hdSlot hd
      let s1 := x.blocks.flatten.foldl (fun s p => s.dropExtent x.tenant.toNat p) s
      let s2 := s1.unclaimAll (s1.sessObjects x) (claimSess k)
      ((s2.setSess k { sessInit with gen := if x.gen = 16383 then 1 else x.gen + 1 }).finish h stDone).sweep

/-- The copy of a fork's partial block: new extents with the rows of the history (R276). -/
def State.forkCopy (s : State) (x : Sess) : Except Nat (State × List (List Nat)) :=
  if x.h % 3840 = 0 then .ok (s, [])
  else match s.addBlock x.tenant.toNat (s.modelAt x.model.toNat) with
    | .error e => .error e
    | .ok r => .ok (((x.blocks.getD (x.h / 3840) []).zip r.2).foldl (fun s q => s.copyExtent q.1 q.2 (x.h % 3840)) r.1, [r.2])

/-- A fork takes effect (R276): full extents are shared, the partial one is copied. -/
def State.forkAt (s : State) (h : CmdHdr) (hd : W32) (p : SessParams) : State :=
  match s.sessOf h.tenant hd with
  | .error e => s.finish h e
  | .ok x =>
    let k := s.freeSlot
    let full := (x.blocks.take (x.h / 3840)).flatten
    if x.state ≠ 2 ∧ x.state ≠ 3 then s.finish h stState
    else if 262144 ≤ k ∨ full.any (fun e => 65535 ≤ s.extRefs e) then s.finish h stLimit
    else match s.forkCopy x with
      | .error e => s.finish h e
      | .ok r =>
        let s2 := full.foldl (fun s e => s.setRefs e (s.extRefs e + 1)) r.1
        let y := { (x.withParams p) with gen := (s.sessAt k).gen, held := [], count := 0, seq := 0, frac := 0, lastStep := 0, inStep := false,
                                         parked := 0, blocks := x.blocks.take (x.h / 3840) ++ r.2 }
        let s3 := s2.setSess k y
        (s3.claimAll (s3.sessObjects y) (claimSess k)).finish h stDone (n64 (y.handle k).toNat)

/-- SESSION_FAULT (11 Table FALT-1), then the end with ERROR_FAULT. -/
def State.sessionFault (s : State) (k : Nat) (cause : W32) : State :=
  let x := s.sessAt k
  if !x.live then s
  else
    let m := s.modelAt x.model.toNat
    (s.log 0x0602 (domOf .square m.lead) ((x.handle k).setWidth 64) (cause.setWidth 64) 0 0
      { model := x.model, tenant := x.tenant, step := if x.inStep then m.stepNo else 0xFFFFFFFF }).endSession k 5

/-- A session with damaged history ends at its steward's next boundary action (11 R315). -/
def State.failAt (s : State) (hd cause : W32) : State :=
  if ((s.sessAt (hdSlot hd)).handle (hdSlot hd)) = hd then s.sessionFault (hdSlot hd) cause else s

def Boundary.target : Boundary → W32
  | .cancel _ hd => hd
  | .close _ hd => hd
  | .fork _ hd _ => hd
  | .fail hd _ => hd

/-- One boundary action. -/
def State.act (sd : State × List (W32 × Nat)) : Boundary → State × List (W32 × Nat)
  | .cancel h hd => sd.1.cancelAt h hd sd.2
  | .close h hd => (sd.1.closeAt h hd, sd.2)
  | .fork h hd p => (sd.1.forkAt h hd p, sd.2)
  | .fail hd c => (sd.1.failAt hd c, sd.2)

/-- The boundary actions of model m's sessions, in the order they arrived; in padded-slot mode, those of one tenant's (R279, R301). -/
def State.boundaries (s : State) (m : Nat) (tenant : Option W16) : State :=
  let mine (b : Boundary) : Bool :=
    let x := s.sessAt (hdSlot b.target)
    x.model.toNat = m && (tenant.isNone || tenant == some x.tenant)
  let s1 : State := { s with sv := { s.sv with bounds := s.sv.bounds.filter fun b => !mine b } }
  ((s.sv.bounds.filter mine).foldl State.act (s1, [])).1

end Sys2Proof.Machine
end

