-- ==== Sys2Proof/Machine/Staging.lean ====
section
/-! DEFINITION. Prefetch schedules (08 R249 to R251): the descriptor chains that firmware builds, what it stages itself, layer starts, the grace time. Which
channel, counters and Weld a chain has is firmware's (notes/assumptions/89.md). -/
namespace Sys2Proof.Machine

open Sys2Proof

/-- A tile that is in service, DIAGNOSTIC included. -/
def State.tileUp (s : State) (t : Nat) : Bool := 2 ≤ (s.tileAt t).state

/-- The next tile of the square's ring q0 → q1 → q3 → q2 → q0 (02 R45). -/
def ringNext (t : Nat) : Nat := 4 * (t / 4) + [1, 3, 0, 2].getD (t % 4) 0

/-- The tiles of square k in ring order from quadrant 0. -/
def ringTiles (k : Nat) : List Nat := [0, 1, 3, 2].map (4 * k + ·)


/-! #### Schedule entries (Table TIER-5) -/

def eLayer (e : List Byte) : Nat := leAt e 0 1
def eTile (e : List Byte) : Nat := leAt e 1 1
def eSlot (e : List Byte) : Nat := 4096 * leAt e 2 2
def eFirst (e : List Byte) : Nat := leAt e 8 4
def eCount (e : List Byte) : Nat := leAt e 12 2

/-- The prefetch distance and the grace time in ns of a model image (12 Table HOST-11). -/
def ModelD.dist (x : ModelD) : Nat := leAt x.hdr 0x26 1
def ModelD.grace (x : ModelD) : Nat := 1000 * leAt x.hdr 0x28 4

/-- The home tiles of a model. -/
def ModelD.homeTiles (m : ModelD) : List Nat := (squaresOf m.home).flatMap fun q => (List.range 4).map (4 * q + ·)

/-- The tile of the same quadrant in the square that holds the matching mirror part of a model, where tile t's square has left service (11 R324): the k-th mirror
square matches the k-th home square. -/
def State.mirrorTile (s : State) (x : ModelD) (t : Nat) : Nat :=
  if s.fl.out.contains (domOf .square (t / 4)) then
    match (squaresOf x.home).findIdx? (· = t / 4) with
    | some k => ((squaresOf (leAt x.hdr 0x0E 2))[k]?).elim t fun q => 4 * q + t % 4
    | none => t
  else t

/-- The tile that runs what a model places on tile t: t itself or its mirror, its heir, or the tile that takes the steward's role (11 R319, R324; 02 R81). -/
def State.runTile (s : State) (x : ModelD) (t : Nat) : Nat :=
  let t := s.mirrorTile x t
  if s.tileUp t then t else if s.tileUp (ringNext t) then ringNext t else ((ringTiles (t / 4)).find? s.tileUp).getD t

/-- The tiles that a schedule stages for. -/
def ModelD.stageTiles (x : ModelD) : List Nat := (x.sched.map eTile).eraseDups

/-- A block to be staged: its object and unit, and its place within a staging slot. -/
structure StageUnit where
  obj : Nat
  unit : Nat
  off : Nat
deriving DecidableEq, Repr

/-- The blocks of a layer on a tile, in schedule order. -/
def State.stageUnits (s : State) (x : ModelD) (t layer : Nat) : List StageUnit :=
  (x.sched.filter fun e => eLayer e = layer && eTile e = t).flatMap fun e =>
    (List.range (eCount e)).map fun i => ⟨schedObj e, eFirst e + i, eSlot e + i * (s.objAt (schedObj e)).unitBytes⟩

/-! #### A chain's Weld (R250) -/

/-- Descriptors of a layer: its WAIT for start, two for each block, its signal of staged. -/
def State.stageCount (s : State) (x : ModelD) (t layer : Nat) : Nat := 2 + 2 * (s.stageUnits x t layer).length

/-- Weld offset of the first descriptor of a layer. -/
def State.stageDesc (s : State) (m t layer : Nat) : Nat :=
  4096 * Config.stagePage m t + 64 * ((List.range layer).map (s.stageCount (s.modelAt m) t)).sum

/-- Bytes of one staging slot. -/
def State.slotBytes (s : State) (x : ModelD) (t : Nat) : Nat :=
  (x.sched.filter fun e => eTile e = t).foldl (fun n e => max n (eSlot e + eCount e * (s.objAt (schedObj e)).unitBytes)) 0

/-- Weld offset of the slot of a layer: slot L mod (d + 1), after the descriptors and one status record. -/
def State.stageSlot (s : State) (m t layer : Nat) : Nat :=
  let x := s.modelAt m
  (s.stageDesc m t x.layers + 64 + 4095) / 4096 * 4096 + layer % (x.dist + 1) * ((s.slotBytes x t + 4095) / 4096 * 4096)

/-- The 64 bytes of a descriptor (Table TIER-7) that stages. -/
structure StageDesc where
  op : Nat
  trigger : Nat := 0
  flags : Nat := 0
  prio : Nat := 0
  kind : Nat := 1
  src : Nat := 0
  dst : Nat := 0
  len : Nat := 0
  counter : Nat := 0
  tcounter : Nat := 0
  tenant : Nat := 0
  ukind : Nat := 0
  obj : Nat := 0
  unit : Nat := 0
  flen : Nat := 0

def StageDesc.bytes (d : StageDesc) (next status : Nat) : List Byte :=
  [BitVec.ofNat 8 d.op, BitVec.ofNat 8 d.trigger, 0, BitVec.ofNat 8 d.flags, BitVec.ofNat 8 d.prio, 1, BitVec.ofNat 8 d.kind, 1] ++
    toBytes 8 d.src ++ toBytes 8 d.dst ++ toBytes 4 d.len ++ toBytes 4 d.counter ++ toBytes 4 d.tcounter ++ toBytes 4 1 ++
    toBytes 2 d.tenant ++ [BitVec.ofNat 8 d.ukind, 0] ++ toBytes 4 d.obj ++ toBytes 4 d.unit ++ toBytes 4 d.flen ++ toBytes 4 next ++ toBytes 4 status

/-- A descriptor without a transfer. -/
def StageDesc.idle : StageDesc := { op := 3 }

/-- PREFETCH_CLASS, the DMA priority of every movement of an object (Table TIER-2). -/
def fPrefetch (f : W32) : Nat := bitsOf f.toNat 25 24

/-- The two descriptors of a block: a COPY in class 1 for each chunk of a Madder-resident object; a DECODE of a frame; none of an unwritten unit or of one without a
frame. -/
def State.blockDescs (s : State) (u : StageUnit) (dst : Nat) : List StageDesc :=
  let o := s.objAt u.obj
  let r := o.unit u.unit
  let prio := fPrefetch o.flags
  if o.state = 2 then
    let cs := chunksOf ((List.range o.pages.length).map o.pageAt) (u.unit * o.unitBytes) o.unitBytes
    let ds := cs.foldl (fun (acc : List StageDesc × Nat) c =>
      (acc.1 ++ [{ op := 0, prio := prio, src := c.1, dst := acc.2, len := c.2 }], acc.2 + c.2)) ([], dst)
    (ds.1 ++ [StageDesc.idle, StageDesc.idle]).take 2
  else if r.st = 1 then
    let lot := r.tier = 1
    let pool := s.ti.pools.find? fun p => decide (p.base ≤ r.loc ∧ r.loc < p.base + p.bytes)
    let mask := (pool.map (·.mask)).getD 3
    [{ op := 2, flags := if !lot && mask = 3 then 4 else 0, prio := prio,
       kind := if lot then 1 else if bitAt mask 0 && (s.ho.portA.up || !bitAt mask 1) then 2 else 3,
       src := if lot then 0x300000000000 + r.loc else r.loc, dst := dst, len := o.unitBytes, tenant := o.keyTenant.toNat, ukind := o.kind, obj := u.obj,
       unit := u.unit, flen := r.plain.length }, .idle]
  else [.idle, .idle]

/-- The descriptors of a layer on a tile: the CONSUME watch on start((L − d) mod nl), the blocks, the signal of staged(L). -/
def State.layerDescs (s : State) (m t layer : Nat) : List StageDesc :=
  let x := s.modelAt m
  let r := s.runTile x t
  let from_ := (layer + x.layers * x.dist - x.dist) % x.layers
  let base := weldBase + r * 0x2000000 + s.stageSlot m t layer
  [{ op := 3, trigger := 3, flags := 2, tcounter := 4096 * r + Config.startCounter m t from_ % 4096 }] ++
    (s.stageUnits x t layer).flatMap (fun u => s.blockDescs u (base + u.off)) ++
    [{ op := 3, flags := 1, counter := 4096 * r + Config.stagedCounter m t layer % 4096 }]

/-- Firmware writes a layer's descriptors into its chain, each naming the next one around the circle; an unwritten unit's image of zeros it writes itself (R240). -/
def State.writeLayer (s : State) (m t layer : Nat) : State :=
  let x := s.modelAt m
  let at0 := s.stageDesc m t layer
  let status := s.stageDesc m t x.layers
  let ds := s.layerDescs m t layer
  let s1 := (List.range ds.length).foldl (fun s' i =>
    let next := if i + 1 < ds.length then at0 + 64 * (i + 1) else s.stageDesc m t ((layer + 1) % x.layers)
    s'.weldWrite (s.runTile x t) (at0 + 64 * i) ((ds.getD i .idle).bytes next status) false) s
  (s.stageUnits x t layer).foldl (fun s' u =>
    let o := s.objAt u.obj
    if o.state ≠ 2 ∧ (o.unit u.unit).st = 0 then s'.weldWrite (s.runTile x t) (s.stageSlot m t layer + u.off) (List.replicate o.unitBytes 0) false else s') s1

/-! #### What firmware stages itself (R250) -/

/-- One block into its slot, from Madder with its poison, or decoded from its frame; a frame that cannot be read follows Table TIER-4. -/
def State.stageBlock (s : State) (m t layer : Nat) (u : StageUnit) : State :=
  let o := s.objAt u.obj
  let dst := weldBase + s.runTile (s.modelAt m) t * 0x2000000 + s.stageSlot m t layer + u.off
  if o.state = 2 then
    let (ps, s1) := s.readChunks .dma (chunksOf ((List.range o.pages.length).map o.pageAt) (u.unit * o.unitBytes) o.unitBytes) [] 1
    s1.agentWriteAs .dma [] 1 0 dst ps
  else match s.unitImage u.obj u.unit with
    | some b => s.agentWriteAs .dma [] 1 0 dst (recut 0 b fun _ => false)
    | none => if (o.unit u.unit).st = 1 then s.frameGone u.obj u.unit else s

/-- staged(L) of a tile is signalled by firmware. -/
def State.signalStaged (s : State) (m t layer : Nat) : State :=
  let r := s.runTile (s.modelAt m) t
  let s1 := s.sendSignal ⟨ctrId (4096 * r + Config.stagedCounter m t layer % 4096), 1, .core (tileId r)⟩
  let x := s1.modelAt m
  s1.setModel m { x with staged := tput (fun _ => 0) x.staged (256 * t + layer) (tget (fun _ => 0) x.staged (256 * t + layer) + 1) }

/-- The channel of a staging chain. -/
def State.stageChan (s : State) (m t : Nat) : Nat := 32 * s.runTile (s.modelAt m) t + Config.stageChan m t % 32

/-- The chain of a tile: every layer's descriptors are written, layers 0 to d − 1 are staged directly, and the chain starts at the layer that start(0) triggers. -/
def State.stageTile (s : State) (m t : Nat) : State :=
  let x := s.modelAt m
  let c := s.stageChan m t
  let s1 := (List.range x.layers).foldl (fun s l => s.writeLayer m t l) s
  let s2 := (List.range (min x.dist x.layers)).foldl (fun s l =>
    ((s.stageUnits x t l).foldl (fun s u => s.stageBlock m t l u) s).signalStaged m t l) s1
  s2.makeCurrent c (s2.stageDesc m t (x.dist % x.layers)) { s2.chanAt c with service := true, domain := 0, keys := [], group := none }

/-- Starts the staging of a model: at its plan's activation (R250), and again for a replay (11 R312). -/
def State.stageStart (s : State) (m : Nat) : State :=
  let x := s.modelAt m
  x.stageTiles.foldl (fun s t => s.stageTile m t) (s.setModel m { x with staged := [] })

/-! #### Layer starts -/

/-- A layer becomes ready: its start(L) is signalled by +1 on every home tile; the descriptors of layer L + d, whose slot is free now, are brought up to date
first. -/
def State.startLayer (s : State) (m layer : Nat) : State :=
  let x := s.modelAt m
  let s1 := x.stageTiles.foldl (fun s t => s.writeLayer m t ((layer + x.dist) % x.layers)) s
  let s2 := s1.setModel m { s1.modelAt m with layerAt := s.time }
  x.homeTiles.foldl (fun s t =>
    s.sendSignal ⟨ctrId (4096 * s.runTile x t + Config.startCounter m t layer % 4096), 1, .core (tileId (s.stewardOf x.lead))⟩) s2

/-- A layer has ended: what was staged for it on each tile is used. -/
def ModelD.layerUsed (x : ModelD) (layer : Nat) : ModelD :=
  { x with staged := x.stageTiles.foldl (fun st t => tput (fun _ => 0) st (256 * t + layer) (tget (fun _ => 0) st (256 * t + layer) - 1)) x.staged }

/-- Whether a staging from a lower tier for the layer that runs is not done on some tile: of the trunk, or of overlay `ov`'s objects. -/
def State.stageLate (s : State) (x : ModelD) (layer : Nat) (ov : Option W16) : Bool :=
  x.stageTiles.any fun t => tget (fun _ => 0) x.staged (256 * t + layer) = 0 &&
    (s.stageUnits x t layer).any fun u => (s.objAt u.obj).state ≠ 2 && match ov with
      | none => true
      | some v => (s.ovAt v.toNat).objects.contains u.obj

/-- The staging chain by its model and tile, its layer and whether it is the layer's last descriptor, that channel c runs now. -/
def State.stageOf (s : State) (c : Nat) : Option (Nat × Nat × Nat × Bool) :=
  (s.sv.model.filter fun q => q.2.state ≠ 0).findSome? fun q =>
    (q.2.stageTiles.filter fun t => s.stageChan q.1 t = c).findSome? fun t =>
      (List.range q.2.layers).findSome? fun l =>
        let a := s.stageDesc q.1 t l
        let n := s.stageCount q.2 t l
        let o := (s.chanAt c).cur
        if a ≤ o ∧ o < a + 64 * n then some (q.1, t, l, decide (o = a + 64 * (n - 1))) else none

end Sys2Proof.Machine
end

