-- ==== Sys2Proof/Machine/Dispatcher.lean ====
section
/-! DEFINITION. The step dispatcher (09 R277 to R292; 10 R300 to R303; 01 R42): passes, layer starts, commits with their calibration counts
(04 R136 to R139), stream entries, padded slots. -/
namespace Sys2Proof.Machine

open Sys2Proof

/-! #### A pass (R279) -/

/-- Rows of the chunk a session may run now: 0 where none is runnable (R278). A full chunk that ends the prompt so far waits for END. -/
def Sess.chunkRows (x : Sess) : Nat :=
  if x.state = 1 then if x.h + x.chunk < x.prompt.length then x.chunk else 0
  else if x.state = 2 then min x.chunk (x.prompt.length - x.h) else 0

/-- Whether the chunk holds the last prompt token (R287). -/
def Sess.samplesNow (x : Sess) : Bool := x.state = 3 || (x.state = 2 && x.h + x.chunkRows = x.prompt.length)

/-- The cost of a session's next rows (R284). -/
def cost (w : W16) (x : Sess) : Nat :=
  if x.state = 3 then 1 else (x.frac + x.chunkRows * w.toNat) / 256 + b2n x.samplesNow

/-- What the fraction carry becomes at the commit. -/
def carryAfter (w : W16) (x : Sess) : Nat := if x.state = 3 then x.frac else (x.frac + x.chunkRows * w.toNat) % 256

/-- Rows a step runs for the session: a chunk, or one decode row (R280). -/
def Sess.stepRows (x : Sess) : Nat := if x.state = 3 then 1 else x.chunkRows

/-- `a` before the first element of a sorted list that it does not come after. -/
def insertBy {α : Type} (le : α → α → Bool) (a : α) : List α → List α
  | [] => [a]
  | b :: l => if le a b then a :: b :: l else b :: insertBy le a l

/-- A list in ascending order; equals keep their places. -/
def sortBy {α : Type} (le : α → α → Bool) : List α → List α
  | [] => []
  | a :: l => insertBy le a (sortBy le l)

/-- Candidates: runnable, not PENDING; of one tenant in padded-slot mode; by (last_step, slot). -/
def State.candidates (s : State) (m : Nat) (tenant : Option W16) : List Nat :=
  let ok (q : Nat × Sess) : Bool :=
    q.2.live && q.2.model.toNat = m && !q.2.inStep && (q.2.state = 3 || q.2.chunkRows ≠ 0) && (tenant.isNone || tenant == some q.2.tenant) &&
      !s.sessPending q.2
  let before (a b : Nat × Sess) : Bool :=
    a.2.lastStep.toNat < b.2.lastStep.toNat || (a.2.lastStep = b.2.lastStep && a.1 ≤ b.1)
  (sortBy before (s.sv.sess.filter ok)).map (·.1)

/-- A session finds itself unable to run: 1 BUDGET, 2 KV_SPACE, 3 STREAM. -/
def State.park (s : State) (k why : Nat) : State := s.setSess k { s.sessAt k with parked := why }

/-- The extents of one more block become the session's. -/
def State.giveBlock (s : State) (k : Nat) (ps : List Nat) : State := s.setSess k { s.sessAt k with blocks := (s.sessAt k).blocks ++ [ps] }

/-- One more block of extents for a session. -/
def State.growOne (s : State) (k : Nat) : Except Nat State :=
  match s.addBlock (s.sessAt k).tenant.toNat (s.modelAt (s.sessAt k).model.toNat) with
  | .error e => .error e
  | .ok r => .ok (r.1.giveBlock k r.2)

/-- The extents a session needs to write `rows` rows after its history (R274). -/
def State.growTo (s : State) (k : Nat) : Nat → Except Nat State
  | 0 => .ok s
  | n + 1 =>
    match s.growOne k with
    | .error e => .error e
    | .ok s1 => State.growTo s1 k n

/-- Extents of a session that a step of `rows` rows lacks. -/
def Sess.lacking (x : Sess) (rows : Nat) : Nat := (x.h + rows + 3839) / 3840 - x.blocks.length

/-- A session that is to rebind takes its series' CURRENT generation (R268, R269): its claims are placed before those it no longer needs go. -/
def State.rebindNow (s : State) (k : Nat) : State :=
  let x := s.sessAt k
  if !x.rebind then s
  else match s.current x.tenant x.series with
    | none => s
    | some c =>
      let s1 := s.setSess k { x with overlay := some (BitVec.ofNat 16 c), rebind := false }
      let now := s1.sessObjects (s1.sessAt k)
      (s1.claimAll now (claimSess k)).unclaimAll ((s.ovObjects x.overlay).filter fun n => !now.contains n) (claimSess k)

/-- One candidate of a pass joins the group, is parked or passed over; the group and its prefill rows so far. -/
def State.consider (plan : Plan) (step : W32) (acc : State × List Member × Nat) (k : Nat) : State × List Member × Nat :=
  let (s, g, rows) := acc
  let x := s.sessAt k
  let t := s.ten x.tenant.toNat
  let c := cost t.weight x
  let r := s.ringAt x.ring.toNat
  let onRing := g.countP fun q => (s.sessAt q.slot).ring = x.ring
  if plan.maxGroup.toNat ≤ g.length then acc
  else if g.countP (fun q => (s.sessAt q.slot).tenant = x.tenant) = plan.tenantCap.toNat then acc
  else if t.level.toNat - t.reserved.toNat < c then (s.park k 1, g, rows)
  else match s.growTo k (x.lacking x.stepRows) with
    | .error _ => (s.park k 2, g, rows)
    | .ok s1 =>
      if r.room - r.queue.length < 4 + 4 * onRing then (s.park k 3, g, rows)
      else if x.state ≠ 3 ∧ plan.prefillRows.toNat < rows + x.chunkRows then acc
      else
        let s2 := s1.setTen x.tenant.toNat { s1.ten x.tenant.toNat with reserved := t.reserved + n32 c }
        let s3 := s2.setSess k { s2.sessAt k with parked := 0, lastStep := step, inStep := true }
        let s4 := s3.rebindNow k
        let mem : Member := { slot := k, pos := x.h, rows := x.stepRows, samples := x.samplesNow, prefill := decide (x.state ≠ 3), cost := c,
                              carry := carryAfter t.weight x, overlay := (s4.sessAt k).overlay }
        (s4, g ++ [mem], rows + x.chunkRows)

/-! #### Pieces (01 R42; R281) -/

/-- Whether the bank unit that holds a 64-KiB page of a BANK_LAYOUT object is in service (01 R43). -/
def State.pageUnitUp (s : State) (p : Nat) : Bool := !(s.unitAt (unitOfBank (s.place (65536 * p)).bank)).oos

/-- Whether every unit that would compute a TPROD piece of object n, or an ATTEND piece of session slot k, is in service. -/
def State.objUnitsUp (s : State) (n : Nat) : Bool := (s.objAt n).pages.all s.pageUnitUp
def State.kvUnitsUp (s : State) (k : Nat) : Bool := (s.sessAt k).blocks.flatten.all s.pageUnitUp

/-- The side of a recorded piece as units stand now: one whose unit has left service moves to the arrays, attention to the threads (01 R43; R282). -/
def State.resided (s : State) (p : PieceRec) : PieceRec :=
  { p with bank := p.bank && match p.kind with | 0 => s.kvUnitsUp p.what | 2 => s.objUnitsUp p.what | _ => true }

/-- Matrix–vector pieces of the weights of object n that the decode members `ks` share: one per tenant in isolation mode where the object is
BANK_LAYOUT, else one. -/
def State.formShared (s : State) (plan : Plan) (n : Nat) (ks : List Nat) : List PieceRec :=
  let bank := fBank (s.objAt n).flags
  let side (w : Nat) : Bool := bank && 1 ≤ w && w ≤ min 4 plan.bankWidth.toNat && s.objUnitsUp n
  if ks.isEmpty then []
  else if bank ∧ s.md.isolation then
    let ts := (ks.map fun k => (s.sessAt k).tenant).eraseDups
    ts.map fun t =>
      let w := ks.countP fun k => (s.sessAt k).tenant = t
      ⟨2, n, some t, w, side w⟩
  else [⟨2, n, none, ks.length, side ks.length⟩]

/-- The pieces of a formation: attention per session, prefill chunks, the trunk's matrices and each bound overlay's (R42). -/
def State.formPieces (s : State) (m : ModelD) (plan : Plan) (g : List Member) : List PieceRec :=
  let dec := (g.filter fun q => !q.prefill).map (·.slot)
  let ovs := (g.filterMap (·.overlay)).eraseDups
  (g.map fun q => (⟨0, q.slot, none, 1, s.kvUnitsUp q.slot⟩ : PieceRec)) ++ ((g.filter (·.prefill)).map fun q => (⟨1, q.slot, none, q.rows, false⟩ : PieceRec)) ++
    ((m.pieces.map pieceObj).eraseDups.flatMap fun n => s.formShared plan n dec) ++
    ovs.flatMap fun v => (s.ovAt v.toNat).objects.flatMap fun n =>
      s.formShared plan n ((g.filter fun q => !q.prefill && q.overlay == some v).map (·.slot))

/-! #### Passes -/

/-- Whether models may be dispatched: the module is READY and its agents run, no module-wide handler has stopped dispatch (11 Table FALT-2), and
a home square is in service (11 R324). -/
def State.dispatches (s : State) (x : ModelD) : Bool :=
  s.md.state = 1 && s.md.running && !(s.fl.handlers.any fun h => h.dom.kind = .module) &&
    (squaresOf x.home).any fun q => !s.fl.out.contains (domOf .square q)

/-- Forms a group from the candidates; an empty one ends the pass. -/
def State.formGroup (s : State) (m : Nat) (plan : Plan) (tenant : Option W16) : State :=
  let x := s.modelAt m
  let step := x.stepNo + 1
  let (s1, g, _) := (s.candidates m tenant).foldl (State.consider plan step) (s, [], 0)
  if g.isEmpty then s1
  else
    let grp : Group := { members := g, pieces := s1.formPieces x plan g, plan := plan, slot := x.slotNo, layer := 0, attempts := 0,
                         replay := false, abortAt := 0, cause := 0xFFFFFFFF, doomed := [], calm := none }
    ((s1.setModel m { s1.modelAt m with group := some grp, stepNo := step }).sweep).startLayer m 0

/-- A published plan applies (R277). -/
def ModelD.takePlan (x : ModelD) : ModelD :=
  match x.nextPlan with
  | some p => { x with plan := some p, nextPlan := none, slotNo := 0 }
  | none => x

/-- A published plan applies, and its slots begin later than now (10 R300); with a model's first plan firmware builds and starts its staging chains (08 R250). -/
def State.applyPlan (s : State) (m : Nat) : State :=
  let x := s.modelAt m
  let s1 := s.setModel m { x.takePlan with tLast := s.time, slotAt := if x.nextPlan.isSome then some s.now else x.slotAt }
  if x.plan.isNone && x.nextPlan.isSome then s1.stageStart m else s1

/-- One pass: the plan, the boundary actions, then the group. -/
def State.pass (s : State) (m : Nat) (tenant : Option W16) : State :=
  let s1 := s.applyPlan m
  let x := s1.modelAt m
  let s2 := (s1.boundaries m tenant).tierCheck m
  match x.plan with
  | some p => s2.formGroup m p tenant
  | none => s2

/-- DISPATCHER_PASS (R279): min_interval has passed and no group is in flight. -/
def execDispatcherPass (m : ModelId) (s : State) : Host.Outcome State Fault Refusal :=
  let x := s.modelAt m
  match x.plan.orElse (fun _ => x.nextPlan) with
  | none => .next s
  | some p =>
    if !s.dispatches x ∨ x.group.isSome ∨ (x.plan.isSome ∧ p.padded = 1) ∨ s.now < x.tLast.toNat + p.minInterval.toNat then .next s
    else if x.takePlan.plan.any fun q => q.padded = 1 then
      .next ((s.applyPlan m).boundaries m none)
    else .next (s.pass m none)

/-- BOUNDARY_ACTIONS (R279): outside padded-slot mode, when no pass runs. -/
def execBoundaryActions (m : ModelId) (s : State) : Host.Outcome State Fault Refusal :=
  let x := s.modelAt m
  if x.group.isSome ∨ x.plan.any (fun p => p.padded = 1) ∨ !s.md.running then .next s else .next (s.boundaries m none)

/-- LAYER_START (R250): a layer has ended: sessions that need a LOST object leave (08 R251), the next layer starts. -/
def execLayerStart (m : ModelId) (s : State) : Host.Outcome State Fault Refusal :=
  let s1 := s.tierCheck m
  match (s1.modelAt m).group with
  | none => .next s1
  | some g =>
    if g.replay ∨ (s1.modelAt m).layers ≤ g.layer + 1 then .next s
    else .next ((s1.setModel m { (s1.modelAt m).layerUsed g.layer with group := some { g with layer := g.layer + 1 } }).startLayer m (g.layer + 1))

/-- STAGING_GRACE_EXPIRY (08 R251): a staging from a lower tier has not signalled staged(L) by the grace time after the layer became ready: the members that need
the block end ERROR_TIER. -/
def execStagingGraceExpiry (m : ModelId) (layer : Byte) (ov : Option W16) (s : State) : Host.Outcome State Fault Refusal :=
  let x := s.modelAt m
  match x.group with
  | some g =>
    if g.layer = layer.toNat ∧ !g.replay ∧ (x.layerAt.toNat + x.grace ≤ s.now) ∧ s.stageLate x g.layer ov then .next (s.failMembers m ov) else .next s
  | none => .next s

/-- A staging by firmware failed (08 R251): members whose piece needs the block end ERROR_TIER; a frame that cannot be read follows Table TIER-4. -/
def State.stagingFailed (s : State) (n u code : Nat) : State :=
  let s1 := s.sv.model.foldl (fun s q =>
    if q.2.group.isNone then s
    else if q.2.objects.contains n then s.failMembers q.1 none
    else (s.sv.overlay.filter fun v => v.2.model.toNat = q.1 && v.2.objects.contains n).foldl
      (fun s v => s.failMembers q.1 (some (BitVec.ofNat 16 v.1))) s) s
  if code ≠ 5 ∧ (s1.objAt n).live ∧ ((s1.objAt n).unit u).st = 1 then s1.frameGone n u else s1

/-- The end of a descriptor of a staging chain: the layer's last one counts its signal of staged(L); a failed one does not stop the chain, which firmware starts again
at the next descriptor. -/
def State.stageEnd (s : State) (c code next : Nat) : Option (Nat × Nat × Nat × Bool) → State
  | none => s
  | some (m, t, l, last) =>
    let x := s.modelAt m
    if code = 0 then
      if last then s.setModel m { x with staged := tput (fun _ => 0) x.staged (256 * t + l) (tget (fun _ => 0) x.staged (256 * t + l) + 1) } else s
    else if code = 9 then s
    else s.makeCurrent c next { s.chanAt c with service := true, domain := 0, keys := [], group := none }

/-- DESCRIPTOR_END (08 R251, R261). Writes to a lot must all have been acknowledged (13 R371). A DECODE of firmware's is a staging. -/
def execDescriptorEnd (c : ChanId) (s : State) : Host.Outcome State Fault Refusal :=
  let x := s.chanAt c
  match x.ended with
  | none => .next s
  | some code =>
    if x.state ≠ 2 ∨ (code = 0 ∧ !(s.chanReqs c).isEmpty) then .next s
    else
      let s1 := s.descEnd c code
      let s2 := if x.service ∧ dmOp x.desc = 2 ∧ [1, 4, 5, 6, 7].contains code then s1.stagingFailed (dmObject x.desc) (dmUnit x.desc) code else s1
      .next (s2.stageEnd c code (dmNext x.desc) (s.stageOf c))

/-! #### Calibration at a commit (04 R136 to R139) -/

/-- The threshold of a kind. -/
def Calib.thr (c : Calib) (kind : Nat) : Nat := match kind with | 0 => c.clamp.toNat | 1 => c.ovf.toNat | _ => c.sat.toNat

/-- The settings in force and the window of a commit at time `now`: at the first commit in a new window every window count is 0. -/
def ModelD.inWindow (x : ModelD) (now : Nat) : ModelD :=
  let y := x.calAt now
  let w := now / (y.cal.window * 1000000) * (y.cal.window * 1000000)
  if y.cal = x.cal ∧ w = y.window then y
  else { y with window := w, counts := y.counts.map fun q => (q.1, { q.2 with win := 0, overlay := 0xFFFF }) }

/-- Adds one count. -/
def ModelD.addCount (x : ModelD) (c : CalCount) : ModelD :=
  let k : CalKey := ⟨c.layer.toNat, c.source, c.kind⟩
  let v := x.cnt k
  if c.n = 0 then x
  else x.setCnt k { win := satAdd 0xFFFFFFFF v.win c.n, total := v.total + c.n, overlay := if v.win = 0 ∧ c.source then c.overlay else v.overlay }

/-- CALIBRATION_DRIFT for each count that the commit brings to its threshold (R139). -/
def State.drifts (s : State) (m : Nat) (old new : ModelD) : State :=
  new.counts.foldl (fun s q =>
    let t := new.cal.thr q.1.kind
    if t ≠ 0 ∧ (old.cnt q.1).win < t ∧ t ≤ q.2.win then
      s.log 0x0503 domModule (n64 (packFields [(q.1.layer, 8), (b2n q.1.source, 1), (q.1.kind, 2), (0, 5), (if q.1.source then q.2.overlay.toNat else 0, 16)]))
        (n64 q.2.win) (n64 new.window) 0 { model := BitVec.ofNat 16 m, step := new.stepNo }
    else s) s

/-! #### Commits (R283) -/

/-- A key and value entry that a step wrote, at its position after the committed history (R275): the token's place in its extent's page, its segment records in the
page's last pair-row (03 R109). -/
def State.putKv (s : State) (x : Sess) (md : ModelD) (pos : Nat) (e : KvEntry) : State :=
  let at_ := pos + e.row.toNat
  let tok := at_ % 3840 % 240
  match (x.blocks.getD (at_ / 3840) [])[e.layer.toNat * md.kvHeads + e.head.toNat]? with
  | none => s
  | some p =>
    let page := 65536 * (p + at_ % 3840 / 240)
    let half (s : State) (o : Nat) (b : List Byte) (r : W32) : State :=
      let put (s : State) (a : Nat) (b : List Byte) : State := s.agentWriteAs .thread [] 0 0 a (recut a b fun _ => false)
      put (put s (page + 4096 * (tok / 16) + o + 128 * (tok % 16)) (padTo 0 128 b)) (page + 61440 + o + 4 * tok) (toBytes 4 r.toNat)
    half (half s 0 e.key e.keyRec) 2048 e.value e.valueRec

/-- The entries that the step of a member wrote: those of rows that it ran, in layers and heads that the model has. -/
def State.putKvs (s : State) (m : Nat) (q : Member) (outs : List StepOut) : State :=
  let md := s.modelAt m
  (((outs.find? fun o => o.slot.toNat = q.slot).map (·.kv)).getD []).foldl (fun s e =>
    if e.row.toNat < q.rows ∧ e.layer.toNat < md.layers ∧ e.head.toNat < md.kvHeads then s.putKv (s.sessAt q.slot) md q.pos e else s) s

/-- Steps 1 to 3 for one member: H, the token through stop matching, the charge. Answers what the token leads to. -/
def State.commitMember (s : State) (m : Nat) (outs : List StepOut) (q : Member) : State × Nat × Option TokOut :=
  let x := s.sessAt q.slot
  let md := s.modelAt m
  let t := s.ten x.tenant.toNat
  let s1 := s.setTen x.tenant.toNat { t with level := t.level - n32 q.cost, reserved := t.reserved - n32 q.cost }
  let y := { x with h := x.h + q.rows, inStep := false, frac := q.carry }
  if !q.samples then (s1.setSess q.slot y, q.slot, none)
  else
    let z := ((outs.find? fun o => o.slot.toNat = q.slot).map (·.logits)).getD []
    let (tok, nan) := sampleToken z y.temp y.topK.toNat y.topP y.seed y.h
    let s2 := if nan then
        s1.log 0x0502 (domOf .square md.lead) ((x.handle q.slot).setWidth 64) 0 0 0 { model := BitVec.ofNat 16 m, tenant := x.tenant, step := md.stepNo }
      else s1
    let o := onToken x.held x.stops x.inclStop md.eos (x.count.toNat + 1) x.maxNew.toNat (y.h = md.maxCtx) (n32 tok)
    (s2.setSess q.slot { y with count := x.count + 1, last := n32 tok, held := o.held, state := 3 }, q.slot, some o)

/-- Step 5: the entries of one member, and its end. -/
def State.commitOut (s : State) (k : Nat) (ov : Option W16) (o : TokOut) : State :=
  let s1 := s.putEntries k o.rel o.fin ov
  match o.fin with
  | none => s1
  | some (st, _) => s1.setSess k { s1.sessAt k with state := 4, ended := st, held := [], rebind := false }

/-- The commit of a model's step-group in one action (R283): members in ascending slot order. What the step's kernels wrote of keys and values enters the model here
(notes/assumptions/123.md). -/
def State.commitGroup (s : State) (m : Nat) (g : Group) (outs : List StepOut) (counts : List CalCount) : State :=
  let ms := sortBy (fun a b => decide (a.slot ≤ b.slot)) g.members
  let s0 := ms.foldl (fun s q => s.putKvs m q outs) s
  let (s1, res) := ms.foldl (fun (acc : State × List (Nat × Option W16 × TokOut)) q =>
    let (s, k, o) := acc.1.commitMember m outs q
    (s, match o with | some t => acc.2 ++ [(k, q.overlay, t)] | none => acc.2)) (s0, [])
  let x := { (s1.modelAt m).layerUsed g.layer with group := none }
  let x0 := x.inWindow s.now
  let x1 := counts.foldl ModelD.addCount x0
  let s2 := (s1.setModel m x1).drifts m x0 x1
  (res.foldl (fun s r => s.commitOut r.1 r.2.1 r.2.2) s2).sweep

/-- Whether a group has run its last layer, with the logits of every member that samples. -/
def State.complete (s : State) (m : Nat) (g : Group) (outs : List StepOut) : Bool :=
  !g.replay && g.layer + 1 = (s.modelAt m).layers &&
    g.members.all fun q => !q.samples || outs.any fun o => o.slot.toNat = q.slot && o.logits.length = (s.modelAt m).vocab

/-- The commit at the last piece boundary: members that a failed staging ended leave before it (08 R251). -/
def State.commitNow (s : State) (m : Nat) (outs : List StepOut) (counts : List CalCount) : State :=
  let s1 := s.dropDoomed m
  match (s1.modelAt m).group with
  | none => s1
  | some g => s1.commitGroup m g outs counts

/-- STEP_COMMIT (R283), outside padded-slot mode. -/
def execStepCommit (m : ModelId) (outs : List StepOut) (counts : List CalCount) (s : State) : Host.Outcome State Fault Refusal :=
  match (s.modelAt m).group with
  | none => .next s
  | some g =>
    if g.plan.padded = 1 ∨ !s.complete m g outs ∨ !s.md.running then .next s
    else .next (s.commitNow m outs counts)

/-- STREAM_ENTRY_WRITE (R290; 12 R344): the oldest waiting entry goes into a free slot through the carrying port. -/
def execStreamEntryWrite (r : RingId) (s : State) : Host.Outcome State Fault Refusal :=
  let x := s.ringAt r
  match x.queue with
  | [] => .next s
  | e :: l =>
    if !x.active ∨ x.room = 0 ∨ !(s.port x.port).up then .next s
    else
      let (s1, x1) := s.ringWrite x e
      .next (s1.setRing r { x1 with queue := l })

/-! #### Padded slots (R300 to R303) -/

/-- The pass at a slot start: a plan that applies now starts its slots with the next boundary, and no tenant is served until then
(log 134). -/
def State.slotPass (s : State) (m : Nat) : State :=
  let x := s.modelAt m
  match x.nextPlan with
  | some p => if p.padded = 1 then s.applyPlan m else s.pass m none
  | none =>
    match x.plan with
    | none => s
    | some p =>
      let t := p.slots.getD (x.slotNo % p.slots.length) 0
      let s1 := s.pass m (some t)
      s1.setModel m { s1.modelAt m with slotNo := x.slotNo + 1 }

/-- Whether a slot begins now: TIME is a whole multiple of the slot length, and the boundary has not been taken (R300). -/
def ModelD.slotBegins (x : ModelD) (p : Plan) (now : Nat) : Bool := now % p.slotNs.toNat = 0 && x.slotAt ≠ some now

/-- PADDED_SLOT_START: a slot boundary. A group that has completed commits; one that has not overruns the slot that begins, which passes without
a group; PAD_OVERRUN is logged with the commit (R302). -/
def execPaddedSlotStart (m : ModelId) (outs : List StepOut) (counts : List CalCount) (done : Bool) (s : State) :
    Host.Outcome State Fault Refusal :=
  let x := s.modelAt m
  match x.plan with
  | none => .next s
  | some p =>
    if p.padded ≠ 1 ∨ !x.slotBegins p s.now ∨ !s.dispatches x then .next s
    else
      let s0 := s.setModel m { x with slotAt := some s.now }
      match x.group with
      | none => .next ((s0.setModel m { s0.modelAt m with overrun := 0 }).slotPass m)
      | some g =>
        if done ∧ s0.complete m g outs then
          let s1 := s0.commitNow m outs counts
          let s2 := if x.overrun = 0 then s1
            else s1.log 0x0504 domModule (n64 g.slot) (n64 (x.overrun * p.slotNs.toNat)) 0 0 { model := BitVec.ofNat 16 m, step := x.stepNo }
          .next ((s2.setModel m { s2.modelAt m with overrun := 0 }).slotPass m)
        else .next (s0.setModel m { s0.modelAt m with overrun := x.overrun + 1, slotNo := x.slotNo + 1 })

end Sys2Proof.Machine
end

