-- ==== Sys2Proof/Machine/SubCtl.lean ====
section
/-! DEFINITION. The rows of a sub-channel controller (02): requests, command issue, read returns, refresh, temperature, retraining, scrub,
the maintenance slot. -/
namespace Sys2Proof.Machine

open Sys2Proof

/-- SC_REQUEST_ARRIVAL (R46, R78): a request for a mapped-out place is refused with an address fault and changes nothing. -/
def execScRequestArrival (c : SubId) (r : Req) (s : State) : Host.Outcome State Fault Refusal :=
  if s.madderOk r.addr ∧ subOfBank (s.place r.addr).bank = c.val then .next (s.accept c r) else .next s

/-! #### Issue of one command (R60, R63, R70, R76) -/

/-- Answers a request. -/
def State.answer (s : State) (c : Nat) (r : ReadResp) : State := s.setSub c { s.sub c with resp := some r }

/-- A request's read, or its ADD, is out: what the read found is kept until it returns. -/
def State.goesOut (s : State) (c : Nat) (q : QReq) (m : Option Sample) : State :=
  s.setSub c { s.sub c with queue := (s.sub c).queue.map (fun o => if o.id = q.id then { o with stage := 1, sample := m } else o),
                            out := if m.isSome then (s.sub c).out ++ [q.id] else (s.sub c).out }

/-- Issues the column command of a request: a read goes out under the policy of now (R57); a whole write is done; a partial write first reads, its bank being held
until the merged codeword is written (R60), and completes with its status; an ADD is written into the command area of the bank's unit
(R76, 03 R85); where that unit is out of service the controller reads the codeword and does the ADD itself (notes/assumptions/114.md). -/
def State.issueCol (s : State) (q : QReq) (now : Nat) : State :=
  let p := s.place q.req.addr
  let c := subOfBank p.bank
  let s1 := s.colGo p.bank q.reads q.req.cls.val now
  match q.req.kind with
  | .read => s1.goesOut c q (some (s1.sampleAt q.req.addr))
  | .write off d psn =>
    if q.stage = 2 then
      let s2 := s1.setBank p.bank { s1.bankAt p.bank with hold := .none }
      (({ s2 with dr := s2.dr.writeCw p.cw q.merged q.mPoison }).answer c ⟨q.req, [], q.mPoison⟩).dropReq c q.id
    else if off = 0 ∧ d.length = 32 then (({ s1 with dr := s1.dr.writeCw p.cw d psn }).answer c ⟨q.req, [], psn⟩).dropReq c q.id
    else (s1.setBank p.bank { s1.bankAt p.bank with hold := .codeword p.col }).goesOut c q (some (s1.sampleAt q.req.addr))
  | .add d =>
    let u := unitOfBank p.bank
    if (s1.unitAt u).oos then (s1.setBank p.bank { s1.bankAt p.bank with hold := .codeword p.col }).goesOut c q (some (s1.sampleAt q.req.addr))
    else
      let s2 := (s1.setUnit u { s1.unitAt u with addDesc := { d with bank := BitVec.ofNat 8 (p.bank % 2), col := BitVec.ofNat 8 p.col },
                                                 addReq := some q.id }).command u 5 now
      (s2.setBank p.bank { s2.bankAt p.bank with hold := .codeword p.col }).goesOut c q none

/-- Issues one command to a row of bank b but a column access: an activation is counted in the tracker (R70). -/
def State.rowDo (s : State) (b : Nat) (cmd : Cmd) (now : Nat) : State :=
  match cmd with
  | .act row => s.rowAct b row now
  | .pre => s.rowClose b now
  | .col => s

/-- Issues one command of a request (R63). -/
def State.issue (s : State) (q : QReq) (cmd : Cmd) (now : Nat) : State :=
  match cmd with
  | .col => s.issueCol q now
  | k => s.rowDo (s.place q.req.addr).bank k now

/-! #### Patrol scrub (R74) -/

/-- The first codeword of the row after (bank, row): the next row, then row 0 of the next bank, then the first bank. -/
def nextRow (bank row : Nat) : BitVec 25 :=
  if row + 1 < 131072 then mkCur bank (row + 1) 0 else mkCur ((bank + 1) % 4) 0 0

/-- Physical address of a codeword by its place, in its segment's layout (the inverses of R51 and R52). -/
def State.addrOf (s : State) (bank row col : Nat) : Nat :=
  let q := bank / 64
  let seg := row / 512
  if s.segBank q seg then q * 2 ^ 34 + seg * 2 ^ 26 + bank % 64 / 2 * 2 ^ 21 + row % 512 * 4096 + bank % 2 * 2048 + col * 32
  else
    let i := bank % 64 / 4 ^^^ row % 16 ^^^ row / 256 % 16
    let bs := bank % 4 ^^^ row % 4
    q * 2 ^ 34 + row * 2 ^ 17 + bs * 2 ^ 15 + col / 16 * 2 ^ 13 + i * 2 ^ 9 + col % 16 * 32

/-- The codeword index of a column of a row. -/
def cwIdx (bank row col : Nat) : Nat := (bank * 2 ^ 28 + row * 2048 + col * 32) / 32

/-- Scrub reads one codeword: counts the read, logs an uncorrectable one as SCRUB_UE with its address (R74, R437); answers the corrected data where
there is something to write back. -/
def State.scrubCw (s : State) (c bank row col : Nat) (errs : List SymErr) : Option (List Byte) × State :=
  let cw := cwIdx bank row col
  let sc := (s.sub c).countRead
  let k := c / 64
  let (r, fix) := s.dr.decode (s.stackAt k).policy2 sc.erased cw errs
  let impl := implicate sc.erased fix sc.impl
  let s1 := (s.setSub c { sc with impl := impl, scrubCe := if r.fixed then satInc sc.scrubCe else sc.scrubCe,
                                  scrubUe := if r.ue then satInc sc.scrubUe else sc.scrubUe }).laneDegraded c sc.impl impl
  let s2 := if r.fixed then s1.setStack k { s1.stackAt k with corrected1h := satInc (s1.stackAt k).corrected1h } else s1
  let s3 := if r.ue ∧ s2.dr.reported.contains cw = false then
      let p := s2.addrOf bank row col
      ({ s2 with dr := { s2.dr with reported := setIns cw s2.dr.reported } }).detect 0x0102 (domOf .sub c) (n64 p) (s2.ownerAt p)
    else s2
  (if r.fixed then some r.data else none, s3)

/-- Completed passes of a stack: those that every sub-channel in service has completed. -/
def State.stackPasses (s : State) (k : Nat) : Nat :=
  let l := ((List.range 64).map fun i => s.sub (64 * k + i)).filter fun x => x.state ≠ 3
  l.foldl (fun m x => min m x.scrubPass) ((l.map (·.scrubPass)).headD 0)

/-- Whether a row was initialised in this scrub pass (R75). -/
def SubCh.isClean (x : SubCh) (bank row : Nat) : Bool := x.clean.any fun k => k.1 = bank && k.2.1 ≤ row && row < k.2.1 + k.2.2

/-- Scrub is done with the row of its cursor: the cursor goes to the next row, and after the last bank a pass is complete. -/
def State.scrubNext (s : State) (c : Nat) : State :=
  let x := s.sub c
  let nxt := nextRow (curBank x.scrubCur) (curRow x.scrubCur)
  let s1 := s.setSub c { x with scrubCur := nxt, scrub := none, scrubPass := if nxt = 0 then x.scrubPass + 1 else x.scrubPass, clean := if nxt = 0 then [] else x.clean }
  s1.setStack (c / 64) { s1.stackAt (c / 64) with passes := BitVec.ofNat 16 (s1.stackPasses (c / 64)) }

/-- The command that scrub's row needs next, where it is legal now: an activation, the read of the codeword at the cursor, the write-back of a corrected one, and at
the end the precharge. No other command to the codeword comes between its read and its write (R64). -/
def State.scrubCmd (s : State) (c now : Nat) : Option Cmd :=
  let x := s.sub c
  match x.scrub with
  | none => none
  | some k =>
    if x.holder ≠ 4 ∨ ((s.bankAt k.bank).held ∧ k.fix.isNone) then none
    else if k.fix.isNone ∧ !k.shut ∧ (x.waiting.any fun a => a < 4) then none
    else if k.shut then
      if (s.bankAt k.bank).openRow = some k.row then (if (s.bankAt k.bank).preTime now = now then some .pre else none) else some .pre
    else s.rowCmd k.bank k.row k.fix.isNone k.fix.isSome now

/-- Issues scrub's next command. -/
def State.scrubDo (s : State) (c : Nat) (cmd : Cmd) (now : Nat) : State :=
  match (s.sub c).scrub with
  | none => s
  | some k =>
    match cmd with
    | .act row => s.rowAct k.bank row now
    | .pre =>
      if k.shut then (if (s.bankAt k.bank).openRow = some k.row then s.rowClose k.bank now else s).scrubNext c
      else s.rowClose k.bank now
    | .col =>
      match k.fix with
      | some (col, d) =>
        let s1 := s.colGo k.bank false 3 now
        let s2 := { s1 with dr := s1.dr.writeCw (cwIdx k.bank k.row col) d false }.setBank k.bank { s1.bankAt k.bank with hold := .none }
        s2.setSub c { s2.sub c with scrub := some { k with fix := none, shut := col = 63 } }
      | none =>
        let col := curCol (s.sub c).scrubCur
        let s1 := s.colGo k.bank true 3 now
        let (fix, s2) := s1.scrubCw c k.bank k.row col (errsOf k.errs col)
        let x := s2.sub c
        let s3 := s2.setSub c { x with scrubCur := if col = 63 then x.scrubCur else mkCur (curBank x.scrubCur) (curRow x.scrubCur) (col + 1),
                                       scrub := some { k with fix := fix.map fun d => (col, d), shut := col = 63 && fix.isNone } }
        if fix.isSome then s3.setBank k.bank { s3.bankAt k.bank with hold := .codeword col } else s3

/-! #### Write bursts of an initialise (R75) -/

/-- The command that the next burst needs, where it is legal now. -/
def State.burstCmd (s : State) (c now : Nat) : Option Cmd :=
  let x := s.sub c
  match x.burstAt with
  | none => none
  | some (_, b, row, _) => if x.initStops ∨ (s.bankAt b).held then none else s.rowCmd b row false false now

/-- Issues it; a burst writes one codeword of the pattern, and the cursor moves on. -/
def State.burstDo (s : State) (c : Nat) (cmd : Cmd) (now : Nat) : State :=
  match (s.sub c).burstAt with
  | none => s
  | some (j, b, row, col) =>
    match cmd with
    | .col =>
      let s1 := s.colGo b false 3 now
      let s2 := { s1 with dr := s1.dr.writeCw (cwIdx b row col) j.pattern false }
      let x := s2.sub c
      let j1 := if j.done + 1 < 64 * j.rows then { j with done := j.done + 1 } else { j with done := 0, bursts := j.bursts.drop 1 }
      s2.setSub c { x with inits := j1 :: x.inits.drop 1,
                           initCur := if j.units = [] then (match j1.bursts with | [] => x.initCur | b1 :: _ => mkCur (b1 % 4) (j1.firstRow + j1.done / 64) (j1.done % 64))
                             else x.initCur }
    | k => s.rowDo b k now

/-- A MAINT_INIT completes when no sub-channel has a part of it left. -/
def State.initDone (s : State) (h : CmdHdr) : State :=
  if s.dr.sub.any fun c => c.2.inits.any fun j => j.cmd = h then s else s.finish h stDone

/-- The banks of sub-channel c that an initialise covers. -/
def initBanks (c : Nat) (j : InitJob) : List Nat := ((initUnits c j).flatMap fun u => [2 * u, 2 * u + 1]).filter fun b => subOfBank b = c

/-- Where the first initialise has nothing left to do, its rows are clean for this scrub pass, and the next one begins (R75). -/
def State.initAdvance (s : State) (c : Nat) : State :=
  let x := s.sub c
  match x.inits with
  | [] => s
  | j :: r =>
    if j.begun ∧ j.units = [] ∧ j.bursts = [] then
      ((s.setSub c { x with inits := r, clean := x.clean ++ (initBanks c j).map fun b => (b, j.firstRow, j.rows) }).beginInit c).initDone j.cmd
    else s

/-! #### Arbitration (R63) -/

/-- What a controller issues at an opportunity. -/
inductive Pick where
  | refresh (b : Nat)
  | req (q : QReq) (cmd : Cmd)
  | window (u : Nat)
  | scrub (cmd : Cmd)
  | burst (cmd : Cmd)
  | close (b : Nat)
  | idle
deriving DecidableEq, Repr

/-- The lowest free bank in service that wants a refresh and can now have it, or the precharge of its open row. -/
def State.refreshPick (s : State) (c now : Nat) (wanted : Nat → Bool) : Option Nat :=
  ([0, 1, 2, 3].map (bankOf c)).find? fun b =>
    let k := s.bankAt b
    !s.bankGone b && k.free now && wanted b && (if k.openRow.isSome then k.preTime now = now else k.refTime now = now)

/-- Gives bank b its precharge, or its refresh: an urgent one before a targeted one (R63, R67, R69). -/
def State.refreshDo (s : State) (b now : Nat) : State :=
  if (s.bankAt b).openRow.isSome then s.rowClose b now
  else s.refreshAt b (if s.urgentAt b then none else (s.bankAt b).dueRow) now

/-- The one of lowest number. -/
def firstOf (l : List (Nat × Pick)) : Option Pick :=
  (l.foldl (fun (a : Option (Nat × Pick)) p => some (a.elim p fun q => if p.1 < q.1 then p else q)) none).map (·.2)

/-- The windows of a class that may start, with their requests' places in the order. -/
def State.classWindows (s : State) (c cls now : Nat) : List (Nat × Pick) :=
  [2 * c, 2 * c + 1].filterMap fun u => match (s.unitAt u).jobs with
    | [] => none
    | j :: _ => if j.cls = cls ∧ s.windowOk u now then some (j.id, .window u) else none

/-- The next command of the oldest issuable request of a class: among them bank jobs, and in class 3 the maintenance commands (Table STAK-4). -/
def State.classPick (s : State) (c cls now : Nat) : Option Pick :=
  let reqs := ((s.oldest c cls now).map fun p => (p.1.id, Pick.req p.1 p.2)).toList
  let maint := if cls = 3 then
      ((s.sub c).scrub.bind fun k => (s.scrubCmd c now).map fun m => (k.id, Pick.scrub m)).toList ++
        ((s.sub c).burstAt.bind fun b => (s.burstCmd c now).map fun m => (b.1.id, Pick.burst m)).toList
    else []
  firstOf (reqs ++ s.classWindows c cls now ++ maint)

/-- The lowest bank, not held, whose open row no request targets (R63). -/
def State.closePick (s : State) (c now : Nat) : Option Nat :=
  ([0, 1, 2, 3].map (bankOf c)).find? fun b =>
    let k := s.bankAt b
    !s.bankGone b && !k.held && (match k.openRow with | some r => !s.rowWanted c b r | none => false) && k.preTime now = now

/-- next_command() of R63, with the precharge of rows that no request targets where it returns no command; a sub-channel that is not open issues refreshes only (R68). -/
def State.pick (s : State) (c now : Nat) : Pick :=
  let x := s.sub c
  if x.state = 0 ∨ x.state = 3 then .idle
  else
    match s.refreshPick c now (fun b => s.urgentAt b || (s.bankAt b).dueRow.isSome) with
    | some b => .refresh b
    | none =>
      let work := if x.state = 1 then (([1, 2, 3].filter fun k => s.owed c k now) ++ [0, 1, 2, 3]).findSome? fun k => s.classPick c k now else none
      match work with
      | some p => p
      | none =>
        match s.refreshPick c now (fun b => decide (1 ≤ (s.bankAt b).debtI)) with
        | some b => .refresh b
        | none => (s.closePick c now).elim .idle .close

/-- Issues what was picked. -/
def State.issuePick (s : State) (c now : Nat) : Pick → State
  | .refresh b => s.refreshDo b now
  | .req q cmd => s.issue q cmd now
  | .window u => s.startWindow u now
  | .scrub cmd => s.scrubDo c cmd now
  | .burst cmd => (s.burstDo c cmd now).initAdvance c
  | .close b => s.rowClose b now
  | .idle => s

/-- COMMAND_ISSUE (R47, R63) at `now` in ps. -/
def execCommandIssue (c : SubId) (now : Nat) (s : State) : Host.Outcome State Fault Refusal := .next (s.issuePick c now (s.pick c now))

/-- WINDOW_START (03 R93, R94, R97): the window is what the controller's arbitration issues now (R63). -/
def execWindowStart (u : UnitId) (now : Nat) (s : State) : Host.Outcome State Fault Refusal :=
  .next (if s.pick (u / 2) now = .window u then s.startWindow u now else s)

/-- BANK_JOB_END (06 R204, 03 R121): the window closes, results go to Weld, the completion record is written and the counter signalled. -/
def execBankJobEnd (u : UnitId) (s : State) : Host.Outcome State Fault Refusal :=
  let x := s.unitAt u
  match x.jobs with
  | [] => .next s
  | j :: _ =>
    if x.holds = false ∨ (x.state ≠ 4 ∧ x.state ≠ 5) then .next s
    else
      let s1 := ((s.readStatus u).takeLog u).reportPoison u
      let s2 := if x.inWindow then s1.endWindow u (1000 * s.now) else s1
      let res := mread zeroByte x.result 0 (min (leAt j.desc 44 4) 8192)
      let s3 := if j.init then s2 else s2.weldWrite j.tile (leAt j.desc 40 4) res false
      let s4 := s3.endJob u j (x.state = 4) (if x.state = 4 then 0 else 1) (if x.state = 4 then 0 else x.fault) x.poison
      let s5 := s4.setUnit u { s4.unitAt u with holds := false, jobs := (s4.unitAt u).jobs.drop 1, asked := s.time }
      let s6 := if x.state = 5 then s5.unitFault u else s5
      .next ((s6.initAdvance (u / 2)).wakeFor fun _ b => b == .bank (u / 2))

/-- READ_RETURN (R57 to R60): the oldest read out returns and is decoded; a partial write's read is merged; an ADD that the
controller does itself is done. -/
def execReadReturn (c : SubId) (errs : List SymErr) (s : State) : Host.Outcome State Fault Refusal :=
  let x := s.sub c
  match x.out with
  | [] => .next s
  | id :: rest =>
    match x.queue.find? (fun q => q.id = id) with
    | none => .next (s.setSub c { x with out := rest })
    | some q =>
      let s0 := s.setSub c { x with out := rest }
      let p := q.req.addr / 32 * 32
      let pl := s.place q.req.addr
      let (r, s1) := s0.decodeRead p q.req.src (q.sample.getD (s0.sampleAt p)) errs
      match q.req.kind with
      | .write off d psn =>
        let new := r.data.take off ++ d ++ r.data.drop (off + d.length)
        let y := s1.sub c
        .next (s1.setSub c { y with queue := y.queue.map fun o =>
          if o.id = id then { o with stage := 2, merged := new, mPoison := psn || r.poison } else o })
      | .add d => .next (s0.addGo q { d with bank := BitVec.ofNat 8 (pl.bank % 2), col := BitVec.ofNat 8 pl.col } (1000 * s.now) errs)
      | .read => .next ((s1.answer c ⟨q.req, r.data, r.poison⟩).dropReq c id)

/-- REFRESH_BOUNDARY (R65, R66): the debt of bank j rises by 1, before training not yet (notes/assumptions/67.md); a rate change in the maintenance
slot takes effect. -/
def execRefreshBoundary (c : SubId) (j : Fin 4) (s : State) : Host.Outcome State Fault Refusal :=
  let x := s.sub c
  if s.bt.phase ≤ 5 ∨ x.state = 3 ∨ x.banksOut.getLsbD j then .next s
  else
    let k := bankOf c j
    let s1 := s.setBank k { s.bankAt k with debt := (s.bankAt k).debt + 1 }
    match x.rateTo with
    | some v => if x.holder = 2 then .next ((s1.setSub c { x with x2 := v, rateTo := none }).passSlot c) else .next s1
    | none => .next s1

/-- The rate of refresh that a temperature calls for (R66): doubled above 85 °C, nominal at or below 82 °C, between them the one in force or on its way. -/
def rateFor (temp : Nat) (x2 : Bool) (pend : Option Bool) : Bool := if 85 < temp then true else if temp ≤ 82 then false else pend.getD x2

/-- TEMPERATURE_READ (R66): a change of rate is asked of the maintenance slot, or withdrawn where the reading calls for the rate in force. -/
def execTemperatureRead (c : SubId) (temp : Nat) (s : State) : Host.Outcome State Fault Refusal :=
  let x := s.sub c
  if x.state = 3 then .next s
  else
    let s1 := s.setSub c { x with dieTemp := BitVec.ofNat 8 temp }
    let v := rateFor temp x.x2 x.rateTo
    if v = x.x2 then
      if x.rateTo.isNone then .next s1 else .next ((s1.setSub c { s1.sub c with rateTo := none }).leaveSlot c 2)
    else .next ((s1.setSub c { s1.sub c with rateTo := some v }).askSlot c 2)

/-- ACCOUNTING_PERIOD (R62): a period of 4 µs begins. -/
def execAccountingPeriod (c : SubId) (s : State) : Host.Outcome State Fault Refusal :=
  let x := s.sub c
  .next (s.setSub c { x with svc1 := 0, svc2 := 0, svc3 := 0, svcAll := 0, periodStart := 1000 * s.now / 4000000 * 4000000 })

/-- Firmware asks for a retraining with a cause: 0 drift, 1 lane, 2 containment (R72, 11 Table FALT-1). -/
def State.askRetrain (s : State) (c cause : Nat) : State :=
  let s1 := s.askSlot c 1
  s1.setSub c { s1.sub c with retrainCause := cause }

/-- DRIFT_TRACKING (R48, Table STAK-1): drift past the limit makes firmware request a retraining. -/
def execDriftTracking (c : SubId) (drifted : Bool) (s : State) : Host.Outcome State Fault Refusal :=
  let x := s.sub c
  if x.state ≠ 1 then .next s
  else
    let s1 := s.setSub c { x with drifted := drifted }
    .next (if drifted then s1.askRetrain c 0 else s1)

/-- Whether a window runs on one of the sub-channel's two pairs. -/
def State.windowRuns (s : State) (c : Nat) : Bool := (s.unitAt (2 * c)).inWindow || (s.unitAt (2 * c + 1)).inWindow

/-- RETRAINING_START (R71, R72): the slot is the retraining's and no window runs: the sub-channel closes. -/
def execRetrainingStart (c : SubId) (s : State) : Host.Outcome State Fault Refusal :=
  let x := s.sub c
  if x.holder = 1 ∧ (x.state = 1 ∨ x.state = 4) ∧ s.windowRuns c = false then
    .next ((s.setSub c { x with state := 2 }).log 0x0104 (domOf .sub c) (n64 x.retrainCause))
  else .next s

/-- The sub-channel opens: a count period begins with its next read (R59), the activation grid counts from here (03 R98), and the slot passes on. -/
def State.reopen (s : State) (c : Nat) : State :=
  (s.setSub c { s.sub c with state := 1, reads := 0, impl := List.replicate 12 0, trainFails := 0, drifted := false,
                              grid := 1000 * s.now }).passSlot c

/-- A sub-channel is gone: its requests are gone with it, its maintenance stops, and its controller's own INIT jobs end (R78). -/
def State.subGone (s : State) (c : Nat) : State :=
  let x := s.sub c
  if x.state = 3 then s
  else
    let s1 := [2 * c, 2 * c + 1].foldl (fun s u =>
      let y := s.unitAt u
      if y.holds then s else s.setUnit u { y with jobs := y.jobs.filter fun j => !j.init }) s
    x.inits.foldl (fun s j => s.initDone j.cmd)
      (s1.setSub c { x with state := 3, queue := [], stalled := [], out := [], waiting := [], holder := 0, inits := [], scrub := none })

/-- A sub-channel leaves service: as R78, and OUT_OF_SERVICE is logged. -/
def State.mapOutSub (s : State) (c : Nat) : State :=
  if (s.sub c).state = 3 then s else (s.subGone c).outOfService (domOf .sub c)

/-- RETRAINING_END (R72, R73): a marked lane is switched to a free spare in the quiet period after the training; a training that fails runs
again once, and a second failure maps the sub-channel out (14 R386; notes/assumptions/35.md). -/
def execRetrainingEnd (c : SubId) (ok : Bool) (s : State) : Host.Outcome State Fault Refusal :=
  let x := s.sub c
  if x.state ≠ 2 ∨ x.holder ≠ 1 then .next s
  else if ok = false then
    if x.trainFails = 0 then .next (s.setSub c { x with trainFails := 1 }) else .next (s.mapOutSub c).settle
  else if x.erased.isSome ∧ x.spareFailed = false then .next (s.setSub c { x with holder := 3 })
  else .next (s.reopen c).settle

/-- SPARE_VERIFY_END (R73): the spare carries the marked lane and the erasure clears; where the new mapping does not verify, the lane stays erased
(notes/assumptions/53.md). -/
def execSpareVerifyEnd (c : SubId) (ok : Bool) (s : State) : Host.Outcome State Fault Refusal :=
  let x := s.sub c
  if x.state ≠ 2 ∨ x.holder ≠ 3 then .next s
  else if ok then .next ((s.setSub c { x with spare := x.erased, erased := none }).reopen c).settle
  else .next (s.reopen c).settle

/-! #### Scrub and the maintenance slot (R71, R74, R75) -/

/-- The first instant from `now` on at which scrub's next command may be legal. -/
def State.scrubTime (s : State) (c now : Nat) : Nat :=
  match (s.sub c).scrub with
  | none => now
  | some k =>
    let b := s.bankAt k.bank
    if b.openRow = some k.row then (if k.shut then b.preTime now else s.colTime k.bank k.fix.isNone now)
    else if b.openRow.isSome then b.preTime now else s.actTime k.bank now

/-- Issues scrub's commands one after the other, each at its earliest legal instant, while the controller's arbitration picks them: on a sub-channel with
no other work the whole row, at most 130 commands (R74). What another class's work keeps back, COMMAND_ISSUE issues later. -/
def State.scrubRun (s : State) (c : Nat) : Nat → Nat → State
  | 0, _ => s
  | n + 1, now =>
    let t := s.scrubTime c now
    match s.pick c t with
    | .scrub cmd => State.scrubRun (s.scrubDo c cmd t) c n t
    | _ => s

/-- SCRUB_ROW (R71, R74): scrub takes the slot for the row of its cursor and reads it codeword by codeword; a row that an initialise wrote since the pass began, or of a bank that is mapped out, is skipped (R75, R78). -/
def execScrubRow (c : SubId) (run : ScrubRun) (s : State) : Host.Outcome State Fault Refusal :=
  let s0 := if (s.sub c).state = 3 then s else s.askSlot c 4
  let x := s0.sub c
  let j := curBank x.scrubCur
  let b := bankOf c j
  if x.state ≠ 1 ∨ x.holder ≠ 4 then .next s0
  else if x.scrub.isSome then .next (s0.scrubRun c 200 run.now)
  else if x.banksOut.getLsbD j ∨ x.isClean b (curRow x.scrubCur) then .next (s0.scrubNext c)
  else
    let s1 := s0.setSub c { x with scrub := some ⟨x.nextId, b, curRow x.scrubCur, run.errs, none, false⟩, nextId := x.nextId + 1 }
    .next (s1.scrubRun c 200 run.now)

/-- Whether the slot's holder is at its cursor: scrub between codewords, initialise with no INIT window open (R71, R99). -/
def State.atCursor (s : State) (c : Nat) : Bool :=
  let x := s.sub c
  (x.holder = 4 && x.scrub.all fun k => k.fix.isNone) ||
    (x.holder = 5 && [2 * c, 2 * c + 1].all fun u => !((s.unitAt u).inWindow && (s.unitAt u).jobs.head?.any (·.init)))

/-- MAINT_PREEMPT (R71): a waiting activity of higher precedence takes the slot at the cursor of scrub or initialise, with MAINT_PAUSE. -/
def execMaintPreempt (c : SubId) (s : State) : Host.Outcome State Fault Refusal :=
  let x := s.sub c
  match x.waiting with
  | a :: r =>
    if s.atCursor c ∧ a < x.holder then
      let h := x.holder
      let s1 := s.maintPause c h (x.cursor h) a
      let resumed := a = 4 ∧ x.scrubPaused
      let s2 := s1.setSub c { x with holder := a, waiting := setIns h r, scrubPaused := h = 4 || (a ≠ 4 && x.scrubPaused),
                                     initPaused := h = 5 || x.initPaused }
      .next (if resumed then s2.maintResume c a (x.cursor a) else s2)
    else .next s
  | [] => .next s

/-- Fills rows of a bank with a 32-byte pattern and matching check symbols (R75). -/
def Dram.fillRows (d : Dram) (bank row n : Nat) (pattern : List Byte) : Dram :=
  (List.range n).foldl (fun d i =>
    (List.range 64).foldl (fun d col => d.writeCw (cwIdx bank (row + i) col) pattern false) d) d

/-- MAINT_SLOT_RELEASE (R71): scrub has finished its row, or initialise its ranges, and the slot passes on. -/
def execMaintSlotRelease (c : SubId) (s : State) : Host.Outcome State Fault Refusal :=
  let s1 := s.initAdvance c
  let x := s1.sub c
  if x.holder = 4 ∧ x.scrub.isNone then .next (s1.passSlot c)
  else if x.holder = 5 ∧ x.inits = [] then .next ((s1.setSub c { x with initCur := 0 }).passSlot c)
  else .next s1

end Sys2Proof.Machine
end

