-- ==== Sys2Proof/Machine/Maint.lean ====
section
/-! DEFINITION. Units of hardware leaving service (02 R78 to R80; 11 R324) and the maintenance, diagnostic and kernel commands (12 Table HOST-9,
0x0801 to 0x0A03). -/
namespace Sys2Proof.Machine

open Sys2Proof

/-! #### Leaving service -/

/-- What a controller holds for bank b goes: its requests, scrub's row, the bursts of an initialise (R78). -/
def State.bankDrop (s : State) (b : Nat) : State :=
  let c := subOfBank b
  let x := s.sub c
  let mine (r : Req) : Bool := (s.place r.addr).bank = b
  let gone := (x.queue.filter fun q => mine q.req).map (·.id)
  (s.setSub c { x with queue := x.queue.filter (fun q => !mine q.req), stalled := x.stalled.filter (fun r => !mine r), out := x.out.filter fun i => !gone.contains i,
                       scrub := x.scrub.filter (fun k => k.bank ≠ b), inits := x.inits.map fun j => { j with bursts := j.bursts.filter (· ≠ b) } }).setBank b
    { s.bankAt b with openRow := none, hold := .none }

/-- The jobs of the pair that bank b belongs to cannot run: those not begun are refused with OFFLINE, the one that holds the unit ends with UNIT_HW
(notes/assumptions/116.md). -/
def State.pairStop (s : State) (b : Nat) : State :=
  let u := unitOfBank b
  let x := s.unitAt u
  let rest := if x.holds then x.jobs.drop 1 else x.jobs
  let s1 := rest.foldl (fun s j => s.endJob u j true 2 8 false) s
  let y := s1.unitAt u
  s1.setUnit u { y with jobs := y.jobs.take (y.jobs.length - rest.length), state := if x.holds then 5 else y.state, fault := if x.holds then 4 else y.fault,
                        cmd := 0, rewrote := false }

/-- A bank is mapped out (R78). -/
def State.bankOut (s : State) (b : Nat) : State :=
  let x := s.sub (subOfBank b)
  if x.banksOut.getLsbD (b % 4) then s
  else (((s.setSub (subOfBank b) { x with banksOut := x.banksOut ||| (1#4 <<< (b % 4)) }).pairStop b).bankDrop b).outOfService (domOf .bank b)

/-- What a die takes with it: its four sub-channels and its eight units (R78). -/
def State.dieGone (s : State) (d : Nat) : State :=
  let s1 := (List.range 4).foldl (fun s i => s.subGone (4 * d + i)) s
  (List.range 8).foldl (fun s i => s.unitGone (8 * d + i)) s1

def State.dieOut (s : State) (d : Nat) : State :=
  if s.fl.out.contains (domOf .die d) then s else (s.dieGone d).outOfService (domOf .die d)

/-- A stack leaves service with all its sub-channels (11 R324). -/
def State.stackOut (s : State) (k : Nat) : State :=
  if s.fl.out.contains (domOf .stack k) then s
  else
    let s1 := (List.range 16).foldl (fun s i => s.dieGone (16 * k + i)) s
    (s1.setStack k { s1.stackAt k with inService := false }).outOfService (domOf .stack k)

/-- An array leaves service, once. -/
def State.arrOut (s : State) (a : Nat) : State := if (s.arrAt a).oos then s else arrayOut s a

/-! #### Maintenance (02 R71 to R75) -/

/-- MAINT_RETRAIN (0x0801, R72): the retraining is asked for; its cause as the record gives it has no code and is free. -/
def execMaintRetrain (h : CmdHdr) (c : W16) (s : State) : Host.Outcome State Fault Refusal :=
  .next (s.onCmd h 0x0801 [c.toNat] fun s =>
    if 1024 ≤ c.toNat then s.finish h stFormat
    else if (s.sub c.toNat).state = 3 then s.finish h stOffline
    else ((s.askRetrain c.toNat (s.freeNow 64).toNat).useFree 1).finish h stDone)

/-- MAINT_SCRUB (0x0802, R74): as a write of SCRUB_CTRL hours (15 R414); a fixed period is in force at once. -/
def State.setScrubHours (s : State) (k hours : Nat) : State :=
  let x := s.stackAt k
  s.setStack k { x with hours := hours, period := if hours = 0 then x.period else hours }

def execMaintScrub (h : CmdHdr) (stack hours : Byte) (s : State) : Host.Outcome State Fault Refusal :=
  .next (s.onCmd h 0x0802 [stack.toNat, hours.toNat] fun s =>
    if 16 ≤ stack.toNat ∨ 168 < hours.toNat then s.finish h stFormat
    else (s.setScrubHours stack.toNat hours.toNat).finish h stDone)

/-- The alignment of one part of a range in the layout of its segment (R75). -/
def State.initAligned (s : State) (q : Nat × Nat) : Bool :=
  let unit := if s.segBank (q.1 / 2 ^ 34) (q.1 / 2 ^ 26 % 256) then 4096 else 131072
  q.1 % unit = 0 && q.2 % unit = 0

/-- The parts of a range that lie in one segment. -/
def initParts (a n : Nat) : List (Nat × Nat) := pieces 67108864 a n

/-- Adds a job to a sub-channel's initialise; it begins with the slot. -/
def State.addInit (s : State) (c : Nat) (j : InitJob) : State :=
  let x := s.sub c
  if x.state = 3 then s
  else ((s.setSub c { x with inits := x.inits ++ [j] }).askSlot c 5).beginInit c

/-- The jobs of one part: pair-rows of the pairs it covers, or rows of every bank of the quadrant (R75). -/
def State.initPart (s : State) (h : CmdHdr) (pat : List Byte) (q : Nat × Nat) : State :=
  let quad := q.1 / 2 ^ 34
  let seg := q.1 / 2 ^ 26 % 256
  if s.segBank quad seg then
    (pieces 2097152 q.1 q.2).foldl (fun s p =>
      let u := 32 * quad + p.1 / 2 ^ 21 % 32
      s.addInit (u / 2) ⟨h, 512 * seg + p.1 % 2 ^ 21 / 4096, p.2 / 4096, some u, pat, false, [], [], 0, 0⟩) s
  else
    (List.range 16).foldl (fun s i => s.addInit (16 * quad + i) ⟨h, q.1 % 2 ^ 34 / 131072, q.2 / 131072, none, pat, false, [], [], 0, 0⟩) s

/-- MAINT_INIT (0x0803, R75): no pattern is given with it: the bytes are free. It completes when its last part is done. DESIGN CHOICE: a range of 0 bytes is
refused with FORMAT: it covers no whole row, and the spec names no outcome (notes/assumptions/117.md). -/
def State.maintInit (s : State) (h : CmdHdr) (a n : Nat) : State :=
  if n = 0 ∨ 2 ^ 40 < a + n ∨ !(initParts a n).all s.initAligned ∨ !(pieces 512 a n).all (fun q => s.madderOk q.1) then s.finish h stFormat
  else ((initParts a n).foldl (fun s q => s.initPart h (toBytes 32 (s.freeNow 256).toNat) q) s).useFree 1

def execMaintInit (h : CmdHdr) (addr bytes : W64) (s : State) : Host.Outcome State Fault Refusal :=
  .next (s.onCmd h 0x0803 [addr.toNat, bytes.toNat] fun s => s.maintInit h addr.toNat bytes.toNat)

/-- MAINT_MAP_OUT (0x0804, R78 to R80). -/
def execMaintMapOut (h : CmdHdr) (kind : Byte) (index : W16) (s : State) : Host.Outcome State Fault Refusal :=
  .next (s.onCmd h 0x0804 [kind.toNat, index.toNat] fun s =>
    let i := index.toNat
    match kind.toNat with
    | 0 => if i < 4096 then (s.bankOut i).finish h stDone else s.finish h stFormat
    | 1 => if i < 1024 then (s.mapOutSub i).finish h stDone else s.finish h stFormat
    | 2 => if i < 256 then (s.dieOut i).finish h stDone else s.finish h stFormat
    | 3 => if i < 2048 then (s.unitOut i).finish h stDone else s.finish h stFormat
    | 4 => if i < 128 then (s.arrOut i).finish h stDone else s.finish h stFormat
    | _ => s.finish h stFormat)

/-! #### DIAGNOSTIC (05 R167) -/

/-- Every slot entry and weight register of a tile's arrays set to 0. -/
def State.zeroArrays (s : State) (t : Nat) : State :=
  [2 * t, 2 * t + 1].foldl (fun s a =>
    let x := s.arrAt a
    s.setArr a { x with slots := tmap slotD (fun _ k => { k with entries := [] }) x.slots,
                        wregs := x.wregs.map fun w => { w with codes := w.codes.map fun _ => 0, recs := w.recs.map fun _ => 0, poison := false } }) s

/-- DIAG_ENTER (0x0901): the request stands until DIAGNOSTIC_ENTRY. -/
def execDiagEnter (h : CmdHdr) (t : Byte) (s : State) : Host.Outcome State Fault Refusal :=
  .next (s.onCmd h 0x0901 [t.toNat] fun s =>
    let x := s.tileAt t.toNat
    if 64 ≤ t.toNat then s.finish h stFormat
    else if x.state = 3 then s.finish h stDone
    else if x.state = 2 then s.setTile t.toNat { x with diagReq := x.diagReq ++ [h] }
    else s.finish h stOffline)

/-- DIAGNOSTIC_ENTRY: once every job queued on the tile's arrays has completed. -/
def execDiagnosticEntry (t : TileId) (s : State) : Host.Outcome State Fault Refusal :=
  let x := s.tileAt t
  if x.state = 2 ∧ !x.diagReq.isEmpty ∧ (s.arrAt (2 * t)).jobs.isEmpty ∧ (s.arrAt (2 * t + 1)).jobs.isEmpty then
    .next (((s.setTile t { x with state := 3, diagReq := [] }).zeroArrays t).finishAll x.diagReq stDone)
  else .next s

/-- DIAG_EXIT (0x0902): the halt fields clear (15 R420). -/
def execDiagExit (h : CmdHdr) (t : Byte) (s : State) : Host.Outcome State Fault Refusal :=
  .next (s.onCmd h 0x0902 [t.toNat] fun s =>
    let x := s.tileAt t.toNat
    if 64 ≤ t.toNat then s.finish h stFormat
    else if x.state ≠ 3 then s.finish h stState
    else
      let s1 := (s.setTile t.toNat { x with state := 2, haltA := false, haltB := false }).zeroArrays t.toNat
      let s2 := [2 * t.toNat, 2 * t.toNat + 1].foldl (fun s a => s.setArr a { s.arrAt a with halted := false, due := false }) s1
      s2.finish h stDone)

/-! #### The traffic generator (14 R388, R390; 15 Table REGS-23) -/

/-- Rows of a bank that a pattern writes: one per row-address bit, or every row; one row with the quick self-test (Table BOOT-5, R389). -/
def tgRows (pattern : Nat) (quick : Bool) : List Nat :=
  if pattern < 2 then [] else if pattern < 4 then (List.range 17).map (2 ^ ·) else if quick then [0] else List.range 131072

/-- Clears the rows that a run wrote in the banks in service of sub-channel c (R390). -/
def State.tgClear (s : State) (c : Nat) (rows : List Nat) : State :=
  let bs := ((List.range 4).filter fun j => !(s.sub c).banksOut.getLsbD j).map (bankOf c)
  { s with dr := rows.foldl (fun d r => bs.foldl (fun d b => d.fillRows b r 1 (List.replicate 32 0)) d) s.dr }

/-- Whether a run passed: no bit error, no error of a codeword. -/
def tgPassed (r : TrafficResult) : Bool := r.lanes.all (· = 0) && r.banks.all fun b => b.1 = 0 && b.2 = 0

/-- The registers after a run: lanes count for patterns 0 and 1, banks for the others. -/
def SubCh.tgRun (x : SubCh) (pattern : Nat) (diag quick : Bool) (dur : W32) (r : TrafficResult) : SubCh :=
  { x with tgPattern := pattern, tgSource := diag, tgRunning := false, tgQuick := quick, tgDuration := dur,
           tgLanes := if pattern < 2 then (padTo 0 13 r.lanes).map (min 15) else [],
           tgBanks := if pattern < 2 then [] else (padTo (0, 0) 4 r.banks).map fun b => (min 255 b.1, min 255 b.2),
           tgResult := if tgPassed r then 1 else 2 }

/-- Whether a page of the quadrant is mapped, or lent (R390). -/
def State.quadBusy (s : State) (q : Nat) : Bool :=
  s.pages.any (fun e => pePresent e.2 && !peWeld e.2 && pePpn e.2 / quadPages = q) ||
    s.cw.lent.any fun l => l.pages.any fun p => p / quadPages = q

/-- The error counts: 13 lanes as u32, 4 × (u32 corrected, u32 uncorrectable) (notes/assumptions/26.md). -/
def tgReport (pattern : Nat) (r : TrafficResult) : List Byte :=
  ((if pattern < 2 then padTo 0 13 r.lanes else List.replicate 13 0).flatMap (toBytes 4)) ++
    (if pattern < 2 then List.replicate 4 (0, 0) else padTo (0, 0) 4 r.banks).flatMap fun b => toBytes 4 b.1 ++ toBytes 4 b.2

/-- DIAG_TRAFFIC (0x0903). -/
def execDiagTraffic (h : CmdHdr) (c : W16) (pattern : Byte) (duration : W32) (res : TrafficResult) (s : State) :
    Host.Outcome State Fault Refusal :=
  .next (s.onCmd h 0x0903 [c.toNat, pattern.toNat, duration.toNat] fun s =>
    let i := c.toNat
    let p := pattern.toNat
    if 1024 ≤ i ∨ 4 < p then s.finish h stFormat
    else if (s.sub i).state = 3 then s.finish h stOffline
    else if 2 ≤ p ∧ s.quadBusy (i / 16) then s.finish h stState
    else
      let dur : W32 := if p < 2 then duration else 0
      ((s.setSub i ((s.sub i).tgRun p true false dur res)).tgClear i (tgRows p false)).finishOut h (tgReport p res))

/-! #### Kernels and micro-programs (14 R380; 03 R90, R92) -/

/-- KERNEL_LOAD (0x0A01): the lowest free kernel number. A port that is down cannot read the kernel: LINK. -/
def execKernelLoad (h : CmdHdr) (addr : W64) (bytes : W32) (port : Byte) (sigOk : Bool) (s : State) : Host.Outcome State Fault Refusal :=
  .next (s.onCmd h 0x0A01 [addr.toNat, bytes.toNat, port.toNat] fun s =>
    if 1 < port.toNat then s.finish h stFormat
    else if !(s.port (portOf port.toNat)).up then s.finish h stLink
    else if !sigOk then s.finish h stCheck
    else
      let n := lowestFree (fun n => !s.sv.kernels.contains (n32 n)) s.sv.kernels.length 0
      ({ s with sv := { s.sv with kernels := s.sv.kernels ++ [n32 n] } }).finish h stDone (n64 n))

/-- KERNEL_UNLOAD (0x0A02). -/
def execKernelUnload (h : CmdHdr) (k : W32) (s : State) : Host.Outcome State Fault Refusal :=
  .next (s.onCmd h 0x0A02 [k.toNat] fun s =>
    if !s.sv.kernels.contains k then s.finish h stState
    else if s.th.thr.any fun q => q.2.st ≠ .free && q.2.kernel = k then s.finish h stInUse
    else ({ s with sv := { s.sv with kernels := s.sv.kernels.filter (· ≠ k) } }).finish h stDone)

/-- A unit's store with a program at `entry`, and the lengths of the segments that start in it (R90). -/
def BUnit.loadProg (u : BUnit) (entry : Nat) (words : List W64) : BUnit :=
  let prog := progOf entry words
  { u with store := (List.range words.length).foldl (fun t i => tput storeD t (entry + i) (words.getD i 0)) u.store,
           segLen := (segStarts prog entry (reachN prog words.length [entry])).foldl (fun t i => tput (fun _ => 244) t i (segLength entry words i)) u.segLen }

/-- UPROG_LOAD (0x0A03): into every unit in service, each between jobs: the command waits while one of them holds a job. Only tenant 0
loads micro-programs (R92). -/
def execUprogLoad (h : CmdHdr) (entry : W16) (words : List W64) (alley : Bool) (s : State) : Host.Outcome State Fault Refusal :=
  if s.unit.any fun u => !u.2.oos && u.2.holds then .next s
  else
    .next (s.onCmd h 0x0A03 [entry.toNat, words.length] fun s =>
      if h.tenant ≠ 0 then s.finish h stDomain
      else if entry.toNat < 384 ∨ 512 ≤ entry.toNat ∨ !loaderOk entry.toNat words alley then s.finish h stFormat
      else
        let load (s : State) (u : Nat) : State :=
          let x := s.unitAt u
          if x.oos then s else s.setUnit u (x.loadProg entry.toNat words)
        ((List.range 2048).foldl load s).finish h stDone)

end Sys2Proof.Machine
end

