-- ==== Sys2Proof/Machine/ThreadEvent.lean ====
section
/-! DEFINITION. What happens to threads from outside their program (06 R169 to R174; 07 R214, R220, R222): launch, release, memory responses,
wakes, reports of counters, the end of EXIT. -/
namespace Sys2Proof.Machine

open Sys2Proof

/-- Whether a tile runs threads: in service or DIAGNOSTIC (15 Table REGS-26). -/
def State.tileRuns (s : State) (t : Nat) : Bool := (s.tileAt t).state = 2 || (s.tileAt t).state = 3

/-- The registers of a launch record: g1 to g8 (R170). -/
def launchRegs (x : Thr) (g : List W64) : Thr :=
  (List.range 8).foldl (fun x i => x.wr (BitVec.ofNat 5 (i + 1)) (g.getD i 0)) x

/-- THREAD_LAUNCH (R170): a FREE thread takes a launch record. SERVICE is set only for threads of domain 0 that run a kernel of the provider's signed set. -/
def execThreadLaunch (t : ThrId) (rec : LaunchRec) (s : State) : Host.Outcome State Fault Refusal :=
  let x := s.thrAt t
  let y : Thr :=
    { thrInit with
      life := x.life, st := .ready, pc := rec.entry, domain := rec.domain, service := rec.service, kernel := rec.kernel
      keys := rec.keys.take 4, exitCtr := rec.exitCtr.val, group := rec.group.map (·.val), outs := x.outs }
  if x.st = .free ∧ s.tileRuns (thrTile t) ∧ (rec.service → rec.domain = 0 ∧ rec.kernel ∈ s.sv.kernels) then .next (s.setThr t (launchRegs y rec.g)) else .next s

/-- An access of a thread that is gone: a load has no effect left, an atomic writes no register. -/
def Acc.orphan (a : Acc) : Option Acc :=
  match a.op with
  | .load .. => none
  | .store _ => some a
  | .atom o v _ => some { a with op := .atom o v none }
  | .cas e n _ => some { a with op := .cas e n none }

/-- The thread becomes FREE: a cancellation of its watches leaves the tile (07 R222); accesses not yet performed stay under way. -/
def State.freeThread (s : State) (t : ThrId) : State :=
  let x := s.thrAt t
  (s.setThr t { thrInit with life := x.life + 1, outs := x.outs.filterMap Acc.orphan }).sendOp (.cancel (.thread t x.life))

/-- THREAD_RELEASE (R169): the control core releases a FAULTED thread. -/
def execThreadRelease (t : ThrId) (s : State) : Host.Outcome State Fault Refusal :=
  if (s.thrAt t).st = .faulted then .next (s.freeThread t) else .next s

/-- The request of an access has come to its home over the streets. -/
def State.arrive (s : State) (a : Acc) : State := a.msg.elim s fun id => s.carryMsg id

/-- The answer goes back from the home of an access over the streets (01 R22). -/
def State.respond (s : State) (t : Nat) (a : Acc) : State := if a.msg.isSome then s.travel (s.accHome a.pa) (thrTile t) 0 else s

/-- An access of a thread is done: its register is written; a poisoned load, atomic or CAS faults the thread (R181). -/
def State.accDone (s : State) (t : Nat) (k : Nat) (a : Acc) (data : List Byte) (poison : Bool) : State :=
  let x := s.thrAt t
  let y := { x with outs := dropAt x.outs k }
  let s1 := s.respond t a
  if poison then
    let s2 := s1.setThr t y
    if x.st = .free ∨ x.st = .faulted then s2 else s2.thrFaultAt t fPoison a.pc a.va.toNat
  else s1.setThr t ((y.receive a data).settle t)

/-- MEMORY_RESPONSE (R171, R195 to R197): the k-th outstanding access is performed where the order allows it and nothing keeps it waiting; of a 64-byte access
perhaps one 8-byte part, and the access is done with its last part. -/
def execMemoryResponse (t : ThrId) (k : Nat) (ans : MemAns) (s : State) : Host.Outcome State Fault Refusal :=
  let x := s.thrAt t
  match x.outs[k]? with
  | none => .next s
  | some a =>
    if x.mayPerform k && s.accReady a then
      let s1 := s.arrive a
      match (if a.size = 64 then ans.part else none), a.parts.isEmpty with
      | none, true =>
        let p := s1.perform a ans.errs
        .next (p.s.accDone t k a p.data p.poison)
      | part, _ =>
        let todo := (part.map (·.val)).getD (((List.range 8).find? fun i => (a.parts.lookup i).isNone).getD 0)
        if (a.parts.lookup todo).isSome then .next s
        else
          let p := s1.perform (a.piece todo) ans.errs
          let b := { a with parts := (todo, p.data) :: a.parts }
          if p.poison then .next (p.s.accDone t k a [] true)
          else if b.parts.length = 8 then .next (p.s.accDone t k a b.gathered false)
          else .next (p.s.setThr t { x with outs := x.outs.set k b })
    else .next s

/-- WAKE (07 R220, R222): a wake message reaches its thread, the wakes of one thread in firing order; it is discarded where the program that registered the watch
is gone. -/
def execWake (m : WakeMsg) (s : State) : Host.Outcome State Fault Refusal :=
  match m.target with
  | .thread t =>
    if s.sy.wakes.find? (fun q => q.target = m.target) ≠ some m then .next s
    else
      let s1 : State := { s with sy := { s.sy with wakes := s.sy.wakes.erase m } }
      let x := s1.thrAt t
      if x.st = .free ∨ m.owner ≠ .thread t x.life then
        .next (s1.log 0x0207 (domOf .tile (m.ctr.val / 4096)) (n64 m.ctr.val) (m.consumed.setWidth 64))
      else .next (s1.setThr t { x with fired := x.fired ++ [m.ctr.val], st := if x.st = .waiting then .ready else x.st })
  | _ => .next s

/-- SYNC_ERROR_REPORT (07 R214): the thread whose SIGNAL failed is FAULTED with that SIGNAL's pc, unless its program has ended. -/
def execSyncErrorReport (m : SyncErr) (s : State) : Host.Outcome State Fault Refusal :=
  let s1 : State := { s with sy := { s.sy with errs := s.sy.errs.erase m } }
  let x := s1.thrAt m.thr
  if x.st = .free ∨ x.st = .faulted ∨ x.life ≠ m.life then .next s1
  else .next (s1.thrFaultAt m.thr (if m.ovr then fSyncOver else fSyncUnder) m.pc 0)

/-- THREAD_EXIT_COMPLETE (R174): every earlier access is performed; the thread becomes FREE and its exit counter is signalled by 1. -/
def execThreadExitComplete (t : ThrId) (s : State) : Host.Outcome State Fault Refusal :=
  let x := s.thrAt t
  if x.st = .blocked ∧ x.blk = .exit ∧ x.outs = [] then .next ((s.freeThread t).sendSignal ⟨ctrId x.exitCtr, 1, .exit t⟩)
  else .next s

end Sys2Proof.Machine
end

