-- ==== Sys2Proof/Machine/Damage.lean ====
section
/-! DEFINITION. Damaged data by owner (11 R315 to R317, Table FALT-4): quarantine and rebuild, units read again, ended sessions; the abort and the
replay of step-groups (11 R312, R313). -/
namespace Sys2Proof.Machine

open Sys2Proof

/-! #### Step-groups (R312, R313) -/

/-- TIME of the record `seq` where the backlog still holds it. -/
def State.seqTime (s : State) (seq : W32) : W64 := ((s.fl.backlog.find? fun e => e.seq = seq).map (·.time)).getD s.time

/-- Every member left ends with ERROR_FAULT, SESSION_FAULT logged for each. -/
def State.faultAll (s : State) (ks : List Nat) (cause : W32) : State := ks.foldl (fun s k => s.sessionFault k cause) s

/-- The group's DMA chains are aborted (R312 step 2). -/
def State.stopChains (s : State) (m : Nat) : State :=
  (s.modelAt m).stageTiles.foldl (fun s t => s.abortChan (s.stageChan m t)) s

/-- Bank jobs of an aborted attempt: those not begun leave their queues, a suspended one is aborted; one in a window follows at its yield point or window end. -/
def State.abortJobs (s : State) (m : Nat) : State :=
  (s.unit.filter fun q => q.2.jobs.any fun j => j.group == some m).foldl (fun s q =>
    let x := s.unitAt q.1
    let held := if x.holds then x.jobs.take 1 else []
    let rest := (if x.holds then x.jobs.drop 1 else x.jobs).filter fun j => j.group != some m
    let s1 := s.setUnit q.1 { x with jobs := held ++ rest }
    if x.holds && !x.inWindow && held.any (fun j => j.group == some m) then s1.abortUnit q.1 (x.tag + 1) else s1) s

/-- Step 2 of R312: the group's DMA chains and bank jobs are aborted and its threads released; its array jobs run on. -/
def State.stopWork (s : State) (m : Nat) : State :=
  let s1 := s.stopChains m
  let s2 := (s1.dm.chan.filter fun q => q.2.group == some m).foldl (fun s q => s.abortChan q.1) s1
  let s3 := s2.abortJobs m
  (s3.th.thr.filter fun q => q.2.st ≠ .free && q.2.group == some m).foldl (fun s q => s.freeThread (thrId q.1)) s3

/-- Whether an engine or a thread of the group's aborted attempt has not stopped (07 R226). -/
def State.workLeft (s : State) (m : Nat) : Bool :=
  s.th.thr.any (fun q => q.2.st ≠ .free && q.2.group == some m) || s.arr.any (fun q => q.2.jobs.any fun j => j.group == some m) ||
    s.unit.any (fun q => q.2.jobs.any fun j => j.group == some m) || s.dm.chan.any fun q => q.2.group == some m && (q.2.state = 1 || q.2.state = 2)

/-- An attempt is aborted: the group waits for its replay, its work is stopped; after the fifth its members end (R313). A group that already waits keeps its
attempts. -/
def State.abortGroup (s : State) (m : Nat) (cause : W32) : State :=
  let x := s.modelAt m
  match x.group with
  | none => s
  | some g =>
    if g.replay then s.setModel m { x with group := some { g with cause := cause } }
    else if 5 ≤ g.attempts + 1 then s.faultAll (g.members.map (·.slot)) cause
    else (s.setModel m { x with group := some { g with replay := true, layer := 0, attempts := g.attempts + 1, abortAt := s.seqTime cause, cause := cause, calm := none } }).stopWork m

def State.abortAll (s : State) (ms : List Nat) (cause : W32) : State := ms.foldl (fun s m => s.abortGroup m cause) s

/-! #### The group's counters (07 R226) -/

/-- start(L) and staged(L) of every layer on every home tile. -/
def State.groupCounters (s : State) (m : Nat) : List Nat :=
  let x := s.modelAt m
  x.homeTiles.flatMap fun t => (List.range x.layers).flatMap fun l =>
    [4096 * s.runTile (s.modelAt m) t + Config.startCounter m t l % 4096, 4096 * s.runTile (s.modelAt m) t + Config.stagedCounter m t l % 4096]

/-- Sets the service mode of the blocks that hold counters. -/
def State.setStrict (s : State) (cs : List Nat) (strict : Bool) : State :=
  cs.foldl (fun s c =>
    let x := s.tileAt (c / 4096)
    let b : W16 := 1 <<< (c % 4096 / 256)
    s.setTile (c / 4096) { x with strict := if strict then x.strict ||| b else x.strict &&& ~~~b }) s

/-- Cancels every watch on counters, those still on their way included. -/
def State.cancelOn (s : State) (cs : List Nat) : State :=
  let keep (w : WatchReq) : Bool := !cs.contains w.ctr.val
  { s with sy := { s.sy with armed := s.sy.armed.filter keep, queued := s.sy.queued.filter keep, ops := s.sy.ops.filter fun o => match o.op with
    | .reg r => keep r
    | _ => true } }

/-- A counter's count and status bits are 0; its mode stays. -/
def State.zeroCtr (s : State) (c : Nat) : State := s.setCtr c { s.ctrAt c with count := 0, coalesced := false, under := false, ovr := false }

/-- Whether a signal to one of the counters is on its way, or an engine that has not stopped will send one. -/
def State.signalsDue (s : State) (cs : List Nat) : Bool :=
  s.sy.sigs.any (fun g => cs.contains g.ctr.val) || s.arr.any (fun q => q.2.jobs.any fun j => cs.contains (jCounter j.desc)) ||
    s.unit.any (fun q => q.2.jobs.any fun j => !j.init && cs.contains (leAt j.desc 48 4)) || s.th.copies.any (fun c => cs.contains c.ctr) ||
    s.dm.chan.any fun q => (q.2.state = 1 || q.2.state = 2) && bitAt (dmFlags q.2.desc) 0 && cs.contains (dmCounter q.2.desc)

/-- Arrays of the model's home tiles that a parity error stopped start jobs again (05 R166). -/
def State.restartArrays (s : State) (m : Nat) : State :=
  (s.modelAt m).homeTiles.foldl (fun s t => [2 * t, 2 * t + 1].foldl (fun s a =>
    if (s.arrAt a).stopped then s.setArr a { s.arrAt a with stopped := false } else s) s) s

/-- The replay's first operation: REPLAY is logged with the attempt that starts and the stall, pieces whose unit has left service change side (09 R282), layers
0 to d − 1 are staged again, layer 0 starts (R312). -/
def State.replayNow (s : State) (m : Nat) (g : Group) : State :=
  let x := s.modelAt m
  let s1 := s.log 0x0601 (domOf .square x.lead) (n64 (g.attempts + 1)) (g.cause.setWidth 64) (s.time - g.abortAt) 0
    { model := BitVec.ofNat 16 m, step := x.stepNo }
  let s2 := s1.restartArrays m
  let g1 := { g with replay := false, calm := none, pieces := g.pieces.map s2.resided }
  (((s2.setModel m { s2.modelAt m with group := some g1 }).stageStart m).startLayer m 0).settle

/-- REPLAY_START (R312; 07 R226): the group's counters are LENIENT and without watches until nothing can signal them, and for 40 ns more; then they are 0 and STRICT
and the replay starts. -/
def execReplayStart (m : ModelId) (s : State) : Host.Outcome State Fault Refusal :=
  let x := s.modelAt m
  match x.group with
  | none => .next s
  | some g =>
    if !g.replay ∨ !s.md.running then .next s
    else
      let cs := s.groupCounters m
      let s1 := (s.setStrict cs false).cancelOn cs
      let calm := if s1.signalsDue cs || s1.workLeft m then none else some (g.calm.getD s.time)
      if calm.any fun t => t.toNat + 40 ≤ s.now then .next (((cs.foldl State.zeroCtr s1).setStrict cs true).replayNow m g)
      else .next (s1.setModel m { x with group := some { g with calm := calm } })

/-! #### Units (R317) -/

/-- Places in the object's page list that unit u covers. -/
def Obj.unitPages (o : Obj) (u : Nat) : List Nat := wordsOf 65536 (u * o.unitBytes) o.unitBytes

def addAll (l new : List Nat) : List Nat := new.foldl (fun a i => setIns i a) l

/-- The damaged copy's and the good copy's pages. -/
def Obj.copyPages (o : Obj) (mirror : Bool) : List Nat := if mirror then o.mirror else o.pages

/-- Quarantine: readers switch to the other copy, QUARANTINE is logged, a rebuild begins (R317 step 1). -/
def State.quarantine (s : State) (n u : Nat) (mirror : Bool) : State :=
  let o := s.objAt n
  let o1 := { (o.setUnit u { o.unit u with quarantined := true }) with onMirror := if mirror then o.onMirror else addAll o.onMirror (o.unitPages u) }
  let sq := o.mirror.getD (u * o.unitBytes / 65536) 0 / (4 * quadPages)
  let s1 := ((s.setObj n o1).writeMaps o1).log 0x0403 domModule (n64 n) (n64 u) (n64 sq) 0 { tenant := o.owner }
  { s1 with fl := { s1.fl with rebuilds := s1.fl.rebuilds ++ [⟨n32 n, n32 u, mirror, false⟩] } }

/-- Step 4 of R317: readers return, REBUILD_DONE is logged. -/
def State.rebuildDone (s : State) (n u : Nat) (moved : Bool) : State :=
  let o := s.objAt n
  let rest := s.fl.rebuilds.filter fun r => (r.obj, r.unit) ≠ (n32 n, n32 u)
  let keep := (rest.filter fun r => r.obj = n32 n && !r.mirror).flatMap fun r => o.unitPages r.unit.toNat
  let o1 := { (o.setUnit u { o.unit u with quarantined := false }) with onMirror := o.onMirror.filter fun i => keep.contains i || !(o.unitPages u).contains i }
  let s1 := ((s.setObj n o1).writeMaps o1).log 0x0404 domModule (n64 n) (n64 u) (n64 (b2n moved)) 0 { tenant := o.owner }
  { s1 with fl := { s1.fl with rebuilds := rest } }

/-- One free page of the square, near the place of page p, for each place of a list; none where the square has too few. -/
def State.newPages (s : State) (bank : Bool) (old : List Nat) : Option (List Nat) :=
  old.foldl (fun acc p => match acc with
    | none => none
    | some ps =>
      let sq := p / (4 * quadPages)
      ((List.range 4).findSome? fun i => s.takeGranule (s.ti.used ++ ps) bank 1 (4 * sq + (p / quadPages + i) % 4)).map fun q => ps ++ [q]) (some [])

/-- Step 3 of R317: the unit's pages are rebuilt in new, cleared pages of the same squares; the failed ones are retired. -/
def State.rebuildMove (s : State) (n u : Nat) (mirror : Bool) : State :=
  let o := s.objAt n
  let idx := o.unitPages u
  let old := idx.map fun i => (o.copyPages mirror).getD i 0
  match s.newPages (fBank o.flags) old with
  | none => { s with fl := { s.fl with rebuilds := s.fl.rebuilds.map fun r => if (r.obj, r.unit) = (n32 n, n32 u) then { r with waiting := true } else r } }
  | some new =>
    let s1 : State := { s with ti := { s.ti with used := (s.ti.used.filter fun p => !old.contains p) ++ new },
                               fl := { s.fl with retired := addAll s.fl.retired old } }
    let s2 := s1.clearPages new
    let s3 := (idx.zip new).foldl (fun s q =>
      let (ps, s1) := s.readChunks .dma [(65536 * (o.copyPages !mirror).getD q.1 0, 65536)] []
      s1.writeChunks [(65536 * q.2, 65536)] ps) s2
    let pages' := (idx.zip new).foldl (fun l q => l.set q.1 q.2) (o.copyPages mirror)
    (s3.setObj n (if mirror then { o with mirror := pages' } else { o with pages := pages' })).rebuildDone n u true

/-- A session needs object n. -/
def State.needs (s : State) (x : Sess) (n : Nat) : Bool := x.live && (s.sessObjects x).contains n

/-- Slots of the sessions that need object n. -/
def State.needers (s : State) (n : Nat) : List Nat := (s.sv.sess.filter fun q => s.needs q.2 n).map (·.1)

/-- OBJECT_LOST (11 Table FALT-1). -/
def State.objectLost (s : State) (n u : Nat) : State :=
  s.log 0x0402 domModule (n64 n) (n64 u) 0 0 { tenant := (s.objAt n).owner, outside := true }

def State.markDamaged (s : State) (n u : Nat) : State :=
  let d : W32 × W32 := (n32 n, n32 u)
  if s.fl.damaged.contains d then s else { s with fl := { s.fl with damaged := s.fl.damaged ++ [d] } }

/-- A unit with no good copy in Madder (Table FALT-4): a PIN object's ends its sessions with ERROR_FAULT; a frameless one's, with ERROR_TIER; one
with a frame makes them PENDING until it is read again. -/
def State.unitGoneBad (s : State) (n u : Nat) (cause : W32) : State :=
  let o := s.objAt n
  if fPin o.flags then (s.objectLost n u).faultAll (s.needers n) cause
  else
    let s1 := s.markDamaged n u
    if 2 ≤ (o.unit u).st then (s1.objectLost n u).endAll (s1.needers n) 4
    else
      let s2 : State := if s1.fl.rebuilds.any fun r => (r.obj, r.unit) = (n32 n, n32 u) then s1
        else { s1 with fl := { s1.fl with rebuilds := s1.fl.rebuilds ++ [⟨n32 n, n32 u, false, false⟩] } }
      (s2.needers n).foldl (fun s k => s.dropMember k) s2

/-- Damage of a unit (Table FALT-4). A second copy's damage during quarantine leaves none. -/
def State.unitDamaged (s : State) (n u : Nat) (mirror : Bool) (cause : W32) : State :=
  let o := s.objAt n
  if !o.live then s
  else if !fMirror o.flags then s.unitGoneBad n u cause
  else match s.fl.rebuilds.find? fun r => (r.obj, r.unit) = (n32 n, n32 u) with
    | none => if s.fl.damaged.contains (n32 n, n32 u) then s else s.quarantine n u mirror
    | some r =>
      if !(o.unit u).quarantined ∨ r.mirror = mirror then s
      else
        let s1 : State := { s with fl := { s.fl with rebuilds := s.fl.rebuilds.filter fun r => (r.obj, r.unit) ≠ (n32 n, n32 u) } }
        (s1.setObj n (o.setUnit u { o.unit u with quarantined := false })).unitGoneBad n u cause

/-- The unit is read again from its frame into every Madder copy (Table FALT-4). -/
def State.refetched (s : State) (n u : Nat) : State :=
  let o := s.objAt n
  match s.unitImage n u with
  | some img =>
    let s1 := if o.pages.isEmpty then s else s.putImage o.pages (u * o.unitBytes) img
    (if o.mirror.isEmpty then s1 else s1.putImage o.mirror (u * o.unitBytes) img).unitMended n u
  | none => s

/-- REBUILD_COPY_DONE (R317): of a quarantined unit, the copy over the damaged one read back and checked; of a unit that waits to be read again
from its frame, the frame read, `ok` telling whether it came (notes/assumptions/52.md). -/
def execRebuildCopyDone (obj unit : W32) (ok : Bool) (s : State) : Host.Outcome State Fault Refusal :=
  let n := obj.toNat
  let u := unit.toNat
  let o := s.objAt n
  match s.fl.rebuilds.find? fun r => (r.obj, r.unit) = (obj, unit) with
  | none => .next s
  | some r =>
    if !o.live then .next s
    else if (o.unit u).quarantined then
      if r.waiting then .next s
      else if !ok then .next (s.rebuildMove n u r.mirror)
      else
        let (ps, s1) := s.getImage (o.copyPages !r.mirror) (u * o.unitBytes) o.unitBytes
        .next ((s1.putImage (o.copyPages r.mirror) (u * o.unitBytes) (bytesOf ps)).rebuildDone n u false)
    else if ok && (s.unitImage n u).isSome then .next (s.refetched n u)
    else
      let s1 : State := { s with fl := { s.fl with rebuilds := s.fl.rebuilds.filter fun r => (r.obj, r.unit) ≠ (obj, unit) } }
      .next ((s1.frameGone n u).endAll (s1.needers n) 4)

/-- REBUILD_RETRY (R317 step 3): pages have come free in the squares. -/
def execRebuildRetry (obj unit : W32) (s : State) : Host.Outcome State Fault Refusal :=
  match s.fl.rebuilds.find? fun r => (r.obj, r.unit) = (obj, unit) with
  | some r => if r.waiting then .next (s.rebuildMove obj.toNat unit.toNat r.mirror) else .next s
  | none => .next s

/-! #### Key/value history (Table FALT-4) -/

/-- Sessions whose committed history holds position `pos` of the extent that begins at page p. -/
def State.historyOf (s : State) (p pos : Nat) : List Nat :=
  (s.sv.sess.filter fun q => q.2.live && match q.2.blocks.findIdx? (·.contains p) with
    | some i => 3840 * i + pos < q.2.h
    | none => false).map (·.1)

/-- Such sessions end ERROR_FAULT: a member of a group now, another at its steward's next boundary action (R315). -/
def State.historyLost (s : State) (p pos : Nat) (cause : W32) : State :=
  (s.historyOf p pos).foldl (fun s k =>
    if (s.sessAt k).inStep then s.sessionFault k cause else s.atBoundary (.fail ((s.sessAt k).handle k) cause)) s

/-! #### What was damaged (R315) -/

/-- What an uncorrectable error damaged, as the page and unit directories say (Table FALT-4): a unit's copy, a position of an extent, a page lent to a partner, step
data in Weld, or Madder of no object. -/
inductive Damage where
  | none
  | stepData
  | unit (obj unit : Nat) (mirror : Bool)
  | history (extent pos : Nat)
  | lent
deriving DecidableEq, Repr

/-- The first token position of an extent whose entry holds byte o of the extent (03 R109): of a page's first 15 pair-rows the entries of 16 tokens each, of the last
the records of all 240. -/
def kvPosAt (o : Nat) : Option Nat :=
  let row := o % 65536 / 4096
  let b := o % 2048
  if row < 15 then some (240 * (o / 65536) + 16 * row + b / 128) else if b < 960 then some (240 * (o / 65536) + b / 4) else none

/-- The owner of the Madder byte at physical address p. -/
def State.damageAt (s : State) (p : Nat) : Damage :=
  let pg := p / 65536
  let unitIn (o : Obj) (l : List Nat) : Option Nat := (l.findIdx? (· = pg)).map fun i => (i * 65536 + p % 65536) / o.unitBytes
  match s.ti.obj.findSome? fun q => ((unitIn q.2 q.2.pages).map fun u => Damage.unit q.1 u false).orElse fun _ =>
      (unitIn q.2 q.2.mirror).map fun u => Damage.unit q.1 u true with
  | some d => d
  | none => match s.sv.refs.find? fun r => r.1 ≤ pg && pg < r.1 + 16 with
    | some r => match kvPosAt (p - 65536 * r.1) with
      | some pos => .history r.1 pos
      | none => .none
    | none => if s.cw.lent.any fun l => l.pages.contains pg then .lent else .none

/-- What the handler finds damaged (R315): of a codeword by its address, of a bank unit's row by its first codeword, of a POISON fault by its virtual address
(log 135). -/
def State.damageOf (s : State) (e : ErrRep) : Damage :=
  match e.code.toNat with
  | 0x0101 | 0x0102 =>
    if e.a0.getLsbD 63 then s.damageAt (s.addrOf (2 * bitsOf e.a0.toNat 42 32 + bitsOf e.a0.toNat 17 17) (bitsOf e.a0.toNat 16 0) 0)
    else s.damageAt e.a0.toNat
  | 0x0201 => .stepData
  | 0x0204 =>
    let en := s.pageEntry (e.a3.toNat / 65536)
    if e.a0 ≠ 7 ∨ !pePresent en then .none else if peWeld en then .stepData else s.damageAt (pePhys en e.a3.toNat)
  | _ => .none

/-- Table FALT-4 by owner: step data is restaged with its group; a lent page's reader is told by its DATA (13 R371). -/
def State.damaged (s : State) (d : Damage) (cause : W32) : State :=
  match d with
  | .unit n u mirror => s.unitDamaged n u mirror cause
  | .history p pos => s.historyLost p pos cause
  | .none => s
  | .stepData => s
  | .lent => s

end Sys2Proof.Machine
end

