-- ==== Sys2Proof/Machine/Faults.lean ====
section
/-! DEFINITION. Error reports, containment, escalation and loss of service (11 R306 to R325): tiles and their heirs, the primary and the standby,
module FAILED. -/
namespace Sys2Proof.Machine

open Sys2Proof

/-! #### Module FAILED (R310; 12 R340) -/

/-- Every command already fetched completes with ABORTED. -/
def State.abortCmds (s : State) : State :=
  (s.ho.mbox.map (·.1)).foldl (fun s n => ((s.mbox n).cmds.map (·.hdr)).foldl (fun s h => s.finish h stAborted) s) s

/-- The module enters FAILED with a reason (15 Table REGS-3): every open session ends ERROR_FAULT. -/
def State.moduleFail (s : State) (reason : Nat) (cause : W32) : State :=
  if s.md.state = 2 then s
  else
    let s1 := (s.faultAll ((s.sv.sess.filter fun q => q.2.live).map (·.1)) cause).abortCmds
    { s1 with md := { s1.md with state := 2, failReason := reason, running := false, takeover := false } }

/-! #### The primary and the standby (R320; 14 R383) -/

/-- t6, t7, … t63, t1, … t5. -/
def standbyOrder : List Nat := (List.range 58).map (· + 6) ++ [1, 2, 3, 4, 5]

/-- The standby by the rule of 14 R383 over the tiles in service. -/
def State.pickStandby (s : State) (primary : Nat) : Option Nat :=
  standbyOrder.find? fun t => s.tileUp t && t ≠ primary && t / 4 ≠ primary / 4

/-- The primary names a new standby, whose copy is not complete. -/
def State.nameStandby (s : State) : State :=
  { s with md := { s.md with standby := (s.pickStandby s.md.primary).getD s.md.primary, standbyReady := false } }

/-- The tile of the primary, or of the standby, is declared down. -/
def State.rolesDown (s : State) (t : Nat) (cause : W32) : State :=
  if s.md.state ≠ 1 then s
  else if t = s.md.primary then
    if s.md.standbyReady ∧ s.tileUp s.md.standby then { s with md := { s.md with takeover := true } } else s.moduleFail 1 cause
  else if t = s.md.standby ∧ !s.md.takeover then s.nameStandby
  else if t = s.md.standby then s.moduleFail 1 cause
  else s

/-- PRIMARY_TAKEOVER (R320): the standby is primary, a new standby is named, the record is logged. -/
def execPrimaryTakeover (s : State) : Host.Outcome State Fault Refusal :=
  if !s.md.takeover then .next s
  else
    let old := s.md.primary
    let s1 : State := { s with md := { s.md with primary := s.md.standby, takeover := false, hbFirst := true } }
    let s2 := s1.nameStandby
    .next (s2.log 0x0301 domModule (n64 old) (n64 s2.md.primary) (n64 s2.md.standby))

/-- STANDBY_READY (R320): the new standby's copy is complete. -/
def execStandbyReady (s : State) : Host.Outcome State Fault Refusal :=
  if s.tileUp s.md.standby ∧ s.md.standby ≠ s.md.primary then .next { s with md := { s.md with standbyReady := true } } else .next s

/-! #### Tiles (R318, R319; 02 R81; 07 R227) -/

/-- Threads on other tiles that wait on a counter of a failed tile, by a registration or a watch there: its containment handler releases them (07 R227). DEDUCED: a
thread that is released becomes FREE, as by THREAD_RELEASE (06 Table TILE-2; notes/assumptions/69.md). -/
def State.releaseWaiters (s : State) (t : Nat) : State :=
  let lost (w : WatchReq) : Bool := w.ctr.val / 4096 = t
  let waits (i : Nat) (x : Thr) : Bool :=
    i / 2048 ≠ t && match x.st, x.blk with
      | .waiting, _ => (s.sy.regs ++ s.sy.queued ++ s.sy.armed).any fun w => lost w && s.ownWatch i w
      | .blocked, .watch c => c / 4096 = t
      | _, _ => false
  (s.th.thr.filter fun q => waits q.1 q.2).foldl (fun s q => s.freeThread (thrId q.1)) s

/-- What a reset of its logic, or its loss, takes from a tile: Weld, Plaza, threads, copies, counters and watches, array jobs, DMA channels. The
counter blocks of a tile that serves are STRICT (14 R393). Threads elsewhere that wait on its counters are released. -/
def State.tileCleared (s0 : State) (t : Nat) : State :=
  let s := s0.releaseWaiters t
  let mineT (i : Nat) : Bool := i / 2048 = t
  let mineC (c : Nat) : Bool := c / 4096 = t
  { s with tile := tput tileD s.tile t { s.tileAt t with weld := [], weldMark := [], plaza := [], plru := [], haltA := false, haltB := false, strict := 0xFFFF },
           th := { thr := s.th.thr.map fun q => if mineT q.1 then (q.1, { thrInit with life := q.2.life + 1 }) else q, last := s.th.last.filter fun q => q.1 / 32 ≠ t, copies := s.th.copies.filter fun c => !mineT c.thr,
                   flushes := s.th.flushes.filter fun c => !mineT c.thr },
           sy := { s.sy with ctr := s.sy.ctr.filter fun q => !mineC q.1, armed := s.sy.armed.filter fun w => !mineC w.ctr,
                             queued := s.sy.queued.filter fun w => !mineC w.ctr, fw := tdel s.sy.fw t },
           arr := s.arr.filter fun q => q.1 / 2 ≠ t || q.2.oos,
           dm := { s.dm with chan := s.dm.chan.filterMap fun q =>
             if q.1 / 32 ≠ t then some q else if q.2.life = 0 then none else some (q.1, { chanInit with life := q.2.life }) } }

/-- Sub-channels that a tile serves and that are not mapped out. -/
def State.served (s : State) (t : Nat) : List Nat :=
  ((List.range 64).map (64 * (t / 4) + ·)).filter fun c => (s.sub c).serving = t && (s.sub c).state ≠ 3

/-- An orphan passes to the heir: untrained until its standby port is trained; its trackers start empty (R319). -/
def State.adopt (s : State) (c heir : Nat) : State :=
  let x := s.sub c
  let s1 := s.setSub c { x with serving := heir, standbyPort := true, state := 0, holder := 0, waiting := if x.inits.isEmpty then [] else [5],
                                queue := [], stalled := [], out := [], resp := none, scrub := none, scrubPaused := false }
  (List.range 4).foldl (fun s j => s.setBank (bankOf c j) { s.bankAt (bankOf c j) with tracker := [], adopted := true, hold := .none }) s1

/-- Heirship: the next tile of the ring, where it is in service, adopts the tile's own sub-channels; those that no tile can reach are mapped out with
their dies (02 R81). `up` tells the tiles in service. -/
def State.passSubs (s : State) (up : Nat → Bool) (t : Nat) : State :=
  let heir := ringNext t
  let cs := s.served t
  let reach := if up heir then cs.filter fun c => ownerTile c = t else []
  let lost := cs.filter fun c => !reach.contains c
  let s1 := reach.foldl (fun s c => s.adopt c heir) s
  let s2 : State := if reach.isEmpty then s1
    else s1.setTile heir { s1.tileAt heir with heir := true }
  ((lost.map (· / 4)).eraseDups).foldl (fun s d => s.dieOut d) s2

/-- The steward role of a square whose steward's tile has left service (02 R81). -/
def State.passSteward (s : State) (up : Nat → Bool) (t : Nat) : State :=
  let k := t / 4
  if s.stewardOf k ≠ t then s
  else
    let next := if up (ringNext t) then some (ringNext t) else (ringTiles k).find? up
    match next with
    | some n => { s with md := { s.md with steward := tput stewardD s.md.steward k n } }
    | none => s

/-- Ports on a tile that has left service stay link-disabled, or down (14 R384). -/
def State.tilePorts (s : State) (t : Nat) : State :=
  let s1 := [HPort.A, HPort.B].foldl (fun s p =>
    if portTile p = t then let s1 := s.hostPortFails p; s1.setPort p { s1.port p with disabled := true, up := false } else s) s
  (List.range 8).foldl (fun s p =>
    if cwTile p = t ∧ ((s.cwAt p).state = 1 ∨ (s.cwAt p).state = 2) then s.portDown p 3 else s) s1

/-- Sessions with an extent in the stack of square k end ERROR_FAULT (R324, Table FALT-4; notes/assumptions/66.md). -/
def State.squareSessions (s : State) (k : Nat) (cause : W32) : State :=
  s.faultAll ((s.sv.sess.filter fun q => q.2.live && q.2.blocks.any fun b => b.any fun p => p / (4 * quadPages) = k).map (·.1)) cause

/-- Units of weight objects in a removed square or stack are damaged (R324): those with a page of a copy in it. -/
def State.squareUnits (s : State) (k : Nat) (cause : W32) : State :=
  s.ti.obj.foldl (fun s q =>
    if !q.2.live then s
    else (List.range q.2.nUnits).foldl (fun s u =>
      let hit (l : List Nat) : Bool := (q.2.unitPages u).any fun i => (l[i]?).any fun p => p / (4 * quadPages) = k
      let s1 := if hit q.2.pages then s.unitDamaged q.1 u false cause else s
      if hit q.2.mirror then s1.unitDamaged q.1 u true cause else s1) s) s

/-- Firmware re-creates the staging chains of a tile that left service, of every model whose plan is in force, on the tile that runs its pieces (R319). -/
def State.moveChains (s : State) (t : Nat) : State :=
  (s.sv.model.filter fun q => q.2.state ≠ 0 && q.2.plan.isSome && q.2.stageTiles.contains t).foldl (fun s q => s.stageTile q.1 t) s

/-- A square leaves service: its tiles and its stack (Table FALT-2, R324). What a MIRROR model stages there its mirror square's tiles stage. -/
def State.squareOut (s : State) (k : Nat) (cause : W32) : State :=
  if s.fl.out.contains (domOf .square k) then s
  else
    let s1 := (List.range 4).foldl (fun s i =>
      let t := 4 * k + i
      if (s.tileAt t).state = 0 then s
      else (((s.tileCleared t).setTile t { (s.tileCleared t).tileAt t with state := 0, inService := false }).tilePorts t).rolesDown t cause) s
    let s2 := (((s1.stackOut k).outOfService (domOf .square k)).squareSessions k cause).squareUnits k cause
    (List.range 4).foldl (fun s i => s.moveChains (4 * k + i)) s2

/-- A tile leaves service (R319). A square with no tile left goes with it (02 R81). -/
def State.tileOut (s : State) (t : Nat) (cause : W32) : State :=
  let x := s.tileAt t
  if x.state = 0 then s
  else
    let s1 := (s.tileCleared t).setTile t { (s.tileCleared t).tileAt t with state := 0, inService := false }
    let s2 := ((s1.outOfService (domOf .tile t)).passSubs s1.tileUp t).passSteward s1.tileUp t
    let s3 := ((s2.tilePorts t).rolesDown t cause).moveChains t
    if (ringTiles (t / 4)).any fun i => s3.tileUp i || (s3.tileAt i).state = 1 then s3 else s3.squareOut (t / 4) cause

/-! #### Containment actions (Table FALT-2) -/

/-- Models whose home holds square k, with a group in flight: it has a piece or data there. -/
def State.groupsIn (s : State) (p : ModelD → Bool) : List Nat := (s.sv.model.filter fun q => q.2.group.isSome && p q.2).map (·.1)

/-- A domain's sub-channels close and retrain; 2 is the cause containment (Table FALT-1). -/
def State.retrainSubs (s : State) (cs : List Nat) : State :=
  cs.foldl (fun s c => if (s.sub c).state = 3 ∨ (s.sub c).state = 0 then s else (s.holdSub c).askRetrain c 2) s

/-- A tile's reset and self-check begin (R318); its step-groups abort. -/
def State.tileDown (s : State) (t : Nat) (cause : W32) : State :=
  if !s.tileUp t then s
  else
    let s1 := s.abortAll (s.groupsIn fun m => m.homeTiles.contains t) cause
    (s1.setTile t { s1.tileAt t with state := 1, missed := 0 }).rolesDown t cause

/-- The containment action of a domain: an escalated handler's, or that of an error of the domain itself. -/
def State.contain (s : State) (d : Domain) (cause : W32) : State :=
  match d.kind with
  | .sub => s.holdSub d.idx
  | .die => s.retrainSubs (subsOf d)
  | .stack => s.retrainSubs (subsOf d)
  | .tile => s.tileDown d.idx cause
  | .square =>
    let s1 := s.abortAll (s.groupsIn fun m => bitAt m.home d.idx) cause
    let s2 := (tilesOf d).foldl (fun s t => s.tileDown t cause) s1
    s2.retrainSubs (subsOf d)
  | .module => s.abortAll (s.groupsIn fun _ => true) cause
  | _ => s

/-- A domain leaves service (R311 cases 3 and 6). -/
def State.domainOut (s : State) (d : Domain) (cause : W32) : State :=
  match d.kind with
  | .sub => s.mapOutSub d.idx
  | .die => s.dieOut d.idx
  | .stack => if s.fl.out.contains d then s else ((s.stackOut d.idx).squareSessions d.idx cause).squareUnits d.idx cause
  | .tile => s.tileOut d.idx cause
  | .square => s.squareOut d.idx cause
  | .hostPort =>
    let p := portOf d.idx
    let s1 := s.hostPortFails p
    (s1.setPort p { s1.port p with disabled := true }).outOfService d
  | .cwPort => (s.portDown d.idx 3).outOfService d
  | .module => s.moduleFail 7 cause
  | _ => s

/-- What an error's own handling does before any escalation (Table FALT-1). -/
def State.handleCode (s : State) (code : Nat) (d : Domain) (cause : W32) : State :=
  match code with
  | 0x0101 => s.contain d cause
  | 0x0102 => s.contain d cause
  | 0x0103 => s.askRetrain d.idx 1
  | 0x0107 => s.contain d cause
  | 0x0208 => s.contain d cause
  | 0x020A => s.contain d cause
  | _ => s

/-- Codes whose report makes a handler of their domain active (R308, R310); the others need no containment. -/
def handled (code : Nat) : Bool :=
  [0x0101, 0x0102, 0x0103, 0x0107, 0x0201, 0x0202, 0x0203, 0x0204, 0x0205, 0x0206, 0x0208, 0x020A, 0x0302].contains code

/-! #### Nested errors (R311, Table FALT-3) -/

/-- The handlers that a new handler of domain d absorbs. -/
def State.absorbed (s : State) (d : Domain) : List Handler := s.fl.handlers.filter fun h => s.inside h.dom d

/-- A handler becomes active and absorbs those inside its domain: their groups are its own now. -/
def State.activate (s : State) (d : Domain) (escalated : Bool) (seq : W32) : State :=
  let old := (s.absorbed d).map (·.seq)
  { s with
    fl := { s.fl with handlers := s.fl.handlers.filter (fun h => !s.inside h.dom d) ++ [⟨d, escalated, seq, s.time⟩] },
    sv := { s.sv with model := s.sv.model.map fun q => (q.1, match q.2.group with
      | some g => if g.replay ∧ old.contains g.cause then { q.2 with group := some { g with cause := seq } } else q.2
      | none => q.2) } }

/-- A handler ends because its domain leaves service. -/
def State.dropHandler (s : State) (d : Domain) : State := { s with fl := { s.fl with handlers := s.fl.handlers.filter fun h => h.dom ≠ d } }

/-- A second error inside the domain of handler h: escalation, or the domain leaves service. -/
def State.second (s : State) (h : Handler) (seq : W32) : State :=
  if h.escalated then (s.dropHandler h.dom).domainOut h.dom seq
  else match parentDom h.dom with
    | some P => (s.activate P true seq).contain P seq
    | none => (s.dropHandler h.dom).domainOut h.dom seq

/-- Whether an error nests, and in which record; whether it escalates (case 2). -/
def State.nesting (s : State) (d : Domain) : EvExtra :=
  match s.handlerOf d with
  | some h => { nested := true, outside := true, related := h.seq, escalated := !h.escalated && (parentDom h.dom).isSome }
  | none => match s.absorbed d with
    | h :: _ => { nested := true, outside := true, related := h.seq }
    | [] => {}

/-- The record of a reported condition: one logged at its detection, with its nesting added while the backlog holds it, or a new one. -/
def State.recordOf (s : State) (e : ErrRep) : State × W32 :=
  let x := s.nesting e.dom
  match s.fl.detected.find? fun d => d.code = e.code && d.dom = e.dom && d.a0 = e.a0 with
  | some d =>
    ({ s with fl := { s.fl with
        detected := s.fl.detected.erase d,
        backlog := s.fl.backlog.map fun r =>
          if r.seq = d.seq then { r with nested := x.nested, escalated := x.escalated, outside := r.outside || x.outside, related := if x.nested then x.related else r.related }
          else r } }, d.seq)
  | none => (s.log e.code e.dom e.a0 e.a1 e.a2 e.a3 x, s.fl.seq)

/-- The Weld word that a WELD_UE names bears the poison mark (06 R187). -/
def State.weldUe (s : State) (e : ErrRep) : State :=
  let x := s.tileAt e.dom.idx
  if e.code = 0x0201 ∧ e.dom.kind = .tile ∧ e.a0.toNat < x.weldSize then
    s.setTile e.dom.idx { x with weldMark := setIns (e.a0.toNat / 32) x.weldMark }
  else s

/-- Members of affected groups that a deterministic error's piece serves end with ERROR_FAULT (R314). -/
def State.swEnds (s : State) (e : ErrRep) (cause : W32) : State :=
  if eventClass e.code e.a0 e.a1 = clsSw then s.faultAll ((e.served.map (·.toNat)).filter fun k => (s.sessAt k).inStep) cause else s

/-- ERROR_REPORT (R308 to R316): the record, the handler with its nesting, the damage, the served members, the affected groups. -/
def execErrorReport (e : ErrRep) (s : State) : Host.Outcome State Fault Refusal :=
  if s.md.state = 2 then .next s
  else
    let (s1, seq) := s.recordOf e
    if e.code = 0x0306 then .next (s1.moduleFail 4 seq)
    else if !handled e.code.toNat then .next s1
    else
      let s2 := match s1.handlerOf e.dom with
        | some h => s1.second h seq
        | none => (s1.activate e.dom false seq).handleCode e.code.toNat e.dom seq
      let s3 := ((s2.weldUe e).damaged (s.damageOf e) seq).swEnds e seq
      .next ((s3.abortAll (e.affected.map (·.val)) seq).settle)

/-- Limits of the containment domains in ns (Table FALT-2); a Causeway port's is its link states' own. -/
def limitOf : DomKind → Option Nat
  | .sub => some 110000
  | .die => some 120000
  | .stack => some 150000
  | .tile => some 280000
  | .square => some 320000
  | .hostPort => some 300000
  | .module => some 350000
  | _ => none

/-- Whether a handler is past its limit. -/
def Handler.late (h : Handler) (now : Nat) : Bool := (limitOf h.dom.kind).any fun l => h.since.toNat + l ≤ now

/-- HANDLER_LIMIT_EXPIRY (R310): a handler still active at its limit counts as a second error in its domain. -/
def execHandlerLimitExpiry (d : Domain) (s : State) : Host.Outcome State Fault Refusal :=
  match s.fl.handlers.find? fun h => h.dom = d with
  | some h => if h.late s.now then .next (s.second h h.seq).settle else .next s
  | none => .next s

/-! #### Liveness and self-check (R309, R318) -/

/-- A tile is declared down: TILE_DOWN is logged with its cause and its handler starts. -/
def State.declareDown (s : State) (t cause : Nat) : State :=
  let d := domOf .tile t
  let seq := s.fl.seq
  let s1 := s.log 0x0208 d (n64 cause) 0 0 0 (s.nesting d)
  match s1.handlerOf d with
  | some h => s1.second h seq
  | none => (s1.activate d false seq).contain d seq

/-- LIVENESS_PROBE (R309): the probes of every 20 µs; `silent` are the cores that did not answer; two probes missed in a row declare a tile down. -/
def execLivenessProbe (silent : List TileId) (s : State) : Host.Outcome State Fault Refusal :=
  if !s.md.running ∨ s.now < s.md.probeAt.toNat + 20000 then .next s
  else
    let miss (s : State) (t : Nat) : State :=
      let x := s.tileAt t
      if !s.tileUp t then s
      else if silent.any fun i => i.val = t then
        if 1 ≤ x.missed then (s.setTile t { x with missed := 0 }).declareDown t 0 else s.setTile t { x with missed := x.missed + 1 }
      else if x.missed = 0 then s else s.setTile t { x with missed := 0 }
    .next (((List.range 64).foldl miss { s with md := { s.md with probeAt := s.time } }).settle)

/-- TILE_SELF_CHECK_END (R318): a tile that passes returns with empty Weld and Plaza; one that fails leaves service (R319). -/
def execTileSelfCheckEnd (t : TileId) (pass : Bool) (s : State) : Host.Outcome State Fault Refusal :=
  let cause := ((s.handlerOf (domOf .tile t)).map (·.seq)).getD 0xFFFFFFFF
  if (s.tileAt t).state ≠ 1 ∨ s.md.state ≠ 1 then .next s
  else if pass then .next ((s.tileCleared t).setTile t { (s.tileCleared t).tileAt t with state := 2 }).settle
  else .next ((s.tileOut t cause).settle)

/-- ADOPTED_SUBCHANNEL_OPEN (R319): trained over the standby port, the sub-channel opens. -/
def execAdoptedSubchannelOpen (c : SubId) (s : State) : Host.Outcome State Fault Refusal :=
  let x := s.sub c
  if x.state = 0 ∧ x.standbyPort then .next (s.reopen c).settle else .next s

end Sys2Proof.Machine
end

