-- ==== Sys2Proof/Machine/Registers.lean ====
section
/-! DEFINITION. The register reference (15): what every register of the module control block and of a tile control block reads as, and the
register writes and 4-byte reads. -/
namespace Sys2Proof.Machine

open Sys2Proof

/-! #### Identity and module status (Tables REGS-2 to REGS-7) -/

/-- The low word of DEV_ID: steppings B0 (00 R1, R2). -/
def devIdLow : Nat := packFields [(Config.vendorId.toNat, 16), (0x6416, 16), (0x6417, 16), (0x20, 8), (0x20, 8)]

/-- The 16 bytes of DEV_ID. -/
def devId : List Byte := toBytes 8 devIdLow ++ toBytes 8 Config.moduleId.toNat

/-- The fused minimum security version (14 R379): what was fused before, or what a ready report has raised it to. -/
def State.minSecver (s : State) : Nat := max Config.fusedSecver.toNat s.bt.minSecver.toNat

def State.modStatus (s : State) : Nat :=
  packFields [(s.md.state, 2), (0, 2), (s.md.failReason, 4), (b2n s.md.isolation, 1), (b2n s.md.takeover, 1), (s.md.primary, 6),
    (s.md.standby, 6), (s.carriage, 2), (b2n (!s.fl.out.isEmpty), 1)]

/-- Sub-channels whose spare failed its boot scan. -/
def State.spareFails (s : State) : Nat := s.dr.sub.countP fun c => c.2.spareFailed

def State.bootStatus (s : State) : Nat :=
  packFields [(s.bt.phase, 4), (s.bt.slotUsed, 1), (0, 3), (s.bt.slotA, 3), (0, 1), (s.bt.slotB, 3), (0, 1), (b2n s.bt.cfgDefault, 1),
    (s.bt.cfgCopy, 1), (b2n s.bt.quick, 1), (b2n s.bt.tickWrap, 1), (s.spareFails, 12), (s.minSecver, 32)]

def State.bar2Status (s : State) : Nat :=
  packFields [(s.ho.bar2Timeouts, 24), (s.ho.bar2Poisoned, 24), (b2n s.ho.portA.misaligned, 1), (b2n s.ho.portB.misaligned, 1)]

/-- One half of PORT_STATUS. -/
def State.portHalf (s : State) (p : HPort) : Nat :=
  let x := s.port p
  packFields [(b2n x.up, 1), (b2n x.degraded, 1), (x.rate, 3), (x.width, 4), (b2n ((s.mbox 0).port = p), 1),
    (b2n ((s.mbox 32).port = p), 1), (b2n x.disabled, 1)]

def State.portStatus (s : State) : Nat := s.portHalf .A + 65536 * s.portHalf .B

/-! #### Power and thermal (Tables REGS-15, REGS-16) -/

/-- The cap in force: the lower of cap and, while FAST_THROTTLE_N is low, 1,100 W. -/
def State.powerInForce (s : State) : Nat := if s.pw.throttleLow then min s.pw.cap 1100 else s.pw.cap

/-- PWR_STATUS; while PERST_N is asserted only power, voltage and current are live (16 R432). -/
def State.pwrStatus (s : State) : Nat :=
  let live (b : Bool) : Nat := b2n (b && !s.pw.perstLow)
  packFields [(s.pw.power, 12), (if s.pw.perstLow then s.pw.cap else s.powerInForce, 12), (live s.pw.atCap, 1), (live s.pw.throttleLow, 1),
    (live s.pw.atCapSeen, 1), (live s.pw.throttleSeen, 1), (0, 4), (s.pw.voltage, 16), (s.pw.current, 16)]

/-- The lowest index of the greatest of `n` readings. -/
def hottest (n : Nat) (f : Nat → Nat) : Nat := (List.range n).foldl (fun b i => if f b < f i then i else b) 0

/-- The last temperature reading of a die, by its four sub-channels. -/
def State.dieTemp (s : State) (d : Nat) : Nat := (List.range 4).foldl (fun m i => max m (s.sub (4 * d + i)).dieTemp.toNat) 0

def State.thermStatus (s : State) : Nat :=
  let t := hottest 64 fun i => (s.tileAt i).temp
  let d := hottest 256 s.dieTemp
  packFields [((s.tileAt t).temp, 8), (t, 6), (0, 2), (s.dieTemp d, 8), (d, 8), (b2n (s.pw.thermalTrip && !s.pw.perstLow), 1)]

def State.vfStatus (s : State) (t : Nat) : Nat :=
  let x := s.tileAt t
  packFields [(x.freq, 8), (x.volt, 12), (x.limit, 3), (0, 1), (x.temp, 8), (x.allot, 16), (b2n x.inService, 1)]

/-! #### Stacks, squares, sub-channels, units (Tables REGS-20 to REGS-24) -/

def State.unitCap (s : State) (k : Nat) : Nat :=
  packFields [((s.stackAt k).cap, 3), (b2n (s.stackAt k).loopEn, 1), (s.capInForce k, 3)]

def State.scrubCtrl (s : State) (k : Nat) : Nat :=
  let x := s.stackAt k
  packFields [(x.hours, 8), (x.period, 8), (x.passes.toNat, 16), (x.corrected1h.toNat, 32)]

/-- The active handler that concerns square k: of a domain in it, or of the module. -/
def State.squareHandler (s : State) (k : Nat) : Option Handler :=
  s.fl.handlers.find? fun h => s.inside h.dom ⟨.square, k⟩ || s.inside ⟨.square, k⟩ h.dom

/-- Dies of a stack in service. -/
def State.diesUp (s : State) (k : Nat) : Nat :=
  if (s.stackAt k).inService then (List.range 16).countP fun i => !s.fl.out.contains (domOf .die (16 * k + i)) else 0

def State.sqStatus (s : State) (k : Nat) : Nat :=
  let h := s.squareHandler k
  let state := if s.fl.out.contains (domOf .square k) then 0 else if s.md.state = 0 then 1 else if h.isSome then 3 else 2
  let tiles := ofBytes (bitmap 8 fun q => decide (q < 4) && s.tileUp (4 * k + q))
  packFields [(state, 2), (s.stewardOf k, 6), (tiles, 4), (b2n (s.stackAt k).inService, 1), (s.diesUp k, 5),
    (match h with | some h => (domCode h.dom.kind).toNat | none => 15, 4)]

def State.segLayout (s : State) (q w : Nat) : Nat := ofBytes (bitmap 64 fun j => s.segBank q (64 * w + j))

/-- The register at offset `o` of a sub-channel's block (Table REGS-23). -/
def SubCh.reg (x : SubCh) (o : Nat) : Nat :=
  match o with
  | 0x00 => packFields [(x.state, 3), (x.serving, 6), (b2n x.standbyPort, 1), (x.spare.getD 15, 4), (x.erased.getD 15, 4),
      (b2n x.spareFailed, 1), (b2n x.mapoutReported, 1), (x.banksOut.toNat, 4), (b2n x.x2, 1), (0, 7), (x.dieTemp.toNat, 8)]
  | 0x08 => packFields [(x.readCe.toNat, 32), (x.scrubCe.toNat, 32)]
  | 0x10 => packFields [(x.readUe.toNat, 32), (x.scrubUe.toNat, 32)]
  | 0x18 => packFields (x.impl.map fun n => (n, 5))
  | 0x20 => packFields [(x.holder, 3), (b2n x.scrubPaused, 1), (b2n x.initPaused, 1), (0, 3), (x.scrubCur.toNat, 25)]
  | 0x28 => packFields [(x.initCur.toNat, 25), (b2n (decide (x.holder = 5) || x.initPaused), 1)]
  | 0x40 => packFields [(x.tgPattern, 3), (b2n x.tgRunning, 1), (b2n x.tgSource, 1), (b2n x.tgQuick, 1), (0, 26), (x.tgDuration.toNat, 32)]
  | 0x48 => packFields (x.tgLanes.map fun n => (n, 4))
  | 0x50 => packFields (x.tgBanks.flatMap fun b => [(b.1, 8), (b.2, 8)])
  | 0x58 => x.tgResult
  | _ => 0

/-- UNIT_STATUS of a unit. -/
def State.unitStatus (s : State) (u : Nat) : Nat :=
  let x := s.unitAt u
  let hw := x.hwTimes.countP fun t => s.time - t ≤ 1000000000
  packFields [(if x.oos then 6 else x.shown.1, 4), (x.shown.2.1, 4), (b2n x.inWindow, 1), (b2n x.barLo, 1), (b2n x.barHi, 1), (min 3 hw, 2),
    (0, 19), (x.shown.2.2.toNat, 32)]

/-- Window starts of a die that wait for the cap. -/
def State.diePending (s : State) (d : Nat) : Nat :=
  if s.dieOpen d < s.capInForce (d / 16) then 0
  else (List.range 8).countP fun i => let x := s.unitAt (8 * d + i); !x.inWindow && !x.oos && !x.jobs.isEmpty

def State.dieWindows (s : State) (d : Nat) : Nat := packFields [(s.dieOpen d, 4), (s.capInForce (d / 16), 3), (0, 1), (min 255 (s.diePending d), 8)]

/-! #### Mailboxes, rings, Causeway (Tables REGS-8 to REGS-14, REGS-17 to REGS-19) -/

/-- The register at offset `o` of a mailbox. -/
def MBox.reg (x : MBox) (o : Nat) : Nat :=
  match o with
  | 0x00 => x.sqBase.toNat
  | 0x08 => x.cqBase.toNat
  | 0x10 => x.shadow.toNat
  | 0x18 => packFields [(x.m, 4), (x.k, 4), (x.vector, 6), (0, 2), (x.coalesce, 7)]
  | 0x28 => packFields [(x.tail.toNat, 32), (x.outstanding, 9), (b2n x.enabled, 1), (portNum x.port, 1), (b2n x.wrongPort, 1),
      (b2n x.dbError, 1), (b2n x.draining, 1), (b2n x.cfgError, 1)]
  | 0x30 => packFields [(x.fetch.toNat, 32), (x.prod.toNat, 32)]
  | 0x38 => x.head.toNat
  | _ => 0

/-- RING_STATUS and EVENT_RING_STATUS: a ring that does not exist reads 0. -/
def Ring.status (r : Ring) : Nat :=
  if r.active then packFields [(r.head.toNat, 32), (1, 1), (portNum r.port, 1), (b2n r.wrongPort, 1), (b2n r.dbError, 1), (b2n (!r.queue.isEmpty), 1)]
  else 0

/-- EVT_STATUS. -/
def State.evtStatus (s : State) : Nat :=
  packFields [(s.fl.backlog.length, 14), (b2n s.ho.eventSet, 1), (b2n s.fl.dropped, 1), (0, 16),
    (match s.fl.backlog with | e :: _ => e.seq.toNat | [] => s.fl.seq.toNat, 32)]

/-- The register at offset `o` of a Causeway port. -/
def State.cwReg (s : State) (p o : Nat) : Nat :=
  let x := s.cwAt p
  match o with
  | 0x00 => packFields [(b2n x.enable, 1), (0, 3), (x.lend, 8), (x.borrow, 8)]
  | 0x08 => packFields [(x.state, 3), (x.width, 4), (0, 1), (x.excluded.toNat, 4), (s.lentOn p, 8), (s.borrowedOn p, 8), (x.failed, 4),
      (x.partnerEpoch.toNat, 32)]
  | 0x10 => if x.state = 2 then x.partnerId.toNat else 0
  | _ => 0

def State.cwLendCtrl (s : State) : Nat :=
  packFields [(s.cw.reserve, 11), (0, 5), (s.freeGiB, 11), (0, 5), (s.cw.lent.length, 12)]

/-! #### The module control block (Table REGS-1, R403) -/

/-- The 8-byte register at the aligned offset `o`; a reserved offset reads 0. -/
def State.readReg (s : State) (o : Nat) : Nat :=
  if o < 0x1000 then
    match o with
    | 0x000 => devIdLow
    | 0x008 => Config.moduleId.toNat
    | 0x010 => s.modStatus
    | 0x018 => s.bootStatus
    | 0x020 => s.time.toNat
    | 0x030 => s.md.hbCount.toNat
    | 0x038 => s.md.hbTime.toNat
    | 0x040 => s.ho.portA.tileWin
    | 0x048 => s.ho.portB.tileWin
    | 0x100 => s.ho.portA.bar2Base
    | 0x108 => s.ho.portB.bar2Base
    | 0x110 => b2n s.ho.bar2Write
    | 0x118 => s.bar2Status
    | 0x120 => s.portStatus
    | 0x200 => s.pw.cap
    | 0x208 => s.pwrStatus
    | 0x210 => s.thermStatus
    | _ =>
      if 0x400 ≤ o ∧ o < 0x600 then s.vfStatus ((o - 0x400) / 8)
      else if 0x600 ≤ o ∧ o < 0x680 then s.unitCap ((o - 0x600) / 8)
      else if 0x680 ≤ o ∧ o < 0x700 then b2n (s.stackAt ((o - 0x680) / 8)).policy2
      else if 0x700 ≤ o ∧ o < 0x780 then s.scrubCtrl ((o - 0x700) / 8)
      else 0
  else if 0x10000 ≤ o ∧ o < 0x11000 then (s.mbox ((o - 0x10000) / 64)).reg (o % 64)
  else if 0x40000 ≤ o ∧ o < 0x48000 then (s.ringAt ((o - 0x40000) / 8)).status
  else if o = 0x48000 then s.ho.event.status
  else if o = 0x48008 then s.evtStatus
  else if 0x50000 ≤ o ∧ o < 0x50100 then s.cwReg ((o - 0x50000) / 32) (o % 32)
  else if o = 0x50100 then s.cwLendCtrl
  else if 0x60000 ≤ o ∧ o < 0x60080 then s.sqStatus ((o - 0x60000) / 8)
  else if 0x100000 ≤ o ∧ o < 0x120000 then (s.sub ((o - 0x100000) / 128)).reg (o % 128)
  else if 0x120000 ≤ o ∧ o < 0x120800 then s.segLayout ((o - 0x120000) / 32) (o % 32 / 8)
  else if 0x130000 ≤ o ∧ o < 0x134000 then s.unitStatus ((o - 0x130000) / 8)
  else if 0x134000 ≤ o ∧ o < 0x134800 then s.dieWindows ((o - 0x134000) / 8)
  else 0

/-! #### A tile control block (Tables REGS-25 to REGS-30) -/

def timerD : Nat → Timer := fun _ => ⟨0, 0, 0⟩

def State.tileStatus (s : State) (t : Nat) : Nat :=
  let x := s.tileAt t
  packFields [(x.state, 3), (b2n (s.stewardOf (t / 4) = t), 1), (b2n (s.md.primary = t), 1), (b2n (s.md.standby = t), 1), (b2n x.heir, 1), (0, 1),
    (x.carve, 5), (0, 3), ((32 - x.carve) * 1024, 16)]

/-- SYNC_STICKY: for each block, whether a counter has UNDERFLOWED, or OVERFLOWED, set (07 R225). -/
def State.syncSticky (s : State) (t : Nat) : Nat :=
  let any (p : Ctr → Bool) (k : Nat) : Bool := s.sy.ctr.any fun c => c.1 / 4096 = t && c.1 % 4096 / 256 = k && p c.2
  ofBytes (bitmap 16 (any (·.under)) ++ bitmap 16 (any (·.ovr)))

def State.arrDebug (s : State) (t : Nat) : Nat :=
  packFields [(b2n (s.tileAt t).haltA, 1), (b2n (s.tileAt t).haltB, 1), (0, 6), (b2n (s.arrAt (2 * t)).halted, 1),
    (b2n (s.arrAt (2 * t + 1)).halted, 1)]

/-- ARR_SLOT. -/
def Slot.reg (k : Slot) : Nat :=
  if k.state = 0 then 0
  else packFields [(k.state, 2), (if k.state = 2 then k.pass else 0, 2), (0, 4), (k.rows, 9), (0, 15), (k.col / 64, 10), (k.slice, 9)]

/-- An entry of the debug accumulator window (R421; 05 R167). -/
def State.debugEntry (s : State) (t o : Nat) : Nat :=
  let x := s.arrAt (2 * t + o / 0x40000)
  let k := x.slot (o / 0x20000 % 2)
  let i := o % 0x20000 / 8
  let e := tget entryD k.entries i
  if x.halted ∧ k.state ≠ 0 ∧ i / 64 < k.rows then packFields [(lowBits 32 e.acc, 32), (e.o, 2), (b2n e.ovf, 1), (b2n e.sat, 1)] else 0

/-- The 8-byte register at offset `o` of the control block of tile `t`. -/
def State.readTileReg (s : State) (t o : Nat) : Nat :=
  if o = 0 then s.tileStatus t
  else if o = 0x100 then (s.tileAt t).strict.toNat
  else if o = 0x108 then s.syncSticky t
  else if 0x200 ≤ o ∧ o < 0x300 then
    let x := tget timerD (s.tileAt t).timers ((o - 0x200) / 16)
    if o % 16 = 0 then x.period.toNat else x.phaseReg.toNat
  else if o = 0x500 then s.arrDebug t
  else if 0x510 ≤ o ∧ o < 0x530 then ((s.arrAt (2 * t + (o - 0x510) / 16)).slot ((o - 0x510) / 8 % 2)).reg
  else if 0x400000 ≤ o ∧ o < 0x480000 then s.debugEntry t (o - 0x400000)
  else 0

/-! #### Reads of 4 bytes, and the tile window (R404, R405) -/

/-- The value of a register as an access of `size` bytes at `off` reads it. -/
def readPart (v size off : Nat) : Nat := if size = 8 then v else v / 2 ^ (32 * (off / 4 % 2)) % 2 ^ 32

/-- Registers whose high half a read of the low half latches. -/
def latched (o : Nat) : Bool := o = 0x020 || o = 0x038 || (decide (0x50000 ≤ o ∧ o < 0x50100) && o % 32 = 0x10)

/-- REG_HALF_READ (R405): a 4-byte read at `off` through BAR0 of port `p`. -/
def execRegHalfRead (p : HPort) (off : Nat) (s : State) : Host.Outcome State Fault Refusal :=
  let x := s.port p
  let o := off / 8 * 8
  let v := s.readReg o
  let answer (x : PortSt) (n : Nat) : State := s.setPort p { x with resp := .data (toBytes 4 n) }
  if off % 4 ≠ 0 ∨ 0x800000 ≤ off then .next (s.setPort p { x with resp := .unsupported })
  else if !latched o then .next (answer x (readPart v 4 off))
  else if off % 8 = 0 then .next (answer { x with half := some (o, n32 (v / 2 ^ 32)) } (v % 2 ^ 32))
  else match x.half with
    | some (r, h) => if r = o then .next (answer { x with half := none } h.toNat) else .next (answer x (v / 2 ^ 32))
    | none => .next (answer x (v / 2 ^ 32))

/-- The value that a write of `size` bytes leaves in a register that reads `old`; bytes that it does not carry stand as they are. -/
def mergeWrite (old size off v : Nat) : Nat :=
  if size = 8 then v % 2 ^ 64
  else if off % 8 = 0 then old / 2 ^ 32 * 2 ^ 32 + v % 2 ^ 32
  else old % 2 ^ 32 + v % 2 ^ 32 * 2 ^ 32

/-- The halt fields of ARR_DEBUG (R420): setting one is ignored outside DIAGNOSTIC; an array whose halt is cleared goes on (05 R167). -/
def State.setHalts (s : State) (t : Nat) (a b : Bool) : State :=
  let x := s.tileAt t
  if (a || b) && x.state ≠ 3 then s
  else
    let s1 := s.setTile t { x with haltA := a, haltB := b }
    let go (s : State) (i : Nat) (h : Bool) : State := if h then s else s.setArr i { s.arrAt i with halted := false, due := false }
    go (go s1 (2 * t) a) (2 * t + 1) b

/-- TILE_WINDOW_ACCESS (R404): offset `x` of the block of the tile that the port's selector names. -/
def execTileWindowAccess (p : HPort) (x size : Nat) (acc : Access) (s : State) : Host.Outcome State Fault Refusal :=
  let q := s.port p
  let t := q.tileWin
  let out := (s.tileAt t).state = 0
  if !((size = 4 ∨ size = 8) ∧ x % size = 0 ∧ x < 0x800000) then .next (s.setPort p { q with resp := .unsupported })
  else match acc with
    | .read =>
      let b := if out then List.replicate size 0xFF else toBytes size (readPart (s.readTileReg t (x / 8 * 8)) size x)
      .next (s.setPort p { q with resp := .data b })
    | .write v =>
      let w := mergeWrite (s.arrDebug t) size x v.toNat
      if out ∨ x / 8 * 8 ≠ 0x500 then .next s else .next (s.setHalts t (bitAt w 0) (bitAt w 1))

/-! #### Writes to fields without a row of their own (00 R16; 15 R402 to R412) -/

/-- A write of a mailbox register: the ring registers take writes only while the mailbox is disabled (R410); error flags are RW1C. `w` is the value
with the old bytes a 4-byte write leaves, `c` the bits it writes. -/
def MBox.write (x : MBox) (o w c : Nat) : MBox :=
  if o = 0x28 then { x with wrongPort := x.wrongPort && !bitAt c 43, dbError := x.dbError && !bitAt c 44, cfgError := x.cfgError && !bitAt c 46 }
  else if x.enabled then x
  else match o with
    | 0x00 => { x with sqBase := n64 (w / 4096 * 4096) }
    | 0x08 => { x with cqBase := n64 (w / 4096 * 4096) }
    | 0x10 => { x with shadow := n64 (w / 4 * 4) }
    | 0x18 => { x with m := bitsOf w 3 0, k := bitsOf w 7 4, vector := bitsOf w 13 8, coalesce := bitsOf w 22 16 }
    | _ => x

/-- The RW1C flags of a ring's status. -/
def Ring.clearFlags (r : Ring) (c : Nat) : Ring := { r with wrongPort := r.wrongPort && !bitAt c 34, dbError := r.dbError && !bitAt c 35 }

/-- A write of `size` bytes to the module control block. A field with a row of its own is left to that row. -/
def State.writeReg (s : State) (off size v : Nat) : State :=
  let o := off / 8 * 8
  let w := mergeWrite (s.readReg o) size off v
  let c := mergeWrite 0 size off v
  if o = 0x040 then s.setPort .A { s.port .A with tileWin := w % 64 }
  else if o = 0x048 then s.setPort .B { s.port .B with tileWin := w % 64 }
  else if o = 0x110 then { s with ho := { s.ho with bar2Write := bitAt w 0 } }
  else if o = 0x208 then { s with pw := { s.pw with atCapSeen := s.pw.atCapSeen && !bitAt c 26, throttleSeen := s.pw.throttleSeen && !bitAt c 27 } }
  else if o = 0x210 then { s with pw := { s.pw with thermalTrip := bitAt w 32 } }
  else if 0x10000 ≤ o ∧ o < 0x11000 then s.setMbox ((o - 0x10000) / 64) ((s.mbox ((o - 0x10000) / 64)).write (o % 64) w c)
  else if 0x40000 ≤ o ∧ o < 0x48000 then s.setRing ((o - 0x40000) / 8) ((s.ringAt ((o - 0x40000) / 8)).clearFlags c)
  else if o = 0x48000 then s.setEventRing (s.ho.event.clearFlags c)
  else if o = 0x48008 then { s with fl := { s.fl with dropped := s.fl.dropped && !bitAt c 15 } }
  else s

/-- A write to the MSI-X table of a function: a vector that is unmasked with a message pending sends it (12 R331: PCI Express). -/
def State.writeMsix (s : State) (p : HPort) (o size v : Nat) : State :=
  let x := s.port p
  let s1 := s.setPort p { x with msix := mwrite msixD x.msix o (toBytes size v) }
  let vec := o / 16
  if x.pba.getLsbD vec ∧ !bitAt (ofBytes (mread msixD (s1.port p).msix (16 * vec + 12) 4)) 0 then
    (s1.setPort p { s1.port p with pba := x.pba &&& ~~~(1#64 <<< vec) }).msix p vec
  else s1

/-- A tile's own control core writes TIMER_PHASE (R419). -/
def State.writePhase (s : State) (t o size v : Nat) : State :=
  if 0x200 ≤ o ∧ o < 0x300 ∧ o / 8 % 2 = 1 then
    let n := (o - 0x200) / 16
    let x := s.tileAt t
    let tm := tget timerD x.timers n
    s.setTile t { x with timers := tput timerD x.timers n { tm with phaseReg := n64 (mergeWrite tm.phaseReg.toNat size o v) } }
  else s

/-- REGISTER_WRITE (00 R16; 12 R331; 15 R402 to R412). -/
def execRegisterWrite (src : RegSrc) (off size : Nat) (v : W64) (s : State) : Host.Outcome State Fault Refusal :=
  let ok := (size = 4 ∨ size = 8) ∧ off % size = 0
  match src with
  | .host p => if ok ∧ off < 0x800000 then .next (s.writeReg off size v.toNat) else .next (s.setPort p { s.port p with resp := .unsupported })
  | .agent => if ok ∧ off < 0x800000 then .next (s.writeReg off size v.toNat) else .next s
  | .bar4 p =>
    if !barAccepts true off size then .next (s.setPort p { s.port p with resp := .unsupported })
    else if 0x70000 ≤ off ∧ off < 0x70400 then .next (s.writeMsix p (off - 0x70000) size v.toNat)
    else .next s
  | .core t => if ok then .next (s.writePhase t off size v.toNat) else .next s

/-! #### Writes with rows of their own -/

/-- CLEAR_COUNTS (R416). -/
def execClearCounts (c : SubId) (s : State) : Host.Outcome State Fault Refusal :=
  .next (s.setSub c { s.sub c with readCe := 0, scrubCe := 0, readUe := 0, scrubUe := 0 })

/-- The requested cap, clamped to 1,100 to 2,200 W (14 R399; 15 R412). -/
def State.setPowerCap (s : State) (w : Nat) : State := { s with pw := { s.pw with cap := max 1100 (min 2200 w) } }

/-- PWR_CAP_WRITE: field cap is bits [11:0]. -/
def execPwrCapWrite (v : W64) (s : State) : Host.Outcome State Fault Refusal := .next (s.setPowerCap (bitsOf v.toNat 11 0))

/-- UNIT_CAP_WRITE (R414; 03 R97). -/
def execUnitCapWrite (sq : SquareId) (v : W64) (s : State) : Host.Outcome State Fault Refusal :=
  let x := s.stackAt sq
  let cap := bitsOf v.toNat 2 0
  .next (s.setStack sq { x with cap := if 1 ≤ cap ∧ cap ≤ 4 then cap else x.cap, loopEn := bitAt v.toNat 3 })

/-- ECC_POLICY_WRITE (02 R57). -/
def execEccPolicyWrite (sq : SquareId) (v : W64) (s : State) : Host.Outcome State Fault Refusal :=
  .next (s.setStack sq { s.stackAt sq with policy2 := bitAt v.toNat 0 })

/-- SCRUB_CTRL_WRITE (R414; 02 R74): hours above 168 are ignored. -/
def execScrubCtrlWrite (sq : SquareId) (v : W64) (s : State) : Host.Outcome State Fault Refusal :=
  let h := bitsOf v.toNat 7 0
  .next (if 168 < h then s else s.setScrubHours sq h)

/-- The layout of one segment changes: its contents are undefined (02 R53; notes/assumptions/16.md). -/
def Dram.relayout (d : Dram) (seg : Nat) (bank : Bool) : Dram :=
  if d.segs.contains seg = bank then d
  else
    { d with segs := if bank then setIns seg d.segs else d.segs.filter (· ≠ seg),
             segEpoch := tput (fun _ => 0) d.segEpoch seg (tget (fun _ => 0) d.segEpoch seg + 1),
             madder := d.madder.filter fun c => segOfPos c.1 ≠ seg,
             mark := d.mark.filter fun w => segOfPos (32 * w) ≠ seg,
             reported := d.reported.filter fun w => segOfPos (32 * w) ≠ seg }

/-- SEG_LAYOUT_WRITE (R415; 02 R50, R53): register w of quadrant q. -/
def execSegLayoutWrite (q : TileId) (w : Fin 4) (v : W64) (s : State) : Host.Outcome State Fault Refusal :=
  .next { s with dr := (List.range 64).foldl (fun d j => d.relayout (256 * q + 64 * w + j) (v.getLsbD j)) s.dr }

/-- SYNC_MODE_WRITE (07 R208, R225). -/
def execSyncModeWrite (t : TileId) (v : W64) (s : State) : Host.Outcome State Fault Refusal :=
  .next (s.setTile t { s.tileAt t with strict := v.setWidth 16 })

/-- TIMER_PERIOD_WRITE (R419): arms the timer with the phase last written; 0 disables it; 1 to 999 is ignored. -/
def execTimerPeriodWrite (t : TileId) (n : Fin 16) (v : W64) (s : State) : Host.Outcome State Fault Refusal :=
  let x := s.tileAt t
  let tm := tget timerD x.timers n
  let p : W32 := v.setWidth 32
  if 1 ≤ p.toNat ∧ p.toNat < 1000 then .next s
  else .next (s.setTile t { x with timers := tput timerD x.timers n { tm with period := p, phase := tm.phaseReg } })

/-- ARR_DEBUG_WRITE (R420): by the tile's control core. -/
def execArrDebugWrite (t : TileId) (v : W64) (s : State) : Host.Outcome State Fault Refusal := .next (s.setHalts t (v.getLsbD 0) (v.getLsbD 1))

end Sys2Proof.Machine
end

