-- ==== Sys2Proof/Machine/Supply.lean ====
section
/-! DEFINITION. Power input, reset, FAST_THROTTLE_N, thermal shutdown, loss of SCLK (16 R422 to R425; 14 R375, R376, R400, R401; 11 R310). -/
namespace Sys2Proof.Machine

open Sys2Proof

/-! #### Reset -/

/-- What a byte of the flash reads as before anything is written: erased (notes/assumptions/4.md). -/
def flashD : Nat → Byte := fun _ => 0xFF

/-- The module in reset: every agent stopped, the contents of Madder and SRAM lost, registers at their reset values (14 R375). The pins, the measured
input, the RWS field (00 R16), the flash, the fuses and host memory are not the module's to lose. -/
def State.hardReset (s : State) : State :=
  { State.reset with
    pending := s.pending, freeCount := s.freeCount,
    pw := { s.pw with inReset := true, cap := 2200, atCap := false, atCapSeen := false, throttleSeen := false },
    ho := { HostIf.reset with mem := s.ho.mem },
    bt := { Boot.reset with minSecver := s.bt.minSecver } }

/-- The range of a flash write or erase. -/
def FlashOp.range : FlashOp → Nat × Nat
  | .write a d => (a, d.length)
  | .erase a => (a, 65536)

/-- Power that goes away under a flash operation leaves the bytes it touches free (notes/assumptions/54.md). -/
def State.cutFlash (s : State) : State :=
  match s.pw.flashOp with
  | none => s
  | some op =>
    let n := op.range.2
    let b := (List.range n).map fun i => Config.freeBits 8 (s.freeCount + i)
    ({ s with pw := { s.pw with flash := mwrite flashD s.pw.flash op.range.1 b, flashOp := none } }).useFree n

/-- Power-down (Table PHYS-2): contents lost, outputs undriven. -/
def State.powerDown (s : State) : State :=
  let s1 := s.cutFlash.hardReset
  { s1 with pw := { s1.pw with driven := false, cond := 0, tap := .reset } }

/-- Power-up into reset (R424): only this clears RWS fields. -/
def State.powerOn (s : State) (mv cond : Nat) : State :=
  let s1 := s.hardReset
  { s1 with pw := { s1.pw with inputMv := mv, driven := true, cond := cond, thermalTrip := false, hot := false, flashErr := false, tap := .reset } }

/-! #### P72V (R422 to R425) -/

/-- The condition of Table PHYS-2 that an input voltage puts the module in: below 55 V until it is back above 58 V. -/
def inputCond (old mv : Nat) : Nat :=
  if mv < 55000 ∨ (old = 2 ∧ mv ≤ 58000) then 2 else if mv < 60000 then 1 else if mv ≤ 78000 then 0 else if mv ≤ 80000 then 1 else 3

/-- SUPPLY (11 Table FALT-1), with the input voltage in mV; nothing is logged in reset. -/
def State.logSupply (s : State) : State := if s.pw.inReset then s else s.log 0x0305 domModule (n64 s.pw.inputMv)

/-- The input voltage changes (R423): SUPPLY at each entry into a condition other than normal; for a dip, once the input is back. A module that
is off goes on above 58 V. -/
def State.supply (s : State) (mv : Nat) : State :=
  if !s.pw.driven then
    if 58000 < mv ∧ mv ≤ 80000 then s.powerOn mv (inputCond 0 mv) else { s with pw := { s.pw with inputMv := mv } }
  else
    let old := s.pw.cond
    let c := inputCond old mv
    let s1 : State := { s with pw := { s.pw with inputMv := mv, cond := c, condAt := if c = old then s.pw.condAt else s.now } }
    if c = old ∨ c = 2 ∨ (c = 0 ∧ old ≠ 2) then s1 else s1.logSupply

/-- POWER_UP (R424, R425). -/
def execPowerUp (mv : Nat) (s : State) : Host.Outcome State Fault Refusal := .next (s.supply mv)

/-- SUPPLY_RANGE_CHANGE (R423). -/
def execSupplyRangeChange (mv : Nat) (s : State) : Host.Outcome State Fault Refusal := .next (s.supply mv)

/-- SUPPLY_RELOG (R423): again every 1 s while the condition lasts. -/
def execSupplyRelog (s : State) : Host.Outcome State Fault Refusal :=
  if s.pw.driven ∧ (s.pw.cond = 1 ∨ s.pw.cond = 3) ∧ s.pw.condAt + 1000000000 ≤ s.now then
    .next (State.logSupply { s with pw := { s.pw with condAt := s.now } })
  else .next s

/-- HOLD_UP_EXPIRY (R423): the input has been below the lockout for more than 200 µs; in reset TIME does not run and the event itself tells it
(notes/assumptions/131.md). -/
def execHoldUpExpiry (s : State) : Host.Outcome State Fault Refusal :=
  if s.pw.driven ∧ s.pw.cond = 2 ∧ (s.pw.inReset ∨ s.pw.condAt + 200000 < s.now) then .next s.powerDown else .next s

/-- OVERVOLTAGE_SHUTDOWN (R423). -/
def execOvervoltageShutdown (mv : Nat) (s : State) : Host.Outcome State Fault Refusal :=
  if s.pw.driven ∧ 80000 < mv then .next ({ s with pw := { s.pw with inputMv := mv } }).powerDown else .next s

/-- ALERT_N is asserted (16 R432): at the cap, a thermal shutdown, FAILED, or the input outside 60 to 78 V. -/
def State.alert (s : State) : Bool :=
  s.pw.driven && (s.pw.atCap || s.pw.hot || s.md.state = 2 || decide (s.pw.inputMv < 60000) || decide (78000 < s.pw.inputMv))

/-! #### PERST_N (14 R375, R376; 16 R424) -/

/-- PERST_N_ASSERT (14 R375). -/
def execPerstAssert (s : State) : Host.Outcome State Fault Refusal :=
  if s.pw.perstLow then .next s
  else
    let s1 := if s.pw.driven then s.hardReset else s
    .next { s1 with pw := { s1.pw with perstLow := true, tap := .reset } }

/-- The conditions at a rise of PERST_N for the module to leave reset (16 R424; 14 R375, R401): PERST_N low for 100 µs, the input in range for
100 ms, REFCLK stable for 100 µs, no flash operation, and after a thermal shutdown every sensor below 100 °C. -/
def State.mayStart (s : State) (lowUs supplyMs refclkUs hottest : Nat) : Bool :=
  s.pw.driven && s.pw.perstLow && decide (s.pw.cond = 0) && decide (100 ≤ lowUs) && decide (100 ≤ supplyMs) && decide (100 ≤ refclkUs) &&
    s.pw.flashOp.isNone && (!s.pw.hot || decide (hottest < 100))

/-- PERST_N_DEASSERT (14 R376; 01 R32): TIME starts at 0 and boot phase 1 begins; else the module stays in reset until PERST_N is pulsed. -/
def execPerstDeassert (lowUs supplyMs refclkUs hottest : Nat) (s : State) : Host.Outcome State Fault Refusal :=
  let s1 : State := { s with pw := { s.pw with perstLow := false, tap := .reset } }
  if s.mayStart lowUs supplyMs refclkUs hottest then
    .next { s1 with time := 0, bt := { s1.bt with phase := 1, throttled := s.pw.throttleLow },
                    pw := { s1.pw with inReset := false, hot := false, throttleSeen := s.pw.throttleLow } }
  else .next s1

/-! #### FAST_THROTTLE_N (14 R400) -/

/-- Every tile at 0.8 GHz, and every stack whose cap the loop sets at a cap of 1 (15 R414). -/
def State.throttle (s : State) : State :=
  let tile (t : Nat) : Tile :=
    let x := s.tileAt t
    if x.state = 0 then x else { x with freq := 64, limit := 4, stretched := false }
  let stack (k : Nat) : Stack :=
    let x := s.stackAt k
    if x.loopEn then { x with cap := 1, cool := 0 } else { x with cool := 0 }
  { s with tile := tfill tileD 64 tile, dr := { s.dr with stack := tfill stackD 16 stack } }

/-- FAST_THROTTLE_FALL. -/
def execFastThrottleFall (s : State) : Host.Outcome State Fault Refusal :=
  let s1 : State := { s with pw := { s.pw with throttleLow := true } }
  if s.pw.inReset then .next s1
  else
    let s2 : State := { s1 with pw := { s1.pw with throttleSeen := true }, bt := { s1.bt with throttled := s1.bt.throttled || s.md.state = 0 } }
    .next (if s.md.state = 2 then s2 else s2.throttle)

/-- FAST_THROTTLE_RISE: frequencies and caps then rise under their loops. -/
def execFastThrottleRise (s : State) : Host.Outcome State Fault Refusal :=
  .next { s with pw := { s.pw with throttleLow := false }, tile := tmap tileD (fun _ x => if x.limit = 4 then { x with limit := 0 } else x) s.tile }

/-! #### Thermal shutdown and loss of SCLK -/

/-- THERMAL_SHUTDOWN (14 R401): the sensor reads 115 °C. -/
def execThermalShutdown (site : HotSite) (s : State) : Host.Outcome State Fault Refusal :=
  if s.pw.inReset then .next s
  else
    let s1 := match site with
      | .tile t => s.setTile t { s.tileAt t with temp := 115 }
      | .die d => (List.range 4).foldl (fun s i => s.setSub (4 * d + i) { s.sub (4 * d + i) with dieTemp := 115 })
          (s.setStack (d / 16) { s.stackAt (d / 16) with temp := 115 })
    let s2 := s1.moduleFail 6 0xFFFFFFFF
    .next { s2 with pw := { s2.pw with thermalTrip := true, hot := true } }

/-- SCLK_LOSS (11 R310; 14 R385): logged, and the module is FAILED at once. -/
def execSclkLoss (s : State) : Host.Outcome State Fault Refusal :=
  if s.pw.inReset ∨ s.md.state = 2 then .next s
  else .next ((s.log 0x0306 domModule).moduleFail 4 s.fl.seq)

/-- TIME counts one nanosecond (01 R32), not in reset and not without SCLK. -/
def State.tick (s : State) : State :=
  if s.pw.inReset ∨ (s.md.state = 2 ∧ s.md.failReason = 4) then s else { s with time := s.time + 1 }

end Sys2Proof.Machine
end

