-- ==== Sys2Proof/Machine/Boot.lean ====
section
/-! DEFINITION. Boot (14 R376 to R393): the election, the image and the configuration, training and self-test results, the ready report. -/
namespace Sys2Proof.Machine

open Sys2Proof

def State.booting (s : State) : Bool := !s.pw.inReset && decide (s.md.state = 0)

/-! #### Election (R383 to R385) -/

def healthD : Nat → W64 := fun _ => 0

/-- The health vector of a tile. -/
def State.health (s : State) (t : Nat) : W64 := tget healthD s.bt.health t

/-- Bit t of tile d's vector is set. -/
def State.markHealthy (s : State) (d t : Nat) : State :=
  { s with bt := { s.bt with health := tput healthD s.bt.health d (s.health d ||| (1#64 <<< t)) } }

/-- HEALTH_REPORT: a report from tile `src` reaches tile `dst`; a tile knows its own. After the freeze none counts. -/
def execHealthReport (dst src : TileId) (pass : Bool) (s : State) : Host.Outcome State Fault Refusal :=
  if s.booting ∧ s.bt.frozen = false ∧ pass then .next ((s.markHealthy dst src).markHealthy src src) else .next s

/-- The lowest-numbered healthy tile of a vector. -/
def electPrimary (v : W64) : Option Nat := (List.range 64).find? fun t => v.getLsbD t

/-- The first healthy tile in the order t6 … t63, t1 … t5 that is neither the primary nor in its square. -/
def electStandby (v : W64) (primary : Nat) : Option Nat := standbyOrder.find? fun t => v.getLsbD t && t ≠ primary && t / 4 ≠ primary / 4

/-- The tile that computes itself to be the primary; where vectors differ, the lowest such tile (notes/assumptions/55.md). -/
def State.claimant (s : State) : Option Nat := (List.range 64).find? fun t => electPrimary (s.health t) = some t

/-- ELECTION_FREEZE, at TIME = 30 ms. -/
def execElectionFreeze (s : State) : Host.Outcome State Fault Refusal :=
  if !s.booting ∨ s.bt.frozen ∨ s.now < 30000000 then .next s
  else
    let s1 : State := { s with bt := { s.bt with frozen := true, phase := 2 } }
    match s.claimant with
    | none => .next (s1.moduleFail 1 0xFFFFFFFF)
    | some p =>
      let v := s.health p
      match electStandby v p with
      | none => .next (s1.moduleFail 1 0xFFFFFFFF)
      | some b =>
        if !v.getLsbD 0 ∧ !v.getLsbD 3 then .next (s1.moduleFail 2 0xFFFFFFFF)
        else .next { s1 with md := { s1.md with primary := p, standby := b },
                             bt := { s1.bt with claim := some v, claimed := 1#64 <<< p, acks := 1#64 <<< p } }

/-- PRIMARY_CLAIM: the claim reaches tile `dst`, which adopts its vector. -/
def execPrimaryClaim (dst : TileId) (s : State) : Host.Outcome State Fault Refusal :=
  match s.bt.claim with
  | some v =>
    if s.booting then
      .next { s with bt := { s.bt with health := tput healthD s.bt.health dst v, claimed := s.bt.claimed ||| (1#64 <<< dst.val) } }
    else .next s
  | none => .next s

/-- A host port of a failed tile stays link-disabled, and the other port carries its mailboxes (R384). -/
def State.bootPortOut (s : State) (p : HPort) : State :=
  let s1 := s.setPort p { s.port p with disabled := true, up := false }
  (s1.moveCarriage p (otherPort p)).log 0x0302 (domOf .hostPort (portNum p)) (n64 (portNum p))

/-- A tile that failed the election is out of service from boot (R384; 02 R81). -/
def State.bootTileOut (s : State) (up : Nat → Bool) (t : Nat) : State :=
  let s1 := (s.setTile t { s.tileAt t with state := 0 }).outOfService (domOf .tile t)
  let s2 := (s1.passSubs up t).passSteward up t
  [HPort.A, HPort.B].foldl (fun s p => if portTile p = t then s.bootPortOut p else s) s2

/-- The end of phase 2: the tiles that the claim does not name leave service. -/
def State.electionEnd (s : State) (v : W64) : State :=
  let up (t : Nat) : Bool := v.getLsbD t
  let s1 := ((List.range 64).filter fun t => !up t).foldl (fun s t => s.bootTileOut up t) s
  let s2 := ((List.range 16).filter fun k => (ringTiles k).all fun t => !up t).foldl
    (fun s k => (s.stackOut k).outOfService (domOf .square k)) s1
  { s2 with bt := { s2.bt with phase := 3 } }

/-- CLAIM_ACK: phase 2 ends when every tile the claim names as healthy has acknowledged it. -/
def execClaimAck (src : TileId) (s : State) : Host.Outcome State Fault Refusal :=
  match s.bt.claim with
  | some v =>
    if s.booting ∧ s.bt.phase = 2 ∧ s.bt.claimed.getLsbD src then
      let a := s.bt.acks ||| (1#64 <<< src.val)
      let s1 : State := { s with bt := { s.bt with acks := a } }
      .next (if v &&& ~~~a = 0 then s1.electionEnd v else s1)
    else .next s
  | none => .next s

/-! #### The image and the configuration block (R378 to R381) -/

def State.flashBytes (s : State) (a n : Nat) : List Byte := mread flashD s.pw.flash a n

/-- The result for a slot, from its header (Table BOOT-3) and what the cryptographic checks find (15 Table REGS-4). -/
def slotCheck (h : List Byte) (r : SlotReport) (minimum : Nat) : Nat :=
  let zero (o n : Nat) : Bool := ((h.drop o).take n).all (· = 0)
  if !(leAt h 0 4 = 0x5048434D ∧ leAt h 4 2 = 1 ∧ zero 0xA1 3 ∧ zero 0x105 3 ∧ zero 0x1C8 56) then 1
  else if !r.digestOk then 2
  else if !r.keySigOk then 3
  else if !r.imageSigOk then 4
  else if !r.bodyOk then 5
  else if leAt h 8 4 < minimum then 6
  else 0

/-- Whether a copy of the configuration block is valid (Table BOOT-4). -/
def configOk (b : List Byte) : Bool :=
  leAt b 0 4 = 0x47464343 && leAt b 0x3C 4 = crc32c (b.take 60) && [0, 4, 8, 12, 16].contains (leAt b 8 1) && leAt b 9 1 < 4 &&
    leAt b 10 1 ≤ 168 && leAt b 11 1 = 0 && (leAt b 12 2 = 0 || (decide (1100 ≤ leAt b 12 2) && decide (leAt b 12 2 ≤ 2200))) &&
    ((b.drop 14).take 46).all (· = 0)

/-- Which valid copy is used: the one whose sequence is AFTER the other's; either, where they are equal. UNORDERED is as BEFORE (07 R228). -/
def State.pickConfig (s : State) (b0 b1 : List Byte) : Option Nat × State :=
  match configOk b0, configOk b1 with
  | false, false => (none, s)
  | true, false => (some 0, s)
  | false, true => (some 1, s)
  | true, true =>
    let q0 := n32 (leAt b0 4 4)
    let q1 := n32 (leAt b1 4 4)
    match serialCmp q0 q1 with
    | .equal => (some ((s.freeNow 1).toNat), s.useFree 1)
    | .after => (some 1, s)
    | _ => (some 0, s.serialLog 8 q0 q1)

/-- The configuration in use: its copy, or the defaults; the scrub period and the power cap take effect. -/
def State.configure (s : State) : State :=
  let b0 := s.flashBytes 0x6000000 64
  let b1 := s.flashBytes 0x6010000 64
  let (c, s1) := s.pickConfig b0 b1
  let b := match c with
    | none => List.replicate 64 0
    | some 0 => b0
    | some _ => b1
  let hours := leAt b 10 1
  let cap := if leAt b 12 2 = 0 then 2200 else leAt b 12 2
  let s2 : State := { s1 with
    bt := { s1.bt with cfgDefault := c.isNone, cfgCopy := c.getD 0, carve := if c.isNone then 8 else leAt b 8 1, tickWrap := bitAt (leAt b 9 1) 0,
                       quick := bitAt (leAt b 9 1) 1 },
    pw := { s1.pw with cap := cap } }
  (List.range 16).foldl (fun s k => s.setScrubHours k hours) s2

/-- The end of phase 3 (R379): the slot with the higher secver first, slot A when they are equal. -/
def State.imageEnd (s : State) (ra rb : SlotReport) : State :=
  let ha := s.flashBytes 0 512
  let hb := s.flashBytes 0x3000000 512
  let ca := slotCheck ha ra s.minSecver
  let cb := slotCheck hb rb s.minSecver
  let firstB := leAt ha 8 4 < leAt hb 8 4
  let a := if firstB ∧ cb = 0 then 7 else ca
  let b := if ¬ firstB ∧ ca = 0 then 7 else cb
  let s1 : State := { s with bt := { s.bt with slotA := a, slotB := b } }
  if a ≠ 0 ∧ b ≠ 0 then s1.moduleFail 3 0xFFFFFFFF
  else
    let h := if a = 0 then ha else hb
    let s2 := s1.configure
    { s2 with bt := { s2.bt with slotUsed := if a = 0 then 0 else 1, imgSecver := n32 (leAt h 8 4), imgCommit := bitAt (leAt h 6 1) 0, phase := 4 } }

/-! #### Training and self-test (R386 to R392) -/

/-- The lane-spare decision of R387: the lanes of a sub-channel that failed, 12 being the spare. None: the sub-channel is mapped out. -/
def spareDecision (fails : List Nat) : Option (Option Nat × Bool) :=
  let spareBad := fails.contains 12
  match (fails.filter (· < 12)).eraseDups with
  | [] => some (none, spareBad)
  | [l] => if spareBad then none else some (some l, false)
  | _ => none

/-- The end of phase 5: trained sub-channels open, and their activation grid counts from here (03 R98); those that failed twice, or have too many bad lanes, are mapped out. -/
def State.trainEnd (s : State) (r : PhaseReport) : State :=
  let fails (c : Nat) : List Nat := (r.laneFail.filter fun p => p.1.val = c).map (·.2)
  let bad (c : Nat) : Bool := r.trainFail.any (fun i => i.val = c) || (spareDecision (fails c)).isNone
  let f (c : Nat) : SubCh :=
    let x := s.sub c
    if x.state ≠ 0 ∨ bad c then x
    else match spareDecision (fails c) with
      | some (sp, sf) => { x with state := 1, spare := sp, spareFailed := sf, grid := 1000 * s.now }
      | none => x
  let s1 : State := { s with dr := { s.dr with sub := tfill subInit 1024 f } }
  ((List.range 1024).filter bad).foldl (fun s c => s.mapOutSub c) s1

/-- A bank is mapped out for its counts: any uncorrectable codeword, or more than 64 corrected ones. -/
def bankBad (r : Nat × Nat) : Bool := 0 < r.2 || 64 < r.1

/-- Corrected and uncorrectable codewords of a bank in a report. -/
def reportOf (r : PhaseReport) (b : Nat) : Nat × Nat := ((r.bankRes.find? fun q => q.1.val = b).map (·.2)).getD (0, 0)

/-- The traffic generators of the sub-channels in service have run a pattern at boot. -/
def State.tgBoot (s : State) (pattern : Nat) (quick : Bool) (r : PhaseReport) : State :=
  let f (c : Nat) : SubCh :=
    let x := s.sub c
    if x.state ≠ 1 then x else x.tgRun pattern false quick 0 ⟨[], (List.range 4).map fun j => reportOf r (bankOf c j)⟩
  { s with dr := { s.dr with sub := tfill subInit 1024 f } }

/-- Banks, sub-channels, dies and stacks mapped out for the results (R389). -/
def State.mapResults (s : State) (r : PhaseReport) : State :=
  let s1 := (r.bankRes.filter fun q => bankBad q.2 && decide ((s.sub (subOfBank q.1)).state ≠ 3)).foldl (fun s q => s.bankOut q.1) s
  let many (c : Nat) : Bool := 2 < (List.range 4).countP fun j => (s1.sub c).banksOut.getLsbD j
  let s2 := ((List.range 1024).filter many).foldl (fun s c => s.mapOutSub c) s1
  let dieBad (d : Nat) : Bool := 2 ≤ (List.range 4).countP fun i => (s2.sub (4 * d + i)).state = 3
  let s3 := ((List.range 256).filter dieBad).foldl (fun s d => s.dieOut d) s2
  let stackBad (k : Nat) : Bool := 4 < (List.range 16).countP fun i => s3.fl.out.contains (domOf .die (16 * k + i))
  ((List.range 16).filter stackBad).foldl (fun s k => s.stackOut k) s3

/-- The end of phase 6: patterns 1, 0, 2 and 3. A bit error in pattern 0 or 1 maps the sub-channel out. -/
def State.linkEnd (s : State) (r : PhaseReport) : State :=
  let s1 := r.linkFail.foldl (fun s q => (s.setSub q.1 ((s.sub q.1).tgRun 0 false false 1000 ⟨q.2, []⟩)).mapOutSub q.1) s
  (s1.tgBoot 3 false r).mapResults r

/-- The end of phase 8: failing units leave service; a failing hop bars the alley between its two positions (R391). -/
def State.unitsEnd (s : State) (r : PhaseReport) : State :=
  let s1 := r.unitFail.foldl (fun s u => s.unitOut u) s
  r.hopFail.foldl (fun s q =>
    let u := 128 * q.1.val + q.2
    let s1 := s.setUnit u { s.unitAt u with barHi := true }
    s1.setUnit (u + 1) { s1.unitAt (u + 1) with barLo := true }) s1

/-- The end of phase 9: every row holds zeros with matching check symbols (R392). -/
def State.clearMadder (s : State) : State := { s with dr := { s.dr with madder := [], mark := [], reported := [], segEpoch := [] } }

/-! #### The ready report (R379, R382, R393) -/

/-- The exponent table that firmware writes (03 R110). -/
def expTable : Tab W16 := (List.range 256).map fun i => (i, BitVec.ofNat 16 (expEntry i))

/-- Words of the boot epoch record that are written, of its 32,768, and the last of them (notes/assumptions/25.md). -/
def State.epochCount (s : State) : Nat :=
  (s.pw.flash.filter fun c => 0x6020000 ≤ c.1 && c.1 < 0x6040000).foldl (fun n c => max n ((c.1 - 0x6020000) / 4 + 1)) 0

/-- The boot epoch is appended to the record; a full record is erased first. -/
def State.writeEpoch (s : State) : State :=
  let n := s.epochCount
  let e := if n = 0 then 1 else leAt (s.flashBytes (0x6020000 + 4 * (n - 1)) 4) 0 4 + 1
  let fl := if n = 32768 then s.pw.flash.filter fun c => c.1 < 0x6020000 || 0x6040000 ≤ c.1 else s.pw.flash
  let at_ := if n = 32768 then 0x6020000 else 0x6020000 + 4 * n
  { s with bt := { s.bt with epoch := n32 e }, pw := { s.pw with flash := mwrite flashD fl at_ (toBytes 4 e) } }

/-- The end of phase 10. -/
def State.readyReport (s : State) : State :=
  let tile (t : Nat) : Tile :=
    let x := s.tileAt t
    if x.state = 0 then x else { x with state := 2, inService := true, carve := s.bt.carve, strict := 0xFFFF, weld := [], weldMark := [] }
  let stack (k : Nat) : Stack := let x := s.stackAt k; { x with inService := !s.fl.out.contains (domOf .stack k) }
  let unit (u : Nat) : BUnit := let x := s.unitAt u; if x.oos then x else { x with exps := expTable, std := true }
  let s1 : State := { s with tile := tfill tileD 64 tile, dr := { s.dr with stack := tfill stackD 16 stack }, unit := tfill unitD 2048 unit }
  let s2 := s1.writeEpoch
  { s2 with
    bt := { s2.bt with phase := 15, tickStart := if s.bt.tickWrap then 0xFFFFD8F0 else 0, timeReady := s.time,
                       minSecver := if s.bt.imgCommit ∧ s.minSecver < s.bt.imgSecver.toNat then s.bt.imgSecver else s.bt.minSecver },
    md := { s2.md with state := 1, running := true } }

/-- BOOT_PHASE_END (R376): the phase in progress ends on every tile that takes part, with what the tiles found. Phase 2 ends by CLAIM_ACK. -/
def execBootPhaseEnd (rep : PhaseReport) (s : State) : Host.Outcome State Fault Refusal :=
  let at_ (n : Nat) (s : State) : State := { s with bt := { s.bt with phase := n } }
  if !s.booting then .next s
  else match s.bt.phase with
    | 1 => .next (at_ 2 s)
    | 3 => .next (s.imageEnd rep.slotA rep.slotB)
    | 4 => .next (at_ 5 s)
    | 5 => .next (at_ 6 (s.trainEnd rep))
    | 6 => .next (at_ 7 (s.linkEnd rep))
    | 7 => .next (at_ 8 ((s.tgBoot 4 s.bt.quick rep).mapResults rep))
    | 8 => .next (at_ 9 (s.unitsEnd rep))
    | 9 => .next (at_ 10 s.clearMadder)
    | 10 => .next s.readyReport
    | _ => .next s

/-- READY_DEADLINE (R385), 2.5 s after PERST_N rose: it binds while FAST_THROTTLE_N stayed deasserted (R376, R400). -/
def execReadyDeadline (s : State) : Host.Outcome State Fault Refusal :=
  if s.booting ∧ 2500000000 ≤ s.now ∧ s.bt.throttled = false ∧ s.pw.throttleLow = false then .next (s.moduleFail 5 0xFFFFFFFF) else .next s

end Sys2Proof.Machine
end

