-- ==== Sys2Proof/Machine/DmaMove.lean ====
section
/-! DEFINITION. What DMA channels move (08 R259, R260): COPY burst by burst, ENCODE, DECODE; the control blocks as they reach them (01 R33). -/
namespace Sys2Proof.Machine

open Sys2Proof

/-! #### Control blocks (01 R33; 15 R403) -/

/-- A register of a control block by its physical address. -/
def State.ctrlReg (s : State) (pa : Nat) : Nat :=
  if isModCtrl pa then s.readReg (pa - ctrlBase) else s.readTileReg ((pa - tileCtrlBase) / 0x1000000) ((pa - tileCtrlBase) % 0x1000000)

/-- The bytes of [pa, pa + n) of a control block: whole registers. -/
def State.ctrlRead (s : State) (pa n : Nat) : List Byte := (List.range (n / 8)).flatMap fun i => toBytes 8 (s.ctrlReg (pa + 8 * i))

/-- The state an outcome leaves. -/
def stateOf (s : State) (o : Host.Outcome State Fault Refusal) : State := match o with | .next t => t | _ => s

/-- MBOX_CTRL: bit 0 enables, bit 1 disables (15 Table REGS-10). -/
def State.writeMboxCtrl (s : State) (n : Nat) (v : Nat) : State :=
  let m : MboxId := ⟨n % 64, Nat.mod_lt n (by decide)⟩
  let s1 := if bitAt v 0 then stateOf s (execMboxEnable m s) else s
  if bitAt v 1 then stateOf s1 (execMboxDisable m s1) else s1

/-- An agent's write of a whole register of the module control block, those with a row of their own included (15 R402 to R416). -/
def State.agentWriteReg (s : State) (o : Nat) (v : W64) : State :=
  if o = 0x100 ∨ o = 0x108 then stateOf s (execBar2BaseWrite (if o = 0x100 then .A else .B) v s)
  else if o = 0x110 then let s1 := s.writeReg o 8 v.toNat; if v.getLsbD 1 then stateOf s1 (execBar2Clear s1) else s1
  else if o = 0x200 then s.setPowerCap (bitsOf v.toNat 11 0)
  else if 0x600 ≤ o ∧ o < 0x680 then stateOf s (execUnitCapWrite ⟨(o - 0x600) / 8 % 16, Nat.mod_lt _ (by decide)⟩ v s)
  else if 0x680 ≤ o ∧ o < 0x700 then stateOf s (execEccPolicyWrite ⟨(o - 0x680) / 8 % 16, Nat.mod_lt _ (by decide)⟩ v s)
  else if 0x700 ≤ o ∧ o < 0x780 then stateOf s (execScrubCtrlWrite ⟨(o - 0x700) / 8 % 16, Nat.mod_lt _ (by decide)⟩ v s)
  else if 0x10000 ≤ o ∧ o < 0x11000 ∧ o % 64 = 0x20 then s.writeMboxCtrl ((o - 0x10000) / 64) v.toNat
  else if 0x50000 ≤ o ∧ o < 0x50100 ∧ o % 32 = 0 then stateOf s (execCwPortCtrlWrite ⟨(o - 0x50000) / 32 % 8, Nat.mod_lt _ (by decide)⟩ v s)
  else if o = 0x50100 then stateOf s (execCwLendCtrlWrite v s)
  else if 0x100000 ≤ o ∧ o < 0x120000 ∧ o % 128 = 0x30 ∧ v.getLsbD 0 then stateOf s (execClearCounts (subId ((o - 0x100000) / 128)) s)
  else if 0x120000 ≤ o ∧ o < 0x120800 then
    stateOf s (execSegLayoutWrite (tileId ((o - 0x120000) / 32)) ⟨(o - 0x120000) % 32 / 8 % 4, Nat.mod_lt _ (by decide)⟩ v s)
  else s.writeReg o 8 v.toNat

/-- Writes whole registers. The fields of a tile control block take writes of the tile's own control core only (15 R404). -/
def State.ctrlWrite (s : State) (pa : Nat) (b : List Byte) : State :=
  if isModCtrl pa then (List.range (b.length / 8)).foldl (fun s i => s.agentWriteReg (pa - ctrlBase + 8 * i) (n64 (leAt b (8 * i) 8))) s else s

/-! #### Sides of a transfer -/

/-- [pos, pos + n) of the source as pieces: device memory, control registers, a lot, or bytes from outside for host memory. -/
def State.dmRead (s : State) (c : Nat) (d : List Byte) (cs : List (Nat × Nat)) (pos n : Nat) (host : HostData) (errs : List ScrubErr) :
    List Piece × State :=
  if 2 ≤ dmSrcKind d then (recut 0 (padTo 0 n host.bytes) fun _ => false, s)
  else if fromLot d then (s.lotBytes c pos n, s.dropReads c pos n)
  else match cs with
    | (a, _) :: _ => if isCtrl a then (recut 0 (s.ctrlRead a n) fun _ => false, s) else s.readChunks .dma cs errs (dmClass d)
    | [] => ([], s)

/-- Writes pieces at position `pos` of the destination, each 32-byte word with its poison. -/
def State.dmWrite (s : State) (c : Nat) (d : List Byte) (cs : List (Nat × Nat)) (pos : Nat) (ps : List Piece) : State :=
  if 2 ≤ dmDstKind d then s.hostWrite (dmDst d + pos) (bytesOf ps)
  else if toLot d then s.woadWrite c (woadSlot (dmDst d)) (woadOff (dmDst d) + pos) (bytesOf ps) (piecesBad 0 ps)
  else match cs with
    | (a, _) :: _ => if isCtrl a then s.ctrlWrite a (bytesOf ps) else s.writeChunksAs .dma (dmClass d) cs ps
    | [] => s

/-- Whether the device side of a transfer can be performed now. -/
def State.dmReady (s : State) (d : List Byte) (sp dp : List (Nat × Nat)) : Bool :=
  let mem (cs : List (Nat × Nat)) := cs.filter fun c => !isCtrl c.1
  s.xferReady (if fromLot d then [] else mem sp) (if toLot d then [] else mem dp)

/-- Whether the host sides of a transfer fail: the link, or a port that is down. -/
def State.linkBad (s : State) (x : Chan) (linkOk : Bool) : Bool := dmOutside x.desc && (!linkOk || !s.portsUp x.desc x.other)

/-! #### COPY -/

/-- A burst in flight ends; the last one ends the transfer. -/
def State.burstDone (s : State) (c : Nat) (b : Burst) : State :=
  let x := s.chanAt c
  let s1 := s.setChan c { x with flight := x.flight.erase b }
  if x.granted = dmBursts x.desc ∧ (x.flight.erase b).isEmpty then s1.endXfer c 0 else s1

/-- DMA_COPY (R259, R260): one burst in flight is performed; the bursts of a descriptor may be performed in any order. Poison is carried. -/
def execDmaCopy (c : ChanId) (host : HostData) (errs : BurstErr) (s : State) : Host.Outcome State Fault Refusal :=
  let x := s.chanAt c
  let d := x.desc
  match (if x.doing 0 then x.flight[errs.pos.val]? else none) with
  | none => .next s
  | some b =>
    let pos := 512 * b.k
    let n := min 512 (dmLen d - pos)
    if s.linkBad x host.linkOk then .next (s.linkFail c)
    else if (fromLot d ∧ !s.lotReady c pos n) ∨ !s.dmReady d b.src b.dst then .next s
    else
      let s0 := b.msg.elim s s.carryMsg
      let (ps, s1) := s0.dmRead c d b.src pos n host errs.errs
      .next ((s1.dmWrite c d b.dst pos ps).burstDone c b)

/-! #### ENCODE and DECODE -/

/-- Whether every burst of the transfer has been granted. -/
def Chan.moved (x : Chan) : Bool := x.granted = dmBursts x.desc

/-- The directory's record of a frame that an ENCODE wrote in a pool or a lot: the old frame's place is free, the charge follows (R238, R248). -/
def State.recordFrame (s : State) (d : List Byte) (plain : List Byte) : State :=
  let n := dmObject d
  let o := s.objAt n
  let tier := if 2 ≤ dmDstKind d then 2 else 1
  let loc := if tier = 2 then dmDst d else woadSlot (dmDst d) * 2 ^ 30 + woadOff (dmDst d)
  let old := o.unit (dmUnit d)
  if o.live ∧ (2 ≤ dmDstKind d ∨ isWoad (dmDst d)) then
    let s1 := if old.st = 1 then s.freePlace old.tier old.loc else s
    let s2 := ((s1.takePlace tier loc plain.length).discharge o.payer (o.unitTier (dmUnit d)) o.unitBytes).charge o.payer tier o.unitBytes
    s2.setObj n (o.setUnit (dmUnit d) { old with st := 1, tier := tier, loc := loc, plain := plain, epoch := (s.ten (dmTenant d)).epoch })
  else s

/-- DMA_ENCODE (R260): the frame of the unit image, encrypted; poisoned data ends it with POISON and writes nothing. -/
def execDmaEncode (c : ChanId) (errs : List ScrubErr) (s : State) : Host.Outcome State Fault Refusal :=
  let x := s.chanAt c
  let d := x.desc
  if x.doing 1 && x.moved then
    match s.dmRange x (dmSrcKind d) false (dmSrc d) (dmLen d) with
    | .error e => .next (s.endXfer c e)
    | .ok sp =>
      if s.linkBad x true then .next (s.linkFail c)
      else if !s.dmReady d sp [] then .next s else
      let (ps, s1) := s.dmRead c d sp 0 (dmLen d) ⟨[], true⟩ errs
      if anyPoison ps then .next (s1.endXfer c 3)
      else
        let plain := buildFrame (fCompress (s.objAt (dmObject d)).flags) (dmUkind d) (dmObject d) (dmUnit d) (bytesOf ps)
        let t := BitVec.ofNat 16 (dmTenant d)
        let text := cipherText t (s.ten (dmTenant d)).epoch (n32 (dmObject d)) (n32 (dmUnit d)) plain
        match s1.dmRange x (dmDstKind d) true (dmDst d) text.length with
        | .error e => .next (s1.endXfer c e)
        | .ok dp =>
          if !s1.poolsOk d x.other text.length then .next (s1.endXfer c 1)
          else if !s.dmReady d sp dp then .next s else
          let s2 := (s1.dmWrite c d dp 0 (recut 0 text fun _ => false)).recordFrame d plain
          .next ((s2.setChan c { s2.chanAt c with flen := text.length }).endXfer c 0)
  else .next s

/-- The unit image of a frame's bytes under the tenant's present key (R242, R244); none where a check fails. -/
def State.decipher (s : State) (d : List Byte) (text : List Byte) : Option (List Byte) :=
  let t := dmTenant d
  decodeFrame (dmUkind d) (dmObject d) (dmUnit d) (dmLen d)
    (plainText (BitVec.ofNat 16 t) (s.ten t).epoch (n32 (dmObject d)) (n32 (dmUnit d)) text)

/-- DMA_DECODE (R260): decrypts, checks and decodes the frame; one that fails is read once more, then ends with CHECK (Table TIER-8). -/
def execDmaDecode (c : ChanId) (host : HostData) (errs : List ScrubErr) (s : State) : Host.Outcome State Fault Refusal :=
  let x := s.chanAt c
  let d := x.desc
  if x.doing 2 && x.moved then
    match s.dmRange x (dmSrcKind d) false (dmSrc d) (dmFlen d), s.dmRange x (dmDstKind d) true (dmDst d) (dmLen d) with
    | .error e, _ => .next (s.endXfer c e)
    | _, .error e => .next (s.endXfer c e)
    | .ok sp, .ok dp =>
      if s.linkBad x host.linkOk then .next (s.linkFail c)
      else if (fromLot d ∧ !s.lotReady c 0 (dmFlen d)) ∨ !s.dmReady d sp dp then .next s
      else
        let (ps, s1) := s.dmRead c d sp 0 (dmFlen d) host errs
        match (if anyPoison ps then none else s1.decipher d (bytesOf ps)) with
        | some b => .next ((s1.dmWrite c d dp 0 (recut 0 b fun _ => false)).endXfer c 0)
        | none =>
          if x.reread then .next (s1.endXfer c 4)
          else
            let s2 := s1.setChan c { s1.chanAt c with reread := true, granted := 0 }
            .next (if fromLot d then s2.blockRead c d else s2)
  else .next s

end Sys2Proof.Machine
end

