-- ==== Sys2Proof/Machine/Loops.lean ====
section
/-! DEFINITION. The adaptive loops and power capping (14 R394 to R399). -/
namespace Sys2Proof.Machine

open Sys2Proof

/-- The primary's loops run from the end of phase 5 until reset, or until the module has stopped (R394). -/
def State.loopsRun (s : State) : Bool := !s.pw.inReset && decide (5 < s.bt.phase) && decide (s.md.state ≠ 2)

/-- The interval of a periodic loop, in ns, is over since it ran last, or it has not run (notes/assumptions/131.md). -/
def State.loopDue (s : State) (k interval : Nat) : Bool := (s.md.ran.lookup k).all fun t => decide (t + interval ≤ s.now + 1)

/-- A periodic loop has run: TIME + 1 is kept. -/
def State.loopRan (s : State) (k : Nat) : State := { s with md := { s.md with ran := tput (fun _ => 0) s.md.ran k (s.now + 1) } }

/-! #### Voltage and frequency (R395) -/

/-- The limit in force for a tile (15 Table REGS-16), 0 where none binds. An allotment that has not been set yet limits nothing. -/
def State.vfLimit (s : State) (x : Tile) (v : VfSense) : Nat :=
  if s.pw.throttleLow then 4
  else if x.stretched then 3
  else if 100 < v.temp then 1
  else if x.allot ≠ 0 ∧ x.allot < v.power then 2
  else if v.path ≤ x.freq then 5
  else 0

/-- The frequency that the loop sets, in 12.5 MHz units: 0.8 GHz under FAST_THROTTLE_N; a lower one, by a free amount, while droop, temperature or
power binds; else at most 50 MHz higher, as far as the path monitors allow (notes/assumptions/56.md). -/
def vfNext (limit freq path free : Nat) : Nat :=
  if limit = 4 then 64
  else if limit = 5 then max 64 (min path 160)
  else if limit = 0 then max 64 (min (freq + 4) (min path 160))
  else 64 + free % max 1 (freq - 64)

/-- VF_LOOP (R395, R400), every 1 µs; a clock that a droop has stretched stays so for 100 ns at least. -/
def execVfLoop (t : TileId) (v : VfSense) (s : State) : Host.Outcome State Fault Refusal :=
  let x := s.tileAt t
  if s.pw.inReset ∨ s.md.state = 2 ∨ x.state = 0 ∨ x.loopAt.any (fun t => decide (s.now < t + 1000)) ∨ (x.stretched ∧ s.now < x.droopAt + 100) then .next s
  else
    let l := s.vfLimit x v
    .next ((s.setTile t { x with freq := vfNext l x.freq v.path (s.freeNow 8).toNat, volt := max 600 (min 900 v.mv), limit := l,
                                 temp := v.temp % 256, stretched := false, loopAt := some s.now }).useFree 1)

/-- DROOP_TRIP (R395): the clock is stretched until the loop sets a lower frequency. -/
def execDroopTrip (t : TileId) (s : State) : Host.Outcome State Fault Refusal :=
  let x := s.tileAt t
  if s.pw.inReset ∨ s.md.state = 2 ∨ x.state = 0 then .next s
  else .next (s.setTile t { x with stretched := true, limit := 3, droopAt := s.now })

/-! #### Equalisation (R396) -/

/-- EYE_MARGIN_LOW: a sub-channel is retrained, its cause code being free; a Causeway port retrains; a PCIe port recovers by itself. -/
def execEyeMarginLow (site : EyeSite) (s : State) : Host.Outcome State Fault Refusal :=
  match site with
  | .sub c => if s.pw.inReset ∨ (s.sub c).state ≠ 1 then .next s else .next ((s.askRetrain c (s.freeNow 64).toNat).useFree 1)
  | .cw p =>
    let x := s.cwAt p
    if x.state ≠ 2 then .next s
    else .next ((s.setCw p { x with state := 1, attempts := 0, failed := 0, expired := false, cause := some (s.freeNow 64).toNat }).useFree 1)
  | .pcie _ => .next s

/-! #### Scrub rate (R397) -/

/-- One evaluation of a stack. -/
def Stack.scrubRate (x : Stack) : Stack :=
  let c := x.corrected1h.toNat
  if x.hours ≠ 0 then { x with corrected1h := 0, quiet := 0 }
  else
    let quiet := if c < 16 then x.quiet + 1 else 0
    if 1024 ≤ c then { x with corrected1h := 0, quiet := quiet, period := max 1 (x.period / 2) }
    else if 64 ≤ c ∧ 24 < x.period then { x with corrected1h := 0, quiet := quiet, period := 24 }
    else if 24 ≤ quiet then { x with corrected1h := 0, quiet := 0, period := min 168 (2 * x.period) }
    else { x with corrected1h := 0, quiet := quiet }

/-- SCRUB_RATE_LOOP, every hour. -/
def execScrubRateLoop (s : State) : Host.Outcome State Fault Refusal :=
  if !s.loopsRun ∨ !s.loopDue 0 3600000000000 then .next s
  else .next (State.loopRan { s with dr := { s.dr with stack := tfill stackD 16 fun k => (s.stackAt k).scrubRate } } 0)

/-! #### Bank concurrency (R398) -/

/-- One interval of a stack, against its allotment a in 0.1 W: 90% of it is the level to rise below. While FAST_THROTTLE_N is low no cap rises (R400). -/
def Stack.concurrency (x : Stack) (throttled : Bool) (v : StackSense) : Stack :=
  let cool := if v.temp < 90 ∧ 10 * v.power < 9 * x.allot ∧ !throttled then x.cool + 1 else 0
  let y := { x with temp := v.temp, cool := cool }
  if !x.loopEn then y
  else if 100 ≤ v.temp ∨ throttled then { y with cap := 1 }
  else if 95 ≤ v.temp ∨ x.allot < v.power then { y with cap := max 1 (x.cap - 1) }
  else if 10 ≤ cool then { y with cap := min 4 (x.cap + 1) }
  else y

/-- BANK_CONCURRENCY_LOOP, every 1 ms: what each stack senses, in order. -/
def execBankConcurrencyLoop (sense : List StackSense) (s : State) : Host.Outcome State Fault Refusal :=
  if !s.loopsRun ∨ !s.loopDue 1 1000000 then .next s
  else
    let f (k : Nat) : Stack := match sense[k]? with
      | some v => (s.stackAt k).concurrency s.pw.throttleLow v
      | none => s.stackAt k
    .next (State.loopRan { s with dr := { s.dr with stack := tfill stackD 16 f } } 1)

/-! #### Power capping (R399) -/

/-- POWER_MEASURE, every 1 µs: the average over the last 1 ms in W, the input voltage and current. Power at the cap in force sets at_cap. -/
def execPowerMeasure (w mv ma : Nat) (s : State) : Host.Outcome State Fault Refusal :=
  let held := !s.pw.inReset && decide (s.md.state ≠ 2) && decide (s.powerInForce ≤ w)
  if !s.pw.inReset ∧ !s.loopDue 2 1000 then .next s
  else .next (State.loopRan { s with pw := { s.pw with power := min 4095 w, voltage := min 65535 (mv / 10), current := min 65535 (ma / 10), atCap := held,
                                                       atCapSeen := s.pw.atCapSeen || held } } 2)

/-- POWER_CAP_ENFORCE, every 100 µs: the stack allotments, each free up to 45 W, then the remainder equally among the tiles in service; the power of Causeway, PCIe
and control is free (notes/assumptions/57.md). In 0.1 W. -/
def execPowerCapEnforce (s : State) : Host.Outcome State Fault Refusal :=
  if !s.loopsRun ∨ !s.loopDue 3 100000 then .next s
  else
    let n := s.freeCount
    let allot (k : Nat) : Nat := min 450 (Config.freeBits 16 (n + k)).toNat
    let given := ((List.range 16).map allot).sum
    let tiles := (List.range 64).countP fun t => (s.tileAt t).state ≠ 0
    let rest := (10 * s.powerInForce - given - (Config.freeBits 16 (n + 16)).toNat) / max 1 tiles
    let tile (t : Nat) : Tile := let x := s.tileAt t; if x.state = 0 then x else { x with allot := rest }
    let stack (k : Nat) : Stack := { s.stackAt k with allot := allot k }
    .next (({ s with tile := tfill tileD 64 tile, dr := { s.dr with stack := tfill stackD 16 stack } }).useFree 17 |>.loopRan 3)

end Sys2Proof.Machine
end

