-- ==== Sys2Proof/Machine/Micro.lean ====
section
/-! DEFINITION. The 21 micro-instructions of a bank unit (03 Table BANK-8). Operand selection that the spec leaves to the program store is
fixed by notes/assumptions/19.md and 21.md. -/
namespace Sys2Proof.Machine

open Sys2Proof

/-- The unit after an instruction: its next pc, YIELDED where a yield point follows (R88). -/
def BUnit.advance (x : BUnit) (m : Micro) (pc : Nat) : BUnit := { x with pc := pc % 512, state := if m.y then 2 else 1 }

/-- The job ends with FAULT and performs no part of the instruction (R121). -/
def BUnit.fail (x : BUnit) (code : Nat) : BUnit := { x with state := 5, fault := code }

/-- The 64-bit word of a micro-instruction (Table BANK-7). -/
def microBits (op : Nat) (m : Micro) : Nat :=
  op * 2 ^ 58 + b2n m.y * 2 ^ 57 + m.bk.toNat * 2 ^ 55 + m.xa.toNat * 2 ^ 51 + m.xb.toNat * 2 ^ 47 + m.kc.toNat * 2 ^ 45 + m.mode.toNat * 2 ^ 40 +
    m.rep.toNat * 2 ^ 32 + m.imm.toNat

/-- Runs `f` on a RUNNING unit whose store holds, at its pc, the instruction given: a unit executes the words of its micro-program store and nothing else (R88). -/
def onRunning (s : State) (u op : Nat) (m : Micro) (f : BUnit → State) : State :=
  let x := s.unitAt u
  if x.state = 1 ∧ (x.word x.pc).toNat = microBits op m then f x else s

def reps (m : Micro) : Nat := m.rep.toNat + 1

/-- Banks named by bk: 0 even, 1 odd, 2 both. -/
def bkBanks (m : Micro) : List Nat := match m.bk.toNat with | 0 => [0] | 1 => [1] | 2 => [0, 1] | _ => []

/-- Half-bank and stream buffer that mode names (notes/assumptions/19.md). -/
def modeHalf (m : Micro) : Nat := m.mode.toNat % 2
def modeBuf (m : Micro) : Nat := m.mode.toNat / 2 % 2

/-- NOP: does nothing. -/
def execMNop (u : UnitId) (m : Micro) (s : State) : Host.Outcome State Fault Refusal :=
  .next (onRunning s u 0x00 m fun x => s.setUnit u (x.advance m (x.pc + 1)))

/-- END (R88): ends the job; a standard program's effect is then in place, `errs` being the symbol errors its reads met by place (R103, R106, R110, R111;
notes/assumptions/20.md). -/
def execMEnd (u : UnitId) (x : MicroErr) (s : State) : Host.Outcome State Fault Refusal :=
  .next (onRunning s u 0x01 x.m fun y =>
    let r := (Run.mk s.dr u y x.errs).finish
    { s with dr := r.d }.setUnit u (if r.x.fault = 0 then { r.x with state := 4, pc := (y.pc + 1) % 512 } else { r.x with state := 5 }))

/-- SETX: xa ← imm[23:0], or parameter word imm[4:0] when mode = 1. -/
def execMSetx (u : UnitId) (m : Micro) (s : State) : Host.Outcome State Fault Refusal :=
  .next (onRunning s u 0x02 m fun x =>
    let v := if m.mode.toNat = 1 then x.param (m.imm.toNat % 32) else m.imm.toNat
    s.setUnit u ((x.setX m.xa.toNat (BitVec.ofNat 24 v)).advance m (x.pc + 1)))

/-- One ADDX, `n` times over: xa ← (xb + imm) mod 2^24. -/
def addxN (m : Micro) : Nat → BUnit → BUnit
  | 0, x => x
  | n + 1, x => addxN m n (x.setX m.xa.toNat (x.xr m.xb.toNat + m.imm.setWidth 24))

def execMAddx (u : UnitId) (m : Micro) (s : State) : Host.Outcome State Fault Refusal :=
  .next (onRunning s u 0x03 m fun x => s.setUnit u ((addxN m (reps m) x).advance m (x.pc + 1)))

/-- SETK: k ← imm[15:0], or xb[15:0] when mode = 1. -/
def execMSetk (u : UnitId) (m : Micro) (s : State) : Host.Outcome State Fault Refusal :=
  .next (onRunning s u 0x04 m fun x =>
    let v := if m.mode.toNat = 1 then (x.xr m.xb.toNat).setWidth 16 else m.imm.setWidth 16
    s.setUnit u ((x.setK m.kc.toNat v).advance m (x.pc + 1)))

/-- LOOP: if k ≠ 0, k ← k − 1 and jump. -/
def execMLoop (u : UnitId) (m : Micro) (s : State) : Host.Outcome State Fault Refusal :=
  .next (onRunning s u 0x05 m fun x =>
    let k := x.kr m.kc.toNat
    if k = 0 then s.setUnit u (x.advance m (x.pc + 1))
    else s.setUnit u ((x.setK m.kc.toNat (k - 1)).advance m (m.imm.toNat % 512)))

/-- BRZ: jump if xa = 0. -/
def execMBrz (u : UnitId) (m : Micro) (s : State) : Host.Outcome State Fault Refusal :=
  .next (onRunning s u 0x06 m fun x =>
    s.setUnit u (x.advance m (if x.xr m.xa.toNat = 0 then m.imm.toNat % 512 else x.pc + 1)))

/-! The distances of Table BANK-9, in ps: the sequencer stalls an instruction until they are met (R89). -/

def BUnit.half (x : BUnit) (i : Nat) : HalfT := tget (fun _ => noHalf) x.times i
def BUnit.setHalf (x : BUnit) (i : Nat) (f : HalfT → HalfT) : BUnit := { x with times := tput (fun _ => noHalf) x.times i (f (x.half i)) }

/-- Column cycles of 2.5 ns (R83). -/
def cycles (n : Nat) : Nat := 2500 * n

def actReady (x : BUnit) (i now : Nat) : Bool :=
  since (x.half i).act (cycles 24) now && since (x.half i).pre (cycles 8) now && (List.range 4).all fun k => since (x.half k).act (cycles 4) now
def preReady (x : BUnit) (i now : Nat) : Bool :=
  since (x.half i).act (cycles 17) now && since (x.half i).rd (cycles 3) now && since (x.half i).wr (cycles 12) now
def rdReady (x : BUnit) (i now : Nat) : Bool :=
  since (x.half i).act (cycles 8) now && [i / 2 * 2, i / 2 * 2 + 1].all fun k => since (x.half k).wr (cycles 4) now
def wrReady (x : BUnit) (i now : Nat) : Bool := since (x.half i).act (cycles 8) now

/-- When the last of an instruction's repetitions issues, `n` cycles apart. -/
def lastRep (m : Micro) (n now : Nat) : Nat := now + cycles n * m.rep.toNat

/-- ACT (R84, R87, R98): activates row xa in the half-bank of its parity, on the unit's own slot of the grid; outside the job's ranges it faults with RANGE. Each
repetition is an activation of its own, tRC after the one before. DESIGN CHOICE: bk = 3, which is reserved, also ends the job with RANGE
(notes/assumptions/115.md). -/
def execMAct (u : UnitId) (i : MicroAt) (s : State) : Host.Outcome State Fault Refusal :=
  let m := i.m
  let now := i.now
  .next (onRunning s u 0x07 m fun x =>
    let row := (x.xr m.xa.toNat).toNat
    if !(x.inRead row || x.inWrite row) || bkBanks m = [] then s.setUnit u (x.fail 1)
    else if !((bkBanks m).all fun b => actReady x (2 * b + row % 2) now) ∨ gridUp (s.sub (u / 2)).grid u now ≠ now then s
    else
      let x1 := (bkBanks m).foldl (fun x b =>
        { x with openRows := tput rowD x.openRows (2 * b + row % 2) (some row),
                 log := (x.log ++ List.replicate (reps m) (row, b)).take 16 }.setHalf (2 * b + row % 2) fun h => { h with act := some (lastRep m 24 now) }) x
      s.setUnit u ({ x1 with acted := true }.advance m (x.pc + 1)))

/-- PRE: precharges the half-bank of bk given by mode[0]. -/
def execMPre (u : UnitId) (i : MicroAt) (s : State) : Host.Outcome State Fault Refusal :=
  let m := i.m
  let now := i.now
  .next (onRunning s u 0x08 m fun x =>
    if !((bkBanks m).all fun b => preReady x (2 * b + modeHalf m) now) then s
    else
      let x1 := (bkBanks m).foldl (fun x b =>
        { x with openRows := tput rowD x.openRows (2 * b + modeHalf m) none }.setHalf (2 * b + modeHalf m) fun h => { h with pre := some (lastRep m 1 now) }) x
      s.setUnit u (x1.advance m (x.pc + 1)))

/-- The open row of bank b in the half-bank that mode names. -/
def BUnit.openRow (x : BUnit) (m : Micro) (b : Nat) : Option Nat := tget rowD x.openRows (2 * b + modeHalf m)

/-- Reads the chunk at column xa of bank b's open row into its stream buffer, noting poison (R100); `k` numbers the repetition. -/
def readChunk (d : Dram) (u : Nat) (m : Micro) (errs : List ScrubErr) (k : Nat) (x : BUnit) (b : Nat) : BUnit :=
  match x.openRow m b with
  | none => x
  | some row =>
    let col := (x.xr m.xa.toNat).toNat % 64 / 2 * 2
    let r0 := d.unitRead x.pol2 u b row col (errsOf errs (4 * k + 2 * b))
    let r1 := d.unitRead x.pol2 u b row (col + 1) (errsOf errs (4 * k + 2 * b + 1))
    ((x.setBuf (2 * b + modeBuf m) ⟨r0.data ++ r1.data, r0.poison || r1.poison⟩).noteRead b row col r0).noteRead b row (col + 1) r1

/-- `n` repetitions of RD from the k-th on, each adding 2 to xa. -/
def rdN (d : Dram) (u : Nat) (m : Micro) (errs : List ScrubErr) : Nat → Nat → BUnit → BUnit
  | 0, _, x => x
  | n + 1, k, x =>
    let x1 := (bkBanks m).foldl (readChunk d u m errs k) x
    rdN d u m errs n (k + 1) (x1.setX m.xa.toNat (x1.xr m.xa.toNat + 2))

/-- Whether every bank the instruction names has an open row and `ok` holds of it. DESIGN CHOICE: without an open row, or with bk = 3, which is reserved, RD and
WR end the job with RANGE, for the spec gives them no outcome (notes/assumptions/115.md). -/
def rowsOk (x : BUnit) (m : Micro) (ok : Nat → Bool) : Bool :=
  bkBanks m ≠ [] && (bkBanks m).all fun b => match x.openRow m b with
    | some r => ok r
    | none => false

/-- RD (R88, R89, R100): `errs` are the symbol errors met: of repetition k, 4k and 4k + 1 name the two codewords of the even bank, 4k + 2 and 4k + 3 those of
the odd. -/
def execMRd (u : UnitId) (i : MicroAt) (errs : List ScrubErr) (s : State) : Host.Outcome State Fault Refusal :=
  let m := i.m
  let now := i.now
  .next (onRunning s u 0x09 m fun x =>
    if !rowsOk x m (fun r => x.inRead r || x.inWrite r) then s.setUnit u (x.fail 1)
    else if !((bkBanks m).all fun b => rdReady x (2 * b + modeHalf m) now) then s
    else
      let x1 := (bkBanks m).foldl (fun x b => x.setHalf (2 * b + modeHalf m) fun h => { h with rd := some (lastRep m 1 now) }) x
      s.setUnit u ((rdN s.dr u m errs (reps m) 0 x1).advance m (x.pc + 1)))

/-- Writes bank b's stream buffer as the chunk at column xa (R101). -/
def writeChunk (u : Nat) (m : Micro) (x : BUnit) (d : Dram) (b : Nat) : Dram :=
  match x.openRow m b with
  | none => d
  | some row => d.putChunk u b row ((x.xr m.xa.toNat).toNat % 64 / 2) (x.buf (2 * b + modeBuf m)).data (x.buf (2 * b + modeBuf m)).poison

def wrN (u : Nat) (m : Micro) : Nat → Dram × BUnit → Dram × BUnit
  | 0, p => p
  | n + 1, (d, x) => wrN u m n ((bkBanks m).foldl (writeChunk u m x) d, x.setX m.xa.toNat (x.xr m.xa.toNat + 2))

/-- WR (R88, R89, R101): only inside the write range (R87). -/
def execMWr (u : UnitId) (i : MicroAt) (s : State) : Host.Outcome State Fault Refusal :=
  let m := i.m
  let now := i.now
  .next (onRunning s u 0x0A m fun x =>
    if !rowsOk x m x.inWrite then s.setUnit u (x.fail 1)
    else if !((bkBanks m).all fun b => wrReady x (2 * b + modeHalf m) now) then s
    else
      let (d, x1) := wrN u m (reps m) (s.dr, x)
      let x2 := (bkBanks m).foldl (fun x b => x.setHalf (2 * b + modeHalf m) fun h => { h with wr := some (lastRep m 1 now) }) x1
      { s with dr := d }.setUnit u ({ x2 with wrote := true }.advance m (x.pc + 1)))

/-- One BOP, `n` times over. -/
def bopN (m : Micro) : Nat → BUnit → BUnit
  | 0, x => x
  | n + 1, x =>
    let a := x.buf (m.xa.toNat % 4)
    let b := x.buf (m.xb.toNat % 4)
    let k := x.buf m.kc.toNat
    let op := m.mode.toNat
    bopN m n (x.setBuf (m.imm.toNat % 4) ⟨bitopList op a.data b.data k.data, a.poison || (op ≠ 3 && b.poison) || (op = 4 && k.poison)⟩)

/-- BOP (R88, R103): mode 0 AND, 1 OR, 2 XOR, 3 NOT, 4 SEL over stream buffers: a is buffer xa[1:0], b is xb[1:0], m is kc, the result goes to
buffer imm[1:0] (notes/assumptions/19.md). -/
def execMBop (u : UnitId) (m : Micro) (s : State) : Host.Outcome State Fault Refusal :=
  .next (onRunning s u 0x0B m fun x => s.setUnit u ((bopN m (reps m) x).advance m (x.pc + 1)))

/-- Every accumulator takes a free value (notes/assumptions/21.md). -/
def freeAccs (n : Nat) : Tab (BitVec 48) :=
  (List.range 1024).foldl (fun t i => tput accD t i (Config.freeBits 48 (n + i))) []

/-- A lane instruction whose operands the spec leaves to the program: the accumulators it may change are free values. -/
def laneOp (s : State) (u op : Nat) (m : Micro) : State :=
  onRunning s u op m fun x => (s.useFree 1024).setUnit u ({ x with accs := freeAccs s.freeCount }.advance m (x.pc + 1))

/-- TLU (R106): lookup and group accumulation on the codes in the stream buffers. -/
def execMTlu (u : UnitId) (m : Micro) (s : State) : Host.Outcome State Fault Refusal := .next (laneOp s u 0x0C m)

/-- GRP (R106): group close. -/
def execMGrp (u : UnitId) (m : Micro) (s : State) : Host.Outcome State Fault Refusal := .next (laneOp s u 0x0D m)

/-- DOT: lane dot products. -/
def execMDot (u : UnitId) (m : Micro) (s : State) : Host.Outcome State Fault Refusal := .next (laneOp s u 0x0E m)

/-- EXPW (R110): run maximum, weights and sums. -/
def execMExpw (u : UnitId) (m : Micro) (s : State) : Host.Outcome State Fault Refusal := .next (laneOp s u 0x0F m)

/-- LDR: a stream buffer's bytes go to the record latches at byte xb. The buffer is chosen by bk[0] and mode[1] (notes/assumptions/19.md). -/
def execMLdr (u : UnitId) (m : Micro) (s : State) : Host.Outcome State Fault Refusal :=
  .next (onRunning s u 0x10 m fun x =>
    let b := x.buf (2 * (m.bk.toNat % 2) + modeBuf m)
    let off := (x.xr m.xb.toNat).toNat % 2048 / 64 * 64
    s.setUnit u ({ x with recs := mwrite zeroByte x.recs off b.data, poison := x.poison || b.poison }.advance m (x.pc + 1)))

/-- Every result byte takes a free value (notes/assumptions/21.md). -/
def freeResult (n : Nat) : List Host.Cell :=
  (List.range 8192).foldl (fun t i => tput zeroByte t i (Config.freeBits 8 (n + i))) []

/-- FIN: writes results into the result latches; which accumulators feed which bytes is the program's (notes/assumptions/21.md). -/
def execMFin (u : UnitId) (m : Micro) (s : State) : Host.Outcome State Fault Refusal :=
  .next (onRunning s u 0x11 m fun x =>
    (s.useFree 8192).setUnit u ({ x with result := freeResult s.freeCount }.advance m (x.pc + 1)))

/-- ASND (R115, R116): the stream buffer of bk[0] and mode[1] (notes/assumptions/19.md) travels to the peer at position p3, once for each repetition; a peer
outside the quadrant is a path that the alley does not serve: RANGE. -/
def execMAsnd (u : UnitId) (m : Micro) (s : State) : Host.Outcome State Fault Refusal :=
  .next (onRunning s u 0x12 m fun x =>
    let v := u.val / 128 * 128 + alleyUnit (x.param 3 % 128)
    if v / 32 ≠ u.val / 32 then s.setUnit u (x.fail 1)
    else
      let b := x.buf (2 * (m.bk.toNat % 2) + modeBuf m)
      let s1 := s.setUnit u (x.advance m (x.pc + 1))
      s1.setUnit v { s1.unitAt v with alleyIn := (s1.unitAt v).alleyIn ++ List.replicate (reps m) b })

/-- ARCV (R117): receives one chunk for each repetition, with its poison mark, into the stream buffer of bk[0] and mode[1] (notes/assumptions/19.md); while they have
not come the unit stays on it. -/
def execMArcv (u : UnitId) (m : Micro) (s : State) : Host.Outcome State Fault Refusal :=
  .next (onRunning s u 0x13 m fun x =>
    match (x.alleyIn.take (reps m)).getLast? with
    | none => s
    | some b =>
      if x.alleyIn.length < reps m then s
      else
        s.setUnit u ({ x.setBuf (2 * (m.bk.toNat % 2) + modeBuf m) b with
          alleyIn := x.alleyIn.drop (reps m), poison := x.poison || (x.alleyIn.take (reps m)).any (·.poison) }.advance m (x.pc + 1)))

/-- FILL: a stream buffer takes parameter words p8 to p15, twice over. -/
def execMFill (u : UnitId) (m : Micro) (s : State) : Host.Outcome State Fault Refusal :=
  .next (onRunning s u 0x14 m fun x =>
    let pat := mread zeroByte x.desc 160 32
    let x1 := (bkBanks m).foldl (fun x b => x.setBuf (2 * b + modeBuf m) ⟨pat ++ pat, false⟩) x
    s.setUnit u (x1.advance m (x.pc + 1)))

end Sys2Proof.Machine
end

