-- ==== Sys2Proof/Machine/Sideband.lean ====
section
/-! DEFINITION. The sideband, the flash and boundary scan (16 R432; 14 R377). -/
namespace Sys2Proof.Machine

open Sys2Proof

/-- The sideband answers while P72V lies within the operating range, whatever the state of PERST_N. -/
def State.sideband (s : State) (act : State → State) : State :=
  if s.pw.driven ∧ s.pw.cond = 0 then act s else { s with pw := { s.pw with sb := .none } }

def State.sbAnswer (s : State) (r : SbResp) : State := { s with pw := { s.pw with sb := r } }

/-- ID. -/
def execSbId (s : State) : Host.Outcome State Fault Refusal := .next (s.sideband fun s => s.sbAnswer (.data devId))

/-- STATUS. -/
def execSbStatus (s : State) : Host.Outcome State Fault Refusal := .next (s.sideband fun s => s.sbAnswer (.data (toBytes 8 s.modStatus)))

/-- BOOT. -/
def execSbBoot (s : State) : Host.Outcome State Fault Refusal := .next (s.sideband fun s => s.sbAnswer (.data (toBytes 8 s.bootStatus)))

/-- CAP: a write is NACKed while PERST_N is asserted, or with a wrong PEC. -/
def execSbCap (op : CapOp) (s : State) : Host.Outcome State Fault Refusal :=
  .next (s.sideband fun s => match op with
    | .read => s.sbAnswer (.data (toBytes 2 s.pw.cap))
    | .write v pec => if s.pw.perstLow ∨ pec = .bad then s.sbAnswer .nack else (s.setPowerCap (bitsOf v.toNat 11 0)).sbAnswer .ack)

/-- POWER. -/
def execSbPower (s : State) : Host.Outcome State Fault Refusal := .next (s.sideband fun s => s.sbAnswer (.data (toBytes 8 s.pwrStatus)))

/-- THERM. -/
def execSbTherm (s : State) : Host.Outcome State Fault Refusal := .next (s.sideband fun s => s.sbAnswer (.data (toBytes 8 s.thermStatus)))

/-! #### The flash (14 R377) -/

/-- The first byte that a write or erase may not touch. -/
def flashTop : Nat := 0x6040000

/-- Commands 0x40 to 0x42 are accepted only while PERST_N is asserted and the busy bit is clear. -/
def State.flashFree (s : State) : Bool := s.pw.perstLow && s.pw.flashOp.isNone

/-- FLASH_READ: 1 to 32 bytes; bytes beyond the device are free. -/
def execFlashRead (addr len : Nat) (s : State) : Host.Outcome State Fault Refusal :=
  .next (s.sideband fun s =>
    if !s.flashFree ∨ len = 0 ∨ 32 < len then s.sbAnswer .nack
    else
      let b := (List.range len).map fun i => if addr + i < 2 ^ 27 then tget flashD s.pw.flash (addr + i) else Config.freeBits 8 (s.freeCount + i)
      let s1 : State := { s with pw := { s.pw with flashErr := false } }
      (s1.sbAnswer (.data b)).useFree (if addr + len ≤ 2 ^ 27 then 0 else len))

/-- FLASH_WRITE: within one 256-byte page; one that touches 0x604_0000 or above sets the error bit and changes nothing. -/
def execFlashWrite (addr : Nat) (data : List Byte) (pec : Pec) (s : State) : Host.Outcome State Fault Refusal :=
  .next (s.sideband fun s =>
    if !s.flashFree ∨ pec = .bad ∨ data = [] ∨ 32 < data.length ∨ 256 < addr % 256 + data.length then s.sbAnswer .nack
    else if flashTop < addr + data.length then ({ s with pw := { s.pw with flashErr := true } }).sbAnswer .ack
    else ({ s with pw := { s.pw with flashErr := false, flashOp := some (.write addr data) } }).sbAnswer .ack)

/-- FLASH_ERASE: the 64 KiB sector of the address. -/
def execFlashErase (addr : Nat) (pec : Pec) (s : State) : Host.Outcome State Fault Refusal :=
  .next (s.sideband fun s =>
    if !s.flashFree ∨ pec = .bad then s.sbAnswer .nack
    else if flashTop ≤ addr then ({ s with pw := { s.pw with flashErr := true } }).sbAnswer .ack
    else ({ s with pw := { s.pw with flashErr := false, flashOp := some (.erase (addr / 65536 * 65536)) } }).sbAnswer .ack)

/-- FLASH_STATUS: bit 0 busy, bit 1 error in the last command. -/
def execFlashStatus (s : State) : Host.Outcome State Fault Refusal :=
  .next (s.sideband fun s => s.sbAnswer (.data (toBytes 1 (b2n s.pw.flashOp.isSome + 2 * b2n s.pw.flashErr))))

/-- What programming leaves of a byte: bits are only cleared (a NOR device; notes/assumptions/54.md). -/
def State.program (s : State) (addr : Nat) (data : List Byte) : List Host.Cell :=
  mwrite flashD s.pw.flash addr (List.zipWith (· &&& ·) (mread flashD s.pw.flash addr data.length) data)

/-- FLASH_OP_DONE; an operation in progress ends whatever PERST_N does. -/
def execFlashOpDone (s : State) : Host.Outcome State Fault Refusal :=
  match s.pw.flashOp with
  | none => .next s
  | some (.write a d) => .next { s with pw := { s.pw with flash := s.program a d, flashOp := none } }
  | some (.erase a) => .next { s with pw := { s.pw with flash := s.pw.flash.filter (fun c => c.1 < a || a + 65536 ≤ c.1), flashOp := none } }

/-! #### Boundary scan (R432) -/

/-- The IEEE 1149.1 TAP controller, by TMS at a rising edge of TCK (notes/assumptions/28.md). -/
def TapSt.next (t : TapSt) (tms : Bool) : TapSt :=
  match t, tms with
  | .reset, true => .reset
  | .reset, false => .idle
  | .idle, true => .selDr
  | .idle, false => .idle
  | .selDr, true => .selIr
  | .selDr, false => .capDr
  | .capDr, true => .ex1Dr
  | .capDr, false => .shDr
  | .shDr, true => .ex1Dr
  | .shDr, false => .shDr
  | .ex1Dr, true => .upDr
  | .ex1Dr, false => .paDr
  | .paDr, true => .ex2Dr
  | .paDr, false => .paDr
  | .ex2Dr, true => .upDr
  | .ex2Dr, false => .shDr
  | .upDr, true => .selDr
  | .upDr, false => .idle
  | .selIr, true => .reset
  | .selIr, false => .capIr
  | .capIr, true => .ex1Ir
  | .capIr, false => .shIr
  | .shIr, true => .ex1Ir
  | .shIr, false => .shIr
  | .ex1Ir, true => .upIr
  | .ex1Ir, false => .paIr
  | .paIr, true => .ex2Ir
  | .paIr, false => .paIr
  | .ex2Ir, true => .upIr
  | .ex2Ir, false => .shIr
  | .upIr, true => .selDr
  | .upIr, false => .idle

/-- TAP_ACCESS: with PERST_N deasserted the TAP is held in Test-Logic-Reset. The scan chains and the instruction register are not given: TDI
reaches none. -/
def execTapAccess (tms _tdi : Bool) (s : State) : Host.Outcome State Fault Refusal :=
  .next { s with pw := { s.pw with tap := if s.pw.driven && s.pw.perstLow then s.pw.tap.next tms else .reset } }

end Sys2Proof.Machine
end

