-- ==== Sys2Proof/Machine/ThreadInt.lean ====
section
/-! DEFINITION. Scalar integer instructions (06 R177, Tables TILE-5, TILE-6, R179). -/
namespace Sys2Proof.Machine

open Sys2Proof

/-- A REG instruction gd ← op(ga, gb). -/
def State.regOp (s : State) (c : Instr) (t : ThrId) (x : RegF) (legal : Bool) (op : W64 → W64 → W64) : State :=
  s.onRegs c t [r5 x.a, r5 x.b, r5 x.d] legal fun th => th.wr x.d (op (th.rd x.a) (th.rd x.b))

/-- An IMM instruction gd ← op(ga). -/
def State.immOp (s : State) (c : Instr) (t : ThrId) (x : ImmF) (legal : Bool) (op : W64 → W64) : State :=
  s.onRegs c t [r5 x.a, r5 x.d] legal fun th => th.wr x.d (op (th.rd x.a))

def execAdd (t : ThrId) (x : RegF) (s : State) : Host.Outcome State Fault Refusal := .next (s.regOp (.add t x) t x (x.f == 0) (· + ·))
def execSub (t : ThrId) (x : RegF) (s : State) : Host.Outcome State Fault Refusal := .next (s.regOp (.sub t x) t x (x.f == 0) (· - ·))
def execMul (t : ThrId) (x : RegF) (s : State) : Host.Outcome State Fault Refusal := .next (s.regOp (.mul t x) t x (x.f == 0) (· * ·))

/-- The high 64 bits of a product. -/
def mulHigh (unsigned : Bool) (a b : W64) : W64 :=
  if unsigned then BitVec.ofNat 64 (a.toNat * b.toNat / 2 ^ 64) else BitVec.ofInt 64 (a.toInt * b.toInt / 2 ^ 64)

def execMulh (t : ThrId) (x : RegF) (s : State) : Host.Outcome State Fault Refusal :=
  .next (s.regOp (.mulh t x) t x (x.f.toNat < 2) (mulHigh (x.f.getLsbD 0)))

/-- DIV: quotient or remainder, toward zero; a divisor of 0 gives 0. -/
def divide (unsigned remainder : Bool) (a b : W64) : W64 :=
  if b = 0 then 0
  else match unsigned, remainder with
    | true, false => a / b
    | true, true => a % b
    | false, false => BitVec.ofInt 64 (a.toInt.tdiv b.toInt)
    | false, true => BitVec.ofInt 64 (a.toInt.tmod b.toInt)

def execDiv (t : ThrId) (x : RegF) (s : State) : Host.Outcome State Fault Refusal :=
  .next (s.regOp (.div t x) t x (x.f.toNat < 4) (divide (x.f.getLsbD 0) (x.f.getLsbD 1)))

def execAnd (t : ThrId) (x : RegF) (s : State) : Host.Outcome State Fault Refusal := .next (s.regOp (.and t x) t x (x.f == 0) (· &&& ·))
def execOr (t : ThrId) (x : RegF) (s : State) : Host.Outcome State Fault Refusal := .next (s.regOp (.or t x) t x (x.f == 0) (· ||| ·))
def execXor (t : ThrId) (x : RegF) (s : State) : Host.Outcome State Fault Refusal := .next (s.regOp (.xor t x) t x (x.f == 0) (· ^^^ ·))

/-- Shift of a w-bit value: 0 left, 1 logical right, 2 arithmetic right, 3 rotate right. -/
def shiftBy {w : Nat} (kind : Nat) (a : BitVec w) (n : Nat) : BitVec w :=
  match kind with
  | 0 => a <<< n
  | 1 => a >>> n
  | 2 => a.sshiftRight n
  | _ => a.rotateRight n

/-- SHIFT: by gb[5:0], or by f[5:0] where f[10] = 1. The amount that is not used must be 0 (R176). -/
def execShift (t : ThrId) (x : RegF) (s : State) : Host.Outcome State Fault Refusal :=
  let f := x.f.toNat
  let legal := bitsOf f 9 8 = 0 && (if bitAt f 10 then x.b == 0 else bitsOf f 5 0 = 0)
  .next (s.regOp (.shift t x) t x legal fun a b => shiftBy (bitsOf f 7 6) a (if bitAt f 10 then bitsOf f 5 0 else b.toNat % 64))

def execCmp (t : ThrId) (x : RegF) (s : State) : Host.Outcome State Fault Refusal :=
  .next (s.regOp (.cmp t x) t x (x.f.toNat < 6) fun a b => boolW (cmpCond x.f.toNat a b))

/-- MINMAX f[1:0]: 0 signed minimum, 1 signed maximum, 2 unsigned minimum, 3 unsigned maximum. -/
def minMax (c : Nat) (a b : W64) : W64 :=
  match c with
  | 0 => if b.slt a then b else a
  | 1 => if a.slt b then b else a
  | 2 => if b.ult a then b else a
  | _ => if a.ult b then b else a

def execMinmax (t : ThrId) (x : RegF) (s : State) : Host.Outcome State Fault Refusal :=
  .next (s.regOp (.minmax t x) t x (x.f.toNat < 4) (minMax x.f.toNat))

def execAddi (t : ThrId) (x : ImmF) (s : State) : Host.Outcome State Fault Refusal :=
  .next (s.immOp (.addi t x) t x true (· + x.imm.signExtend 64))
def execAndi (t : ThrId) (x : ImmF) (s : State) : Host.Outcome State Fault Refusal :=
  .next (s.immOp (.andi t x) t x true (· &&& x.imm.setWidth 64))
def execOri (t : ThrId) (x : ImmF) (s : State) : Host.Outcome State Fault Refusal :=
  .next (s.immOp (.ori t x) t x true (· ||| x.imm.setWidth 64))
def execXori (t : ThrId) (x : ImmF) (s : State) : Host.Outcome State Fault Refusal :=
  .next (s.immOp (.xori t x) t x true (· ^^^ x.imm.setWidth 64))

/-- MOVK: 16 bits of gd at place p = a[1:0]; the others kept. -/
def moveKeep (old : W64) (p : Nat) (imm : W16) : W64 :=
  (old &&& ~~~((0xFFFF#64) <<< (16 * p))) ||| ((imm.setWidth 64) <<< (16 * p))

def execMovk (t : ThrId) (x : ImmF) (s : State) : Host.Outcome State Fault Refusal :=
  .next (s.onRegs (.movk t x) t [r5 x.d] (x.a.toNat < 4) fun th => th.wr x.d (moveKeep (th.rd x.d) x.a.toNat x.imm))

/-- BITS f[1:0]: 0 leading zeros, 1 trailing zeros, 2 population count. -/
def bitCount (c : Nat) (a : W64) : Nat :=
  match c with
  | 0 => 64 - bitLen a.toNat
  | 1 => ((List.range 64).find? fun i => a.getLsbD i).getD 64
  | _ => (List.range 64).countP fun i => a.getLsbD i

/-- BITS: f = 3 has no meaning in Table TILE-5 and faults with ILLEGAL (notes/assumptions/41.md). -/
def execBits (t : ThrId) (x : RegF) (s : State) : Host.Outcome State Fault Refusal :=
  .next (s.regOp (.bits t x) t x (x.f.toNat < 3 && x.b == 0) fun a _ => n64 (bitCount x.f.toNat a))

end Sys2Proof.Machine
end

