-- ==== Sys2Proof/Machine/ThreadFp.lean ====
section
/-! DEFINITION. Scalar FP32 instructions (06 R177 to R179, Table TILE-6; 04 R135). A result stands in bits [31:0], the others being 0
(notes/assumptions/42.md). -/
namespace Sys2Proof.Machine

open Sys2Proof

def lo32 (a : W64) : W32 := a.setWidth 32
def up64 (a : W32) : W64 := a.setWidth 64

def execFadd (t : ThrId) (x : RegF) (s : State) : Host.Outcome State Fault Refusal :=
  .next (s.regOp (.fadd t x) t x (x.f.toNat < 2) fun a b => up64 (if x.f.getLsbD 0 then fsub (lo32 a) (lo32 b) else fadd (lo32 a) (lo32 b)))

def execFmul (t : ThrId) (x : RegF) (s : State) : Host.Outcome State Fault Refusal :=
  .next (s.regOp (.fmul t x) t x (x.f == 0) fun a b => up64 (fmul (lo32 a) (lo32 b)))

def execFfma (t : ThrId) (x : RegF) (s : State) : Host.Outcome State Fault Refusal :=
  .next (s.onRegs (.ffma t x) t [r5 x.a, r5 x.b, r5 x.d] (x.f == 0) fun th =>
    th.wr x.d (up64 (ffma (lo32 (th.rd x.a)) (lo32 (th.rd x.b)) (lo32 (th.rd x.d)))))

def execFdiv (t : ThrId) (x : RegF) (s : State) : Host.Outcome State Fault Refusal :=
  .next (s.regOp (.fdiv t x) t x (x.f == 0) fun a b => up64 (fdiv (lo32 a) (lo32 b)))

def execFcmp (t : ThrId) (x : RegF) (s : State) : Host.Outcome State Fault Refusal :=
  .next (s.regOp (.fcmp t x) t x (x.f.toNat < 4) fun a b => boolW (fcmpCond x.f.toNat (u32 (lo32 a)) (u32 (lo32 b))))

/-- The conversions of FCVT and VCVT (Table TILE-6) on an operand's low bits. An i32 result is sign-extended. -/
def convert (c : Nat) (a : W64) : W64 :=
  match c with
  | 0 => BitVec.ofInt 64 (numToInt i64Min i64Max false (u32 (lo32 a)))
  | 1 => up64 (i2f a.toInt)
  | 2 => BitVec.ofInt 64 (rneI32 (lo32 a))
  | 3 => up64 (i2f (lo32 a).toInt)
  | 4 => (f32ToF16 (lo32 a)).setWidth 64
  | 5 => up64 (f16ToF32 (a.setWidth 16))
  | 6 => (f32ToBf16 (lo32 a)).setWidth 64
  | 7 => up64 (bf16ToF32 (a.setWidth 16))
  | 8 => (f32ToE4m4 (lo32 a)).setWidth 64
  | 9 => up64 (e4m4ToF32 (a.setWidth 8))
  | _ => BitVec.ofInt 64 (numToInt i32Min i32Max true (u32 (lo32 a)))

def execFcvt (t : ThrId) (x : RegF) (s : State) : Host.Outcome State Fault Refusal :=
  .next (s.regOp (.fcvt t x) t x (x.f.toNat < 11 && x.b == 0) fun a _ => convert x.f.toNat a)

end Sys2Proof.Machine
end

