-- ==== Sys2Proof/Machine/ThreadVec.lean ====
section
/-! DEFINITION. Vector instructions (06 R175 to R180, Tables TILE-5, TILE-6). -/
namespace Sys2Proof.Machine

open Sys2Proof

def vregs (x : VecF) : List Nat := [vNum x.va, vNum x.vb, vNum x.vd]

def vty (x : VecF) : Nat := x.t.toNat
def vfn (x : VecF) : Nat := x.f.toNat

/-- Vector arithmetic takes every type but binary16 (R176, Table TILE-7). -/
def arithType (x : VecF) : Bool := (vty x) ≠ 5
def intType (x : VecF) : Bool := (vty x) ≤ 4

/-- An elementwise operation on one value of the type's width: integer, BF16 or FP32 forms. -/
def elOp (t : Nat) (int : BitVec (elWidth t) → BitVec (elWidth t) → BitVec (elWidth t)) (bf : W16 → W16 → W16) (fp : W32 → W32 → W32)
    (a b : BitVec (elWidth t)) : BitVec (elWidth t) :=
  if t = 6 then (bf (a.setWidth 16) (b.setWidth 16)).setWidth _
  else if t = 7 then (fp (a.setWidth 32) (b.setWidth 32)).setWidth _
  else int a b

/-- A vector of elementwise results. -/
def vMap2 (t : Nat) (op : BitVec (elWidth t) → BitVec (elWidth t) → BitVec (elWidth t)) (a b : W512) : W512 :=
  vOf (elWidth t) (elCount t) fun e => op (vEl _ a e) (vEl _ b e)

/-- vd ← op(va, vb) per element. -/
def State.vecOp (s : State) (c : Instr) (t : ThrId) (x : VecF) (legal : Bool) (op : W512 → W512 → W512 → W512) : State :=
  s.onRegs c t (vregs x) legal fun th => th.wv x.vd (op (th.rv x.va) (th.rv x.vb) (th.rv x.vd))

def execVadd (t : ThrId) (x : VecF) (s : State) : Host.Outcome State Fault Refusal :=
  .next (s.vecOp (.vadd t x) t x (arithType x && x.g == 0 && x.f == 0) fun a b _ => vMap2 (vty x) (elOp (vty x) (· + ·) bfAdd fadd) a b)

def execVsub (t : ThrId) (x : VecF) (s : State) : Host.Outcome State Fault Refusal :=
  .next (s.vecOp (.vsub t x) t x (arithType x && x.g == 0 && x.f == 0) fun a b _ => vMap2 (vty x) (elOp (vty x) (· - ·) bfSub fsub) a b)

def execVmul (t : ThrId) (x : VecF) (s : State) : Host.Outcome State Fault Refusal :=
  .next (s.vecOp (.vmul t x) t x (arithType x && x.g == 0 && x.f == 0) fun a b _ => vMap2 (vty x) (elOp (vty x) (· * ·) bfMul fmul) a b)

/-- One element of VFMA. -/
def elFma (t : Nat) (a b c : BitVec (elWidth t)) : BitVec (elWidth t) :=
  if t = 6 then (bfFma (a.setWidth 16) (b.setWidth 16) (c.setWidth 16)).setWidth _
  else if t = 7 then (ffma (a.setWidth 32) (b.setWidth 32) (c.setWidth 32)).setWidth _
  else a * b + c

def execVfma (t : ThrId) (x : VecF) (s : State) : Host.Outcome State Fault Refusal :=
  .next (s.vecOp (.vfma t x) t x (arithType x && x.g == 0 && x.f == 0) fun a b d =>
    vOf (elWidth (vty x)) (elCount (vty x)) fun e => elFma (vty x) (vEl _ a e) (vEl _ b e) (vEl _ d e))

/-- One element of VMINMAX: u8 unsigned, the other integers signed. -/
def elMinMax (t : Nat) (mx : Bool) (a b : BitVec (elWidth t)) : BitVec (elWidth t) :=
  if t = 6 then BitVec.ofNat _ (fminmax bf16 mx a.toNat b.toNat)
  else if t = 7 then BitVec.ofNat _ (fminmax fp32 mx a.toNat b.toNat)
  else
    let less := if t = 1 then a.ult b else a.slt b
    if less = mx then b else a

def execVminmax (t : ThrId) (x : VecF) (s : State) : Host.Outcome State Fault Refusal :=
  .next (s.vecOp (.vminmax t x) t x (arithType x && x.g == 0 && (vfn x) < 2) fun a b _ => vMap2 (vty x) (elMinMax (vty x) (x.f.getLsbD 0)) a b)

/-- VLOGIC f[2:0]: 0 AND, 1 OR, 2 XOR, 3 NOT, 4 SEL with the old vd as the mask. -/
def vLogic (c : Nat) (a b m : W512) : W512 :=
  match c with
  | 0 => a &&& b
  | 1 => a ||| b
  | 2 => a ^^^ b
  | 3 => ~~~a
  | _ => (a &&& m) ||| (b &&& ~~~m)

def execVlogic (t : ThrId) (x : VecF) (s : State) : Host.Outcome State Fault Refusal :=
  .next (s.vecOp (.vlogic t x) t x ((vfn x) < 5 && x.g == 0 && x.t == 0 && ((vfn x) ≠ 3 || x.vb == 0)) (vLogic (vfn x)))

def execVshift (t : ThrId) (x : VecF) (s : State) : Host.Outcome State Fault Refusal :=
  .next (s.onRegs (.vshift t x) t (r5 x.g :: vregs x) (intType x && (vfn x) < 4 && x.vb == 0) fun th =>
    let n := (th.rd x.g).toNat % 64
    th.wv x.vd (vOf (elWidth (vty x)) (elCount (vty x)) fun e => shiftBy (vfn x) (vEl _ (th.rv x.va) e) n))

/-- The sixteen FP32 elements of a register. -/
def vF32 (v : W512) : List W32 := (List.range 16).map fun e => vEl 32 v e

/-- Index of the largest FP32 element, the lowest among equals, NaN ignored; 64 if all are NaN (Table TILE-6). -/
def vArgMax (v : W512) : Nat :=
  (((List.range 16).foldl (fun (best : Option (Nat × W32)) e =>
    let x : W32 := vEl 32 v e
    if u32 x = .nan then best
    else match best with
      | none => some (e, x)
      | some b => if numCmp (u32 x) (u32 b.2) = some .gt then some (e, x) else best) none).map (·.1)).getD 64

/-- VRED (Table TILE-6): integer codes over elements extended by type, FP32 codes over FP32. -/
def vReduce (c t : Nat) (v : W512) : W64 :=
  let ints := (List.range (elCount t)).map fun e => elExt t v e
  match c with
  | 0 => ints.foldl (· + ·) 0
  | 1 => up64 (pairwiseF (vF32 v))
  | 2 => up64 ((vF32 v).tail.foldl (fun a b => BitVec.ofNat 32 (fminmax fp32 true a.toNat b.toNat)) (vEl 32 v 0))
  | 3 => up64 ((vF32 v).tail.foldl (fun a b => BitVec.ofNat 32 (fminmax fp32 false a.toNat b.toNat)) (vEl 32 v 0))
  | 4 => n64 (vArgMax v)
  | 5 => ints.tail.foldl (fun a b => if a.slt b then b else a) (elExt t v 0)
  | _ => ints.tail.foldl (fun a b => if b.slt a then b else a) (elExt t v 0)

def vredLegal (x : VecF) : Bool :=
  x.vb == 0 && x.vd == 0 && (vfn x) < 7 && (if (vfn x) = 0 || (vfn x) = 5 || (vfn x) = 6 then intType x else (vty x) = 7)

def execVred (t : ThrId) (x : VecF) (s : State) : Host.Outcome State Fault Refusal :=
  .next (s.onRegs (.vred t x) t [vNum x.va, r5 x.g] (vredLegal x) fun th => th.wr x.g (vReduce (vfn x) (vty x) (th.rv x.va)))

def execVbcast (t : ThrId) (x : VecF) (s : State) : Host.Outcome State Fault Refusal :=
  .next (s.onRegs (.vbcast t x) t [r5 x.g, vNum x.vd] (arithType x && x.va == 0 && x.vb == 0 && x.f == 0) fun th =>
    th.wv x.vd (vOf (elWidth (vty x)) (elCount (vty x)) fun _ => (th.rd x.g).setWidth _))

def execVget (t : ThrId) (x : VecF) (s : State) : Host.Outcome State Fault Refusal :=
  .next (s.onRegs (.vget t x) t [vNum x.va, r5 x.g] (x.vb == 0 && x.vd == 0 && (vfn x) < elCount (vty x)) fun th =>
    th.wr x.g (elExt (vty x) (th.rv x.va) (vfn x)))

def execVput (t : ThrId) (x : VecF) (s : State) : Host.Outcome State Fault Refusal :=
  .next (s.onRegs (.vput t x) t [r5 x.g, vNum x.vd] (x.va == 0 && x.vb == 0 && (vfn x) < elCount (vty x)) fun th =>
    th.wv x.vd (vSet (elWidth (vty x)) (th.rv x.vd) (vfn x) ((th.rd x.g).setWidth _)))

/-- Source width, result width and count of a vector conversion (R178). -/
def cvtShape (c : Nat) : Nat × Nat × Nat :=
  match c with
  | 0 => (32, 64, 8) | 1 => (64, 32, 8) | 4 | 6 => (32, 16, 16) | 5 | 7 => (16, 32, 16) | 8 => (32, 8, 16) | 9 => (8, 32, 16)
  | _ => (32, 32, 16)

/-- VCVT: results packed into the low part, the rest 0; sources from the low part (R178). -/
def vConvert (c : Nat) (v : W512) : W512 :=
  let (ws, wr, n) := cvtShape c
  vOf wr n fun e => (convert c ((vEl ws v e).setWidth 64)).setWidth wr

/-- VCVT takes every type code: the conversion itself names its types (notes/assumptions/43.md). -/
def execVcvt (t : ThrId) (x : VecF) (s : State) : Host.Outcome State Fault Refusal :=
  .next (s.vecOp (.vcvt t x) t x ((vfn x) < 11 && x.vb == 0 && x.g == 0) fun a _ _ => vConvert (vfn x) a)

/-- One element of R133's inner loop: the code and whether it is counted. -/
def quantise1 (x sf : W32) (zp : Nat) : Nat × Bool :=
  if u32 x = .nan then (zp, true)
  else
    let t := rneI32 (fdiv x sf) + zp
    ((clampI 0 255 t).toNat, decide (t < 0 ∨ 255 < t))

/-- VQ8 (R180): codes of sixteen elements and how many are counted. -/
def vQ8 (v : W512) (g : W64) : List (Nat × Bool) := (vF32 v).map fun x => quantise1 x (lo32 g) (bitsOf g.toNat 39 32)

/-- The word of g after VQ8: its count in bits [55:40] saturates (R180). -/
def vQ8Count (g : W64) (n : Nat) : W64 :=
  BitVec.ofNat 64 (g.toNat % 2 ^ 40 + min 65535 (bitsOf g.toNat 55 40 + n) * 2 ^ 40)

/-- VQ8: the type code is 0 or that of FP32 (notes/assumptions/43.md); g[63:56] not 0 faults with ILLEGAL. -/
def execVq8 (t : ThrId) (x : VecF) (s : State) : Host.Outcome State Fault Refusal :=
  .next (s.onIssue (.vq8 t x) t [r5 x.g, vNum x.va, vNum x.vd] ((x.t == 0 || x.t == 7) && (vfn x) < 4 && x.vb == 0) fun th =>
    let g := th.rd x.g
    if bitsOf g.toNat 63 56 ≠ 0 then s.thrFault t fIllegal 0
    else
      let r := vQ8 (th.rv x.va) g
      let vd := (List.range 16).foldl (fun v e => vSet 8 v (16 * (vfn x) + e) (BitVec.ofNat 8 (r.getD e (0, false)).1)) (th.rv x.vd)
      s.setThr t ((th.wv x.vd vd).wr x.g (vQ8Count g (r.countP (·.2)))).next)

/-- VFN: where no rounded value exists the element is a free value of the function and the operand (notes/assumptions/32.md). -/
def execVfn (t : ThrId) (x : VecF) (s : State) : Host.Outcome State Fault Refusal :=
  .next (s.vecOp (.vfn t x) t x ((x.t == 0 || x.t == 7) && (vfn x) < 5 && x.vb == 0 && x.g == 0) fun a _ _ =>
    vOf 32 16 fun e => vfnF (vfn x) (vEl 32 a e))

/-- One element of VCMP: an integer condition on the patterns, or an FCMP condition where f[3] = 1. -/
def elCmp (t c : Nat) (fpc : Bool) (a b : BitVec (elWidth t)) : BitVec (elWidth t) :=
  let f := if t = 6 then bf16 else fp32
  if (if fpc then fcmpCond c (unpack f a.toNat) (unpack f b.toNat) else cmpCond c a b) then BitVec.allOnes _ else 0

def vcmpLegal (x : VecF) : Bool :=
  arithType x && x.g == 0 && (vfn x) < 16 && (if bitAt (vfn x) 3 then (vfn x) % 8 < 4 && ((vty x) = 6 || (vty x) = 7) else (vfn x) % 8 < 6)

def execVcmp (t : ThrId) (x : VecF) (s : State) : Host.Outcome State Fault Refusal :=
  .next (s.vecOp (.vcmp t x) t x (vcmpLegal x) fun a b _ => vMap2 (vty x) (elCmp (vty x) ((vfn x) % 8) (bitAt (vfn x) 3)) a b)

/-- One element of VDOT8: four byte products less their zero points, exact, the sum modulo 2^32. -/
def dot8 (a b d : W32) (za zb : Nat) : W32 :=
  d + BitVec.ofInt 32 (((List.range 4).map fun k => (bitsOf a.toNat (8 * k + 7) (8 * k) - za : Int) * (bitsOf b.toNat (8 * k + 7) (8 * k) - zb)).sum)

def execVdot8 (t : ThrId) (x : VecF) (s : State) : Host.Outcome State Fault Refusal :=
  .next (s.onRegs (.vdot8 t x) t (r5 x.g :: vregs x) ((x.t == 0 || x.t == 3) && x.f == 0) fun th =>
    let g := (th.rd x.g).toNat
    th.wv x.vd (vOf 32 16 fun e => dot8 (vEl 32 (th.rv x.va) e) (vEl 32 (th.rv x.vb) e) (vEl 32 (th.rv x.vd) e) (bitsOf g 7 0) (bitsOf g 15 8)))

end Sys2Proof.Machine
end

