-- ==== Sys2Proof/Machine/Dispatch.lean ====
section
/-! DEFINITION. One arm per command (spec/opcode_table.json): each is one direct call of its meaning. -/
namespace Sys2Proof.Machine

open Sys2Proof

def exec (i : Instr) (s : State) : Host.Outcome State Fault Refusal :=
  match i with
  | .powerUp mv => Sys2Proof.Machine.execPowerUp mv s
  | .supplyRangeChange mv => Sys2Proof.Machine.execSupplyRangeChange mv s
  | .supplyRelog => Sys2Proof.Machine.execSupplyRelog s
  | .holdUpExpiry => Sys2Proof.Machine.execHoldUpExpiry s
  | .overvoltageShutdown mv => Sys2Proof.Machine.execOvervoltageShutdown mv s
  | .perstAssert => Sys2Proof.Machine.execPerstAssert s
  | .perstDeassert lowUs supplyMs refclkUs hottest => Sys2Proof.Machine.execPerstDeassert lowUs supplyMs refclkUs hottest s
  | .fastThrottleFall => Sys2Proof.Machine.execFastThrottleFall s
  | .fastThrottleRise => Sys2Proof.Machine.execFastThrottleRise s
  | .thermalShutdown site => Sys2Proof.Machine.execThermalShutdown site s
  | .sclkLoss => Sys2Proof.Machine.execSclkLoss s
  | .sbId => Sys2Proof.Machine.execSbId s
  | .sbStatus => Sys2Proof.Machine.execSbStatus s
  | .sbBoot => Sys2Proof.Machine.execSbBoot s
  | .sbCap op => Sys2Proof.Machine.execSbCap op s
  | .sbPower => Sys2Proof.Machine.execSbPower s
  | .sbTherm => Sys2Proof.Machine.execSbTherm s
  | .flashRead addr len => Sys2Proof.Machine.execFlashRead addr len s
  | .flashWrite addr data pec => Sys2Proof.Machine.execFlashWrite addr data pec s
  | .flashErase addr pec => Sys2Proof.Machine.execFlashErase addr pec s
  | .flashStatus => Sys2Proof.Machine.execFlashStatus s
  | .flashOpDone => Sys2Proof.Machine.execFlashOpDone s
  | .tapAccess tms tdi => Sys2Proof.Machine.execTapAccess tms tdi s
  | .healthReport dst src pass => Sys2Proof.Machine.execHealthReport dst src pass s
  | .electionFreeze => Sys2Proof.Machine.execElectionFreeze s
  | .primaryClaim dst => Sys2Proof.Machine.execPrimaryClaim dst s
  | .claimAck src => Sys2Proof.Machine.execClaimAck src s
  | .bootPhaseEnd rep => Sys2Proof.Machine.execBootPhaseEnd rep s
  | .readyDeadline => Sys2Proof.Machine.execReadyDeadline s
  | .configRequest p => Sys2Proof.Machine.execConfigRequest p s
  | .hostPortDown p => Sys2Proof.Machine.execHostPortDown p s
  | .d3hotTransition p => Sys2Proof.Machine.execD3hotTransition p s
  | .hostPortReturn p => Sys2Proof.Machine.execHostPortReturn p s
  | .registerWrite src off size v => Sys2Proof.Machine.execRegisterWrite src off size v s
  | .barUnsupportedAccess p bar4 off size => Sys2Proof.Machine.execBarUnsupportedAccess p bar4 off size s
  | .regHalfRead p off => Sys2Proof.Machine.execRegHalfRead p off s
  | .tileWindowAccess p x size acc => Sys2Proof.Machine.execTileWindowAccess p x size acc s
  | .bar2Read p off len errs => Sys2Proof.Machine.execBar2Read p off len errs s
  | .bar2Write p off data => Sys2Proof.Machine.execBar2Write p off data s
  | .bar2ReadTimeout p len => Sys2Proof.Machine.execBar2ReadTimeout p len s
  | .bar2BaseWrite p v => Sys2Proof.Machine.execBar2BaseWrite p v s
  | .bar2Resize p log => Sys2Proof.Machine.execBar2Resize p log s
  | .bar2Clear => Sys2Proof.Machine.execBar2Clear s
  | .mboxEnable n => Sys2Proof.Machine.execMboxEnable n s
  | .mboxDisable n => Sys2Proof.Machine.execMboxDisable n s
  | .sqTail p n v => Sys2Proof.Machine.execSqTail p n v s
  | .cqHead p n v => Sys2Proof.Machine.execCqHead p n v s
  | .streamRingHead p r v => Sys2Proof.Machine.execStreamRingHead p r v s
  | .eventRingHead p v => Sys2Proof.Machine.execEventRingHead p v s
  | .dmaDoorbell p d => Sys2Proof.Machine.execDmaDoorbell p d s
  | .clearCounts c => Sys2Proof.Machine.execClearCounts c s
  | .pwrCapWrite v => Sys2Proof.Machine.execPwrCapWrite v s
  | .unitCapWrite sq v => Sys2Proof.Machine.execUnitCapWrite sq v s
  | .eccPolicyWrite sq v => Sys2Proof.Machine.execEccPolicyWrite sq v s
  | .scrubCtrlWrite sq v => Sys2Proof.Machine.execScrubCtrlWrite sq v s
  | .segLayoutWrite q w v => Sys2Proof.Machine.execSegLayoutWrite q w v s
  | .cwPortCtrlWrite p v => Sys2Proof.Machine.execCwPortCtrlWrite p v s
  | .cwLendCtrlWrite v => Sys2Proof.Machine.execCwLendCtrlWrite v s
  | .syncModeWrite t v => Sys2Proof.Machine.execSyncModeWrite t v s
  | .timerPeriodWrite t n v => Sys2Proof.Machine.execTimerPeriodWrite t n v s
  | .arrDebugWrite t v => Sys2Proof.Machine.execArrDebugWrite t v s
  | .commandFetch n entry ext => Sys2Proof.Machine.execCommandFetch n entry ext s
  | .commandCompletion n => Sys2Proof.Machine.execCommandCompletion n s
  | .msixCoalesceExpiry r => Sys2Proof.Machine.execMsixCoalesceExpiry r s
  | .hostReadTimeout what => Sys2Proof.Machine.execHostReadTimeout what s
  | .heartbeat => Sys2Proof.Machine.execHeartbeat s
  | .deviceQuery h what => Sys2Proof.Machine.execDeviceQuery h what s
  | .modulePolicy h iso => Sys2Proof.Machine.execModulePolicy h iso s
  | .portRebalance h mode => Sys2Proof.Machine.execPortRebalance h mode s
  | .tenantCreate h t => Sys2Proof.Machine.execTenantCreate h t s
  | .tenantDelete h t => Sys2Proof.Machine.execTenantDelete h t s
  | .quotaSet h t tier bytes => Sys2Proof.Machine.execQuotaSet h t tier bytes s
  | .quotaQuery h => Sys2Proof.Machine.execQuotaQuery h s
  | .promptWeight h w => Sys2Proof.Machine.execPromptWeight h w s
  | .budgetRefill h tick items => Sys2Proof.Machine.execBudgetRefill h tick items s
  | .budgetQuery h => Sys2Proof.Machine.execBudgetQuery h s
  | .objectAlloc h bytes flags mirror page => Sys2Proof.Machine.execObjectAlloc h bytes flags mirror page s
  | .objectFree h obj => Sys2Proof.Machine.execObjectFree h obj s
  | .objectLoad h obj first units addr port => Sys2Proof.Machine.execObjectLoad h obj first units addr port s
  | .promote h obj claim => Sys2Proof.Machine.execPromote h obj claim s
  | .evict h obj claim => Sys2Proof.Machine.execEvict h obj claim s
  | .objectQuery h obj => Sys2Proof.Machine.execObjectQuery h obj s
  | .mapPages h va obj first pages key attrs => Sys2Proof.Machine.execMapPages h va obj first pages key attrs s
  | .unmapPages h va pages => Sys2Proof.Machine.execUnmapPages h va pages s
  | .weldMap h va off bytes tile => Sys2Proof.Machine.execWeldMap h va off bytes tile s
  | .poolRegister h addr bytes owner mask => Sys2Proof.Machine.execPoolRegister h addr bytes owner mask s
  | .poolDeregister h pool => Sys2Proof.Machine.execPoolDeregister h pool s
  | .modelLoad h m image => Sys2Proof.Machine.execModelLoad h m image s
  | .modelPublish h m => Sys2Proof.Machine.execModelPublish h m s
  | .modelRetire h m => Sys2Proof.Machine.execModelRetire h m s
  | .modelCalib h m window clamp ovf sat => Sys2Proof.Machine.execModelCalib h m window clamp ovf sat s
  | .modelQuery h m what => Sys2Proof.Machine.execModelQuery h m what s
  | .overlayLoad h ov m series gen recs => Sys2Proof.Machine.execOverlayLoad h ov m series gen recs s
  | .overlayPublish h ov => Sys2Proof.Machine.execOverlayPublish h ov s
  | .overlayRetire h ov => Sys2Proof.Machine.execOverlayRetire h ov s
  | .overlayRebind h series => Sys2Proof.Machine.execOverlayRebind h series s
  | .schedulePlan h m plan => Sys2Proof.Machine.execSchedulePlan h m plan s
  | .sessionOpen h m series prm => Sys2Proof.Machine.execSessionOpen h m series prm s
  | .sessionAppend h hd fin tokens => Sys2Proof.Machine.execSessionAppend h hd fin tokens s
  | .sessionCancel h hd => Sys2Proof.Machine.execSessionCancel h hd s
  | .sessionClose h hd => Sys2Proof.Machine.execSessionClose h hd s
  | .sessionFork h hd prm => Sys2Proof.Machine.execSessionFork h hd prm s
  | .sessionQuery h hd => Sys2Proof.Machine.execSessionQuery h hd s
  | .streamRingCreate h prm => Sys2Proof.Machine.execStreamRingCreate h prm s
  | .streamRingDestroy h r => Sys2Proof.Machine.execStreamRingDestroy h r s
  | .eventRingSet h prm => Sys2Proof.Machine.execEventRingSet h prm s
  | .maintRetrain h c => Sys2Proof.Machine.execMaintRetrain h c s
  | .maintScrub h stack hours => Sys2Proof.Machine.execMaintScrub h stack hours s
  | .maintInit h addr bytes => Sys2Proof.Machine.execMaintInit h addr bytes s
  | .maintMapOut h kind index => Sys2Proof.Machine.execMaintMapOut h kind index s
  | .diagEnter h t => Sys2Proof.Machine.execDiagEnter h t s
  | .diagExit h t => Sys2Proof.Machine.execDiagExit h t s
  | .diagTraffic h c pattern duration res => Sys2Proof.Machine.execDiagTraffic h c pattern duration res s
  | .kernelLoad h addr bytes port sigOk => Sys2Proof.Machine.execKernelLoad h addr bytes port sigOk s
  | .kernelUnload h k => Sys2Proof.Machine.execKernelUnload h k s
  | .uprogLoad h entry words alley => Sys2Proof.Machine.execUprogLoad h entry words alley s
  | .diagnosticEntry t => Sys2Proof.Machine.execDiagnosticEntry t s
  | .threadLaunch t rec => Sys2Proof.Machine.execThreadLaunch t rec s
  | .threadRelease t => Sys2Proof.Machine.execThreadRelease t s
  | .memoryResponse t k errs => Sys2Proof.Machine.execMemoryResponse t k errs s
  | .wake m => Sys2Proof.Machine.execWake m s
  | .watchMessageStore m => Sys2Proof.Machine.execWatchMessageStore m s
  | .syncErrorReport m => Sys2Proof.Machine.execSyncErrorReport m s
  | .threadExitComplete t => Sys2Proof.Machine.execThreadExitComplete t s
  | .add t x => Sys2Proof.Machine.execAdd t x s
  | .sub t x => Sys2Proof.Machine.execSub t x s
  | .mul t x => Sys2Proof.Machine.execMul t x s
  | .mulh t x => Sys2Proof.Machine.execMulh t x s
  | .div t x => Sys2Proof.Machine.execDiv t x s
  | .and t x => Sys2Proof.Machine.execAnd t x s
  | .or t x => Sys2Proof.Machine.execOr t x s
  | .xor t x => Sys2Proof.Machine.execXor t x s
  | .shift t x => Sys2Proof.Machine.execShift t x s
  | .cmp t x => Sys2Proof.Machine.execCmp t x s
  | .minmax t x => Sys2Proof.Machine.execMinmax t x s
  | .addi t x => Sys2Proof.Machine.execAddi t x s
  | .andi t x => Sys2Proof.Machine.execAndi t x s
  | .ori t x => Sys2Proof.Machine.execOri t x s
  | .xori t x => Sys2Proof.Machine.execXori t x s
  | .movk t x => Sys2Proof.Machine.execMovk t x s
  | .bits t x => Sys2Proof.Machine.execBits t x s
  | .fadd t x => Sys2Proof.Machine.execFadd t x s
  | .fmul t x => Sys2Proof.Machine.execFmul t x s
  | .ffma t x => Sys2Proof.Machine.execFfma t x s
  | .fdiv t x => Sys2Proof.Machine.execFdiv t x s
  | .fcmp t x => Sys2Proof.Machine.execFcmp t x s
  | .fcvt t x => Sys2Proof.Machine.execFcvt t x s
  | .vadd t x => Sys2Proof.Machine.execVadd t x s
  | .vsub t x => Sys2Proof.Machine.execVsub t x s
  | .vmul t x => Sys2Proof.Machine.execVmul t x s
  | .vfma t x => Sys2Proof.Machine.execVfma t x s
  | .vminmax t x => Sys2Proof.Machine.execVminmax t x s
  | .vlogic t x => Sys2Proof.Machine.execVlogic t x s
  | .vshift t x => Sys2Proof.Machine.execVshift t x s
  | .vred t x => Sys2Proof.Machine.execVred t x s
  | .vbcast t x => Sys2Proof.Machine.execVbcast t x s
  | .vget t x => Sys2Proof.Machine.execVget t x s
  | .vput t x => Sys2Proof.Machine.execVput t x s
  | .vcvt t x => Sys2Proof.Machine.execVcvt t x s
  | .vq8 t x => Sys2Proof.Machine.execVq8 t x s
  | .vfn t x => Sys2Proof.Machine.execVfn t x s
  | .vcmp t x => Sys2Proof.Machine.execVcmp t x s
  | .vdot8 t x => Sys2Proof.Machine.execVdot8 t x s
  | .ld t x => Sys2Proof.Machine.execLd t x s
  | .st t x => Sys2Proof.Machine.execSt t x s
  | .vld t x => Sys2Proof.Machine.execVld t x s
  | .vst t x => Sys2Proof.Machine.execVst t x s
  | .atom t x => Sys2Proof.Machine.execAtom t x s
  | .cas t x => Sys2Proof.Machine.execCas t x s
  | .acopy t x => Sys2Proof.Machine.execAcopy t x s
  | .acopyComplete k errs => Sys2Proof.Machine.execAcopyComplete k errs s
  | .cflush t x => Sys2Proof.Machine.execCflush t x s
  | .cflushComplete k => Sys2Proof.Machine.execCflushComplete k s
  | .fenceSq t x => Sys2Proof.Machine.execFenceSq t x s
  | .fenceDev t x => Sys2Proof.Machine.execFenceDev t x s
  | .br t x => Sys2Proof.Machine.execBr t x s
  | .jal t x => Sys2Proof.Machine.execJal t x s
  | .jr t x => Sys2Proof.Machine.execJr t x s
  | .exit t x => Sys2Proof.Machine.execExit t x s
  | .sread t x => Sys2Proof.Machine.execSread t x s
  | .signal t x => Sys2Proof.Machine.execSignal t x s
  | .watch t x => Sys2Proof.Machine.execWatch t x s
  | .wait t x => Sys2Proof.Machine.execWait t x s
  | .dmaKick t x => Sys2Proof.Machine.execDmaKick t x s
  | .arrayIssue t x => Sys2Proof.Machine.execArrayIssue t x s
  | .bankIssue t x => Sys2Proof.Machine.execBankIssue t x s
  | .counterSignal m => Sys2Proof.Machine.execCounterSignal m s
  | .watchRegistration r => Sys2Proof.Machine.execWatchRegistration r s
  | .watchSlotGrant t pool => Sys2Proof.Machine.execWatchSlotGrant t pool s
  | .watchCancel sel => Sys2Proof.Machine.execWatchCancel sel s
  | .counterWrite c v => Sys2Proof.Machine.execCounterWrite c v s
  | .counterModeSet c op => Sys2Proof.Machine.execCounterModeSet c op s
  | .arrayJobStart a => Sys2Proof.Machine.execArrayJobStart a s
  | .outputTileSlot a => Sys2Proof.Machine.execOutputTileSlot a s
  | .weightTileLoaded a => Sys2Proof.Machine.execWeightTileLoaded a s
  | .rowPass a => Sys2Proof.Machine.execRowPass a s
  | .fillEnd a => Sys2Proof.Machine.execFillEnd a s
  | .replayPassEnd a => Sys2Proof.Machine.execReplayPassEnd a s
  | .drainEnd a => Sys2Proof.Machine.execDrainEnd a s
  | .arrayJobComplete a => Sys2Proof.Machine.execArrayJobComplete a s
  | .arrayHw a => Sys2Proof.Machine.execArrayHw a s
  | .arrayHalt a => Sys2Proof.Machine.execArrayHalt a s
  | .scRequestArrival c r => Sys2Proof.Machine.execScRequestArrival c r s
  | .commandIssue c now => Sys2Proof.Machine.execCommandIssue c now s
  | .readReturn c errs => Sys2Proof.Machine.execReadReturn c errs s
  | .refreshBoundary c j => Sys2Proof.Machine.execRefreshBoundary c j s
  | .temperatureRead c temp => Sys2Proof.Machine.execTemperatureRead c temp s
  | .accountingPeriod c => Sys2Proof.Machine.execAccountingPeriod c s
  | .driftTracking c drifted => Sys2Proof.Machine.execDriftTracking c drifted s
  | .retrainingStart c => Sys2Proof.Machine.execRetrainingStart c s
  | .retrainingEnd c ok => Sys2Proof.Machine.execRetrainingEnd c ok s
  | .spareVerifyEnd c ok => Sys2Proof.Machine.execSpareVerifyEnd c ok s
  | .scrubRow c errs => Sys2Proof.Machine.execScrubRow c errs s
  | .maintPreempt c => Sys2Proof.Machine.execMaintPreempt c s
  | .maintSlotRelease c => Sys2Proof.Machine.execMaintSlotRelease c s
  | .windowStart u now => Sys2Proof.Machine.execWindowStart u now s
  | .unitOpen u tag => Sys2Proof.Machine.execUnitOpen u tag s
  | .unitStep u tag => Sys2Proof.Machine.execUnitStep u tag s
  | .unitClose u tag => Sys2Proof.Machine.execUnitClose u tag s
  | .unitAbort u tag => Sys2Proof.Machine.execUnitAbort u tag s
  | .unitAdd u d => Sys2Proof.Machine.execUnitAdd u d s
  | .yieldPoint u now => Sys2Proof.Machine.execYieldPoint u now s
  | .bankJobEnd u => Sys2Proof.Machine.execBankJobEnd u s
  | .alleyTimeout u v => Sys2Proof.Machine.execAlleyTimeout u v s
  | .mNop u x => Sys2Proof.Machine.execMNop u x s
  | .mEnd u x => Sys2Proof.Machine.execMEnd u x s
  | .mSetx u x => Sys2Proof.Machine.execMSetx u x s
  | .mAddx u x => Sys2Proof.Machine.execMAddx u x s
  | .mSetk u x => Sys2Proof.Machine.execMSetk u x s
  | .mLoop u x => Sys2Proof.Machine.execMLoop u x s
  | .mBrz u x => Sys2Proof.Machine.execMBrz u x s
  | .mAct u x => Sys2Proof.Machine.execMAct u x s
  | .mPre u x => Sys2Proof.Machine.execMPre u x s
  | .mRd u x errs => Sys2Proof.Machine.execMRd u x errs s
  | .mWr u x => Sys2Proof.Machine.execMWr u x s
  | .mBop u x => Sys2Proof.Machine.execMBop u x s
  | .mTlu u x => Sys2Proof.Machine.execMTlu u x s
  | .mGrp u x => Sys2Proof.Machine.execMGrp u x s
  | .mDot u x => Sys2Proof.Machine.execMDot u x s
  | .mExpw u x => Sys2Proof.Machine.execMExpw u x s
  | .mLdr u x => Sys2Proof.Machine.execMLdr u x s
  | .mFin u x => Sys2Proof.Machine.execMFin u x s
  | .mAsnd u x => Sys2Proof.Machine.execMAsnd u x s
  | .mArcv u x => Sys2Proof.Machine.execMArcv u x s
  | .mFill u x => Sys2Proof.Machine.execMFill u x s
  | .descriptorStart c => Sys2Proof.Machine.execDescriptorStart c s
  | .dmaCopy c host errs => Sys2Proof.Machine.execDmaCopy c host errs s
  | .dmaEncode c errs => Sys2Proof.Machine.execDmaEncode c errs s
  | .dmaDecode c host errs => Sys2Proof.Machine.execDmaDecode c host errs s
  | .dmaWait c => Sys2Proof.Machine.execDmaWait c s
  | .timerFiring t n => Sys2Proof.Machine.execTimerFiring t n s
  | .channelTrigger c => Sys2Proof.Machine.execChannelTrigger c s
  | .dmaTriggerDelivery c => Sys2Proof.Machine.execDmaTriggerDelivery c s
  | .burstGrant t ready => Sys2Proof.Machine.execBurstGrant t ready s
  | .descriptorEnd c => Sys2Proof.Machine.execDescriptorEnd c s
  | .dmaAbort c => Sys2Proof.Machine.execDmaAbort c s
  | .promotionEnd obj res => Sys2Proof.Machine.execPromotionEnd obj res s
  | .demotionRetry obj => Sys2Proof.Machine.execDemotionRetry obj s
  | .demotionEnd obj => Sys2Proof.Machine.execDemotionEnd obj s
  | .framelessReencode obj unit => Sys2Proof.Machine.execFramelessReencode obj unit s
  | .stagingGraceExpiry m layer ov => Sys2Proof.Machine.execStagingGraceExpiry m layer ov s
  | .recallMovesDone slot => Sys2Proof.Machine.execRecallMovesDone slot s
  | .borrowerRecallDeadline slot => Sys2Proof.Machine.execBorrowerRecallDeadline slot s
  | .dispatcherPass m => Sys2Proof.Machine.execDispatcherPass m s
  | .boundaryActions m => Sys2Proof.Machine.execBoundaryActions m s
  | .layerStart m => Sys2Proof.Machine.execLayerStart m s
  | .stepCommit m outs counts => Sys2Proof.Machine.execStepCommit m outs counts s
  | .streamEntryWrite r => Sys2Proof.Machine.execStreamEntryWrite r s
  | .paddedSlotStart m outs counts done => Sys2Proof.Machine.execPaddedSlotStart m outs counts done s
  | .errorReport e => Sys2Proof.Machine.execErrorReport e s
  | .replayStart m => Sys2Proof.Machine.execReplayStart m s
  | .handlerLimitExpiry d => Sys2Proof.Machine.execHandlerLimitExpiry d s
  | .livenessProbe silent => Sys2Proof.Machine.execLivenessProbe silent s
  | .tileSelfCheckEnd t pass => Sys2Proof.Machine.execTileSelfCheckEnd t pass s
  | .adoptedSubchannelOpen c => Sys2Proof.Machine.execAdoptedSubchannelOpen c s
  | .primaryTakeover => Sys2Proof.Machine.execPrimaryTakeover s
  | .standbyReady => Sys2Proof.Machine.execStandbyReady s
  | .rebuildCopyDone obj unit ok => Sys2Proof.Machine.execRebuildCopyDone obj unit ok s
  | .rebuildRetry obj unit => Sys2Proof.Machine.execRebuildRetry obj unit s
  | .eventAppend => Sys2Proof.Machine.execEventAppend s
  | .flitReceive p flit => Sys2Proof.Machine.execFlitReceive p flit s
  | .cwNak p ack => Sys2Proof.Machine.execCwNak p ack s
  | .replayTimer p => Sys2Proof.Machine.execReplayTimer p s
  | .linkRetrain p cause => Sys2Proof.Machine.execLinkRetrain p cause s
  | .trainingAttemptEnd p lanes => Sys2Proof.Machine.execTrainingAttemptEnd p lanes s
  | .portRetry p => Sys2Proof.Machine.execPortRetry p s
  | .keepaliveSend p => Sys2Proof.Machine.execKeepaliveSend p s
  | .keepaliveTimeout p => Sys2Proof.Machine.execKeepaliveTimeout p s
  | .keepalive p m ident epoch => Sys2Proof.Machine.execKeepalive p m ident epoch s
  | .lotOffer p m => Sys2Proof.Machine.execLotOffer p m s
  | .lotRequest p m => Sys2Proof.Machine.execLotRequest p m s
  | .lotGrant p m => Sys2Proof.Machine.execLotGrant p m s
  | .lotRefuse p m => Sys2Proof.Machine.execLotRefuse p m s
  | .lotRequestGiveup p => Sys2Proof.Machine.execLotRequestGiveup p s
  | .lotRecall p m => Sys2Proof.Machine.execLotRecall p m s
  | .lotRelease p m => Sys2Proof.Machine.execLotRelease p m s
  | .lotReleased p m => Sys2Proof.Machine.execLotReleased p m s
  | .lenderRecallDeadline lot => Sys2Proof.Machine.execLenderRecallDeadline lot s
  | .cwRead p m errs => Sys2Proof.Machine.execCwRead p m errs s
  | .cwBlockRead p m errs => Sys2Proof.Machine.execCwBlockRead p m errs s
  | .cwWrite p m data => Sys2Proof.Machine.execCwWrite p m data s
  | .cwData p m data => Sys2Proof.Machine.execCwData p m data s
  | .cwWriteAck p m => Sys2Proof.Machine.execCwWriteAck p m s
  | .cwError p m => Sys2Proof.Machine.execCwError p m s
  | .requestTimeout p tag => Sys2Proof.Machine.execRequestTimeout p tag s
  | .vfLoop t x => Sys2Proof.Machine.execVfLoop t x s
  | .droopTrip t => Sys2Proof.Machine.execDroopTrip t s
  | .eyeMarginLow site => Sys2Proof.Machine.execEyeMarginLow site s
  | .scrubRateLoop => Sys2Proof.Machine.execScrubRateLoop s
  | .bankConcurrencyLoop sense => Sys2Proof.Machine.execBankConcurrencyLoop sense s
  | .powerMeasure w mv ma => Sys2Proof.Machine.execPowerMeasure w mv ma s
  | .powerCapEnforce => Sys2Proof.Machine.execPowerCapEnforce s
  | .flitSlot p => Sys2Proof.Machine.execFlitSlot p s
  | .portLinkTrained p rate width => Sys2Proof.Machine.execPortLinkTrained p rate width s

end Sys2Proof.Machine
end

