-- ==== Sys2Proof/Safety.lean ====
section
/-! DEFINITION. What claims are about: a command that completes, what a reset leaves, properties that every step keeps. -/
namespace Sys2Proof

open Sys2Proof.Machine

/-- A command completes from a state with a next state. -/
def Completes (c : Instr) (s t : State) : Prop := exec c s = .next t

/-- A property that every step keeps. -/
def Kept (p : State → Prop) : Prop := ∀ s t, p s → step s = .next t → p t

/-- `t` is `s` after a reset: every agent stopped, Madder and SRAM lost, every register at its reset value; the queue, the pins with the flash, the
fuses and host memory apart (14 R375). -/
def ContentsLost (s t : State) : Prop :=
  t = { State.reset with pending := s.pending, freeCount := t.freeCount, pw := t.pw, ho := { HostIf.reset with mem := s.ho.mem },
                         bt := { Boot.reset with minSecver := s.bt.minSecver } }

/-- `s` with the command of a mailbox marked as accepted for execution. -/
def Begun (h : CmdHdr) (s : State) : State := s.setMbox h.mb ((s.mbox h.mb).start h)

/-- The header, the opcode and the operands of a host command (12 Table HOST-9); the other rows are none. -/
def hostCmd : Instr → Option (CmdHdr × Nat × List Nat)
  | .deviceQuery h what => some (h, 0x0001, [what.toNat])
  | .modulePolicy h iso => some (h, 0x0002, [iso.toNat])
  | .portRebalance h mode => some (h, 0x0003, [mode.toNat])
  | .tenantCreate h t => some (h, 0x0101, [t.toNat])
  | .tenantDelete h t => some (h, 0x0102, [t.toNat])
  | .quotaSet h t tier bytes => some (h, 0x0103, [t.toNat, tier.toNat, bytes.toNat])
  | .quotaQuery h => some (h, 0x0104, [])
  | .promptWeight h w => some (h, 0x0105, [w.toNat])
  | .budgetRefill h tick items => some (h, 0x0106, [tick.toNat, items.length])
  | .budgetQuery h => some (h, 0x0107, [])
  | .objectAlloc h bytes flags mirror page => some (h, 0x0201, [bytes.toNat, flags.toNat, mirror.toNat, page.toNat])
  | .objectFree h obj => some (h, 0x0202, [obj.toNat])
  | .objectLoad h obj first units addr port => some (h, 0x0203, [obj.toNat, first.toNat, addr.toNat, units.length, port.toNat])
  | .promote h obj claim => some (h, 0x0204, [obj.toNat, claim.toNat])
  | .evict h obj claim => some (h, 0x0205, [obj.toNat, claim.toNat])
  | .objectQuery h obj => some (h, 0x0206, [obj.toNat])
  | .mapPages h va obj first pages key attrs => some (h, 0x0207, [va.toNat, obj.toNat, first.toNat, pages.toNat, key.toNat, attrs.toNat])
  | .unmapPages h va pages => some (h, 0x0208, [va.toNat, pages.toNat])
  | .weldMap h va off bytes tile => some (h, 0x0209, [va.toNat, off.toNat, bytes.toNat, tile.toNat])
  | .poolRegister h addr bytes owner mask => some (h, 0x020A, [addr.toNat, bytes.toNat, owner.toNat, mask.toNat])
  | .poolDeregister h pool => some (h, 0x020B, [pool.toNat])
  | .modelLoad h m _ => some (h, 0x0301, [m.toNat])
  | .modelPublish h m => some (h, 0x0302, [m.toNat])
  | .modelRetire h m => some (h, 0x0303, [m.toNat])
  | .modelCalib h m window clamp ovf sat => some (h, 0x0304, [m.toNat, window.toNat, clamp.toNat, ovf.toNat, sat.toNat])
  | .modelQuery h m what => some (h, 0x0305, [m.toNat, what.toNat])
  | .overlayLoad h ov m series gen recs => some (h, 0x0401, [ov.toNat, m.toNat, series.toNat, gen.toNat, recs.length / 32])
  | .overlayPublish h ov => some (h, 0x0402, [ov.toNat])
  | .overlayRetire h ov => some (h, 0x0403, [ov.toNat])
  | .overlayRebind h series => some (h, 0x0404, [series.toNat])
  | .schedulePlan h m plan => some (h, 0x0501, planOps m plan)
  | .sessionOpen h m series prm => some (h, 0x0601, m.toNat :: series.toNat :: sessOps prm)
  | .sessionAppend h hd fin tokens => some (h, 0x0602, [hd.toNat, b2n fin, tokens.length])
  | .sessionCancel h hd => some (h, 0x0603, [hd.toNat])
  | .sessionClose h hd => some (h, 0x0604, [hd.toNat])
  | .sessionFork h hd prm => some (h, 0x0605, hd.toNat :: sessOps prm)
  | .sessionQuery h hd => some (h, 0x0606, [hd.toNat])
  | .streamRingCreate h prm => some (h, 0x0607, ringOps prm)
  | .streamRingDestroy h r => some (h, 0x0608, [r.toNat])
  | .eventRingSet h prm => some (h, 0x0701, ringOps prm)
  | .maintRetrain h c => some (h, 0x0801, [c.toNat])
  | .maintScrub h stack hours => some (h, 0x0802, [stack.toNat, hours.toNat])
  | .maintInit h addr bytes => some (h, 0x0803, [addr.toNat, bytes.toNat])
  | .maintMapOut h kind index => some (h, 0x0804, [kind.toNat, index.toNat])
  | .diagEnter h t => some (h, 0x0901, [t.toNat])
  | .diagExit h t => some (h, 0x0902, [t.toNat])
  | .diagTraffic h c pattern duration _ => some (h, 0x0903, [c.toNat, pattern.toNat, duration.toNat])
  | .kernelLoad h addr bytes port _ => some (h, 0x0A01, [addr.toNat, bytes.toNat, port.toNat])
  | .kernelUnload h k => some (h, 0x0A02, [k.toNat])
  | .uprogLoad h entry words _ => some (h, 0x0A03, [entry.toNat, words.length])
  | _ => none

/-- The request of a host command stands in its mailbox and may start: fetched with its operands, in its turn, the module running and READY, its tenant
there (12 R348, R351). -/
def Ready (c : Instr) (s : State) : Prop :=
  match hostCmd c with
  | some (h, op, ops) => s.mayBegin h op ops = true ∧ s.md.running = true ∧ s.md.state = 1 ∧ (s.ten h.tenant.toNat).live = true
  | none => False

/-- The command has completed with a status and a result: its completion waits in its mailbox, and it stands among the fetched no longer. -/
def Finished (h : CmdHdr) (op status : Nat) (result : W64) (t : State) : Prop :=
  (t.mbox h.mb).done.getLast? = some ⟨h.tag, op, status, h.index, result, none⟩ ∧ ∀ r ∈ (t.mbox h.mb).cmds, r.hdr ≠ h

/-- A sub-channel has one initialise more than before, of these rows with these bytes, and its slot is asked for (02 R71, R75). -/
def InitAsked (x y : SubCh) (h : CmdHdr) (firstRow rows : Nat) (pair : Option Nat) (pattern : List Byte) : Prop :=
  (y.inits.map fun j => (j.cmd, j.firstRow, j.rows, j.pair, j.pattern)) =
    (x.inits.map fun j => (j.cmd, j.firstRow, j.rows, j.pair, j.pattern)) ++ [(h, firstRow, rows, pair, pattern)] ∧
  (y.holder = 5 ∨ 5 ∈ y.waiting)

/-- The thread of an instruction of a thread's program (06 Table TILE-5); the other rows are none. -/
def thrOf : Instr → Option ThrId
  | .add t _ => some t
  | .sub t _ => some t
  | .mul t _ => some t
  | .mulh t _ => some t
  | .div t _ => some t
  | .and t _ => some t
  | .or t _ => some t
  | .xor t _ => some t
  | .shift t _ => some t
  | .cmp t _ => some t
  | .minmax t _ => some t
  | .addi t _ => some t
  | .andi t _ => some t
  | .ori t _ => some t
  | .xori t _ => some t
  | .movk t _ => some t
  | .bits t _ => some t
  | .fadd t _ => some t
  | .fmul t _ => some t
  | .ffma t _ => some t
  | .fdiv t _ => some t
  | .fcmp t _ => some t
  | .fcvt t _ => some t
  | .vadd t _ => some t
  | .vsub t _ => some t
  | .vmul t _ => some t
  | .vfma t _ => some t
  | .vminmax t _ => some t
  | .vlogic t _ => some t
  | .vshift t _ => some t
  | .vred t _ => some t
  | .vbcast t _ => some t
  | .vget t _ => some t
  | .vput t _ => some t
  | .vcvt t _ => some t
  | .vq8 t _ => some t
  | .vfn t _ => some t
  | .vcmp t _ => some t
  | .vdot8 t _ => some t
  | .ld t _ => some t
  | .st t _ => some t
  | .vld t _ => some t
  | .vst t _ => some t
  | .atom t _ => some t
  | .cas t _ => some t
  | .acopy t _ => some t
  | .cflush t _ => some t
  | .fenceSq t _ => some t
  | .fenceDev t _ => some t
  | .br t _ => some t
  | .jal t _ => some t
  | .jr t _ => some t
  | .exit t _ => some t
  | .sread t _ => some t
  | .signal t _ => some t
  | .watch t _ => some t
  | .wait t _ => some t
  | .dmaKick t _ => some t
  | .arrayIssue t _ => some t
  | .bankIssue t _ => some t
  | _ => none

/-- Thread `t` is READY as `x` and its processor's turn is its; the instruction at its pc is `c`, and no register of `regs` waits for an earlier access
(06 R169, R171). -/
def Issues (s : State) (c : Instr) (t : ThrId) (x : Thr) (regs : List Nat) : Prop :=
  s.thrAt t = x ∧ s.turn t = true ∧ s.instrAt t = some c ∧ ∀ r ∈ regs, r = 0 ∨ r ∉ x.awaited

/-- The unit of a micro-instruction (03 Table BANK-8); the other rows are none. -/
def microUnit : Instr → Option UnitId
  | .mNop u _ => some u
  | .mEnd u _ => some u
  | .mSetx u _ => some u
  | .mAddx u _ => some u
  | .mSetk u _ => some u
  | .mLoop u _ => some u
  | .mBrz u _ => some u
  | .mAct u _ => some u
  | .mPre u _ => some u
  | .mRd u _ _ => some u
  | .mWr u _ => some u
  | .mBop u _ => some u
  | .mTlu u _ => some u
  | .mGrp u _ => some u
  | .mDot u _ => some u
  | .mExpw u _ => some u
  | .mLdr u _ => some u
  | .mFin u _ => some u
  | .mAsnd u _ => some u
  | .mArcv u _ => some u
  | .mFill u _ => some u
  | _ => none

/-- As `Finished`, where other commands may have completed after it. -/
def Completed (h : CmdHdr) (op status : Nat) (result : W64) (t : State) : Prop :=
  ⟨h.tag, op, status, h.index, result, none⟩ ∈ (t.mbox h.mb).done ∧ ∀ r ∈ (t.mbox h.mb).cmds, r.hdr ≠ h

/-- The power cap lies within its range (14 R399). -/
def CapLegal (s : State) : Prop := 1100 ≤ s.pw.cap ∧ s.pw.cap ≤ 2200

end Sys2Proof
end

