-- ==== Sys2Proof/Certificates/Slice0/Obligations.lean ====
section
/-! DEFINITION. The statements for the provers: each is a def Obligations.<Name> : Prop whose docstring names the rules of spec/ it formalises. -/

open Sys2Proof Sys2Proof.Machine

/-- A step takes the command at the front of the queue and runs it with the queue's rest; on an empty queue TIME counts one nanosecond, in reset
and without SCLK not. The tick is the model's choice (notes/assumptions/2.md). -/
def Obligations.StepRunsFrontCommand : Prop :=
  (∀ (c : Instr) (r : List Instr) (s : State), step { s with pending := c :: r } = exec c { s with pending := r }) ∧
  (∀ s : State, s.pending = [] → s.pw.inReset = false → s.md.state ≠ 2 → step s = .next { s with time := s.time + 1 }) ∧
  (∀ s : State, s.pending = [] → s.pw.inReset = true → step s = .next s)

/-- R422 to R425: power-up into reset, the conditions of Table PHYS-2 with their SUPPLY records (again every 1 s), power-down after more than 200 µs. In
reset TIME does not run: HOLD_UP_EXPIRY then tells it itself, the model's choice (notes/assumptions/131.md). -/
def Obligations.SupplyConditions : Prop :=
  (∀ (s : State) (mv : Nat), s.pw.driven = false → 58000 < mv → mv ≤ 80000 → ∃ t, exec (.powerUp mv) s = .next t ∧ ContentsLost s t ∧
    t.pw.driven = true ∧ t.pw.inReset = true ∧ t.pw.inputMv = mv ∧ t.pw.thermalTrip = false ∧ t.pw.perstLow = s.pw.perstLow ∧
    t.pw.flash = s.pw.flash ∧ t.freeCount = s.freeCount) ∧
  (∀ (s : State) (mv : Nat), s.pw.driven = true → s.pw.inReset = false → s.pw.cond = 0 →
    (55000 ≤ mv ∧ mv < 60000 ∨ 78000 < mv ∧ mv ≤ 80000) → exec (.supplyRangeChange mv) s =
      .next (({ s with pw := { s.pw with inputMv := mv, cond := 1, condAt := s.now } } : State).log 0x0305 domModule (n64 mv))) ∧
  (∀ (s : State) (mv : Nat), s.pw.driven = true → s.pw.cond = 1 → 60000 ≤ mv → mv ≤ 78000 → exec (.supplyRangeChange mv) s =
      .next { s with pw := { s.pw with inputMv := mv, cond := 0, condAt := s.now } }) ∧
  (∀ (s : State) (mv : Nat), s.pw.driven = true → mv < 55000 → exec (.supplyRangeChange mv) s =
      .next { s with pw := { s.pw with inputMv := mv, cond := 2, condAt := if s.pw.cond = 2 then s.pw.condAt else s.now } }) ∧
  (∀ (s : State) (mv : Nat), s.pw.driven = true → s.pw.inReset = false → s.pw.cond = 2 → 60000 ≤ mv → mv ≤ 78000 →
    exec (.supplyRangeChange mv) s =
      .next (({ s with pw := { s.pw with inputMv := mv, cond := 0, condAt := s.now } } : State).log 0x0305 domModule (n64 mv))) ∧
  (∀ s : State, s.pw.driven = true → s.pw.inReset = false → (s.pw.cond = 1 ∨ s.pw.cond = 3) → s.pw.condAt + 1000000000 ≤ s.now →
    exec .supplyRelog s = .next (({ s with pw := { s.pw with condAt := s.now } } : State).log 0x0305 domModule (n64 s.pw.inputMv))) ∧
  (∀ s : State, s.pw.inReset = false → s.now ≤ s.pw.condAt + 200000 → exec .holdUpExpiry s = .next s) ∧
  (∀ s : State, s.pw.driven = true → s.pw.cond = 2 → (s.pw.inReset = true ∨ s.pw.condAt + 200000 < s.now) → ∃ t, exec .holdUpExpiry s = .next t ∧ ContentsLost s t ∧ t.pw.driven = false ∧
    t.pw.inReset = true ∧ t.pw.thermalTrip = s.pw.thermalTrip ∧ (s.pw.flashOp = none → t.pw.flash = s.pw.flash)) ∧
  (∀ (s : State) (mv : Nat), s.pw.driven = true → 80000 < mv → ∃ t, exec (.overvoltageShutdown mv) s = .next t ∧ ContentsLost s t ∧
    t.pw.driven = false ∧ t.pw.inReset = true ∧ t.pw.inputMv = mv ∧ (s.pw.flashOp = none → t.pw.flash = s.pw.flash))

/-- R375, R376, R424: PERST_N asserted stops everything and loses the contents, RWS fields and the flash apart; its rise starts TIME at 0 and boot
phase 1 where the conditions hold, and otherwise leaves the module in reset. -/
def Obligations.PerstStopsAndStarts : Prop :=
  (∀ s : State, s.pw.perstLow = false → s.pw.driven = true → ∃ t, exec .perstAssert s = .next t ∧ ContentsLost s t ∧ t.pw.perstLow = true ∧
    t.pw.inReset = true ∧ t.pw.thermalTrip = s.pw.thermalTrip ∧ t.pw.flash = s.pw.flash ∧ t.pw.flashOp = s.pw.flashOp ∧
    t.freeCount = s.freeCount ∧ t.modStatus = State.reset.modStatus) ∧
  (∀ (s : State) (low supply ref hot : Nat), s.pw.driven = true → s.pw.perstLow = true → s.pw.cond = 0 → 100 ≤ low → 100 ≤ supply → 100 ≤ ref →
    s.pw.flashOp = none → (s.pw.hot = true → hot < 100) → exec (.perstDeassert low supply ref hot) s =
      .next { s with time := 0, bt := { s.bt with phase := 1, throttled := s.pw.throttleLow },
                     pw := { s.pw with perstLow := false, tap := .reset, inReset := false, hot := false, throttleSeen := s.pw.throttleLow } }) ∧
  (∀ (s : State) (low supply ref hot : Nat), (low < 100 ∨ supply < 100 ∨ ref < 100 ∨ s.pw.flashOp ≠ none ∨ s.pw.cond ≠ 0 ∨ (s.pw.hot = true ∧ 100 ≤ hot)) →
    exec (.perstDeassert low supply ref hot) s = .next { s with pw := { s.pw with perstLow := false, tap := .reset } })

/-- R400, R401, R310: the throttle puts every tile at 0.8 GHz and every stack at a cap of 1; a thermal shutdown and the loss of SCLK make the
module FAILED. -/
def Obligations.ThrottleAndShutdowns : Prop :=
  (∀ s : State, s.pw.inReset = false → s.md.state ≠ 2 → ∃ t, exec .fastThrottleFall s = .next t ∧
    t = { s with pw := { s.pw with throttleLow := true, throttleSeen := true }, bt := t.bt, tile := t.tile, dr := { s.dr with stack := t.dr.stack } } ∧
    (∀ i, i < 64 → (s.tileAt i).state ≠ 0 → t.tileAt i = { s.tileAt i with freq := 64, limit := 4, stretched := false }) ∧
    (∀ i, i < 64 → (s.tileAt i).state = 0 → t.tileAt i = s.tileAt i) ∧
    (∀ k, k < 16 → (s.stackAt k).loopEn = true → (t.stackAt k).cap = 1) ∧ (∀ k, k < 16 → t.capInForce k = 1) ∧
    t.powerInForce = min s.pw.cap 1100) ∧
  (∀ s : State, ∃ t, exec .fastThrottleRise s = .next t ∧ t = { s with pw := { s.pw with throttleLow := false }, tile := t.tile } ∧
    t.powerInForce = s.pw.cap) ∧
  (∀ (s : State) (site : HotSite), s.pw.inReset = false → s.md.state ≠ 2 → ∃ t, exec (.thermalShutdown site) s = .next t ∧ t.md.state = 2 ∧
    t.md.failReason = 6 ∧ t.md.running = false ∧ t.pw.thermalTrip = true ∧ t.pending = s.pending ∧ t.bt = s.bt) ∧
  (∀ s : State, s.pw.inReset = false → s.md.state ≠ 2 → ∃ t, exec .sclkLoss s = .next t ∧ t.md.state = 2 ∧ t.md.failReason = 4 ∧
    t.md.running = false ∧ t.pending = s.pending ∧ t.pw = s.pw ∧ t.bt = s.bt)

/-- R432: within the operating range the sideband answers the registers, whatever PERST_N; a cap write is clamped, and NACKed while PERST_N is
asserted or with a wrong PEC. The low 12 bits are the cap field (15 Table REGS-15). -/
def Obligations.SidebandRegisters : Prop :=
  ∀ s : State, s.pw.driven = true → s.pw.cond = 0 →
  exec .sbId s = .next (s.sbAnswer (.data (toBytes 8 devIdLow ++ toBytes 8 Config.moduleId.toNat))) ∧
  exec .sbStatus s = .next (s.sbAnswer (.data (toBytes 8 (s.readReg 0x10)))) ∧
  exec .sbBoot s = .next (s.sbAnswer (.data (toBytes 8 (s.readReg 0x18)))) ∧
  exec .sbPower s = .next (s.sbAnswer (.data (toBytes 8 (s.readReg 0x208)))) ∧
  exec .sbTherm s = .next (s.sbAnswer (.data (toBytes 8 (s.readReg 0x210)))) ∧
  exec (.sbCap .read) s = .next (s.sbAnswer (.data (toBytes 2 s.pw.cap))) ∧
  exec .flashStatus s = .next (s.sbAnswer (.data [BitVec.ofNat 8 (b2n s.pw.flashOp.isSome + 2 * b2n s.pw.flashErr)])) ∧
  (∀ (v : W16) (pec : Pec), s.pw.perstLow = false → pec ≠ .bad → exec (.sbCap (.write v pec)) s =
    .next (({ s with pw := { s.pw with cap := max 1100 (min 2200 (v.toNat % 4096)) } } : State).sbAnswer .ack)) ∧
  (∀ (v : W16) (pec : Pec), s.pw.perstLow = true ∨ pec = .bad → exec (.sbCap (.write v pec)) s = .next (s.sbAnswer .nack))

/-- R432, R377: flash commands only while PERST_N is asserted and none is in progress; what a write and an erase leave in every byte of the
flash; the error of the reserved range. Programming clears bits only: the model's PRESUMED reading (notes/assumptions/54.md). -/
def Obligations.FlashCommands : Prop :=
  (∀ (s : State) (a n : Nat), s.pw.driven = true → s.pw.cond = 0 → s.pw.perstLow = true → s.pw.flashOp = none → 1 ≤ n → n ≤ 32 → a + n ≤ 2 ^ 27 →
    exec (.flashRead a n) s = .next { s with pw := { s.pw with flashErr := false, sb := .data (mread flashD s.pw.flash a n) } }) ∧
  (∀ (s : State) (a : Nat) (d : List Byte) (pec : Pec), s.pw.driven = true → s.pw.cond = 0 → s.pw.perstLow = true → s.pw.flashOp = none → pec ≠ .bad →
    d ≠ [] → d.length ≤ 32 → a % 256 + d.length ≤ 256 → exec (.flashWrite a d pec) s =
      .next (if flashTop < a + d.length then { s with pw := { s.pw with flashErr := true, sb := .ack } }
             else { s with pw := { s.pw with flashErr := false, flashOp := some (.write a d), sb := .ack } })) ∧
  (∀ (s : State) (a : Nat) (pec : Pec), s.pw.driven = true → s.pw.cond = 0 → s.pw.perstLow = true → s.pw.flashOp = none → pec ≠ .bad →
    exec (.flashErase a pec) s =
      .next (if flashTop ≤ a then { s with pw := { s.pw with flashErr := true, sb := .ack } }
             else { s with pw := { s.pw with flashErr := false, flashOp := some (.erase (a / 65536 * 65536)), sb := .ack } })) ∧
  (∀ (s : State) (a n : Nat) (d : List Byte) (pec : Pec), s.pw.driven = true → s.pw.cond = 0 → (s.pw.perstLow = false ∨ s.pw.flashOp ≠ none) →
    exec (.flashRead a n) s = .next (s.sbAnswer .nack) ∧ exec (.flashWrite a d pec) s = .next (s.sbAnswer .nack) ∧
    exec (.flashErase a pec) s = .next (s.sbAnswer .nack)) ∧
  (∀ (s : State) (a : Nat) (d : List Byte), s.pw.flashOp = some (.write a d) → ∃ t, exec .flashOpDone s = .next t ∧
    t = { s with pw := { s.pw with flash := t.pw.flash, flashOp := none } } ∧
    ∀ x, tget flashD t.pw.flash x =
      if a ≤ x ∧ x < a + d.length then tget flashD s.pw.flash x &&& d.getD (x - a) 0 else tget flashD s.pw.flash x) ∧
  (∀ (s : State) (a : Nat), s.pw.flashOp = some (.erase a) → ∃ t, exec .flashOpDone s = .next t ∧
    t = { s with pw := { s.pw with flash := t.pw.flash, flashOp := none } } ∧
    ∀ x, tget flashD t.pw.flash x = if a ≤ x ∧ x < a + 65536 then 0xFF else tget flashD s.pw.flash x)

/-- R432: the TAP moves by TMS while PERST_N is asserted, is held in Test-Logic-Reset otherwise, and five times TMS = 1 resets it from any
state (IEEE 1149.1). -/
def Obligations.BoundaryScan : Prop :=
  (∀ (s : State) (tms tdi : Bool), s.pw.driven = true → s.pw.perstLow = true →
    exec (.tapAccess tms tdi) s = .next { s with pw := { s.pw with tap := s.pw.tap.next tms } }) ∧
  (∀ (s : State) (tms tdi : Bool), s.pw.perstLow = false → exec (.tapAccess tms tdi) s = .next { s with pw := { s.pw with tap := .reset } }) ∧
  (∀ x : TapSt, ((((x.next true).next true).next true).next true).next true = .reset)

/-- R383 to R385: reports, the freeze at TIME = 30 ms with what each vector makes of primary and standby, the claim, the acknowledgements. Where vectors differ the
lowest tile that computes itself primary claims: the model's choice (notes/assumptions/55.md). -/
def Obligations.ElectionOfPrimary : Prop :=
  (∀ (s : State) (dst src : TileId), s.booting = true → s.bt.frozen = false → ∃ t, exec (.healthReport dst src true) s = .next t ∧
    t = { s with bt := { s.bt with health := t.bt.health } } ∧
    ∀ d i, (t.health d).getLsbD i = ((s.health d).getLsbD i || (decide (i = src.val) && decide (d = dst.val ∨ d = src.val)))) ∧
  (∀ (s : State) (dst src : TileId), exec (.healthReport dst src false) s = .next s) ∧
  (∀ (s : State) (p b : Nat), s.booting = true → s.bt.frozen = false → 30000000 ≤ s.now → s.claimant = some p → electStandby (s.health p) p = some b →
    ((s.health p).getLsbD 0 = true ∨ (s.health p).getLsbD 3 = true) → exec .electionFreeze s =
      .next { s with md := { s.md with primary := p, standby := b },
                     bt := { s.bt with frozen := true, phase := 2, claim := some (s.health p), claimed := 1#64 <<< p, acks := 1#64 <<< p } }) ∧
  (∀ s : State, s.booting = true → s.bt.frozen = false → 30000000 ≤ s.now → s.claimant = none → ∃ t, exec .electionFreeze s = .next t ∧ t.md.state = 2 ∧ t.md.failReason = 1) ∧
  (∀ (s : State) (v : W64), (∀ i, i < 64 → s.health i = v) → s.claimant = electPrimary v) ∧
  (∀ (v : W64) (p : Nat), electPrimary v = some p ↔ p < 64 ∧ v.getLsbD p = true ∧ ∀ i, i < p → v.getLsbD i = false) ∧
  (∀ (s : State) (v : W64) (dst : TileId), s.booting = true → s.bt.claim = some v → ∃ t, exec (.primaryClaim dst) s = .next t ∧ t.health dst = v ∧
    t = { s with bt := { s.bt with health := t.bt.health, claimed := s.bt.claimed ||| (1#64 <<< dst.val) } } ∧
    ∀ d, d ≠ dst.val → t.health d = s.health d) ∧
  (∀ (s : State) (v : W64) (src : TileId), s.booting = true → s.bt.phase = 2 → s.bt.claim = some v → s.bt.claimed.getLsbD src = true →
    v &&& ~~~(s.bt.acks ||| (1#64 <<< src.val)) ≠ 0 → exec (.claimAck src) s =
      .next { s with bt := { s.bt with acks := s.bt.acks ||| (1#64 <<< src.val) } }) ∧
  (∀ (s : State) (src : TileId), s.booting = true → s.bt.phase = 2 → s.bt.claim = some (BitVec.allOnes 64) → s.bt.claimed.getLsbD src = true →
    s.bt.acks ||| (1#64 <<< src.val) = BitVec.allOnes 64 → exec (.claimAck src) s =
      .next { s with bt := { s.bt with acks := BitVec.allOnes 64, phase := 3 } })

/-- R376, R379, R385, R387, R392, R393: the boot phases in order, no image, the spare lanes, the cleared memory, the ready report and its deadline. -/
def Obligations.BootToReady : Prop :=
  (∀ (s : State) (r : PhaseReport), s.booting = true → (s.bt.phase = 1 ∨ s.bt.phase = 4) →
    exec (.bootPhaseEnd r) s = .next { s with bt := { s.bt with phase := s.bt.phase + 1 } }) ∧
  (∀ (s : State) (r : PhaseReport), s.booting = true → s.bt.phase = 3 → slotCheck (s.flashBytes 0 512) r.slotA s.minSecver ≠ 0 →
    slotCheck (s.flashBytes 0x3000000 512) r.slotB s.minSecver ≠ 0 → ∃ t, exec (.bootPhaseEnd r) s = .next t ∧ t.md.state = 2 ∧ t.md.failReason = 3) ∧
  (∀ (s : State) (r : PhaseReport), s.booting = true → s.bt.phase = 3 → slotCheck (s.flashBytes 0 512) r.slotA s.minSecver = 0 →
    leAt (s.flashBytes 0x3000000 512) 8 4 ≤ leAt (s.flashBytes 0 512) 8 4 → ∃ t, exec (.bootPhaseEnd r) s = .next t ∧ t.bt.phase = 4 ∧
    t.bt.slotUsed = 0 ∧ t.bt.slotA = 0 ∧ t.bt.slotB = 7 ∧ t.md = s.md) ∧
  (∀ (s : State) (r : PhaseReport) (c : Nat), s.booting = true → s.bt.phase = 5 → r.trainFail = [] → r.laneFail = [] → c < 1024 → (s.sub c).state = 0 →
    ∃ t, exec (.bootPhaseEnd r) s = .next t ∧ t.bt.phase = 6 ∧ (t.sub c).state = 1 ∧ (t.sub c).spare = none) ∧
  (∀ (s : State) (r : PhaseReport), s.booting = true → s.bt.phase = 9 → exec (.bootPhaseEnd r) s =
    .next { s with bt := { s.bt with phase := 10 }, dr := { s.dr with madder := [], mark := [], reported := [], segEpoch := [] } }) ∧
  (∀ (s : State) (r : PhaseReport), s.booting = true → s.bt.phase = 10 → ∃ t, exec (.bootPhaseEnd r) s = .next t ∧ t.md.state = 1 ∧ t.md.running = true ∧
    t.bt.phase = 15 ∧ t.bt.timeReady = s.time ∧ t.bt.tickStart = (if s.bt.tickWrap then 0xFFFFD8F0 else 0) ∧ (s.epochCount = 0 → t.bt.epoch = 1) ∧
    (∀ i, i < 64 → (s.tileAt i).state ≠ 0 → (t.tileAt i).state = 2 ∧ (t.tileAt i).strict = 0xFFFF ∧ (t.tileAt i).carve = s.bt.carve ∧
      (t.tileAt i).weld = []) ∧
    t = { s with md := { s.md with state := 1, running := true }, bt := t.bt, pw := { s.pw with flash := t.pw.flash }, tile := t.tile,
                 unit := t.unit, dr := { s.dr with stack := t.dr.stack } }) ∧
  (∀ s : State, s.booting = true → 2500000000 ≤ s.now → s.bt.throttled = false → s.pw.throttleLow = false → ∃ t, exec .readyDeadline s = .next t ∧ t.md.state = 2 ∧
    t.md.failReason = 5)

/-- R387: the spare stays unused, takes the one lane that fails, or the sub-channel is mapped out; 12 stands for the spare. -/
def Obligations.SpareLaneDecision : Prop :=
  (∀ fails : List Nat, (∀ l ∈ fails, l = 12) → spareDecision fails = some (none, decide (12 ∈ fails))) ∧
  (∀ (fails : List Nat) (l : Nat), l < 12 → l ∈ fails → (∀ m ∈ fails, m = l) → spareDecision fails = some (some l, false)) ∧
  (∀ (fails : List Nat) (l : Nat), l < 12 → l ∈ fails → 12 ∈ fails → spareDecision fails = none) ∧
  (∀ (fails : List Nat) (l m : Nat), l < 12 → m < 12 → l ≠ m → l ∈ fails → m ∈ fails → spareDecision fails = none)

/-- R395, R396, R400: every 1 µs, and 100 ns after a droop at the soonest, the voltage and frequency loop keeps TCLK within 0.8 to 2.0 GHz and the voltage within 0.60 to 0.90 V, raises by at most 50 MHz, and
runs at 0.8 GHz under FAST_THROTTLE_N. By how much a binding limit lowers the frequency is free (notes/assumptions/56.md). A low eye margin asks for
a retraining of the sub-channel, with a free cause (notes/assumptions/58.md), retrains the Causeway port, and leaves a PCIe port to itself. -/
def Obligations.FrequencyAndEyeMargin : Prop :=
  (∀ (s : State) (i : TileId) (v : VfSense), s.pw.inReset = false → s.md.state ≠ 2 → (s.tileAt i).state ≠ 0 → 64 ≤ (s.tileAt i).freq → (s.tileAt i).freq ≤ 160 →
    (∀ a, (s.tileAt i).loopAt = some a → a + 1000 ≤ s.now) → ((s.tileAt i).stretched = true → (s.tileAt i).droopAt + 100 ≤ s.now) →
    ∃ t, exec (.vfLoop i v) s = .next t ∧ 64 ≤ (t.tileAt i).freq ∧ (t.tileAt i).freq ≤ 160 ∧ (t.tileAt i).freq ≤ (s.tileAt i).freq + 4 ∧
      600 ≤ (t.tileAt i).volt ∧ (t.tileAt i).volt ≤ 900 ∧ (t.tileAt i).stretched = false ∧
      (s.pw.throttleLow = true → (t.tileAt i).freq = 64 ∧ (t.tileAt i).limit = 4) ∧
      ((t.tileAt i).limit ∈ [1, 2, 3] → 64 < (s.tileAt i).freq → (t.tileAt i).freq < (s.tileAt i).freq) ∧
      ((t.tileAt i).limit = 0 → (t.tileAt i).freq = max 64 (min ((s.tileAt i).freq + 4) (min v.path 160))) ∧
      t = ({ s with freeCount := s.freeCount + 1 } : State).setTile i
        { s.tileAt i with freq := (t.tileAt i).freq, volt := (t.tileAt i).volt, limit := (t.tileAt i).limit, temp := v.temp % 256,
                          stretched := false, loopAt := some s.now }) ∧
  (∀ (s : State) (i : TileId) (v : VfSense) (a : Nat), (s.tileAt i).loopAt = some a → s.now < a + 1000 → exec (.vfLoop i v) s = .next s) ∧
  (∀ (s : State) (i : TileId), s.pw.inReset = false → s.md.state ≠ 2 → (s.tileAt i).state ≠ 0 →
    exec (.droopTrip i) s = .next (s.setTile i { s.tileAt i with stretched := true, limit := 3, droopAt := s.now })) ∧
  (∀ (s : State) (c : SubId), s.pw.inReset = false → (s.sub c).state = 1 → ∃ t, exec (.eyeMarginLow (.sub c)) s = .next t ∧
    ((t.sub c).holder = 1 ∨ 1 ∈ (t.sub c).waiting) ∧ (t.sub c).state = 1 ∧
    t = { s with freeCount := s.freeCount + 1, dr := { s.dr with sub := t.dr.sub } } ∧ ∀ d, d ≠ c.val → t.sub d = s.sub d) ∧
  (∀ (s : State) (p : CwPortId), (s.cwAt p).state = 2 → ∃ t, exec (.eyeMarginLow (.cw p)) s = .next t ∧ (t.cwAt p).state = 1 ∧
    (t.cwAt p).attempts = 0 ∧ (t.cwAt p).replay = (s.cwAt p).replay ∧ (t.cwAt p).txSeq = (s.cwAt p).txSeq ∧
    (t.cwAt p).credits = (s.cwAt p).credits ∧ t = { s with freeCount := s.freeCount + 1, cw := { s.cw with port := t.cw.port } }) ∧
  (∀ (s : State) (p : HPort), exec (.eyeMarginLow (.pcie p)) s = .next s)

/-- R397: every hour, the period of a stack in the adaptive loop after an evaluation, from its corrected codewords and the run of quiet evaluations; a stack with
a fixed period keeps it. An odd period is halved downward (notes/assumptions/59.md). -/
def Obligations.ScrubRate : Prop :=
  (∀ s : State, s.loopDue 0 3600000000000 = false → exec .scrubRateLoop s = .next s) ∧
  ∀ s : State, s.loopsRun = true → s.loopDue 0 3600000000000 = true → ∃ t, exec .scrubRateLoop s = .next t ∧
    t = ({ s with dr := { s.dr with stack := t.dr.stack } } : State).loopRan 0 ∧ ∀ k, k < 16 → (t.stackAt k).hours = (s.stackAt k).hours ∧ (t.stackAt k).cap = (s.stackAt k).cap ∧
      (t.stackAt k).passes = (s.stackAt k).passes ∧ (t.stackAt k).corrected1h = 0 ∧
      ((s.stackAt k).hours ≠ 0 → (t.stackAt k).period = (s.stackAt k).period) ∧
      ((s.stackAt k).hours = 0 →
        (1024 ≤ (s.stackAt k).corrected1h.toNat → (t.stackAt k).period = max 1 ((s.stackAt k).period / 2)) ∧
        (64 ≤ (s.stackAt k).corrected1h.toNat → (s.stackAt k).corrected1h.toNat < 1024 → 24 < (s.stackAt k).period → (t.stackAt k).period = 24) ∧
        (64 ≤ (s.stackAt k).corrected1h.toNat → (s.stackAt k).corrected1h.toNat < 1024 → (s.stackAt k).period ≤ 24 →
          (t.stackAt k).period = (s.stackAt k).period) ∧
        (16 ≤ (s.stackAt k).corrected1h.toNat → (s.stackAt k).corrected1h.toNat < 64 → (t.stackAt k).period = (s.stackAt k).period ∧ (t.stackAt k).quiet = 0) ∧
        ((s.stackAt k).corrected1h.toNat < 16 → (s.stackAt k).quiet + 1 < 24 → (t.stackAt k).period = (s.stackAt k).period ∧
          (t.stackAt k).quiet = (s.stackAt k).quiet + 1) ∧
        ((s.stackAt k).corrected1h.toNat < 16 → 24 ≤ (s.stackAt k).quiet + 1 → (t.stackAt k).period = min 168 (2 * (s.stackAt k).period) ∧
          (t.stackAt k).quiet = 0))

/-- R398: the cap of a stack against its 45 W allotment, from its hottest die and its power, every 1 ms; a stack whose loop_en is 0 keeps its cap
(15 R414). Units inside windows are not touched, and a window opens afterwards only below the new cap. -/
def Obligations.BankConcurrency : Prop :=
  (∀ (s : State) (sense : List StackSense), s.loopDue 1 1000000 = false → exec (.bankConcurrencyLoop sense) s = .next s) ∧
  ∀ (s : State) (sense : List StackSense) (k : Nat) (v : StackSense), s.loopsRun = true → s.loopDue 1 1000000 = true → s.pw.throttleLow = false → k < 16 → sense[k]? = some v →
    (s.stackAt k).allot = 450 → ∃ t, exec (.bankConcurrencyLoop sense) s = .next t ∧
      t = ({ s with dr := { s.dr with stack := t.dr.stack } } : State).loopRan 1 ∧
      ((s.stackAt k).loopEn = false → (t.stackAt k).cap = (s.stackAt k).cap) ∧
      ((s.stackAt k).loopEn = true → 100 ≤ v.temp → (t.stackAt k).cap = 1) ∧
      ((s.stackAt k).loopEn = true → v.temp < 100 → (95 ≤ v.temp ∨ 450 < v.power) → (t.stackAt k).cap = max 1 ((s.stackAt k).cap - 1)) ∧
      (v.temp < 90 → v.power < 405 → (t.stackAt k).cool = (s.stackAt k).cool + 1) ∧
      ((90 ≤ v.temp ∨ 405 ≤ v.power) → (t.stackAt k).cool = 0) ∧
      ((s.stackAt k).loopEn = true → v.temp < 90 → v.power < 405 →
        (t.stackAt k).cap = (if 10 ≤ (s.stackAt k).cool + 1 then min 4 ((s.stackAt k).cap + 1) else (s.stackAt k).cap)) ∧
      ((s.stackAt k).loopEn = true → v.temp < 95 → v.power ≤ 450 → (90 ≤ v.temp ∨ 405 ≤ v.power) → (t.stackAt k).cap = (s.stackAt k).cap) ∧
      (∀ (u : UnitId) (now : Nat), u.val / 128 = k → 1 ≤ (t.stackAt k).cap → t.windowOk u now = true → t.dieOpen (u.val / 8) < (t.stackAt k).cap)

/-- R399: every 1 µs the measured power with at_cap, and every 100 µs the allotments: every tile in service the same, none above what the cap in force leaves; stacks at
most 45 W each, their shares being free (notes/assumptions/57.md). -/
def Obligations.PowerCapping : Prop :=
  (∀ (s : State) (w mv ma : Nat), w < 4096 → s.pw.inReset = false → s.md.state ≠ 2 → s.loopDue 2 1000 = true → ∃ t, exec (.powerMeasure w mv ma) s = .next t ∧ t.pw.power = w ∧
    t.pw.voltage = min 65535 (mv / 10) ∧ t.pw.current = min 65535 (ma / 10) ∧ t.pw.atCap = decide (s.powerInForce ≤ w) ∧
    t.pw.atCapSeen = (s.pw.atCapSeen || t.pw.atCap) ∧
    t = ({ s with pw := { s.pw with power := t.pw.power, voltage := t.pw.voltage, current := t.pw.current, atCap := t.pw.atCap,
                                    atCapSeen := t.pw.atCapSeen } } : State).loopRan 2) ∧
  (∀ (s : State) (w mv ma : Nat), s.pw.inReset = false → s.loopDue 2 1000 = false → exec (.powerMeasure w mv ma) s = .next s) ∧
  (∀ s : State, s.loopDue 3 100000 = false → exec .powerCapEnforce s = .next s) ∧
  (∀ s : State, s.loopsRun = true → s.loopDue 3 100000 = true → ∃ t r, exec .powerCapEnforce s = .next t ∧
    (∀ i, i < 64 → (s.tileAt i).state ≠ 0 → t.tileAt i = { s.tileAt i with allot := r }) ∧ (∀ i, i < 64 → (s.tileAt i).state = 0 → t.tileAt i = s.tileAt i) ∧
    (∀ k, k < 16 → (t.stackAt k).allot ≤ 450 ∧ t.stackAt k = { s.stackAt k with allot := (t.stackAt k).allot }) ∧
    r * ((List.range 64).countP fun i => (s.tileAt i).state ≠ 0) + ((List.range 16).map fun k => (t.stackAt k).allot).sum ≤
      max (10 * s.powerInForce) ((List.range 16).map fun k => (t.stackAt k).allot).sum ∧
    t = ({ s with freeCount := s.freeCount + 17, tile := t.tile, dr := { s.dr with stack := t.dr.stack } } : State).loopRan 3)

/-- R412, R414, R416, 02 R57, 07 R208: what register writes with rows of their own leave. PWR_CAP is clamped; a UNIT_CAP cap of 0 or above 4 and hours
above 168 are ignored; the correction policy; cleared counts; STRICT blocks. -/
def Obligations.ControlRegisterWrites : Prop :=
  (∀ (s : State) (v : W64), exec (.pwrCapWrite v) s = .next { s with pw := { s.pw with cap := max 1100 (min 2200 (v.toNat % 4096)) } }) ∧
  (∀ (s : State) (k : SquareId) (v : W64), ∃ t, exec (.unitCapWrite k v) s = .next t ∧ t = s.setStack k (t.stackAt k) ∧
    t.stackAt k = { s.stackAt k with cap := (if v.toNat % 8 = 0 ∨ 4 < v.toNat % 8 then (s.stackAt k).cap else v.toNat % 8), loopEn := v.getLsbD 3 }) ∧
  (∀ (s : State) (k : SquareId) (v : W64), exec (.eccPolicyWrite k v) s = .next (s.setStack k { s.stackAt k with policy2 := v.getLsbD 0 })) ∧
  (∀ (s : State) (k : SquareId) (v : W64), 168 < v.toNat % 256 → exec (.scrubCtrlWrite k v) s = .next s) ∧
  (∀ (s : State) (k : SquareId) (v : W64), v.toNat % 256 ≤ 168 → ∃ t, exec (.scrubCtrlWrite k v) s = .next t ∧ t = s.setStack k (t.stackAt k) ∧
    t.stackAt k = { s.stackAt k with hours := v.toNat % 256, period := (if v.toNat % 256 = 0 then (s.stackAt k).period else v.toNat % 256) }) ∧
  (∀ (s : State) (c : SubId), exec (.clearCounts c) s = .next (s.setSub c { s.sub c with readCe := 0, scrubCe := 0, readUe := 0, scrubUe := 0 })) ∧
  (∀ (s : State) (i : TileId) (v : W64), exec (.syncModeWrite i v) s = .next (s.setTile i { s.tileAt i with strict := v.setWidth 16 }))

/-- R419, R420: a timer's period arms it with the phase last written, 0 disables it, 1 to 999 is ignored; a halt field is set only in DIAGNOSTIC,
and a cleared halt lets the array go on. -/
def Obligations.TimersAndHalts : Prop :=
  (∀ (s : State) (i : TileId) (n : Fin 16) (v : W64), 1 ≤ v.toNat % 2 ^ 32 → v.toNat % 2 ^ 32 ≤ 999 → exec (.timerPeriodWrite i n v) s = .next s) ∧
  (∀ (s : State) (i : TileId) (n : Fin 16) (v : W64), (v.toNat % 2 ^ 32 = 0 ∨ 1000 ≤ v.toNat % 2 ^ 32) → ∃ t, exec (.timerPeriodWrite i n v) s = .next t ∧
    tget timerD (t.tileAt i).timers n = { period := v.setWidth 32, phase := (tget timerD (s.tileAt i).timers n).phaseReg,
                                          phaseReg := (tget timerD (s.tileAt i).timers n).phaseReg } ∧
    (∀ m, m ≠ n.val → tget timerD (t.tileAt i).timers m = tget timerD (s.tileAt i).timers m) ∧
    t = s.setTile i { s.tileAt i with timers := (t.tileAt i).timers }) ∧
  (∀ (s : State) (i : TileId) (v : W64), (s.tileAt i).state = 3 → ∃ t, exec (.arrDebugWrite i v) s = .next t ∧
    (t.tileAt i).haltA = v.getLsbD 0 ∧ (t.tileAt i).haltB = v.getLsbD 1 ∧ (v.getLsbD 0 = false → (t.arrAt (2 * i)).halted = false) ∧
    (v.getLsbD 1 = false → (t.arrAt (2 * i + 1)).halted = false) ∧ t = { s with tile := t.tile, arr := t.arr }) ∧
  (∀ (s : State) (i : TileId) (v : W64), (s.tileAt i).state ≠ 3 → (v.getLsbD 0 = true ∨ v.getLsbD 1 = true) → exec (.arrDebugWrite i v) s = .next s)

/-- 02 R51, R52, whole: how an address within a quadrant decodes in an interleaved and in a BANK_LAYOUT segment: the byte, the column, the row, the
sub-channel c = 16·q + i, the die c // 4 and the bank within the die. R50, 15 R415: after a SEG_LAYOUT write each segment of the register has the
layout of its bit, an access uses its segment's layout, and a segment whose layout did not change keeps its contents. -/
def Obligations.LayoutsAndDecode : Prop :=
  (∀ (q : TileId) (a : BitVec 34),
    let i := a.extractLsb' 9 4 ^^^ a.extractLsb' 17 4 ^^^ a.extractLsb' 25 4
    let bsel := a.extractLsb' 15 2 ^^^ a.extractLsb' 17 2
    let c := 16 * q.val + i.toNat
    (placeInter q a.toNat).byte = (a.extractLsb' 0 5).toNat ∧ (placeInter q a.toNat).col = (a.extractLsb' 13 2 ++ a.extractLsb' 5 4).toNat ∧
    (placeInter q a.toNat).row = (a.extractLsb' 17 17).toNat ∧ (placeInter q a.toNat).bank / 16 = c / 4 ∧
    (placeInter q a.toNat).bank % 16 = 4 * (c % 4) + bsel.toNat) ∧
  (∀ (q : TileId) (a : BitVec 34),
    let pair := (a.extractLsb' 21 5).toNat
    (placeBank q a.toNat).byte = (a.extractLsb' 0 5).toNat ∧ (placeBank q a.toNat).col = (a.extractLsb' 5 6).toNat ∧
    (placeBank q a.toNat).row = (a.extractLsb' 26 8 ++ a.extractLsb' 12 9).toNat ∧ (placeBank q a.toNat).bank / 16 = 4 * q.val + pair / 8 ∧
    (placeBank q a.toNat).bank % 16 = 2 * (pair % 8) + (a.extractLsb' 11 1).toNat) ∧
  (∀ (s : State) (q : TileId) (a : BitVec 34),
    s.place (q.val * 2 ^ 34 + a.toNat) = if s.segBank q (a.extractLsb' 26 8).toNat then placeBank q a.toNat else placeInter q a.toNat) ∧
  (∀ (s : State) (q : TileId) (w : Fin 4) (v : W64), ∃ t, exec (.segLayoutWrite q w v) s = .next t ∧
    (∀ j, j < 64 → t.segBank q (64 * w + j) = v.getLsbD j) ∧
    (∀ g : Nat, (g / 64 ≠ 4 * q.val + w.val) → t.dr.segs.contains g = s.dr.segs.contains g) ∧
    (∀ pos, (t.dr.segs.contains (segOfPos pos) = s.dr.segs.contains (segOfPos pos)) → t.dr.readPos pos 1 = s.dr.readPos pos 1) ∧
    t = { s with dr := { s.dr with segs := t.dr.segs, segEpoch := t.dr.segEpoch, madder := t.dr.madder, mark := t.dr.mark, reported := t.dr.reported } })

/-- R405: a 4-byte read of a low half latches the high half for the port; the next read of the high half returns and clears it; without a
latch it is live. Other registers read their half. R404, R420: the tile window reaches the tile that the port's selector names; a tile out of service reads all ones and takes no write; of a
tile in service only the halt fields take one. -/
def Obligations.HalfReadsAndTileWindow : Prop :=
  (∀ (s : State) (p : HPort), exec (.regHalfRead p 0x20) s = .next (s.setPort p { s.port p with
      half := some (0x20, n32 (s.time.toNat / 2 ^ 32)), resp := .data (toBytes 4 (s.time.toNat % 2 ^ 32)) })) ∧
  (∀ (s : State) (p : HPort) (o : Nat) (h : W32), latched o = true → (s.port p).half = some (o, h) → exec (.regHalfRead p (o + 4)) s =
      .next (s.setPort p { s.port p with half := none, resp := .data (toBytes 4 h.toNat) })) ∧
  (∀ (s : State) (p : HPort) (o : Nat), latched o = true → (s.port p).half = none → exec (.regHalfRead p (o + 4)) s =
      .next (s.setPort p { s.port p with resp := .data (toBytes 4 (s.readReg o / 2 ^ 32)) })) ∧
  (∀ (s : State) (p : HPort) (off : Nat), off % 4 = 0 → off < 0x800000 → latched (off / 8 * 8) = false → exec (.regHalfRead p off) s =
      .next (s.setPort p { s.port p with resp := .data (toBytes 4 (s.readReg (off / 8 * 8) / 2 ^ (32 * (off / 4 % 2)) % 2 ^ 32)) })) ∧
  (∀ (s : State) (p : HPort) (x : Nat), x % 8 = 0 → x < 0x800000 → exec (.tileWindowAccess p x 8 .read) s = .next (s.setPort p { s.port p with
      resp := .data (if (s.tileAt (s.port p).tileWin).state = 0 then List.replicate 8 0xFF else toBytes 8 (s.readTileReg (s.port p).tileWin x)) })) ∧
  (∀ (s : State) (p : HPort) (x : Nat) (v : W64), x % 8 = 0 → x < 0x800000 → ((s.tileAt (s.port p).tileWin).state = 0 ∨ x ≠ 0x500) →
    exec (.tileWindowAccess p x 8 (.write v)) s = .next s) ∧
  (∀ (s : State) (p : HPort) (v : W64), (s.tileAt (s.port p).tileWin).state = 3 → ∃ t, exec (.tileWindowAccess p 0x500 8 (.write v)) s = .next t ∧
    (t.tileAt (s.port p).tileWin).haltA = v.getLsbD 0 ∧ (t.tileAt (s.port p).tileWin).haltB = v.getLsbD 1 ∧ t = { s with tile := t.tile, arr := t.arr })

/-- R403, R410, R16 and the field types: selectors and enables take the value written, mailbox registers only while the mailbox is disabled, RW1C flags
clear where a 1 is written, a reserved offset takes nothing and reads 0. -/
def Obligations.PlainRegisterWrites : Prop :=
  (∀ (s : State) (p : HPort) (v : W64), exec (.registerWrite (.host p) 0x40 8 v) s =
    .next { s with ho := { s.ho with portA := { s.ho.portA with tileWin := v.toNat % 64 } } }) ∧
  (∀ (s : State) (p : HPort) (v : W64), exec (.registerWrite (.host p) 0x48 8 v) s =
    .next { s with ho := { s.ho with portB := { s.ho.portB with tileWin := v.toNat % 64 } } }) ∧
  (∀ (s : State) (p : HPort) (v : W64), exec (.registerWrite (.host p) 0x110 8 v) s = .next { s with ho := { s.ho with bar2Write := v.getLsbD 0 } }) ∧
  (∀ (s : State) (p : HPort) (v : W64), exec (.registerWrite (.host p) 0x208 8 v) s = .next { s with pw := { s.pw with
    atCapSeen := s.pw.atCapSeen && !v.getLsbD 26, throttleSeen := s.pw.throttleSeen && !v.getLsbD 27 } }) ∧
  (∀ (s : State) (p : HPort) (v : W64), exec (.registerWrite (.host p) 0x210 8 v) s = .next { s with pw := { s.pw with thermalTrip := v.getLsbD 32 } }) ∧
  (∀ (s : State) (p : HPort) (n : Nat) (v : W64), n < 64 → (s.mbox n).enabled = false → exec (.registerWrite (.host p) (0x10000 + 64 * n) 8 v) s =
    .next (s.setMbox n { s.mbox n with sqBase := n64 (v.toNat / 4096 * 4096) })) ∧
  (∀ (s : State) (p : HPort) (n o : Nat) (v : W64), n < 64 → (s.mbox n).enabled = true → o ∈ [0x00, 0x08, 0x10, 0x18] →
    exec (.registerWrite (.host p) (0x10000 + 64 * n + o) 8 v) s = .next (s.setMbox n (s.mbox n))) ∧
  (∀ (s : State) (p : HPort) (off : Nat) (v : W64), off % 8 = 0 → 0x140000 ≤ off → off < 0x800000 →
    s.readReg off = 0 ∧ exec (.registerWrite (.host p) off 8 v) s = .next s) ∧
  (∀ (s : State) (i : TileId) (n : Fin 16) (v : W64), ∃ t, exec (.registerWrite (.core i) (0x208 + 16 * n.val) 8 v) s = .next t ∧
    (tget timerD (t.tileAt i).timers n).phaseReg = v ∧ (tget timerD (t.tileAt i).timers n).period = (tget timerD (s.tileAt i).timers n).period ∧
    t = s.setTile i { s.tileAt i with timers := (t.tileAt i).timers })


/-- R328, R329, R331, R334, R335: configuration requests, link training, an access BAR0 and BAR4 do not support, a port that goes down and hands over what it
carries, and its return, which takes nothing back. -/
def Obligations.HostPorts : Prop :=
  (∀ (s : State) (p : HPort), s.pw.inReset = false → (s.port p).disabled = false → ((s.port p).cfgReady = true ∨ 100000000 ≤ s.time.toNat) →
    exec (.configRequest p) s = .next (s.setPort p { s.port p with
      resp := .data (toBytes 2 Config.vendorId.toNat ++ toBytes 2 (if p = .A then 0x6416 else 0x6417)) })) ∧
  (∀ (s : State) (p : HPort), s.pw.inReset = true ∨ ((s.port p).cfgReady = false ∧ s.time.toNat < 100000000) →
    exec (.configRequest p) s = .next (s.setPort p { s.port p with resp := .noCompletion })) ∧
  (∀ (s : State) (p : HPort) (rate width : Nat), s.pw.inReset = false → (s.port p).disabled = false → exec (.portLinkTrained p rate width) s =
    .next (s.setPort p { s.port p with
      up := true, cfgReady := true, rate := rate, width := width, degraded := decide (rate < 6 ∨ width < 8) })) ∧
  (∀ (s : State) (p : HPort) (bar4 : Bool) (off size : Nat), barAccepts bar4 off size = false → exec (.barUnsupportedAccess p bar4 off size) s =
    .next (s.setPort p { s.port p with resp := .unsupported })) ∧
  (∀ (s : State) (p : HPort), (s.port p).up = true → ∃ t, exec (.hostPortDown p) s = .next t ∧ exec (.d3hotTransition p) s = .next t ∧
    t.port p = { s.port p with up := false } ∧ t.port (otherPort p) = s.port (otherPort p) ∧
    ((s.port (otherPort p)).up = true →
      (∀ n, n < 64 → t.mbox n = { s.mbox n with port := otherPort p } ∨ (t.mbox n = s.mbox n ∧ (s.mbox n).port = otherPort p)) ∧
      (∀ r, (s.ringAt r).active = true → t.ringAt r = { s.ringAt r with port := otherPort p }) ∧
      t.ho.event = { s.ho.event with port := otherPort p }) ∧
    ((s.port (otherPort p)).up = false → t.ho = (s.setPort p { s.port p with up := false }).ho) ∧
    t = { s with ho := t.ho, fl := (s.detect 0x0302 (domOf .hostPort (portNum p)) (n64 (portNum p))).fl }) ∧
  (∀ (s : State) (p : HPort), (s.port p).up = false → exec (.hostPortDown p) s = .next s ∧ exec (.d3hotTransition p) s = .next s) ∧
  (∀ (s : State) (p : HPort), (s.port p).up = false → (s.port p).disabled = false → s.pw.inReset = false → (s.port (otherPort p)).up = true →
    exec (.hostPortReturn p) s = .next (s.setPort p { s.port p with up := true }))

/-- R332, R330, 15 R409: reads and writes of a BAR2 window inside populated Madder, all ones and HOST_ADDRESS elsewhere, a poisoned read, the timeout, the
window's base and size, the counts. -/
def Obligations.Bar2Windows : Prop :=
  (∀ (s : State) (p : HPort) (off len a : Nat) (errs : List ScrubErr) (ps : List Piece) (u : State), s.bar2Addr p off len = some a →
    s.xferReady [(a, len)] [] = true → s.agentRead .host a len 0 errs = (ps, u) →
    (anyPoison ps = false → exec (.bar2Read p off len errs) s = .next (u.setPort p { u.port p with resp := .data (bytesOf ps) })) ∧
    (anyPoison ps = true → ∃ t, exec (.bar2Read p off len errs) s = .next t ∧ (t.port p).resp = .poisoned (bytesOf ps) ∧
      t.ho.bar2Poisoned = min 0xFFFFFF (u.ho.bar2Poisoned + 1) ∧ t = { u with ho := t.ho })) ∧
  (∀ (s : State) (p : HPort) (off len : Nat), s.bar2Addr p off len = some ((s.port p).bar2Base + off) ↔
    (s.port p).bar2Base % 2 ^ (s.port p).bar2Log = 0 ∧ off + len ≤ 2 ^ (s.port p).bar2Log ∧
    ∀ q ∈ pieces 512 ((s.port p).bar2Base + off) len, s.madderOk q.1 = true) ∧
  (∀ (s : State) (p : HPort) (off len : Nat) (errs : List ScrubErr), s.bar2Addr p off len = none → exec (.bar2Read p off len errs) s =
    .next ((s.setPort p { s.port p with resp := .data (List.replicate len 0xFF) }).detect 0x0303 (domOf .hostPort (portNum p)) (n64 off) 0)) ∧
  (∀ (s : State) (p : HPort) (off a : Nat) (data : HostWrite), s.ho.bar2Write = true → s.bar2Addr p off data.bytes.length = some a →
    s.xferReady [] [(a, data.bytes.length)] = true →
    exec (.bar2Write p off data) s = .next (s.agentWriteAs .host data.errs 3 0 a (recut a data.bytes fun _ => false))) ∧
  (∀ (s : State) (p : HPort) (off : Nat) (data : HostWrite), (s.ho.bar2Write = false ∨ s.bar2Addr p off data.bytes.length = none) →
    exec (.bar2Write p off data) s = .next (s.detect 0x0303 (domOf .hostPort (portNum p)) (n64 off) 1)) ∧
  (∀ (s : State) (p : HPort) (len : Nat), ∃ t, exec (.bar2ReadTimeout p len) s = .next t ∧ (t.port p).resp = .poisoned (List.replicate len 0xFF) ∧
    t.ho.bar2Timeouts = min 0xFFFFFF (s.ho.bar2Timeouts + 1) ∧
    t = ({ s with ho := { s.ho with bar2Timeouts := t.ho.bar2Timeouts } } : State).setPort p { s.port p with resp := (t.port p).resp }) ∧
  (∀ (s : State) (p : HPort) (v : W64), (v.toNat % 2 ^ 46 / 2 ^ 30 * 2 ^ 30) % 2 ^ (s.port p).bar2Log = 0 →
    exec (.bar2BaseWrite p v) s = .next (s.setPort p { s.port p with bar2Base := v.toNat % 2 ^ 46 / 2 ^ 30 * 2 ^ 30 })) ∧
  (∀ (s : State) (p : HPort) (v : W64), (v.toNat % 2 ^ 46 / 2 ^ 30 * 2 ^ 30) % 2 ^ (s.port p).bar2Log ≠ 0 → exec (.bar2BaseWrite p v) s = .next s) ∧
  (∀ (s : State) (p : HPort) (log : Nat), 30 ≤ log → log ≤ 40 → exec (.bar2Resize p log) s = .next (s.setPort p { s.port p with bar2Log := log })) ∧
  (∀ s : State, exec .bar2Clear s = .next { s with ho := { s.ho with bar2Timeouts := 0, bar2Poisoned := 0 } })

/-- R340, R341, R344, R345, R333: enabling and disabling a mailbox, its two doorbells with their bounds and their port, the heads of the stream rings and
of the event ring, and a DMA doorbell's signal. -/
def Obligations.MailboxesAndDoorbells : Prop :=
  (∀ (s : State) (n : MboxId), s.md.state = 1 → (s.mbox n).enabled = false → (s.mbox n).draining = false → (s.mbox n).cfgOk = true → ∃ t,
    exec (.mboxEnable n) s = .next t ∧
    t.mbox n = { s.mbox n with enabled := true, tail := 0, rung := [], fetch := 0, prod := 0, head := 0, irq := ⟨false, false, 0⟩ } ∧
    t.ho.mem = mwrite zeroByte s.ho.mem (s.mbox n).shadow.toNat [0, 0, 0, 0] ∧
    t = { s with ho := { s.ho with mbox := t.ho.mbox, mem := t.ho.mem } } ∧ ∀ m, m ≠ n.val → t.mbox m = s.mbox m) ∧
  (∀ (s : State) (n : MboxId), s.md.state = 1 → (s.mbox n).enabled = false → (s.mbox n).draining = false → (s.mbox n).cfgOk = false →
    exec (.mboxEnable n) s = .next (s.setMbox n { s.mbox n with cfgError := true })) ∧
  (∀ (s : State) (n : MboxId), (s.mbox n).enabled = true → exec (.mboxDisable n) s = .next (s.setMbox n { s.mbox n with
    enabled := false, draining := !((s.mbox n).cmds.isEmpty && (s.mbox n).done.isEmpty) })) ∧
  (∀ (s : State) (p : HPort) (n : MboxId) (v : W32), (s.mbox n).port ≠ p →
    exec (.sqTail p n v) s = .next (s.setMbox n { s.mbox n with wrongPort := true }) ∧
    exec (.cqHead p n v) s = .next (s.setMbox n { s.mbox n with wrongPort := true })) ∧
  (∀ (s : State) (n : MboxId) (v : W32), (v - (s.mbox n).fetch).toNat ≤ 2 ^ (s.mbox n).m →
    exec (.sqTail (s.mbox n).port n v) s = .next (({ s with ho := { s.ho with bells := s.ho.bells + 1 } } : State).setMbox n { s.mbox n with
      tail := v, rung := (s.mbox n).ring v s.ho.bells })) ∧
  (∀ (s : State) (n : MboxId) (v : W32), 2 ^ (s.mbox n).m < (v - (s.mbox n).fetch).toNat → ∃ t, exec (.sqTail (s.mbox n).port n v) s = .next t ∧
    t.mbox n = { s.mbox n with dbError := true } ∧
    (if (v - (s.mbox n).fetch).toNat = 2 ^ 31 then t.fl = (s.logSerial 4 (s.mbox n).fetch.toNat v.toNat).fl else t.fl = s.fl) ∧
    t = ({ s with fl := t.fl } : State).setMbox n { s.mbox n with dbError := true }) ∧
  (∀ (s : State) (n : MboxId) (v : W32), ((s.mbox n).prod - v).toNat ≤ 2 ^ (s.mbox n).k →
    exec (.cqHead (s.mbox n).port n v) s = .next (s.setMbox n { s.mbox n with head := v })) ∧
  (∀ (s : State) (n : MboxId) (v : W32), 2 ^ (s.mbox n).k < ((s.mbox n).prod - v).toNat → ∃ t, exec (.cqHead (s.mbox n).port n v) s = .next t ∧
    t = ({ s with fl := t.fl } : State).setMbox n { s.mbox n with dbError := true }) ∧
  (∀ (s : State) (r : RingId) (v : W32), (s.ringAt r).active = true → ((s.ringAt r).prod - v).toNat ≤ 2 ^ (s.ringAt r).j →
    exec (.streamRingHead (s.ringAt r).port r v) s = .next (s.setRing r { s.ringAt r with head := v })) ∧
  (∀ (s : State) (r : RingId) (p : HPort) (v : W32), (s.ringAt r).active = true → (s.ringAt r).port ≠ p →
    exec (.streamRingHead p r v) s = .next (s.setRing r { s.ringAt r with wrongPort := true })) ∧
  (∀ (s : State) (r : RingId) (v : W32), (s.ringAt r).active = true → 2 ^ (s.ringAt r).j < ((s.ringAt r).prod - v).toNat → (s.ringAt r).head ≠ v →
    ∃ t, exec (.streamRingHead (s.ringAt r).port r v) s = .next t ∧ t = ({ s with fl := t.fl } : State).setRing r { s.ringAt r with dbError := true }) ∧
  (∀ (s : State) (v : W32), s.ho.event.active = true → (s.ho.event.prod - v).toNat ≤ 2 ^ s.ho.event.j →
    exec (.eventRingHead s.ho.event.port v) s = .next { s with ho := { s.ho with event := { s.ho.event with head := v } } }) ∧
  (∀ (s : State) (p : HPort) (d : DoorId), exec (.dmaDoorbell p d) s = .next { s with sy := { s.sy with
    ops := s.sy.ops ++ [⟨.sig ⟨ctrId ((if d.val < 128 then 0x0F00 else 0x3F00) + d.val % 128), 1, .host p⟩, s.time⟩] } })

/-- R342, R343, R348, R350, R337, R338: the fetch of a command, doorbells in the order of their arrival across the mailboxes of a port
(that a mailbox held up by R342 holds up no other is the model's reading, notes/assumptions/130.md), and its refusals, the completion entry with the shadow, the end of a coalescing
interval, a failed command read, the heartbeat. -/
def Obligations.CommandFlow : Prop :=
  (∀ (s : State) (n : MboxId) (entry ext : List Byte), s.mayFetch n = true → s.bellTurn n = true → fetchCheck n entry ext = none →
    exec (.commandFetch n entry ext) s =
    .next (({ s with ho := { s.ho with fetched := s.ho.fetched + 1 } } : State).setMbox n { s.mbox n with
      fetch := (s.mbox n).fetch + 1, rung := (s.mbox n).rung.filter fun q => q.1 ≠ (s.mbox n).fetch + 1,
      cmds := (s.mbox n).cmds ++ [⟨hdrOf n (s.mbox n).fetch entry, leAt entry 0 2, operandsOf entry, leAt entry 16 8, leAt entry 10 2,
                                   s.ho.fetched, false⟩] })) ∧
  (∀ (s : State) (n : MboxId) (entry ext : List Byte) (e : Nat), s.mayFetch n = true → s.bellTurn n = true → (∀ r ∈ (s.mbox n).cmds, r.hdr.index ≠ (s.mbox n).fetch) →
    fetchCheck n entry ext = some e → exec (.commandFetch n entry ext) s =
    .next (({ s with ho := { s.ho with fetched := s.ho.fetched + 1 } } : State).setMbox n { s.mbox n with
      fetch := (s.mbox n).fetch + 1, rung := (s.mbox n).rung.filter fun q => q.1 ≠ (s.mbox n).fetch + 1,
      done := (s.mbox n).done ++ [⟨n32 (leAt entry 4 4), leAt entry 0 2, e, (s.mbox n).fetch, 0, none⟩] })) ∧
  (∀ (s : State) (n m : MboxId) (entry ext : List Byte), n.val ≠ m.val → (s.mbox m).port = (s.mbox n).port → s.mayFetch m = true →
    (s.mbox m).bell < (s.mbox n).bell → exec (.commandFetch n entry ext) s = .next s) ∧
  (∀ (n : Nat) (e ext : List Byte), opRow (leAt e 0 2) e = none → fetchCheck n e ext = some 0x13) ∧
  (∀ (n : Nat) (e ext : List Byte) (r : OpRow), opRow (leAt e 0 2) e = some r → 4 ≤ leAt e 2 1 → fetchCheck n e ext = some 0x01) ∧
  (∀ (n : Nat) (e ext : List Byte) (r : OpRow), opRow (leAt e 0 2) e = some r → r.ctl = true → n ≠ 0 → n ≠ 32 →
    fetchCheck n e ext = some 0x01 ∨ fetchCheck n e ext = some 0x14) ∧
  (∀ (s : State) (n : MboxId) (c : Cpl) (r : List Cpl), (s.mbox n).done = c :: r → c.wait = none → (s.port (s.mbox n).port).up = true → ∃ t,
    exec (.commandCompletion n) s = .next t ∧ (t.mbox n).prod = (s.mbox n).prod + 1 ∧ (t.mbox n).done = r ∧
    (t.mbox n).cmds = (s.mbox n).cmds ∧ (t.mbox n).head = (s.mbox n).head ∧
    ((s.mbox n).irq.running = true → (t.mbox n).irq = ⟨true, true, (s.mbox n).irq.since⟩ ∧ t.ho.mem = mwrite zeroByte (mwrite zeroByte s.ho.mem
      ((s.mbox n).cqBase.toNat + 32 * ((s.mbox n).prod.toNat % 2 ^ (s.mbox n).k)) (cplBytes c n (s.mbox n).port s.time))
      (s.mbox n).shadow.toNat (toBytes 4 ((s.mbox n).prod + 1).toNat)) ∧
    ((s.mbox n).irq.running = false → (t.mbox n).irq = ⟨decide ((s.mbox n).coalesce ≠ 0), false, s.now⟩) ∧ t = { s with ho := t.ho }) ∧
  (∀ (s : State) (n : MboxId) (a : Nat) (b : Bool), (s.mbox n).irq = ⟨true, b, a⟩ → s.now < a + 1000 * (s.mbox n).coalesce →
    exec (.msixCoalesceExpiry (.mbox n)) s = .next (s.setMbox n (s.mbox n))) ∧
  (∀ (s : State) (n : MboxId) (a : Nat), (s.mbox n).irq = ⟨true, false, a⟩ → a + 1000 * (s.mbox n).coalesce ≤ s.now →
    exec (.msixCoalesceExpiry (.mbox n)) s = .next (s.setMbox n { s.mbox n with irq := ⟨false, false, 0⟩ })) ∧
  (∀ (s : State) (n : MboxId) (a : Nat), (s.mbox n).irq = ⟨true, true, a⟩ → a + 1000 * (s.mbox n).coalesce ≤ s.now →
    exec (.msixCoalesceExpiry (.mbox n)) s =
    .next ((s.msix (s.mbox n).port (s.mbox n).vector).setMbox n { s.mbox n with irq := ⟨true, false, s.now⟩ })) ∧
  (∀ (s : State) (r : RingId) (a : Nat), (s.ringAt r).irq = ⟨true, true, a⟩ → a + 1000 * (s.ringAt r).coalesce ≤ s.now →
    exec (.msixCoalesceExpiry (.stream r)) s =
    .next ((s.msix (s.ringAt r).port (s.ringAt r).vector).setRing r { s.ringAt r with irq := ⟨true, false, s.now⟩ })) ∧
  (∀ (s : State) (a : Nat), s.ho.event.irq = ⟨true, true, a⟩ → a + 1000 * s.ho.event.coalesce ≤ s.now → exec (.msixCoalesceExpiry .event) s =
    .next ((s.msix s.ho.event.port s.ho.event.vector).setEventRing { s.ho.event with irq := ⟨true, false, s.now⟩ })) ∧
  (∀ (s : State) (n : MboxId) (index : W32) (r : CmdRec), (s.mbox n).cmds.find? (fun r => r.hdr.index = index) = some r →
    (s.cmdRec r.hdr) = some r → r.hdr.mb = n → ∃ t, exec (.hostReadTimeout (.command n index)) s = .next t ∧
    Finished r.hdr r.opcode 0x16 0 t ∧ t = { s with ho := { s.ho with mbox := t.ho.mbox } }) ∧
  (∀ s : State, s.md.running = true → (s.md.hbFirst = true ∨ s.md.hbTime.toNat + 90000 ≤ s.now) →
    exec .heartbeat s = .next { s with md := { s.md with hbTime := s.time, hbCount := s.md.hbCount + 1, hbFirst := false } })


/-- R342, R348, R351: a host command waits for its turn; of a tenant that does not exist it completes with STATE; ORDERED commands run alone and none
passes one that has not started; of commands that name one thing the one accepted first begins first (only those not yet begun hold up another:
notes/assumptions/132.md); what a completion leaves. -/
def Obligations.HostCommandOrder : Prop :=
  (∀ (c : Instr) (h : CmdHdr) (op : Nat) (ops : List Nat) (s : State), hostCmd c = some (h, op, ops) →
    (s.mayBegin h op ops = false ∨ s.md.running = false ∨ s.md.state ≠ 1) → exec c s = .next s) ∧
  (∀ (c : Instr) (h : CmdHdr) (op : Nat) (ops : List Nat) (s : State), hostCmd c = some (h, op, ops) → s.mayBegin h op ops = true → s.md.running = true →
    s.md.state = 1 → (s.ten h.tenant.toNat).live = false →
    exec c s = .next (s.finish h 2) ∨ (op ∈ [0x0202, 0x0203, 0x0207, 0x0208, 0x0209, 0x0A03] ∧ exec c s = .next s)) ∧
  (∀ (h : CmdHdr) (op status : Nat) (res : W64) (s : State), (s.mbox h.mb).startable h op = true → Finished h op status res (s.finish h status res) ∧
    s.finish h status res = { s with ho := { s.ho with mbox := (s.finish h status res).ho.mbox } } ∧
    ∀ n, n ≠ h.mb.val → (s.finish h status res).mbox n = s.mbox n) ∧
  (∀ (x : MBox) (h : CmdHdr) (op : Nat), x.startable h op = true →
    (∀ r ∈ x.cmds.takeWhile (fun r => r.hdr ≠ h), r.started = true ∧ r.hdr.ordered = false) ∧
    (h.ordered = true → x.cmds.head?.map (·.hdr) = some h) ∧ ∃ r ∈ x.cmds, r.hdr = h ∧ r.opcode = op ∧ r.started = false) ∧
  (∀ (s : State) (h : CmdHdr) (op : Nat) (ops : List Nat), s.mayBegin h op ops = true → (s.mbox h.mb).startable h op = true ∧
    ∃ r, s.cmdRec h = some r ∧ r.opcode = op ∧ ops <+: r.ops ∧
    ∀ n, ∀ e ∈ (s.mbox n).cmds, e.started = false → e.accepted < r.accepted → ∀ x ∈ e.names, x ∉ r.names)

/-- 12 Table HOST-9 0x0001 to 0x0003, 0x0101 to 0x0105: what each command leaves and its status. The layouts of the output blocks are the model's
(notes/assumptions/26.md). -/
def Obligations.ModuleAndTenantCommands : Prop :=
  (∀ (h : CmdHdr) (what : W32) (s : State), Ready (.deviceQuery h what) s → exec (.deviceQuery h what) s = .next
    (if what = 0 then s.finishOut h identityBlock else if what = 1 then s.finishOut h s.oosMap
     else if what = 2 then s.finishOut h s.roleBlock else s.finish h 1)) ∧
  (∀ (h : CmdHdr) (iso : Byte) (s : State), Ready (.modulePolicy h iso) s → exec (.modulePolicy h iso) s = .next
    (if 1 < iso.toNat then s.finish h 1
     else if s.sv.sess.any (fun q => q.2.state ≠ 0 && q.2.tenant ≠ 0) then s.finish h 2
     else ({ s with md := { s.md with isolation := iso = 1 } } : State).finish h 0)) ∧
  (∀ (h : CmdHdr) (s : State), Ready (.portRebalance h 0) s → s.ho.portA.up = true → s.ho.portB.up = true → ∃ t, exec (.portRebalance h 0) s = .next t ∧
    Finished h 0x0003 0 0 t ∧ (∀ n, n < 64 → (t.mbox n).port = if n < 32 then .A else .B) ∧
    (∀ r, (s.ringAt r).active = true → t.ringAt r = { s.ringAt r with port := (s.ringAt r).made }) ∧
    t.ho.event = { s.ho.event with port := s.ho.event.made } ∧ t = { s with ho := t.ho }) ∧
  (∀ (h : CmdHdr) (p : HPort) (s : State), Ready (.portRebalance h (if p = .A then 1 else 2)) s → (s.port p).up = true → ∃ t,
    exec (.portRebalance h (if p = .A then 1 else 2)) s = .next t ∧ Finished h 0x0003 0 0 t ∧ (∀ n, n < 64 → (t.mbox n).port = p) ∧
    (∀ r, (s.ringAt r).active = true → t.ringAt r = { s.ringAt r with port := p }) ∧ t.ho.event = { s.ho.event with port := p } ∧
    t = { s with ho := t.ho }) ∧
  (∀ (h : CmdHdr) (t : W16) (s : State), Ready (.tenantCreate h t) s → exec (.tenantCreate h t) s = .next
    (if 16384 ≤ t.toNat then s.finish h 1 else if (s.ten t.toNat).live then s.finish h 2
     else (s.setTen t.toNat { s.ten t.toNat with live := true }).finish h 0)) ∧
  (∀ (h : CmdHdr) (t : W16) (s : State), Ready (.tenantDelete h t) s → t.toNat < 16384 → (s.ten t.toNat).live = true → s.tenantInUse t = true →
    exec (.tenantDelete h t) s = .next (s.finish h 0x11)) ∧
  (∀ (h : CmdHdr) (t : W16) (s : State), Ready (.tenantDelete h t) s → t.toNat < 16384 → (s.ten t.toNat).live = true → s.tenantInUse t = false → ∃ u,
    exec (.tenantDelete h t) s = .next u ∧ Finished h 0x0102 0 0 u ∧ (u.ten t.toNat).live = false ∧
    (u.ten t.toNat).epoch = (s.ten t.toNat).epoch + 1 ∧ u = { s with sv := { s.sv with tenant := u.sv.tenant }, ho := u.ho } ∧
    ∀ n, n ≠ t.toNat → u.ten n = s.ten n) ∧
  (∀ (h : CmdHdr) (t : W16) (tier : Byte) (bytes : W64) (s : State), Ready (.quotaSet h t tier bytes) s → exec (.quotaSet h t tier bytes) s = .next
    (if 16384 ≤ t.toNat ∨ 2 < tier.toNat then s.finish h 1 else if (s.ten t.toNat).live = false then s.finish h 2
     else (s.setTen t.toNat { s.ten t.toNat with quota := (s.ten t.toNat).quota.set tier.toNat bytes }).finish h 0)) ∧
  (∀ (h : CmdHdr) (s : State), Ready (.quotaQuery h) s → exec (.quotaQuery h) s = .next (s.finishOut h ((List.range 3).flatMap fun i =>
    toBytes 8 ((s.ten h.tenant.toNat).quota.getD i 0).toNat ++ toBytes 8 ((s.ten h.tenant.toNat).usage.getD i 0)))) ∧
  (∀ (h : CmdHdr) (w : W16) (s : State), Ready (.promptWeight h w) s → exec (.promptWeight h w) s =
    .next ((s.setTen h.tenant.toNat { s.ten h.tenant.toNat with weight := w }).finish h 0))

/-- R285, 12 Table HOST-9 0x0106, 0x0107: a refill is refused more than 1,000 ticks ahead of the tick count and when not after the last one;
ADD saturates, SET keeps what is reserved. -/
def Obligations.TokenBudgets : Prop :=
  (∀ (h : CmdHdr) (tick : W32) (items : List Refill) (s : State), Ready (.budgetRefill h tick items) s →
    (items = [] ∨ 4096 < items.length ∨ ∃ r ∈ items, 16384 ≤ r.tenant.toNat ∨ 1 < r.op.toNat) → exec (.budgetRefill h tick items) s = .next (s.finish h 1)) ∧
  (∀ (h : CmdHdr) (tick : W32) (items : List Refill) (s : State), Ready (.budgetRefill h tick items) s → items ≠ [] → items.length ≤ 4096 →
    (∀ r ∈ items, r.tenant.toNat < 16384 ∧ r.op.toNat ≤ 1 ∧ (s.ten r.tenant.toNat).live = true) →
    ((1000 < (tick - s.budgetTick).toNat ∧ (tick - s.budgetTick).toNat < 2 ^ 31) → exec (.budgetRefill h tick items) s = .next (s.finish h 0x0C)) ∧
    (¬ (1000 < (tick - s.budgetTick).toNat ∧ (tick - s.budgetTick).toNat < 2 ^ 31) →
      (∀ last, s.sv.refillTick = some last → serialCmp last tick ≠ .after → ∃ t, exec (.budgetRefill h tick items) s = .next t ∧
        Finished h 0x0106 0x0B 0 t ∧ t = { s with ho := t.ho, fl := t.fl }) ∧
      ((s.sv.refillTick = none ∨ ∃ last, s.sv.refillTick = some last ∧ serialCmp last tick = .after) → (items.map (·.tenant)).Nodup →
        ∃ t, exec (.budgetRefill h tick items) s = .next t ∧ Finished h 0x0106 0 0 t ∧ t.sv.refillTick = some tick ∧
        (∀ r ∈ items, t.ten r.tenant.toNat = { s.ten r.tenant.toNat with
          level := (if r.op = 0 then n32 (min (2 ^ 32 - 1) ((s.ten r.tenant.toNat).level.toNat + r.amount.toNat))
                    else n32 (max r.amount.toNat (s.ten r.tenant.toNat).reserved.toNat)) }) ∧
        (∀ n, (∀ r ∈ items, r.tenant.toNat ≠ n) → t.ten n = s.ten n) ∧
        t = { s with ho := t.ho, fl := t.fl, sv := { s.sv with tenant := t.sv.tenant, refillTick := some tick } }))) ∧
  (∀ (h : CmdHdr) (s : State), Ready (.budgetQuery h) s → exec (.budgetQuery h) s = .next (s.finish h 0
    (n64 ((s.ten h.tenant.toNat).level.toNat + 2 ^ 32 * (s.ten h.tenant.toNat).reserved.toNat)))) ∧
  (∀ s : State, s.budgetTick = s.bt.tickStart + BitVec.ofNat 32 ((s.time - s.bt.timeReady).toNat / 1000000))

/-- R344, 12 Table HOST-9 0x0607, 0x0608, 0x0701, 11 R327: rings are created empty on the port named or on the one that is up, destroyed only unused;
a record is appended where the ring has room. The lowest free ring is taken: the model's choice (notes/assumptions/18.md). -/
def Obligations.RingsAndRecords : Prop :=
  (∀ (h : CmdHdr) (prm : RingParams) (s : State), Ready (.streamRingCreate h prm) s → ringParamsOk 4 prm = false → exec (.streamRingCreate h prm) s = .next (s.finish h 1)) ∧
  (∀ (h : CmdHdr) (prm : RingParams) (n : Nat) (s : State), Ready (.streamRingCreate h prm) s → ringParamsOk 4 prm = true → (s.ringAt n).active = false →
    (∀ m, m < n → (s.ringAt m).active = true) → n < 4096 → n ≤ s.ho.ring.length → exec (.streamRingCreate h prm) s = .next ((s.setRing n { Ring.reset with
      active := true, owner := h.tenant, base := prm.base, shadow := prm.shadow, j := prm.j.toNat, vector := prm.vector.toNat,
      coalesce := prm.coalesce.toNat, made := portOf prm.port.toNat,
      port := (if (s.port (portOf prm.port.toNat)).up = false ∧ (s.port (otherPort (portOf prm.port.toNat))).up = true
               then otherPort (portOf prm.port.toNat) else portOf prm.port.toNat) }).finish h 0 (n64 n))) ∧
  (∀ (h : CmdHdr) (r : W16) (s : State), Ready (.streamRingDestroy h r) s → exec (.streamRingDestroy h r) s = .next
    (if 4096 ≤ r.toNat then s.finish h 1 else if (s.ringAt r.toNat).active = false then s.finish h 2
     else if (s.ringAt r.toNat).owner ≠ h.tenant then s.finish h 3
     else if s.sv.sess.any (fun q => q.2.state ≠ 0 && q.2.ring = r) then s.finish h 0x11
     else (s.setRing r.toNat Ring.reset).finish h 0)) ∧
  (∀ (h : CmdHdr) (prm : RingParams) (s : State), Ready (.eventRingSet h prm) s → ringParamsOk 6 prm = true → ∃ t, exec (.eventRingSet h prm) s = .next t ∧
    Finished h 0x0701 0 0 t ∧ t.ho.eventSet = true ∧ t.ho.event.active = true ∧ t.ho.event.base = prm.base ∧ t.ho.event.shadow = prm.shadow ∧
    t.ho.event.j = prm.j.toNat ∧ t.ho.event.prod = 0 ∧ t.ho.event.head = 0 ∧ t = { s with ho := { s.ho with event := t.ho.event, eventSet := true, mbox := t.ho.mbox } }) ∧
  (∀ (e : Event) (l : List Event) (s : State), s.fl.backlog = e :: l → s.ho.event.active = true →
    (s.ho.event.prod - s.ho.event.head).toNat < 2 ^ s.ho.event.j → (s.port s.ho.event.port).up = true → ∃ t, exec .eventAppend s = .next t ∧
    t.fl = { s.fl with backlog := l, lostNext := false } ∧ t.ho.event.prod = s.ho.event.prod + 1 ∧ t.ho.event.head = s.ho.event.head ∧
    (s.ho.event.irq.running = true → t.ho.mem = mwrite zeroByte (mwrite zeroByte s.ho.mem
      (s.ho.event.base.toNat + 64 * (s.ho.event.prod.toNat % 2 ^ s.ho.event.j)) (eventBytes { e with lost := s.fl.lostNext }))
      s.ho.event.shadow.toNat (toBytes 4 (s.ho.event.prod + 1).toNat)) ∧ t = { s with fl := t.fl, ho := t.ho }) ∧
  (∀ s : State, (s.fl.backlog = [] ∨ s.ho.event.active = false) → exec .eventAppend s = .next s)

/-- R72, R74, R75, R78 to R80, R167, R388, R390, R380, 12 Table HOST-9 0x0801 to 0x0A03: what the maintenance, diagnostic, kernel and micro-program commands
leave. A retraining asked for by MAINT_RETRAIN has a free cause code (notes/assumptions/58.md). -/
def Obligations.MaintenanceCommands : Prop :=
  (∀ (h : CmdHdr) (c : W16) (s : State), Ready (.maintRetrain h c) s → c.toNat < 1024 → (s.sub c.toNat).state ≠ 3 → ∃ t, exec (.maintRetrain h c) s = .next t ∧
    Finished h 0x0801 0 0 t ∧ ((t.sub c.toNat).holder = 1 ∨ 1 ∈ (t.sub c.toNat).waiting) ∧ (t.sub c.toNat).state = (s.sub c.toNat).state ∧
    t = { s with freeCount := s.freeCount + 1, dr := { s.dr with sub := t.dr.sub }, ho := t.ho } ∧ ∀ d, d ≠ c.toNat → t.sub d = s.sub d) ∧
  (∀ (h : CmdHdr) (k hours : Byte) (s : State), Ready (.maintScrub h k hours) s → exec (.maintScrub h k hours) s = .next
    (if 16 ≤ k.toNat ∨ 168 < hours.toNat then s.finish h 1 else (s.setStack k.toNat { s.stackAt k.toNat with
      hours := hours.toNat, period := (if hours = 0 then (s.stackAt k.toNat).period else hours.toNat) }).finish h 0)) ∧
  (∀ (h : CmdHdr) (addr bytes : W64) (s : State), Ready (.maintInit h addr bytes) s → bytes = 0 → exec (.maintInit h addr bytes) s = .next (s.finish h 1)) ∧
  (∀ (h : CmdHdr) (addr bytes : W64) (s : State), Ready (.maintInit h addr bytes) s → 0 < bytes.toNat → addr.toNat + bytes.toNat ≤ 2 ^ 40 →
    addr.toNat % 131072 = 0 → bytes.toNat % 131072 = 0 → addr.toNat / 2 ^ 26 = (addr.toNat + bytes.toNat - 1) / 2 ^ 26 →
    s.segBank (addr.toNat / 2 ^ 34) (addr.toNat / 2 ^ 26 % 256) = false → (∀ i, i < 16 → (s.sub (16 * (addr.toNat / 2 ^ 34) + i)).state ≠ 3) →
    (∀ q ∈ pieces 512 addr.toNat bytes.toNat, s.madderOk q.1 = true) → ∃ t, exec (.maintInit h addr bytes) s = .next t ∧
      t = { s with freeCount := s.freeCount + 1, dr := { s.dr with sub := t.dr.sub }, unit := t.unit, ho := (Begun h s).ho } ∧
      ∀ i, i < 16 → InitAsked (s.sub (16 * (addr.toNat / 2 ^ 34) + i)) (t.sub (16 * (addr.toNat / 2 ^ 34) + i)) h
        (addr.toNat % 2 ^ 34 / 131072) (bytes.toNat / 131072) none (toBytes 32 (s.freeNow 256).toNat)) ∧
  (∀ (h : CmdHdr) (addr bytes : W64) (s : State), Ready (.maintInit h addr bytes) s → 0 < bytes.toNat → addr.toNat + bytes.toNat ≤ 2 ^ 40 →
    addr.toNat % 4096 = 0 → bytes.toNat % 4096 = 0 → addr.toNat / 2 ^ 21 = (addr.toNat + bytes.toNat - 1) / 2 ^ 21 →
    s.segBank (addr.toNat / 2 ^ 34) (addr.toNat / 2 ^ 26 % 256) = true → (s.sub (addr.toNat / 2 ^ 34 * 16 + addr.toNat / 2 ^ 22 % 16)).state ≠ 3 →
    (∀ q ∈ pieces 512 addr.toNat bytes.toNat, s.madderOk q.1 = true) → ∃ t, exec (.maintInit h addr bytes) s = .next t ∧
      t = { s with freeCount := s.freeCount + 1, dr := { s.dr with sub := t.dr.sub }, unit := t.unit, ho := (Begun h s).ho } ∧
      InitAsked (s.sub (addr.toNat / 2 ^ 34 * 16 + addr.toNat / 2 ^ 22 % 16)) (t.sub (addr.toNat / 2 ^ 34 * 16 + addr.toNat / 2 ^ 22 % 16)) h
        (512 * (addr.toNat / 2 ^ 26 % 256) + addr.toNat % 2 ^ 21 / 4096) (bytes.toNat / 4096)
        (some (addr.toNat / 2 ^ 34 * 32 + addr.toNat / 2 ^ 21 % 32)) (toBytes 32 (s.freeNow 256).toNat) ∧
      ∀ c, c ≠ addr.toNat / 2 ^ 34 * 16 + addr.toNat / 2 ^ 22 % 16 → t.sub c = s.sub c) ∧
  (∀ (h : CmdHdr) (i : W16) (s : State), Ready (.maintMapOut h 0 i) s →
    (i.toNat < 4096 → ∃ t, exec (.maintMapOut h 0 i) s = .next t ∧ Finished h 0x0804 0 0 t ∧
      (t.sub (i.toNat / 4)).banksOut = (s.sub (i.toNat / 4)).banksOut ||| (1#4 <<< (i.toNat % 4)) ∧
      t = { s with dr := { s.dr with sub := t.dr.sub, bank := t.dr.bank }, unit := t.unit, tile := t.tile, arr := t.arr, sy := t.sy, th := t.th,
                   fl := t.fl, ho := t.ho }) ∧
    (4096 ≤ i.toNat → exec (.maintMapOut h 0 i) s = .next (s.finish h 1)) ∧
    (i.toNat < 1024 → ∃ t, exec (.maintMapOut h 1 i) s = .next t ∧ (t.sub i.toNat).state = 3 ∧ ((s.sub i.toNat).inits = [] → Finished h 0x0804 0 0 t)) ∧
    (i.toNat < 256 → s.fl.out.contains ⟨.die, i.toNat⟩ = false → ∃ t, exec (.maintMapOut h 2 i) s = .next t ∧
      (∀ j, j < 4 → (t.sub (4 * i.toNat + j)).state = 3) ∧ (∀ j, j < 8 → (t.unitAt (8 * i.toNat + j)).oos = true) ∧ ⟨.die, i.toNat⟩ ∈ t.fl.out) ∧
    (i.toNat < 2048 → ∃ t, exec (.maintMapOut h 3 i) s = .next t ∧ (t.unitAt i.toNat).oos = true) ∧
    (i.toNat < 128 → ∃ t, exec (.maintMapOut h 4 i) s = .next t ∧ (t.arrAt i.toNat).oos = true)) ∧
  (∀ (h : CmdHdr) (d : Byte) (s : State), Ready (.diagEnter h d) s → 64 ≤ d.toNat → exec (.diagEnter h d) s = .next (s.finish h 1)) ∧
  (∀ (h : CmdHdr) (d : Byte) (s : State), Ready (.diagEnter h d) s → d.toNat < 64 →
    ((s.tileAt d.toNat).state = 3 → exec (.diagEnter h d) s = .next (s.finish h 0)) ∧
    ((s.tileAt d.toNat).state = 2 → exec (.diagEnter h d) s = .next ((Begun h s).setTile d.toNat
      { s.tileAt d.toNat with diagReq := (s.tileAt d.toNat).diagReq ++ [h] })) ∧
    ((s.tileAt d.toNat).state ≠ 2 → (s.tileAt d.toNat).state ≠ 3 → exec (.diagEnter h d) s = .next (s.finish h 0x18))) ∧
  (∀ (d : TileId) (s : State), (s.tileAt d).state = 2 → (s.tileAt d).diagReq ≠ [] → (s.arrAt (2 * d)).jobs = [] → (s.arrAt (2 * d + 1)).jobs = [] →
    ∃ t, exec (.diagnosticEntry d) s = .next t ∧ t.tileAt d = { s.tileAt d with state := 3, diagReq := [] } ∧
      (∀ a, a = 2 * d.val ∨ a = 2 * d.val + 1 → ∀ i, ((tget slotD (t.arrAt a).slots i).entries = [])) ∧ t = { s with tile := t.tile, arr := t.arr, ho := t.ho }) ∧
  (∀ (h : CmdHdr) (d : Byte) (s : State), Ready (.diagExit h d) s → d.toNat < 64 → (s.tileAt d.toNat).state = 3 → ∃ t, exec (.diagExit h d) s = .next t ∧
    Finished h 0x0902 0 0 t ∧ t.tileAt d.toNat = { s.tileAt d.toNat with state := 2, haltA := false, haltB := false } ∧
    (t.arrAt (2 * d.toNat)).halted = false ∧ (t.arrAt (2 * d.toNat + 1)).halted = false ∧ t = { s with tile := t.tile, arr := t.arr, ho := t.ho }) ∧
  (∀ (h : CmdHdr) (c : W16) (pattern : Byte) (dur : W32) (res : TrafficResult) (s : State), Ready (.diagTraffic h c pattern dur res) s → c.toNat < 1024 → pattern.toNat < 2 →
    (s.sub c.toNat).state ≠ 3 → exec (.diagTraffic h c pattern dur res) s = .next ((s.setSub c.toNat { s.sub c.toNat with
      tgPattern := pattern.toNat, tgSource := true, tgRunning := false, tgQuick := false, tgDuration := dur, tgLanes := (padTo 0 13 res.lanes).map (min 15),
      tgBanks := [], tgResult := (if tgPassed res then 1 else 2) }).finishOut h (tgReport pattern.toNat res))) ∧
  (∀ (h : CmdHdr) (c : W16) (pattern : Byte) (dur : W32) (res : TrafficResult) (s : State), Ready (.diagTraffic h c pattern dur res) s → c.toNat < 1024 → 2 ≤ pattern.toNat →
    pattern.toNat ≤ 4 → (s.sub c.toNat).state ≠ 3 → s.quadBusy (c.toNat / 16) = true → exec (.diagTraffic h c pattern dur res) s = .next (s.finish h 2)) ∧
  (∀ (h : CmdHdr) (addr : W64) (bytes : W32) (port : Byte) (s : State), Ready (.kernelLoad h addr bytes port false) s → port.toNat ≤ 1 → (s.port (portOf port.toNat)).up = true →
    exec (.kernelLoad h addr bytes port false) s = .next (s.finish h 0x15) ∧
    ∃ k, exec (.kernelLoad h addr bytes port true) s = .next (({ s with sv := { s.sv with kernels := s.sv.kernels ++ [n32 k] } } : State).finish h 0 (n64 k)) ∧
      (s.sv.kernels.length < 2 ^ 32 → n32 k ∉ s.sv.kernels)) ∧
  (∀ (h : CmdHdr) (k : W32) (s : State), Ready (.kernelUnload h k) s → exec (.kernelUnload h k) s = .next
    (if k ∉ s.sv.kernels then s.finish h 2 else if s.th.thr.any (fun q => q.2.st ≠ .free && q.2.kernel = k) then s.finish h 0x11
     else ({ s with sv := { s.sv with kernels := s.sv.kernels.filter (· ≠ k) } } : State).finish h 0)) ∧
  (∀ (h : CmdHdr) (entry : W16) (words : List W64) (alley : Bool) (s : State), Ready (.uprogLoad h entry words alley) s → h.tenant = 0 → 384 ≤ entry.toNat → entry.toNat < 512 →
    loaderOk entry.toNat words alley = true → (s.unit.any fun u => !u.2.oos && u.2.holds) = false → ∃ t, exec (.uprogLoad h entry words alley) s = .next t ∧
      Finished h 0x0A03 0 0 t ∧ (∀ u i, u < 2048 → (s.unitAt u).oos = false → i < words.length →
        tget storeD (t.unitAt u).store (entry.toNat + i) = words.getD i 0) ∧ t = { s with unit := t.unit, ho := t.ho })


/-- R235 to R239, R246, R248, 08 Table TIER-4, 12 Table HOST-9 0x0201 to 0x0206: allocation with its charge, freeing, loading, claims and
evictions in each state of an object, the query. The lowest free number is taken: the model's choice (notes/assumptions/18.md). -/
def Obligations.ObjectCommands : Prop :=
  (∀ (h : CmdHdr) (bytes : W64) (flags : W32) (mirror : W16) (page : Byte) (s : State), Ready (.objectAlloc h bytes flags mirror page) s → (bytes = 0 ∨ 1 < page.toNat) →
    exec (.objectAlloc h bytes flags mirror page) s = .next (s.finish h 1).lendCheck) ∧
  (∀ (h : CmdHdr) (bytes : W64) (flags : W32) (mirror : W16) (page : Byte) (s : State), Ready (.objectAlloc h bytes flags mirror page) s → bytes ≠ 0 → page.toNat ≤ 1 →
    flagsOk h.tenant.toNat flags mirror.toNat = false → exec (.objectAlloc h bytes flags mirror page) s = .next (s.finish h 6).lendCheck) ∧
  (∀ (h : CmdHdr) (bytes : W64) (flags : W32) (mirror : W16) (page : Byte) (s : State) (o : Obj), Ready (.objectAlloc h bytes flags mirror page) s → bytes ≠ 0 → page.toNat ≤ 1 →
    flagsOk h.tenant.toNat flags mirror.toNat = true → o = { objInit with
      live := true, owner := h.tenant, bytes := roundSize flags (page = 1) bytes.toNat, flags := flags, mirrorMask := mirror, large := page = 1 } →
    (fPin flags = false → s.quotaOk o.payer (fLower flags) o.bytes = false →
      exec (.objectAlloc h bytes flags mirror page) s = .next (s.finish h 5).lendCheck) ∧
    (fPin flags = false → s.quotaOk o.payer (fLower flags) o.bytes = true → ∃ t n, exec (.objectAlloc h bytes flags mirror page) s = .next t ∧
      Finished h 0x0201 0 (n64 n) t ∧ (s.objAt n).live = false ∧ t.objAt n = o ∧ t.ten o.payer = { s.ten o.payer with
        usage := (s.ten o.payer).usage.set (fLower flags) ((s.ten o.payer).usage.getD (fLower flags) 0 + o.bytes) } ∧
      (∀ m, m ≠ n → t.objAt m = s.objAt m) ∧ t = { s with ti := t.ti, cw := t.cw, ho := t.ho, sv := t.sv }) ∧
    (∀ used ps ms, fPin flags = true → s.quotaOk o.payer 0 o.madderBytes = true → s.takePages o = some (used, ps, ms) → ∃ t n,
      exec (.objectAlloc h bytes flags mirror page) s = .next t ∧ Finished h 0x0201 0 (n64 n) t ∧ (s.objAt n).live = false ∧
      t.objAt n = { o with pages := ps, mirror := ms } ∧ t.ti.used = used ∧ t = { s with ti := t.ti, cw := t.cw, ho := t.ho, sv := t.sv })) ∧
  (∀ (h : CmdHdr) (n : W32) (s : State), Ready (.objectFree h n) s → (s.objAt n.toNat).live = true → (s.objAt n.toNat).owner = h.tenant →
    ((s.objAt n.toNat).state = 1 ∨ (s.objAt n.toNat).state = 3 ∨ ((s.objAt n.toNat).state ≠ 4 ∧ (s.objAt n.toNat).noClaims = false) ∨
      s.sessBound n.toNat = true) → exec (.objectFree h n) s = .next (s.finish h 0x11).lendCheck) ∧
  (∀ (h : CmdHdr) (n : W32) (s : State), Ready (.objectFree h n) s → (s.objAt n.toNat).live = true → (s.objAt n.toNat).owner = h.tenant →
    (s.objAt n.toNat).state ≠ 1 → (s.objAt n.toNat).state ≠ 3 → ((s.objAt n.toNat).state = 4 ∨ (s.objAt n.toNat).noClaims = true) →
    s.sessBound n.toNat = false → s.inFlight ((s.objAt n.toNat).pages ++ (s.objAt n.toNat).mirror) = false → ∃ t, exec (.objectFree h n) s = .next t ∧ Finished h 0x0202 0 0 t ∧ t.objAt n.toNat = objInit ∧
      (∀ m ∈ (s.objAt n.toNat).maps, tget pageD t.pages m.vp = 0) ∧
      (∀ p ∈ (s.objAt n.toNat).pages ++ (s.objAt n.toNat).mirror, p ∉ t.ti.used) ∧ ∀ m, m ≠ n.toNat → t.objAt m = s.objAt m) ∧
  (∀ (h : CmdHdr) (n first : W32) (i : UnitImage) (addr : W64) (port : Byte) (s : State) (tier loc : Nat), Ready (.objectLoad h n first [i] addr port) s →
    s.loadWaits n.toNat first.toNat 1 = false → (s.objAt n.toNat).live = true → (s.objAt n.toNat).owner = h.tenant → fPin (s.objAt n.toNat).flags = false →
    (s.objAt n.toNat).state = 0 → (s.objAt n.toNat).pages = [] → (s.objAt n.toNat).mirror = [] → (s.objAt n.toNat).units ≠ [] → port.toNat ≤ 1 →
    first.toNat < (s.objAt n.toNat).nUnits → i.readOk = true → i.bytes.length = (s.objAt n.toNat).unitBytes → imageOk i.bytes = true →
    s.framePlace (s.objAt n.toNat).keyTenant.toNat (fLower (s.objAt n.toNat).flags)
      (buildFrame (fCompress (s.objAt n.toNat).flags) (s.objAt n.toNat).kind n.toNat first.toNat i.bytes).length = .ok (tier, loc) →
    ∃ t, exec (.objectLoad h n first [i] addr port) s = .next t ∧ Finished h 0x0203 0 1 t ∧
      (t.objAt n.toNat).unit first.toNat = { (s.objAt n.toNat).unit first.toNat with
        st := 1, tier := tier, loc := loc, epoch := (s.ten (s.objAt n.toNat).keyTenant.toNat).epoch,
        plain := buildFrame (fCompress (s.objAt n.toNat).flags) (s.objAt n.toNat).kind n.toNat first.toNat i.bytes } ∧
      ∀ u, u ≠ first.toNat → (t.objAt n.toNat).unit u = (s.objAt n.toNat).unit u) ∧
  (∀ (h : CmdHdr) (n first : W32) (us : List UnitImage) (addr : W64) (port : Byte) (s : State),
    s.loadWaits n.toNat first.toNat us.length = true → exec (.objectLoad h n first us addr port) s = .next s) ∧
  (∀ (h : CmdHdr) (n c : W32) (s : State) (o : Obj), Ready (.promote h n c) s → s.objAt n.toNat = o → o.live = true → o.owner = h.tenant →
    o.claims.length < 65535 →
    ((fPin o.flags = true ∨ o.state = 2) → ∃ t, exec (.promote h n c) s = .next t ∧ Finished h 0x0204 0 0 t ∧
      t.objAt n.toNat = { o with claims := (if c ∈ o.claims then o.claims else o.claims ++ [c]) }) ∧
    (fPin o.flags = false → o.state = 0 → ∀ e, s.startPromotion n.toNat = .error e → exec (.promote h n c) s = .next (s.finish h e).lendCheck) ∧
    (fPin o.flags = false → o.state = 0 → ∀ u, s.startPromotion n.toNat = .ok u → ∃ t, exec (.promote h n c) s = .next t ∧
      t.objAt n.toNat = { u.objAt n.toNat with claims := [c], promoter := some c, waiters := [(h, c)] } ∧ (u.objAt n.toNat).state = 1) ∧
    (fPin o.flags = false → o.state = 1 → ∃ t, exec (.promote h n c) s = .next t ∧ t.objAt n.toNat = { o with
      claims := (if c ∈ o.claims then o.claims else o.claims ++ [c]), waiters := o.waiters ++ [(h, c)] }) ∧
    (fPin o.flags = false → o.state = 3 → ∃ t, exec (.promote h n c) s = .next t ∧ t.objAt n.toNat = { o with queued := o.queued ++ [.host h c] }) ∧
    (fPin o.flags = false → o.state = 4 → exec (.promote h n c) s = .next (s.finish h 0x12).lendCheck)) ∧
  (∀ (h : CmdHdr) (n c : W32) (s : State) (o : Obj), Ready (.evict h n c) s → s.objAt n.toNat = o → o.live = true → o.owner = h.tenant →
    (fPin o.flags = true → exec (.evict h n c) s = .next (s.finish h 0x10)) ∧
    (fPin o.flags = false → c ∉ o.claims → exec (.evict h n c) s = .next (s.finish h 0x0F)) ∧
    (fPin o.flags = false → c ∈ o.claims → o.state = 1 → o.promoter = some c → ∃ t, exec (.evict h n c) s = .next t ∧
      t.objAt n.toNat = { o with heldEvict := o.heldEvict ++ [h] }) ∧
    (fPin o.flags = false → c ∈ o.claims → o.state = 2 → o.waiters = [] → ∃ t, exec (.evict h n c) s = .next t ∧ Finished h 0x0205 0 0 t ∧
      (t.objAt n.toNat).claims = o.claims.erase c ∧ (t.objAt n.toNat).state = (if o.claims.erase c = [] ∧ o.modClaims = [] then 3 else 2))) ∧
  (∀ (h : CmdHdr) (n : W32) (s : State), Ready (.objectQuery h n) s → exec (.objectQuery h n) s = .next
    (if (s.objAt n.toNat).live = false then s.finish h 2 else if (s.objAt n.toNat).owner ≠ h.tenant then s.finish h 3
     else s.finishOut h (State.objectReport (s.objAt n.toNat))))

/-- R183, R185, R237, R233, R298, 12 Table HOST-9 0x0207 to 0x020B: mappings wait for the accesses that use the old entries, what page entries
they leave, Weld pages, and the Indigo pools. -/
def Obligations.MappingsAndPools : Prop :=
  (∀ (h : CmdHdr) (va : W64) (n first pages : W32) (key : W16) (attrs : Byte) (s : State) (step : Nat), step = (if (s.objAt n.toNat).large then 32 else 1) →
    Ready (.mapPages h va n first pages key attrs) s → (s.objAt n.toNat).live = true → (s.objAt n.toNat).owner = h.tenant → pages ≠ 0 →
    mapOk (s.objAt n.toNat) va.toNat first.toNat pages.toNat key attrs = true →
    s.inFlight (ppnsOf (s.entriesIn (va.toNat / 65536) (pages.toNat * step))) = false →
    (∀ e ∈ s.entriesIn (va.toNat / 65536) (step * pages.toNat), peDomain e.2 = h.tenant.setWidth 14) → ∃ t,
    exec (.mapPages h va n first pages key attrs) s = .next t ∧ Finished h 0x0207 0 0 t ∧
    (∀ i, i < pages.toNat → tget pageD t.pages (va.toNat / 65536 + step * i) =
      (s.objAt n.toNat).entry ⟨va.toNat / 65536 + step * i, first.toNat + i, attrs, key.setWidth 12⟩) ∧
    t = { s with tile := t.tile, arr := t.arr, pages := t.pages, ti := t.ti, ho := t.ho }) ∧
  (∀ (h : CmdHdr) (va : W64) (n first pages : W32) (key : W16) (attrs : Byte) (s : State), Ready (.mapPages h va n first pages key attrs) s → (s.objAt n.toNat).live = true →
    (s.objAt n.toNat).owner = h.tenant → pages ≠ 0 → mapOk (s.objAt n.toNat) va.toNat first.toNat pages.toNat key attrs = false →
    s.inFlight (ppnsOf (s.entriesIn (va.toNat / 65536) (pages.toNat * (if (s.objAt n.toNat).large then 32 else 1)))) = false →
    exec (.mapPages h va n first pages key attrs) s = .next (s.finish h 6)) ∧
  (∀ (h : CmdHdr) (va : W64) (n first pages : W32) (key : W16) (attrs : Byte) (s : State),
    s.inFlight (ppnsOf (s.entriesIn (va.toNat / 65536) (pages.toNat * (if (s.objAt n.toNat).large then 32 else 1)))) = true →
    exec (.mapPages h va n first pages key attrs) s = .next s) ∧
  (∀ (o : Obj) (va first pages : Nat) (key : W16) (attrs : Byte), mapOk o va first pages key attrs = true →
    ¬ (fMirror o.flags = true ∧ attrs.getLsbD 0 = true) ∧ ¬ (attrs.getLsbD 0 = true ∧ attrs.getLsbD 1 = true) ∧ va % 65536 = 0 ∧
      va + 65536 * (if o.large then 32 else 1) * pages ≤ 2 ^ 47) ∧
  (∀ (h : CmdHdr) (va : W64) (pages : W32) (s : State), Ready (.unmapPages h va pages) s → va.toNat % 65536 = 0 →
    s.inFlight (ppnsOf (s.pagesFrom pages.toNat (va.toNat / 65536))) = false →
    (∀ e ∈ s.pagesFrom pages.toNat (va.toNat / 65536), peDomain e.2 = h.tenant.setWidth 14) → ∃ t, exec (.unmapPages h va pages) s = .next t ∧
    Finished h 0x0208 0 0 t ∧ (∀ e, e ∈ t.pages ↔ e ∈ s.pages ∧ e ∉ s.pagesFrom pages.toNat (va.toNat / 65536)) ∧
    t = { s with tile := t.tile, arr := t.arr, pages := t.pages, ti := { s.ti with obj := t.ti.obj }, ho := t.ho }) ∧
  (∀ (h : CmdHdr) (va : W64) (pages : W32) (s : State), Ready (.unmapPages h va pages) s → va.toNat % 65536 ≠ 0 →
    s.inFlight (ppnsOf (s.pagesFrom pages.toNat (va.toNat / 65536))) = false → exec (.unmapPages h va pages) s = .next (s.finish h 6)) ∧
  (∀ (h : CmdHdr) (va : W64) (off bytes : W32) (tile : Byte) (s : State), Ready (.weldMap h va off bytes tile) s → tile.toNat < 64 → bytes ≠ 0 →
    off.toNat + bytes.toNat ≤ (s.tileAt tile.toNat).weldSize → va.toNat % 65536 = 0 → off.toNat % 65536 = 0 → bytes.toNat % 65536 = 0 →
    va.toNat + bytes.toNat ≤ 2 ^ 47 → (∀ q ∈ s.pages, peWeld q.2 = false) →
    s.entriesIn (va.toNat / 65536) (bytes.toNat / 65536) = [] → ∃ t, exec (.weldMap h va off bytes tile) s = .next t ∧ Finished h 0x0209 0 0 t ∧
    (∀ i, i < bytes.toNat / 65536 → tget pageD t.pages (va.toNat / 65536 + i) = mkPage true false true false false true false (h.tenant.setWidth 14) 0
      ((weldBase + tile.toNat * 0x2000000 + off.toNat) / 65536 + i)) ∧ t = { s with pages := t.pages, ti := t.ti, ho := t.ho }) ∧
  (∀ (h : CmdHdr) (va : W64) (off bytes : W32) (tile : Byte) (s : State), Ready (.weldMap h va off bytes tile) s → tile.toNat < 64 → bytes ≠ 0 →
    off.toNat + bytes.toNat ≤ (s.tileAt tile.toNat).weldSize → 2 ^ 47 < va.toNat + bytes.toNat →
    s.inFlight (ppnsOf (s.entriesIn (va.toNat / 65536) (bytes.toNat / 65536))) = false → exec (.weldMap h va off bytes tile) s = .next (s.finish h 6)) ∧
  (∀ (h : CmdHdr) (addr bytes : W64) (owner : W16) (mask : Byte) (s : State), Ready (.poolRegister h addr bytes owner mask) s → mask ≠ 0 → mask.toNat ≤ 3 → addr.toNat % 4096 = 0 →
    bytes ≠ 0 → bytes.toNat % 4096 = 0 → (s.ten owner.toNat).live = true → ∃ id, (∀ p ∈ s.ti.pools, p.id ≠ id) ∧ exec (.poolRegister h addr bytes owner mask) s =
      .next (({ s with ti := { s.ti with pools := s.ti.pools ++ [⟨id, owner, addr.toNat, bytes.toNat, mask.toNat, []⟩] } } : State).finish h 0 (n64 id))) ∧
  (∀ (h : CmdHdr) (pool : W32) (p : Pool) (s : State), Ready (.poolDeregister h pool) s → s.ti.pools.find? (fun p => p.id = pool.toNat) = some p → p.owner = h.tenant →
    exec (.poolDeregister h pool) s = .next (if p.used = [] then
      ({ s with ti := { s.ti with pools := s.ti.pools.filter fun q => q.id ≠ pool.toNat } } : State).finish h 0 else s.finish h 0x11)) ∧
  (∀ (h : CmdHdr) (pool : W32) (s : State), Ready (.poolDeregister h pool) s → (∀ p ∈ s.ti.pools, p.id ≠ pool.toNat) → exec (.poolDeregister h pool) s = .next (s.finish h 2))

/-- R247, R248, R251 to R253, 08 Table TIER-4: the ends of promotions and demotions, re-encoding of frameless units, recalled lots. -/
def Obligations.TierTransitions : Prop :=
  (∀ (obj : W32) (s u : State), (s.objAt obj.toNat).live = true → (s.objAt obj.toNat).state = 1 →
    s.fillCopies obj.toNat (List.range (s.objAt obj.toNat).nUnits) = .ok u → (u.objAt obj.toNat).heldEvict = [] → (u.objAt obj.toNat).noClaims = false →
    ∃ t, exec (.promotionEnd obj .done) s = .next t ∧ (t.objAt obj.toNat).state = 2 ∧ (t.objAt obj.toNat).waiters = [] ∧
      (t.objAt obj.toNat).promoter = none ∧ (t.objAt obj.toNat).claims = (u.objAt obj.toNat).claims ∧
      (t.objAt obj.toNat).pages = (u.objAt obj.toNat).pages ∧ t = { u with pages := t.pages, ti := t.ti, ho := t.ho }) ∧
  (∀ (obj : W32) (s : State) (r : PromoteResult), (s.objAt obj.toNat).live = true → (s.objAt obj.toNat).state = 1 → (r = .link ∨ r = .grace) →
    ∃ t, exec (.promotionEnd obj r) s = .next t ∧ (t.objAt obj.toNat).state = 0 ∧ (t.objAt obj.toNat).claims = [] ∧ (t.objAt obj.toNat).modClaims = [] ∧
      (t.objAt obj.toNat).waiters = [] ∧ (t.objAt obj.toNat).pages = [] ∧ (t.objAt obj.toNat).mirror = [] ∧
      ∀ p ∈ (s.objAt obj.toNat).pages, p ∉ t.ti.used) ∧
  (∀ (obj x : W32) (s : State), (s.objAt obj.toNat).live = true → (s.objAt obj.toNat).state = 1 → ((s.objAt obj.toNat).unit x.toNat).st = 1 →
    (s.objAt obj.toNat).dying = false → ∃ t, exec (.promotionEnd obj (.unreadable x)) s = .next t ∧
      (t.objAt obj.toNat).state = 4 ∧ (t.objAt obj.toNat).claims = [] ∧ (t.objAt obj.toNat).pages = [] ∧ ((t.objAt obj.toNat).unit x.toNat).st = 2) ∧
  (∀ (obj x : W32) (s : State), ((s.objAt obj.toNat).unit x.toNat).st ≠ 1 → exec (.promotionEnd obj (.unreadable x)) s = .next s) ∧
  (∀ (obj : W32) (s : State), (s.objAt obj.toNat).live = true → (s.objAt obj.toNat).state = 3 →
    exec (.demotionRetry obj) s = .next (s.encodeUnits obj.toNat (s.objAt obj.toNat).toEncode).1) ∧
  (∀ (s t : State) (n : Nat) (us : List Nat), s.encodeUnits n us = (t, true) → ∀ u ∈ us, ((t.objAt n).unit u).st = 1 ∨ ((t.objAt n).unit u).st = 3) ∧
  (∀ (obj : W32) (s u : State), (s.objAt obj.toNat).live = true → (s.objAt obj.toNat).state = 3 →
    s.encodeUnits obj.toNat (s.objAt obj.toNat).toEncode = (u, true) →
    (u.unmapCopy obj.toNat).inFlight ((s.objAt obj.toNat).pages ++ (s.objAt obj.toNat).mirror) = false →
    (u.objAt obj.toNat).queued = [] → (u.objAt obj.toNat).dying = false → ∃ t, exec (.demotionEnd obj) s = .next t ∧
      (t.objAt obj.toNat).state = (if (u.objAt obj.toNat).lostData then 4 else 0) ∧ (t.objAt obj.toNat).pages = [] ∧ (t.objAt obj.toNat).mirror = [] ∧
      ∀ p ∈ (u.objAt obj.toNat).pages ++ (u.objAt obj.toNat).mirror, p ∉ t.ti.used) ∧
  (∀ (obj : W32) (s u : State), (s.objAt obj.toNat).live = true → (s.objAt obj.toNat).state = 3 →
    s.encodeUnits obj.toNat (s.objAt obj.toNat).toEncode = (u, true) →
    (u.unmapCopy obj.toNat).inFlight ((s.objAt obj.toNat).pages ++ (s.objAt obj.toNat).mirror) = true →
    exec (.demotionEnd obj) s = .next (u.unmapCopy obj.toNat)) ∧
  (∀ (obj : W32) (s u : State), (s.objAt obj.toNat).live = true → (s.objAt obj.toNat).state = 3 →
    s.encodeUnits obj.toNat (s.objAt obj.toNat).toEncode = (u, false) → exec (.demotionEnd obj) s = .next u) ∧
  (∀ (n : Nat) (u : State), (u.objAt n).state = 3 → ((u.unmapCopy n).objAt n).unmapped = true ∧ ∀ m ∈ (u.objAt n).maps, pePresent (((u.unmapCopy n).objAt n).entry m) = false) ∧
  (∀ (obj x : W32) (s u v : State) (ps : List Piece), (s.objAt obj.toNat).live = true → (s.objAt obj.toNat).state = 2 → ((s.objAt obj.toNat).unit x.toNat).st = 2 →
    s.getImage (s.objAt obj.toNat).pages (x.toNat * (s.objAt obj.toNat).unitBytes) (s.objAt obj.toNat).unitBytes = (ps, u) → anyPoison ps = false →
    u.storeUnit obj.toNat x.toNat (bytesOf ps) = .ok v → exec (.framelessReencode obj x) s = .next v ∧ ((v.objAt obj.toNat).unit x.toNat).st = 1 ∧
      ((v.objAt obj.toNat).unit x.toNat).plain = buildFrame (fCompress (u.objAt obj.toNat).flags) (u.objAt obj.toNat).kind obj.toNat x.toNat (bytesOf ps)) ∧
  (∀ (slot : LotSlot) (s u : State), (s.lotAt slot).state = 2 → (s.framesIn slot).foldl (fun s f => s.moveFrame f.1 f.2) s = u →
    (u.framesIn slot = [] → exec (.recallMovesDone slot) s =
      .next ((u.cwSend (s.lotAt slot).port 0 (cwMessage 0x06 0 0 (s.lotAt slot).lot 0 0 0 [])).setLot slot lotInit)) ∧
    (u.framesIn slot ≠ [] → exec (.recallMovesDone slot) s = .next u)) ∧
  (∀ (slot : LotSlot) (s : State), (s.lotAt slot).state = 2 → (s.lotAt slot).deadline ≤ s.time → ∃ t, exec (.borrowerRecallDeadline slot) s = .next t ∧
    t.lotAt slot = lotInit ∧ t = { s with fl := t.fl, ti := t.ti, cw := t.cw, sv := t.sv }) ∧
  (∀ (slot : LotSlot) (s : State), s.time < (s.lotAt slot).deadline → exec (.borrowerRecallDeadline slot) s = .next s)


/-- R263 to R265, R140, R130, 09 Table SERV-1, 12 Table HOST-9 0x0301 to 0x0305: what the model commands leave and when they are refused. Objects that an
image names exist already: the model's choice (notes/assumptions/51.md). -/
def Obligations.ModelCommands : Prop :=
  (∀ (h : CmdHdr) (m : W16) (b : List Byte) (s : State) (y : ModelD), Ready (.modelLoad h m b) s → m.toNat < 4096 →
    y = { modelInit with state := 1, owner := h.tenant, hdr := b.take 96, pieces := imgPieces b, sched := imgSched b } →
    headerOk (b.take 96) = true → (∀ p ∈ y.pieces, pieceOk y.layers p = true) → (∀ e ∈ y.sched, schedOk y.layers e = true) →
    (∀ n ∈ y.objects, (s.objAt n).live = true ∧ s.mayName h.tenant n = true) →
    ((s.modelAt m.toNat).state = 0 → exec (.modelLoad h m b) s = .next ((s.setModel m.toNat y).finish h 0)) ∧
    ((s.modelAt m.toNat).state ≠ 0 → (s.modelAt m.toNat).owner = h.tenant → exec (.modelLoad h m b) s = .next (s.finish h 2)) ∧
    ((s.modelAt m.toNat).state ≠ 0 → (s.modelAt m.toNat).owner ≠ h.tenant → exec (.modelLoad h m b) s = .next (s.finish h 3))) ∧
  (∀ (h : CmdHdr) (m : W16) (s : State), Ready (.modelPublish h m) s → m.toNat < 4096 → (s.modelAt m.toNat).owner = h.tenant → (s.modelAt m.toNat).state = 1 →
    (layoutOk (s.modelAt m.toNat).home (s.modelAt m.toNat).pieces = false → exec (.modelPublish h m) s = .next (s.finish h 7)) ∧
    (layoutOk (s.modelAt m.toNat).home (s.modelAt m.toNat).pieces = true →
      ((s.modelAt m.toNat).contentsOk = false ∨ s.blocksOk (s.modelAt m.toNat).pieces = false) →
      exec (.modelPublish h m) s = .next (s.finish h 1)) ∧
    (layoutOk (s.modelAt m.toNat).home (s.modelAt m.toNat).pieces = true → (s.modelAt m.toNat).contentsOk = true →
      s.blocksOk (s.modelAt m.toNat).pieces = true → ∃ t,
      exec (.modelPublish h m) s = .next t ∧ Finished h 0x0302 0 0 t ∧ t.modelAt m.toNat = { s.modelAt m.toNat with state := 2 } ∧
      (∀ n ∈ (s.modelAt m.toNat).objects, (s.objAt n).live = true →
        (((s.objAt n).state ∈ [1, 2] ∨ (fPin (s.objAt n).flags = true ∧ (s.objAt n).state = 0)) → claimModel m.toNat ∈ (t.objAt n).modClaims) ∧
        ((s.objAt n).state = 3 → Claimer.module (claimModel m.toNat) ∈ (t.objAt n).queued)) ∧ t = { s with ti := t.ti, ho := t.ho, sv := t.sv })) ∧
  (∀ (h : CmdHdr) (m : W16) (s : State), Ready (.modelRetire h m) s → m.toNat < 4096 → (s.modelAt m.toNat).owner = h.tenant → (s.modelAt m.toNat).state = 2 →
    ∃ t, exec (.modelRetire h m) s = .next t ∧ Completed h 0x0303 0 0 t ∧
      ((s.sv.sess.any fun q => q.2.state ≠ 0 && q.2.model.toNat = m.toNat) = true → t.modelAt m.toNat = { s.modelAt m.toNat with state := 3 }) ∧
      ((s.sv.sess.any fun q => q.2.state ≠ 0 && q.2.model.toNat = m.toNat) = false →
        (s.sv.overlay.any fun v => v.2.state ≠ 0 && v.2.model.toNat = m.toNat) = false → t.modelAt m.toNat = modelInit)) ∧
  (∀ (h : CmdHdr) (m : W16) (s : State), Ready (.modelRetire h m) s → m.toNat < 4096 → (s.modelAt m.toNat).owner = h.tenant → (s.modelAt m.toNat).state ≠ 2 →
    exec (.modelRetire h m) s = .next (s.finish h 2)) ∧
  (∀ (h : CmdHdr) (m window : W16) (clamp ovf sat : W32) (s : State) (x : ModelD), Ready (.modelCalib h m window clamp ovf sat) s → m.toNat < 4096 →
    (s.modelAt m.toNat).owner = h.tenant → (s.modelAt m.toNat).calAt s.now = x → x.state ≠ 0 → exec (.modelCalib h m window clamp ovf sat) s = .next
      (if window = 0 then s.finish h 1 else (s.setModel m.toNat { x with
        calNext := some (⟨window.toNat, clamp, ovf, sat⟩, nextWindow x.cal.window s.now) }).finish h 0)) ∧
  (∀ w now : Nat, 0 < w → now < nextWindow w now ∧ nextWindow w now ≤ now + w * 1000000 ∧ nextWindow w now % (w * 1000000) = 0) ∧
  (∀ (h : CmdHdr) (m : W16) (what : Byte) (s : State), Ready (.modelQuery h m what) s → m.toNat < 4096 →
    ((s.modelAt m.toNat).owner = h.tenant ∨ (s.modelAt m.toNat).owner = 0) → exec (.modelQuery h m what) s = .next
      (if what = 0 then s.finishOut h (s.modelAt m.toNat).stateBlock else if what = 1 then s.finishOut h (s.modelAt m.toNat).countBlock else s.finish h 1))

/-- R266 to R269, R277, 09 Table SERV-2, 12 Table HOST-9 0x0401 to 0x0404, 0x0501: a generation AFTER the current one supersedes it, a retired one is freed when
nothing binds it, sessions are flagged to rebind, plans replace older ones. -/
def Obligations.OverlaysAndPlans : Prop :=
  (∀ (h : CmdHdr) (v m series : W16) (gen : W32) (recs : List Byte) (s : State) (ps : List (List Byte)), Ready (.overlayLoad h v m series gen recs) s → m.toNat < 4096 →
    recordsAt recs 0 32 (recs.length / 32) = ps → (s.modelAt m.toNat).state ≠ 0 → ((s.modelAt m.toNat).owner = h.tenant ∨ (s.modelAt m.toNat).owner = 0) →
    (s.ovAt v.toNat).state = 0 → series ≠ 0xFFFF → recs.length % 32 = 0 → ps ≠ [] → ps.length ≤ 131070 →
    (∀ p ∈ ps, pieceOk (s.modelAt m.toNat).layers p = true ∧ (s.objAt (pieceObj p)).live = true ∧ s.mayName h.tenant (pieceObj p) = true) →
    layoutOk (s.modelAt m.toNat).home ps = true →
    exec (.overlayLoad h v m series gen recs) s = .next ((s.setOv v.toNat ⟨1, h.tenant, m, series, gen, ps, none⟩).finish h 0)) ∧
  (∀ (h : CmdHdr) (v m series : W16) (gen : W32) (recs : List Byte) (s : State), Ready (.overlayLoad h v m series gen recs) s → (s.ovAt v.toNat).state ≠ 0 →
    (s.ovAt v.toNat).tenant ≠ h.tenant → exec (.overlayLoad h v m series gen recs) s = .next (s.finish h 3)) ∧
  (∀ (h : CmdHdr) (v : W16) (s : State) (x : Overlay), Ready (.overlayPublish h v) s → s.ovAt v.toNat = x → x.state = 1 → x.tenant = h.tenant →
    (s.modelAt x.model.toNat).state = 2 → s.blocksOk x.pieces = true →
    (s.current x.tenant x.series = none → exec (.overlayPublish h v) s = .next ((s.setOv v.toNat { x with state := 2 }).finish h 0)) ∧
    (∀ c, s.current x.tenant x.series = some c → (s.ovAt c).state = 2 → serialCmp (s.ovAt c).gen x.gen = .after → ∃ t,
      exec (.overlayPublish h v) s = .next t ∧ Completed h 0x0402 0 0 t ∧ t.ovAt v.toNat = { x with state := 2 } ∧
      (s.ovUsed c = true → t.ovAt c = { s.ovAt c with state := 3 }) ∧ (s.ovUsed c = false → t.ovAt c = ovInit)) ∧
    (∀ c, s.current x.tenant x.series = some c → serialCmp (s.ovAt c).gen x.gen ≠ .after → ∃ t, exec (.overlayPublish h v) s = .next t ∧
      Finished h 0x0402 0x09 0 t ∧ t = { s with fl := t.fl, ho := t.ho })) ∧
  (∀ (h : CmdHdr) (v : W16) (s : State) (x : Overlay), Ready (.overlayRetire h v) s → s.ovAt v.toNat = x → x.state = 3 → x.tenant = h.tenant → ∃ t,
    exec (.overlayRetire h v) s = .next t ∧ (∀ k, (s.sessAt k).live = true → (s.sessAt k).overlay = some v → (t.sessAt k).rebind = true) ∧
    (s.ovUsed v.toNat = true → t.ovAt v.toNat = { x with state := 4, retire := some h }) ∧
    (s.ovUsed v.toNat = false → t.ovAt v.toNat = ovInit ∧ Completed h 0x0403 0 0 t)) ∧
  (∀ (h : CmdHdr) (v : W16) (s : State), Ready (.overlayRetire h v) s → (s.ovAt v.toNat).state = 2 → (s.ovAt v.toNat).tenant = h.tenant →
    exec (.overlayRetire h v) s = .next (s.finish h 2)) ∧
  (∀ (h : CmdHdr) (series : W16) (s : State), Ready (.overlayRebind h series) s → s.current h.tenant series = none → exec (.overlayRebind h series) s = .next (s.finish h 2)) ∧
  (∀ (h : CmdHdr) (series : W16) (s : State) (c : Nat), Ready (.overlayRebind h series) s → s.current h.tenant series = some c → ∃ t,
    exec (.overlayRebind h series) s = .next t ∧ (∀ k, (s.sessAt k).live = true → (s.sessAt k).tenant = h.tenant → (s.sessAt k).series = series →
      (s.sessAt k).overlay ≠ none → (s.sessAt k).overlay ≠ some (BitVec.ofNat 16 c) → (t.sessAt k).rebind = true) ∧
    ((∀ q ∈ s.sv.sess, q.2.live = true → q.2.tenant = h.tenant → q.2.series = series →
      q.2.overlay = none ∨ q.2.overlay = some (BitVec.ofNat 16 c)) → Completed h 0x0404 0 0 t) ∧
    t = { s with sv := t.sv, ho := t.ho }) ∧
  (∀ (h : CmdHdr) (m : W16) (plan : Plan) (s : State) (x : ModelD), Ready (.schedulePlan h m plan) s → m.toNat < 4096 → s.modelAt m.toNat = x → x.owner = h.tenant →
    (x.state = 2 ∨ x.state = 3) →
    (planOk plan = false → exec (.schedulePlan h m plan) s = .next (s.finish h 1)) ∧
    (planOk plan = true → (∀ p, (x.nextPlan = some p ∨ (x.nextPlan = none ∧ x.plan = some p)) → serialCmp p.version plan.version = .after) →
      exec (.schedulePlan h m plan) s = .next ((s.setModel m.toNat { x with nextPlan := some plan }).finish h 0)) ∧
    (planOk plan = true → ∀ p, (x.nextPlan = some p ∨ (x.nextPlan = none ∧ x.plan = some p)) → serialCmp p.version plan.version ≠ .after → ∃ t,
      exec (.schedulePlan h m plan) s = .next t ∧ Finished h 0x0501 0x0A 0 t ∧ t = { s with fl := t.fl, ho := t.ho }))

/-- R270, R271, R276, R279, R291, 09 Tables SERV-4 and SERV-9, 12 Table HOST-9 0x0601 to 0x0606: opening and appending, what waits for a step boundary,
stale handles. A session takes the lowest free slot: the model's choice (notes/assumptions/18.md). -/
def Obligations.SessionCommands : Prop :=
  (∀ (h : CmdHdr) (m series : W16) (p : SessParams) (s : State) (x : ModelD), Ready (.sessionOpen h m series p) s → m.toNat < 4096 → s.modelAt m.toNat = x → x.state = 2 →
    (x.owner = h.tenant ∨ x.owner = 0) → sessParamsOk x.vocab p = true → s.ringOk h.tenant p.ring = none → s.freeSlot < 262144 →
    (∀ cur, (series = 0xFFFF ∧ cur = none ∨ ∃ c, series ≠ 0xFFFF ∧ s.current h.tenant series = some c ∧ (s.ovAt c).model = m ∧
        cur = some (BitVec.ofNat 16 c)) → ∃ t k, exec (.sessionOpen h m series p) s = .next t ∧
      Finished h 0x0601 0 (n64 (((s.sessAt k).gen.toNat * 2 ^ 18 + k) % 2 ^ 32)) t ∧ k < 262144 ∧ (s.sessAt k).state = 0 ∧
      (t.sessAt k).state = 1 ∧ (t.sessAt k).tenant = h.tenant ∧ (t.sessAt k).model = m ∧ (t.sessAt k).overlay = cur ∧ (t.sessAt k).seed = p.seed ∧
      (t.sessAt k).temp = p.temperature ∧ (t.sessAt k).topP = p.topP ∧ (t.sessAt k).topK = p.topK ∧ (t.sessAt k).ring = p.ring ∧
      (t.sessAt k).stops = p.stops ∧ (t.sessAt k).maxNew = p.maxNew ∧ (t.sessAt k).prompt = [] ∧ (t.sessAt k).h = 0 ∧ (t.sessAt k).count = 0 ∧
      (t.sessAt k).gen = (s.sessAt k).gen ∧ (∀ j, j ≠ k → t.sessAt j = s.sessAt j) ∧ t = { s with ti := t.ti, ho := t.ho, sv := t.sv })) ∧
  (∀ (h : CmdHdr) (m series : W16) (p : SessParams) (s : State), Ready (.sessionOpen h m series p) s → m.toNat < 4096 →
    ((s.modelAt m.toNat).state = 0 ∨ (s.modelAt m.toNat).owner = h.tenant ∨ (s.modelAt m.toNat).owner = 0) →
    sessParamsOk (s.modelAt m.toNat).vocab p = false → s.ringOk h.tenant p.ring ≠ some 3 → (series = 0xFFFF ∨ s.foreignSeries h.tenant series = false) →
    exec (.sessionOpen h m series p) s = .next (s.finish h 1)) ∧
  (∀ (h : CmdHdr) (m series : W16) (p : SessParams) (s : State) (v : Nat × Overlay), Ready (.sessionOpen h m series p) s → m.toNat < 4096 →
    ((s.modelAt m.toNat).state = 0 ∨ (s.modelAt m.toNat).owner = h.tenant ∨ (s.modelAt m.toNat).owner = 0) → series ≠ 0xFFFF →
    v ∈ s.sv.overlay → v.2.state ≠ 0 → v.2.series = series → v.2.tenant ≠ h.tenant →
    (∀ w ∈ s.sv.overlay, w.2.state ≠ 0 → w.2.series = series → w.2.tenant ≠ h.tenant) → exec (.sessionOpen h m series p) s = .next (s.finish h 3)) ∧
  (∀ (h : CmdHdr) (hd : W32) (fin : Bool) (toks : List W32) (s : State) (x : Sess), Ready (.sessionAppend h hd fin toks) s → s.sessOf h.tenant hd = .ok x →
    (x.state ≠ 1 → exec (.sessionAppend h hd fin toks) s = .next (s.finish h 2)) ∧
    (x.state = 1 → (16384 < toks.length ∨ ∃ t ∈ toks, (s.modelAt x.model.toNat).vocab ≤ t.toNat) →
      exec (.sessionAppend h hd fin toks) s = .next (s.finish h 1)) ∧
    (x.state = 1 → toks.length ≤ 16384 → (∀ t ∈ toks, t.toNat < (s.modelAt x.model.toNat).vocab) → (fin = true → x.prompt ++ toks ≠ []) →
      (x.prompt ++ toks).length ≤ (s.modelAt x.model.toNat).maxCtx → exec (.sessionAppend h hd fin toks) s = .next
        ((s.setSess (hdSlot hd) { x with prompt := x.prompt ++ toks, state := (if fin then 2 else 1) }).finish h 0)) ∧
    (x.state = 1 → toks.length ≤ 16384 → (∀ t ∈ toks, t.toNat < (s.modelAt x.model.toNat).vocab) → (fin = true → x.prompt ++ toks ≠ []) →
      (s.modelAt x.model.toNat).maxCtx < (x.prompt ++ toks).length → exec (.sessionAppend h hd fin toks) s = .next (s.finish h 4))) ∧
  (∀ (h : CmdHdr) (hd : W32) (s : State) (x : Sess), Ready (.sessionCancel h hd) s → s.sessOf h.tenant hd = .ok x →
    (x.state ≠ 4 → exec (.sessionCancel h hd) s = .next ((Begun h s).atBoundary (.cancel h hd))) ∧
    (x.state = 4 → (∀ b ∈ s.sv.bounds, ∀ g, b ≠ .cancel g hd) → exec (.sessionCancel h hd) s = .next (s.finishAfter h 0x0D 0
      (some (x.ring.toNat, (s.ringAt x.ring.toNat).prod + n32 (s.ringAt x.ring.toNat).queue.length))))) ∧
  (∀ (h : CmdHdr) (hd : W32) (s : State) (x : Sess), Ready (.sessionClose h hd) s → s.sessOf h.tenant hd = .ok x →
    exec (.sessionClose h hd) s = .next ((Begun h s).atBoundary (.close h hd))) ∧
  (∀ (h : CmdHdr) (hd : W32) (p : SessParams) (s : State) (x : Sess), Ready (.sessionFork h hd p) s → s.sessOf h.tenant hd = .ok x → s.ringOk h.tenant p.ring = none →
    sessParamsOk (s.modelAt x.model.toNat).vocab p = true → exec (.sessionFork h hd p) s = .next
      (if x.state ≠ 2 ∧ x.state ≠ 3 then s.finish h 2 else (Begun h s).atBoundary (.fork h hd p))) ∧
  (∀ (h : CmdHdr) (hd : W32) (s : State) (x : Sess), Ready (.sessionQuery h hd) s → s.sessOf h.tenant hd = .ok x →
    exec (.sessionQuery h hd) s = .next (s.finishOut h (s.sessReport x))) ∧
  (∀ (h : CmdHdr) (hd : W32) (s : State), (s.sessAt (hdSlot hd)).state = 0 ∨ (s.sessAt (hdSlot hd)).gen.toNat ≠ hd.toNat / 2 ^ 18 →
    (∀ fin toks, Ready (.sessionAppend h hd fin toks) s → exec (.sessionAppend h hd fin toks) s = .next (s.finish h 8)) ∧
    (Ready (.sessionCancel h hd) s → exec (.sessionCancel h hd) s = .next (s.finish h 8)) ∧ (Ready (.sessionClose h hd) s → exec (.sessionClose h hd) s = .next (s.finish h 8)) ∧
    (∀ p, Ready (.sessionFork h hd p) s → exec (.sessionFork h hd p) s = .next (s.finish h 8)) ∧
    (Ready (.sessionQuery h hd) s → exec (.sessionQuery h hd) s = .next (s.finish h 8)))

/-- R279, R291, R270: at a step boundary a cancel ends a session that has not ended with CANCELLED, a close frees the slot of an ended one and
advances its generation, a close of another one is refused. -/
def Obligations.BoundaryActions : Prop :=
  (∀ (m : ModelId) (h : CmdHdr) (hd : W32) (s : State) (x : Sess), (s.modelAt m).group = none → (∀ p, (s.modelAt m).plan = some p → p.padded ≠ 1) →
    s.md.running = true → s.sv.bounds = [.cancel h hd] → s.sessOf h.tenant hd = .ok x → x.model.toNat = m.val → x.live = true → ∃ t,
    exec (.boundaryActions m) s = .next t ∧ (t.sessAt (hdSlot hd)).state = 4 ∧ (t.sessAt (hdSlot hd)).ended = 3 ∧
    (t.sessAt (hdSlot hd)).held = [] ∧ t.sv.bounds = []) ∧
  (∀ (m : ModelId) (h : CmdHdr) (hd : W32) (s : State) (x : Sess), (s.modelAt m).group = none → (∀ p, (s.modelAt m).plan = some p → p.padded ≠ 1) →
    s.md.running = true → s.sv.bounds = [.close h hd] → s.sessOf h.tenant hd = .ok x → x.model.toNat = m.val →
    (x.state = 4 → ∃ t, exec (.boundaryActions m) s = .next t ∧ t.sessAt (hdSlot hd) = { sessInit with gen := (if x.gen = 16383 then 1 else x.gen + 1) } ∧
      t.sv.bounds = []) ∧
    (x.state ≠ 4 → exec (.boundaryActions m) s = .next (({ s with sv := { s.sv with bounds := [] } } : State).finish h 2))) ∧
  (∀ (m : ModelId) (s : State), (s.modelAt m).group = none → (∀ p, (s.modelAt m).plan = some p → p.padded ≠ 1) → s.md.running = true →
    exec (.boundaryActions m) s = .next (s.boundaries m none)) ∧
  (∀ (m : ModelId) (s : State) (g : Group), (s.modelAt m).group = some g → exec (.boundaryActions m) s = .next s)

/-- R277 to R283, R250, R290, R300 to R302, 08 R251: a pass runs only at its time and with no group in flight; a layer start signals every home tile; a
commit advances H, returns the reservation and charges the budget; stream entries take free slots; an overrunning slot passes without a group; a staging that is late at the grace time ends, at the next piece boundary, the sessions
that need it (notes/assumptions/89.md, 104.md). -/
def Obligations.StepDispatcher : Prop :=
  (∀ (m : ModelId) (s : State) (p : Plan), (s.modelAt m).plan = some p → p.padded ≠ 1 → s.dispatches (s.modelAt m) = true → (s.modelAt m).group = none →
    (s.modelAt m).tLast.toNat + p.minInterval.toNat ≤ s.time.toNat → (∀ q, (s.modelAt m).nextPlan = some q → q.padded ≠ 1) →
    exec (.dispatcherPass m) s = .next (s.pass m none)) ∧
  (∀ (m : ModelId) (s : State) (p : Plan), (s.modelAt m).plan = some p → ((s.modelAt m).group ≠ none ∨ s.time.toNat < (s.modelAt m).tLast.toNat + p.minInterval.toNat) →
    exec (.dispatcherPass m) s = .next s) ∧
  (∀ (m : ModelId) (s : State) (g : Group), (s.modelAt m).group = some g → g.replay = false → g.doomed = [] →
    g.layer + 1 < (s.modelAt m).layers →
    (∀ q ∈ s.sv.sess, q.2.live = true → q.2.model.toNat = m.val → s.sessLost q.2 = false) → ∃ t, exec (.layerStart m) s = .next t ∧
    (t.modelAt m).group = some { g with layer := g.layer + 1 } ∧ (t.modelAt m).layerAt = s.time ∧
    t.sy.ops = s.sy.ops ++ (s.modelAt m).homeTiles.map (fun i =>
      ⟨.sig ⟨ctrId (4096 * s.runTile (s.modelAt m) i + Config.startCounter m i (g.layer + 1) % 4096), 1,
        .core (tileId (s.stewardOf (s.modelAt m).lead))⟩, s.time⟩) ∧
    t = { s with sy := { s.sy with ops := t.sy.ops }, tile := t.tile, arr := t.arr, sv := { s.sv with model := t.sv.model } }) ∧
  (∀ (m : ModelId) (outs : List StepOut) (counts : List CalCount) (s : State) (g : Group) (q : Member), (s.modelAt m).group = some g → g.plan.padded ≠ 1 →
    s.md.running = true → s.complete m g outs = true → g.doomed = [] → g.members = [q] → ∃ t, exec (.stepCommit m outs counts) s = .next t ∧ (t.modelAt m).group = none ∧
    (t.sessAt q.slot).h = (s.sessAt q.slot).h + q.rows ∧ (t.sessAt q.slot).inStep = false ∧ (t.sessAt q.slot).frac = q.carry ∧
    (t.ten (s.sessAt q.slot).tenant.toNat).level = (s.ten (s.sessAt q.slot).tenant.toNat).level - n32 q.cost ∧
    (t.ten (s.sessAt q.slot).tenant.toNat).reserved = (s.ten (s.sessAt q.slot).tenant.toNat).reserved - n32 q.cost ∧
    (t.sessAt q.slot).count = (if q.samples then (s.sessAt q.slot).count + 1 else (s.sessAt q.slot).count) ∧
    (q.samples = true → (t.sessAt q.slot).state = 3 ∨ (t.sessAt q.slot).state = 4) ∧ ∀ k, k ≠ q.slot → t.sessAt k = s.sessAt k) ∧
  (∀ (r : RingId) (e : List Byte) (l : List (List Byte)) (s : State), (s.ringAt r).queue = e :: l → (s.ringAt r).active = true →
    ((s.ringAt r).prod - (s.ringAt r).head).toNat < 2 ^ (s.ringAt r).j → (s.port (s.ringAt r).port).up = true → ∃ t, exec (.streamEntryWrite r) s = .next t ∧
    (t.ringAt r).queue = l ∧ (t.ringAt r).prod = (s.ringAt r).prod + 1 ∧ (t.ringAt r).head = (s.ringAt r).head ∧
    ((s.ringAt r).irq.running = true → t.ho.mem = mwrite zeroByte (mwrite zeroByte s.ho.mem
      ((s.ringAt r).base.toNat + 64 * ((s.ringAt r).prod.toNat % 2 ^ (s.ringAt r).j)) e) (s.ringAt r).shadow.toNat (toBytes 4 ((s.ringAt r).prod + 1).toNat)) ∧
    t = { s with ho := t.ho }) ∧
  (∀ (m : ModelId) (outs : List StepOut) (counts : List CalCount) (done : Bool) (s s0 : State) (p : Plan), (s.modelAt m).plan = some p → p.padded = 1 →
    s.dispatches (s.modelAt m) = true → (s.modelAt m).slotBegins p s.now = true → s0 = s.setModel m { s.modelAt m with slotAt := some s.now } →
    ((s.modelAt m).group = none → exec (.paddedSlotStart m outs counts done) s = .next ((s0.setModel m { s0.modelAt m with overrun := 0 }).slotPass m)) ∧
    (∀ g, (s.modelAt m).group = some g → done = false → exec (.paddedSlotStart m outs counts done) s =
      .next (s0.setModel m { s0.modelAt m with overrun := (s.modelAt m).overrun + 1, slotNo := (s.modelAt m).slotNo + 1 }))) ∧
  (∀ (m : ModelId) (outs : List StepOut) (counts : List CalCount) (done : Bool) (s : State) (p : Plan), (s.modelAt m).plan = some p →
    (s.now % p.slotNs.toNat ≠ 0 ∨ (s.modelAt m).slotAt = some s.now) → exec (.paddedSlotStart m outs counts done) s = .next s) ∧
  (∀ (m : ModelId) (layer : Byte) (ov : Option W16) (s : State) (g : Group), (s.modelAt m).group = some g → g.layer = layer.toNat → g.replay = false →
    (s.modelAt m).layerAt.toNat + (s.modelAt m).grace ≤ s.now → s.stageLate (s.modelAt m) g.layer ov = true → ∃ t,
    exec (.stagingGraceExpiry m layer ov) s = .next t ∧ t = { s with sv := { s.sv with model := t.sv.model } } ∧
    ∃ d, (t.modelAt m).group = some { g with doomed := d } ∧ (∀ k ∈ g.doomed, k ∈ d) ∧
      ∀ q ∈ g.members, (ov = none ∨ q.overlay = ov) → q.slot ∈ d) ∧
  (∀ (m : ModelId) (layer : Byte) (ov : Option W16) (s : State), s.now < (s.modelAt m).layerAt.toNat + (s.modelAt m).grace →
    exec (.stagingGraceExpiry m layer ov) s = .next s) ∧
  (∀ (m : ModelId) (s : State) (g : Group) (k : Nat), (s.modelAt m).group = some g → k ∈ g.doomed → (s.sessAt k).live = true →
    ((s.dropDoomed m).sessAt k).state = 4 ∧ ((s.dropDoomed m).sessAt k).ended = 4)

/-- R279, R280, 09 Table SERV-5: a formed group holds at most the plan's members, and of each tenant at most the plan's cap. -/
def Obligations.GroupWithinPlan : Prop :=
  ∀ (s : State) (m : Nat) (p : Plan) (tenant : Option W16) (g : Group), (s.modelAt m).group = none →
    ((s.formGroup m p tenant).modelAt m).group = some g →
    g.members.length ≤ p.maxGroup.toNat ∧ g.plan = p ∧ g.replay = false ∧ g.layer = 0 ∧
    ∀ t : W16, g.members.countP (fun q => ((s.formGroup m p tenant).sessAt q.slot).tenant = t) ≤ p.tenantCap.toNat

/-- 07 R228: b compares with a by (b − a) mod 2^32. -/
def Obligations.SerialNumbers : Prop :=
  (∀ a b : W32, serialCmp a b = .equal ↔ (b.toNat + 2 ^ 32 - a.toNat) % 2 ^ 32 = 0) ∧
  (∀ a b : W32, serialCmp a b = .after ↔ 1 ≤ (b.toNat + 2 ^ 32 - a.toNat) % 2 ^ 32 ∧ (b.toNat + 2 ^ 32 - a.toNat) % 2 ^ 32 ≤ 0x7FFFFFFF) ∧
  (∀ a b : W32, serialCmp a b = .unordered ↔ (b.toNat + 2 ^ 32 - a.toNat) % 2 ^ 32 = 0x80000000) ∧
  (∀ a b : W32, serialCmp a b = .before ↔ 0x80000001 ≤ (b.toNat + 2 ^ 32 - a.toNat) % 2 ^ 32) ∧
  (∀ a b : W32, serialCmp a b = .after ↔ serialCmp b a = .before) ∧ (∀ a b : W32, serialCmp a b = .unordered ↔ serialCmp b a = .unordered)


/-- R169, R171, R176, R181, R182, R184: what stands at the pc of the thread whose turn it is issues; a fetch that fails, or a reserved opcode, faults it; an
instruction of a thread changes no other thread, no control register, no mailbox, no object and no Madder byte. Which thread a processor issued from last at
reset is the model's choice (notes/assumptions/119.md). -/
def Obligations.ThreadIssue : Prop :=
  (∀ (c : Instr) (t : ThrId) (s : State), thrOf c = some t → s.turn t = false → exec c s = .next s) ∧
  (∀ (t : ThrId) (s : State), s.turn t = true → (s.thrAt t).st = .ready) ∧
  (∀ (s : State) (t j : ThrId), t.val / 64 = j.val / 64 → s.lastIssued (t.val / 64) < 64 → s.turn t = true → s.turn j = true → t = j) ∧
  (∀ (s : State) (t : ThrId), s.lastIssued (t.val / 64) < 64 → (s.thrAt t).st = .ready → ∃ j : ThrId, j.val / 64 = t.val / 64 ∧ s.turn j = true) ∧
  (∀ (s : State) (t : ThrId), (s.issued t).lastIssued (t.val / 64) = t.val % 64 ∧ s.issued t = { s with th := { s.th with last := (s.issued t).th.last } }) ∧
  (∀ (c : Instr) (t : ThrId) (s : State) (f : Nat), thrOf c = some t → s.turn t = true → s.fetchFault t (s.thrAt t) = some f →
    exec c s = .next ((s.thrFault t f (s.thrAt t).pc.toNat).issued t)) ∧
  (∀ (c : Instr) (t : ThrId) (s : State) (w : W32), thrOf c = some t → s.turn t = true → s.fetch t (s.thrAt t) = .ok w → threadCode t w = none →
    exec c s = .next ((s.thrFault t 1 0).issued t)) ∧
  (∀ (c k : Instr) (t : ThrId) (s : State), thrOf c = some t → s.instrAt t = some k → k ≠ c → exec c s = .next s) ∧
  (∀ (t : ThrId) (w : W32) (k : Instr), threadCode t w = some k → thrOf k = some t) ∧
  (∀ (c : Instr) (t : ThrId) (s u : State), thrOf c = some t → exec c s = .next u →
    (∀ j, j ≠ t.val → u.thrAt j = s.thrAt j) ∧ u = { s with
      th := u.th, tile := u.tile, sy := u.sy, arr := u.arr, unit := u.unit, fl := u.fl, dm := u.dm, str := u.str,
      dr := { s.dr with sub := u.dr.sub } }) ∧
  (∀ (s : State) (t : Nat) (code va : Nat), ∃ u, s.thrFault t code va = u ∧ (u.thrAt t).st = .faulted ∧ (u.thrAt t).fault = code ∧
    (u.thrAt t).pc = (s.thrAt t).pc ∧ (u.thrAt t).g = (s.thrAt t).g ∧ (u.thrAt t).v = (s.thrAt t).v ∧
    u.fl = (s.detect 0x0204 (domOf .tile (t / 2048)) (n64 code) (s.thrAt t).pc (n64 (t % 2048)) (n64 va)).fl) ∧
  (∀ (x : Thr) (v : W64), x.wr 0 v = x ∧ x.rd 0 = 0) ∧ (∀ (x : Thr) (r : BitVec 5) (v : W64), r ≠ 0 → (x.wr r v).rd r = v ∧
    ∀ q, q ≠ r → (x.wr r v).rd q = x.rd q)

/-- R177, R179, 06 Tables TILE-5 and TILE-6: the scalar integer instructions write their register alone and move the pc; an encoding that R176 excludes
faults with ILLEGAL. -/
def Obligations.ScalarIntegers : Prop :=
  (∀ (s : State) (t : ThrId) (th : Thr) (x : RegF) (R : List Nat), R = [r5 x.a, r5 x.b, r5 x.d] →
    (x.f = 0 → (Issues s (.add t x) t th R → exec (.add t x) s = .next ((s.setThr t (th.wr x.d (th.rd x.a + th.rd x.b)).next).issued t)) ∧
      (Issues s (.sub t x) t th R → exec (.sub t x) s = .next ((s.setThr t (th.wr x.d (th.rd x.a - th.rd x.b)).next).issued t)) ∧
      (Issues s (.mul t x) t th R → exec (.mul t x) s = .next ((s.setThr t (th.wr x.d (th.rd x.a * th.rd x.b)).next).issued t)) ∧
      (Issues s (.and t x) t th R → exec (.and t x) s = .next ((s.setThr t (th.wr x.d (th.rd x.a &&& th.rd x.b)).next).issued t)) ∧
      (Issues s (.or t x) t th R → exec (.or t x) s = .next ((s.setThr t (th.wr x.d (th.rd x.a ||| th.rd x.b)).next).issued t)) ∧
      (Issues s (.xor t x) t th R → exec (.xor t x) s = .next ((s.setThr t (th.wr x.d (th.rd x.a ^^^ th.rd x.b)).next).issued t))) ∧
    (x.f = 1 → ∃ v : W64, v.toNat = (th.rd x.a).toNat * (th.rd x.b).toNat / 2 ^ 64 ∧ (Issues s (.mulh t x) t th R →
      exec (.mulh t x) s = .next ((s.setThr t (th.wr x.d v).next).issued t))) ∧
    (x.f = 0 → ∃ v : W64, v.toInt = (th.rd x.a).toInt * (th.rd x.b).toInt / 2 ^ 64 ∧ (Issues s (.mulh t x) t th R →
      exec (.mulh t x) s = .next ((s.setThr t (th.wr x.d v).next).issued t))) ∧
    (x.f.toNat < 4 → th.rd x.b = 0 → (Issues s (.div t x) t th R → exec (.div t x) s = .next ((s.setThr t (th.wr x.d 0).next).issued t))) ∧
    (th.rd x.b ≠ 0 → (x.f = 1 → (Issues s (.div t x) t th R → exec (.div t x) s = .next ((s.setThr t (th.wr x.d (th.rd x.a / th.rd x.b)).next).issued t))) ∧
      (x.f = 3 → (Issues s (.div t x) t th R → exec (.div t x) s = .next ((s.setThr t (th.wr x.d (th.rd x.a % th.rd x.b)).next).issued t))) ∧
      (x.f = 0 → (Issues s (.div t x) t th R →
        exec (.div t x) s = .next ((s.setThr t (th.wr x.d (BitVec.ofInt 64 ((th.rd x.a).toInt.tdiv (th.rd x.b).toInt))).next).issued t))) ∧
      (x.f = 2 → (Issues s (.div t x) t th R →
        exec (.div t x) s = .next ((s.setThr t (th.wr x.d (BitVec.ofInt 64 ((th.rd x.a).toInt.tmod (th.rd x.b).toInt))).next).issued t)))) ∧
    (∀ k n : Nat, k < 4 → n < 64 → ((x.f.toNat = 64 * k ∧ n = (th.rd x.b).toNat % 64) ∨ (x.f.toNat = 1024 + 64 * k + n ∧ x.b = 0)) →
      (Issues s (.shift t x) t th R → exec (.shift t x) s = .next ((s.setThr t (th.wr x.d (if k = 0 then th.rd x.a <<< n else if k = 1 then th.rd x.a >>> n
        else if k = 2 then (th.rd x.a).sshiftRight n else (th.rd x.a).rotateRight n)).next).issued t))) ∧
    (x.f.toNat < 6 → (Issues s (.cmp t x) t th R →
      exec (.cmp t x) s = .next ((s.setThr t (th.wr x.d (if (if x.f = 0 then th.rd x.a = th.rd x.b else if x.f = 1 then th.rd x.a ≠ th.rd x.b
        else if x.f = 2 then (th.rd x.a).toInt < (th.rd x.b).toInt else if x.f = 3 then (th.rd x.b).toInt ≤ (th.rd x.a).toInt
        else if x.f = 4 then (th.rd x.a).toNat < (th.rd x.b).toNat else (th.rd x.b).toNat ≤ (th.rd x.a).toNat) then 1 else 0)).next).issued t))) ∧
    (∀ v : W64, (x.f = 0 ∧ v.toInt = min (th.rd x.a).toInt (th.rd x.b).toInt ∨ x.f = 1 ∧ v.toInt = max (th.rd x.a).toInt (th.rd x.b).toInt ∨
        x.f = 2 ∧ v.toNat = min (th.rd x.a).toNat (th.rd x.b).toNat ∨ x.f = 3 ∧ v.toNat = max (th.rd x.a).toNat (th.rd x.b).toNat) →
      (Issues s (.minmax t x) t th R → exec (.minmax t x) s = .next ((s.setThr t (th.wr x.d v).next).issued t))) ∧
    (x.b = 0 → x.f = 2 → (Issues s (.bits t x) t th R →
      exec (.bits t x) s = .next ((s.setThr t (th.wr x.d (n64 ((List.range 64).countP fun i => (th.rd x.a).getLsbD i))).next).issued t))) ∧
    (∀ n : Nat, x.b = 0 → x.f = 0 → n ≤ 64 → (∀ i, 64 - n ≤ i → (th.rd x.a).getLsbD i = false) → (n < 64 → (th.rd x.a).getLsbD (63 - n) = true) →
      (Issues s (.bits t x) t th R → exec (.bits t x) s = .next ((s.setThr t (th.wr x.d (n64 n)).next).issued t))) ∧
    (∀ n : Nat, x.b = 0 → x.f = 1 → n ≤ 64 → (∀ i, i < n → (th.rd x.a).getLsbD i = false) → (n < 64 → (th.rd x.a).getLsbD n = true) →
      (Issues s (.bits t x) t th R → exec (.bits t x) s = .next ((s.setThr t (th.wr x.d (n64 n)).next).issued t)))) ∧
  (∀ (s : State) (t : ThrId) (th : Thr) (x : ImmF) (R : List Nat), R = [r5 x.a, r5 x.d] →
    (Issues s (.addi t x) t th R → exec (.addi t x) s = .next ((s.setThr t (th.wr x.d (th.rd x.a + x.imm.signExtend 64)).next).issued t)) ∧
    (Issues s (.andi t x) t th R → exec (.andi t x) s = .next ((s.setThr t (th.wr x.d (th.rd x.a &&& x.imm.setWidth 64)).next).issued t)) ∧
    (Issues s (.ori t x) t th R → exec (.ori t x) s = .next ((s.setThr t (th.wr x.d (th.rd x.a ||| x.imm.setWidth 64)).next).issued t)) ∧
    (Issues s (.xori t x) t th R → exec (.xori t x) s = .next ((s.setThr t (th.wr x.d (th.rd x.a ^^^ x.imm.setWidth 64)).next).issued t))) ∧
  (∀ (s : State) (t : ThrId) (th : Thr) (x : ImmF), Issues s (.movk t x) t th [r5 x.d] → x.a.toNat < 4 → ∃ v : W64,
    exec (.movk t x) s = .next ((s.setThr t (th.wr x.d v).next).issued t) ∧
    ∀ i, i < 64 → v.getLsbD i = if i / 16 = x.a.toNat then x.imm.getLsbD (i % 16) else (th.rd x.d).getLsbD i) ∧
  (∀ (s : State) (t : ThrId) (th : Thr) (x : RegF),
    (x.f ≠ 0 → (Issues s (.add t x) t th [] → exec (.add t x) s = .next ((s.thrFault t 1 0).issued t)) ∧ (Issues s (.sub t x) t th [] →
      exec (.sub t x) s = .next ((s.thrFault t 1 0).issued t)) ∧ (Issues s (.mul t x) t th [] → exec (.mul t x) s = .next ((s.thrFault t 1 0).issued t)) ∧
      (Issues s (.and t x) t th [] → exec (.and t x) s = .next ((s.thrFault t 1 0).issued t)) ∧ (Issues s (.or t x) t th [] →
        exec (.or t x) s = .next ((s.thrFault t 1 0).issued t)) ∧ (Issues s (.xor t x) t th [] → exec (.xor t x) s = .next ((s.thrFault t 1 0).issued t))) ∧
    (2 ≤ x.f.toNat → (Issues s (.mulh t x) t th [] → exec (.mulh t x) s = .next ((s.thrFault t 1 0).issued t))) ∧ (4 ≤ x.f.toNat → (Issues s (.div t x) t th [] →
      exec (.div t x) s = .next ((s.thrFault t 1 0).issued t)) ∧
      (Issues s (.minmax t x) t th [] → exec (.minmax t x) s = .next ((s.thrFault t 1 0).issued t))) ∧ (6 ≤ x.f.toNat → (Issues s (.cmp t x) t th [] →
        exec (.cmp t x) s = .next ((s.thrFault t 1 0).issued t))) ∧
    (3 ≤ x.f.toNat ∨ x.b ≠ 0 → (Issues s (.bits t x) t th [] → exec (.bits t x) s = .next ((s.thrFault t 1 0).issued t)))) ∧
  (∀ (s : State) (t : ThrId) (th : Thr) (x : ImmF), Issues s (.movk t x) t th [] → 4 ≤ x.a.toNat → exec (.movk t x) s = .next ((s.thrFault t 1 0).issued t))

/-- R177 to R179, 04 R135, 06 Tables TILE-5 and TILE-6: the scalar FP32 instructions. The upper half of a result is 0: the model's choice
(notes/assumptions/42.md). -/
def Obligations.ScalarFloats : Prop :=
  ∀ (s : State) (t : ThrId) (th : Thr) (x : RegF) (R : List Nat), R = [r5 x.a, r5 x.b, r5 x.d] →
    (x.f = 0 → (Issues s (.fadd t x) t th R →
      exec (.fadd t x) s = .next ((s.setThr t (th.wr x.d (up64 (fadd (lo32 (th.rd x.a)) (lo32 (th.rd x.b))))).next).issued t)) ∧
      (Issues s (.fmul t x) t th R → exec (.fmul t x) s = .next ((s.setThr t (th.wr x.d (up64 (fmul (lo32 (th.rd x.a)) (lo32 (th.rd x.b))))).next).issued t)) ∧
      (Issues s (.ffma t x) t th R → exec (.ffma t x) s = .next ((s.setThr t (th.wr x.d (up64 (ffma (lo32 (th.rd x.a)) (lo32 (th.rd x.b)) (lo32 (th.rd x.d))))).next).issued t)) ∧
      (Issues s (.fdiv t x) t th R → exec (.fdiv t x) s = .next ((s.setThr t (th.wr x.d (up64 (fdiv (lo32 (th.rd x.a)) (lo32 (th.rd x.b))))).next).issued t))) ∧
    (x.f = 1 → (Issues s (.fadd t x) t th R →
      exec (.fadd t x) s = .next ((s.setThr t (th.wr x.d (up64 (fsub (lo32 (th.rd x.a)) (lo32 (th.rd x.b))))).next).issued t))) ∧
    (x.f.toNat < 4 → (Issues s (.fcmp t x) t th R → exec (.fcmp t x) s = .next ((s.setThr t (th.wr x.d
      (if fcmpCond x.f.toNat (u32 (lo32 (th.rd x.a))) (u32 (lo32 (th.rd x.b))) then 1 else 0)).next).issued t))) ∧
    (x.f.toNat < 11 → x.b = 0 → (Issues s (.fcvt t x) t th R →
      exec (.fcvt t x) s = .next ((s.setThr t (th.wr x.d (convert x.f.toNat (th.rd x.a))).next).issued t))) ∧
    (2 ≤ x.f.toNat → (Issues s (.fadd t x) t th R → exec (.fadd t x) s = .next ((s.thrFault t 1 0).issued t))) ∧ (x.f ≠ 0 → (Issues s (.fmul t x) t th R →
      exec (.fmul t x) s = .next ((s.thrFault t 1 0).issued t)) ∧
      (Issues s (.ffma t x) t th R → exec (.ffma t x) s = .next ((s.thrFault t 1 0).issued t)) ∧ (Issues s (.fdiv t x) t th R →
        exec (.fdiv t x) s = .next ((s.thrFault t 1 0).issued t))) ∧
    (4 ≤ x.f.toNat → (Issues s (.fcmp t x) t th R → exec (.fcmp t x) s = .next ((s.thrFault t 1 0).issued t))) ∧ (11 ≤ x.f.toNat ∨ x.b ≠ 0 →
      (Issues s (.fcvt t x) t th R → exec (.fcvt t x) s = .next ((s.thrFault t 1 0).issued t)))

/-- R175 to R178, 06 Tables TILE-5 and TILE-6: the elementwise vector instructions, element by element. -/
def Obligations.VectorElements : Prop :=
  (∀ (s : State) (t : ThrId) (th : Thr) (x : VecF) (R : List Nat), R = vregs x → vty x ≠ 5 → x.g = 0 → x.f = 0 →
    (∃ v, (Issues s (.vadd t x) t th R → exec (.vadd t x) s = .next ((s.setThr t (th.wv x.vd v).next).issued t)) ∧ ∀ e, e < elCount (vty x) →
      vEl (elWidth (vty x)) v e =
      elOp (vty x) (· + ·) bfAdd fadd (vEl _ (th.rv x.va) e) (vEl _ (th.rv x.vb) e)) ∧
    (∃ v, (Issues s (.vsub t x) t th R → exec (.vsub t x) s = .next ((s.setThr t (th.wv x.vd v).next).issued t)) ∧ ∀ e, e < elCount (vty x) →
      vEl (elWidth (vty x)) v e =
      elOp (vty x) (· - ·) bfSub fsub (vEl _ (th.rv x.va) e) (vEl _ (th.rv x.vb) e)) ∧
    (∃ v, (Issues s (.vmul t x) t th R → exec (.vmul t x) s = .next ((s.setThr t (th.wv x.vd v).next).issued t)) ∧ ∀ e, e < elCount (vty x) →
      vEl (elWidth (vty x)) v e =
      elOp (vty x) (· * ·) bfMul fmul (vEl _ (th.rv x.va) e) (vEl _ (th.rv x.vb) e)) ∧
    (∃ v, (Issues s (.vfma t x) t th R → exec (.vfma t x) s = .next ((s.setThr t (th.wv x.vd v).next).issued t)) ∧ ∀ e, e < elCount (vty x) →
      vEl (elWidth (vty x)) v e =
      elFma (vty x) (vEl _ (th.rv x.va) e) (vEl _ (th.rv x.vb) e) (vEl _ (th.rv x.vd) e))) ∧
  (∀ (s : State) (t : ThrId) (th : Thr) (x : VecF), Issues s (.vminmax t x) t th (vregs x) → vty x ≠ 5 → x.g = 0 → x.f.toNat < 2 →
    ∃ v, exec (.vminmax t x) s = .next ((s.setThr t (th.wv x.vd v).next).issued t) ∧ ∀ e, e < elCount (vty x) → vEl (elWidth (vty x)) v e =
      elMinMax (vty x) (x.f.getLsbD 0) (vEl _ (th.rv x.va) e) (vEl _ (th.rv x.vb) e)) ∧
  (∀ (s : State) (t : ThrId) (th : Thr) (x : VecF), Issues s (.vshift t x) t th (vregs x) → vty x ≤ 4 → x.vb = 0 → x.f.toNat < 4 → (x.g = 0 ∨ r5 x.g ∉ th.awaited) →
    ∃ v, exec (.vshift t x) s = .next ((s.setThr t (th.wv x.vd v).next).issued t) ∧ ∀ e, e < elCount (vty x) → vEl (elWidth (vty x)) v e =
      shiftBy x.f.toNat (vEl _ (th.rv x.va) e) ((th.rd x.g).toNat % 64)) ∧
  (∀ (s : State) (t : ThrId) (th : Thr) (x : VecF), Issues s (.vcmp t x) t th (vregs x) → vcmpLegal x = true →
    ∃ v, exec (.vcmp t x) s = .next ((s.setThr t (th.wv x.vd v).next).issued t) ∧ ∀ e, e < elCount (vty x) → vEl (elWidth (vty x)) v e =
      elCmp (vty x) (x.f.toNat % 8) (bitAt x.f.toNat 3) (vEl _ (th.rv x.va) e) (vEl _ (th.rv x.vb) e)) ∧
  (∀ (s : State) (t : ThrId) (th : Thr) (x : VecF), Issues s (.vdot8 t x) t th (vregs x) → (x.t = 0 ∨ x.t = 3) → x.f = 0 → (x.g = 0 ∨ r5 x.g ∉ th.awaited) →
    ∃ v, exec (.vdot8 t x) s = .next ((s.setThr t (th.wv x.vd v).next).issued t) ∧ ∀ e, e < 16 → vEl 32 v e =
      dot8 (vEl 32 (th.rv x.va) e) (vEl 32 (th.rv x.vb) e) (vEl 32 (th.rv x.vd) e) ((th.rd x.g).toNat % 256) ((th.rd x.g).toNat / 256 % 256)) ∧
  (∀ (s : State) (t : ThrId) (th : Thr) (x : VecF), Issues s (.vfn t x) t th (vregs x) → (x.t = 0 ∨ x.t = 7) → x.f.toNat < 5 → x.vb = 0 → x.g = 0 →
    ∃ v, exec (.vfn t x) s = .next ((s.setThr t (th.wv x.vd v).next).issued t) ∧ ∀ e, e < 16 → vEl 32 v e =
      vfnF x.f.toNat (vEl 32 (th.rv x.va) e)) ∧
  (∀ (s : State) (t : ThrId) (th : Thr) (x : VecF), Issues s (.vbcast t x) t th [r5 x.g, vNum x.vd] → vty x ≠ 5 → x.va = 0 → x.vb = 0 → x.f = 0 →
    ∃ v, exec (.vbcast t x) s = .next ((s.setThr t (th.wv x.vd v).next).issued t) ∧ ∀ e, e < elCount (vty x) → vEl (elWidth (vty x)) v e = (th.rd x.g).setWidth _) ∧
  (∀ (s : State) (t : ThrId) (th : Thr) (x : VecF), vty x = 5 → (Issues s (.vadd t x) t th [] → exec (.vadd t x) s = .next ((s.thrFault t 1 0).issued t)) ∧
    (Issues s (.vsub t x) t th [] → exec (.vsub t x) s = .next ((s.thrFault t 1 0).issued t)) ∧ (Issues s (.vmul t x) t th [] →
      exec (.vmul t x) s = .next ((s.thrFault t 1 0).issued t)) ∧ (Issues s (.vfma t x) t th [] → exec (.vfma t x) s = .next ((s.thrFault t 1 0).issued t)) ∧
    (Issues s (.vminmax t x) t th [] → exec (.vminmax t x) s = .next ((s.thrFault t 1 0).issued t)))

/-- R175, R178, R180, 06 Tables TILE-5 and TILE-6: whole-register logic, reductions, element moves, conversions and VQ8 with its count. -/
def Obligations.VectorWhole : Prop :=
  (∀ (s : State) (t : ThrId) (th : Thr) (x : VecF), Issues s (.vlogic t x) t th (vregs x) → x.g = 0 → x.t = 0 →
    (x.f = 0 → exec (.vlogic t x) s = .next ((s.setThr t (th.wv x.vd (th.rv x.va &&& th.rv x.vb)).next).issued t)) ∧
    (x.f = 1 → exec (.vlogic t x) s = .next ((s.setThr t (th.wv x.vd (th.rv x.va ||| th.rv x.vb)).next).issued t)) ∧
    (x.f = 2 → exec (.vlogic t x) s = .next ((s.setThr t (th.wv x.vd (th.rv x.va ^^^ th.rv x.vb)).next).issued t)) ∧
    (x.f = 3 → x.vb = 0 → exec (.vlogic t x) s = .next ((s.setThr t (th.wv x.vd (~~~(th.rv x.va))).next).issued t)) ∧
    (x.f = 4 → exec (.vlogic t x) s = .next ((s.setThr t (th.wv x.vd
      ((th.rv x.va &&& th.rv x.vd) ||| (th.rv x.vb &&& ~~~(th.rv x.vd)))).next).issued t)) ∧
    (5 ≤ x.f.toNat → exec (.vlogic t x) s = .next ((s.thrFault t 1 0).issued t))) ∧
  (∀ (s : State) (t : ThrId) (th : Thr) (x : VecF), Issues s (.vred t x) t th [vNum x.va, r5 x.g] → vredLegal x = true →
    exec (.vred t x) s = .next ((s.setThr t (th.wr x.g (vReduce x.f.toNat (vty x) (th.rv x.va))).next).issued t)) ∧
  (∀ (s : State) (t : ThrId) (th : Thr) (x : VecF), Issues s (.vget t x) t th [vNum x.va, r5 x.g] → x.vb = 0 → x.vd = 0 → x.f.toNat < elCount (vty x) →
    exec (.vget t x) s = .next ((s.setThr t (th.wr x.g (if vty x = 0 ∨ vty x = 2 ∨ vty x = 3
      then (vEl (elWidth (vty x)) (th.rv x.va) x.f.toNat).signExtend 64 else (vEl (elWidth (vty x)) (th.rv x.va) x.f.toNat).setWidth 64)).next).issued t)) ∧
  (∀ (s : State) (t : ThrId) (th : Thr) (x : VecF), Issues s (.vput t x) t th [r5 x.g, vNum x.vd] → x.va = 0 → x.vb = 0 → x.f.toNat < elCount (vty x) →
    ∃ v, exec (.vput t x) s = .next ((s.setThr t (th.wv x.vd v).next).issued t) ∧ vEl (elWidth (vty x)) v x.f.toNat = (th.rd x.g).setWidth _ ∧
      ∀ e, e < elCount (vty x) → e ≠ x.f.toNat → vEl (elWidth (vty x)) v e = vEl _ (th.rv x.vd) e) ∧
  (∀ (s : State) (t : ThrId) (th : Thr) (x : VecF), Issues s (.vcvt t x) t th (vregs x) → x.f.toNat < 11 → x.vb = 0 → x.g = 0 →
    ∃ v, exec (.vcvt t x) s = .next ((s.setThr t (th.wv x.vd v).next).issued t) ∧ (∀ e, e < (cvtShape x.f.toNat).2.2 → vEl (cvtShape x.f.toNat).2.1 v e =
      (convert x.f.toNat ((vEl (cvtShape x.f.toNat).1 (th.rv x.va) e).setWidth 64)).setWidth _) ∧
      ∀ i, (cvtShape x.f.toNat).2.1 * (cvtShape x.f.toNat).2.2 ≤ i → v.getLsbD i = false) ∧
  (∀ (s : State) (t : ThrId) (th : Thr) (x : VecF), Issues s (.vq8 t x) t th [r5 x.g, vNum x.va, vNum x.vd] → (x.t = 0 ∨ x.t = 7) → x.f.toNat < 4 → x.vb = 0 →
    (th.rd x.g).toNat < 2 ^ 56 → ∃ v g, exec (.vq8 t x) s = .next ((s.setThr t ((th.wv x.vd v).wr x.g g).next).issued t) ∧
      (∀ e, e < 16 → vEl 8 v (16 * x.f.toNat + e) = BitVec.ofNat 8 (quantise1 (vEl 32 (th.rv x.va) e) (lo32 (th.rd x.g)) ((th.rd x.g).toNat / 2 ^ 32 % 256)).1) ∧
      (∀ e, e < 64 → e / 16 ≠ x.f.toNat → vEl 8 v e = vEl 8 (th.rv x.vd) e) ∧ g.toNat % 2 ^ 40 = (th.rd x.g).toNat % 2 ^ 40 ∧
      g.toNat / 2 ^ 40 = min 65535 ((th.rd x.g).toNat / 2 ^ 40 + (List.range 16).countP fun e =>
        (quantise1 (vEl 32 (th.rv x.va) e) (lo32 (th.rd x.g)) ((th.rd x.g).toNat / 2 ^ 32 % 256)).2)) ∧
  (∀ (s : State) (t : ThrId) (th : Thr) (x : VecF), Issues s (.vq8 t x) t th [r5 x.g, vNum x.va, vNum x.vd] → (x.t = 0 ∨ x.t = 7) → x.f.toNat < 4 → x.vb = 0 →
    2 ^ 56 ≤ (th.rd x.g).toNat → exec (.vq8 t x) s = .next ((s.thrFault t 1 0).issued t))


/-- R22, R172, R176, R181, R184, R193, 06 Table TILE-10: a load, store, atomic or CAS that passes its tests becomes outstanding with its address, size,
ordering and register, its request going to another tile over the streets; a misaligned one, one whose page refuses it, one that its location does not perform
faults; past the limits the thread is BLOCKED. -/
def Obligations.MemoryIssue : Prop :=
  (∀ (s : State) (t : Nat) (x : Thr) (a : Acc) (full : Prop),
    (full ↔ (a.op.isStore = true ∧ 16 ≤ x.outs.countP (fun b => b.op.isStore)) ∨ (a.op.isStore = false ∧ 8 ≤ x.outs.countP (fun b => !b.op.isStore))) →
    (full → s.pushAcc t x a = s.block t (.limit a.op.isStore)) ∧
    (¬ full → s.accHome a.pa = t / 2048 → s.pushAcc t x a = s.setThr t { x with pc := x.pc + 4, outs := x.outs ++ [a] }) ∧
    (¬ full → s.accHome a.pa ≠ t / 2048 → s.pushAcc t x a =
      (s.sendMsg (t / 2048) (s.accHome a.pa) 1).setThr t { x with pc := x.pc + 4, outs := x.outs ++ [{ a with msg := some s.str.nextId }] })) ∧
  (∀ (s : State) (t : ThrId) (th : Thr) (x : MemF) (va : W64) (size pa : Nat) (e : W64), x.sz ≠ 7 →
    size = (if x.sz.toNat % 4 = 3 then 8 else 2 ^ (x.sz.toNat % 4)) → va = th.rd x.a + x.off.signExtend 64 * BitVec.ofNat 64 size → va.toNat % size = 0 →
    (Issues s (.ld t x) t th [r5 x.a, r5 x.t] → x.o.toNat < 2 → s.translate th (thrTile t) false .read va.toNat = .ok (pa, e) → exec (.ld t x) s =
      .next ((s.pushAcc t th ⟨th.pc, va, pa, size, peUncached e && !isWeld pa, ⟨x.o == 1, false⟩, .load (r5 x.t) (4 ≤ x.sz.toNat), none, []⟩).issued t)) ∧
    (Issues s (.st t x) t th [r5 x.a, r5 x.t] → (x.o = 0 ∨ x.o = 2) → s.translate th (thrTile t) false .write va.toNat = .ok (pa, e) →
      exec (.st t x) s = .next ((s.pushAcc t th ⟨th.pc, va, pa, size, peUncached e && !isWeld pa, ⟨false, x.o == 2⟩,
        .store (toBytes size (th.rd x.t).toNat), none, []⟩).issued t)) ∧
    (∀ c, Issues s (.ld t x) t th [r5 x.a, r5 x.t] → x.o.toNat < 2 → s.translate th (thrTile t) false .read va.toNat = .error c →
      exec (.ld t x) s = .next ((s.thrFault t c va.toNat).issued t)) ∧
    (∀ c, Issues s (.st t x) t th [r5 x.a, r5 x.t] → (x.o = 0 ∨ x.o = 2) → s.translate th (thrTile t) false .write va.toNat = .error c →
      exec (.st t x) s = .next ((s.thrFault t c va.toNat).issued t))) ∧
  (∀ (s : State) (t : ThrId) (th : Thr) (x : MemF), x.sz ≠ 7 → (memVa th x (szBytes x.sz)).toNat % szBytes x.sz ≠ 0 →
    (Issues s (.ld t x) t th [r5 x.a, r5 x.t] → x.o.toNat < 2 → exec (.ld t x) s = .next ((s.thrFault t 2 (memVa th x (szBytes x.sz)).toNat).issued t)) ∧
    (Issues s (.st t x) t th [r5 x.a, r5 x.t] → (x.o = 0 ∨ x.o = 2) →
      exec (.st t x) s = .next ((s.thrFault t 2 (memVa th x (szBytes x.sz)).toNat).issued t))) ∧
  (∀ (s : State) (t : ThrId) (th : Thr) (x : MemF) (va : W64) (pa : Nat) (e : W64), x.sz = 0 → x.t.toNat < 16 →
    va = th.rd x.a + x.off.signExtend 64 * 64 → va.toNat % 64 = 0 →
    (Issues s (.vld t x) t th [r5 x.a, vNum (x.t.setWidth 4)] → x.o.toNat < 2 → s.translate th (thrTile t) false .read va.toNat = .ok (pa, e) →
      exec (.vld t x) s = .next ((s.pushAcc t th ⟨th.pc, va, pa, 64, peUncached e && !isWeld pa, ⟨x.o == 1, false⟩,
        .load (32 + x.t.toNat) false, none, []⟩).issued t)) ∧
    (Issues s (.vst t x) t th [r5 x.a, vNum (x.t.setWidth 4)] → (x.o = 0 ∨ x.o = 2) → s.translate th (thrTile t) false .write va.toNat = .ok (pa, e) →
      exec (.vst t x) s = .next ((s.pushAcc t th ⟨th.pc, va, pa, 64, peUncached e && !isWeld pa, ⟨false, x.o == 2⟩,
        .store (toBytes 64 (th.rv (x.t.setWidth 4)).toNat), none, []⟩).issued t))) ∧
  (∀ (s : State) (t : ThrId) (th : Thr) (x : RegF) (size pa : Nat) (e : W64), Issues s (.atom t x) t th [r5 x.a, r5 x.d] → atomLegal x = true →
    size = 2 ^ (atSz x.f + 1) → (th.rd x.a).toNat % size = 0 → s.translate th (thrTile t) false .write (th.rd x.a).toNat = .ok (pa, e) →
    (((peUncached e && !isWeld pa) = false ∨ atOp x.f ≤ 1) → exec (.atom t x) s = .next ((s.pushAcc t th
      ⟨th.pc, th.rd x.a, pa, size, peUncached e && !isWeld pa, ⟨x.f.getLsbD 6, x.f.getLsbD 7⟩,
        .atom (atOp x.f) (th.rd x.d) (if x.f.getLsbD 8 then none else some (r5 x.d)), none, []⟩).issued t)) ∧
    ((peUncached e && !isWeld pa) = true → 2 ≤ atOp x.f → exec (.atom t x) s = .next ((s.thrFault t 8 (th.rd x.a).toNat).issued t))) ∧
  (∀ (s : State) (t : ThrId) (th : Thr) (x : RegF) (size pa : Nat) (e : W64), Issues s (.cas t x) t th [r5 x.a, r5 x.b, r5 x.d] → atOp x.f = 0 →
    (atSz x.f = 1 ∨ atSz x.f = 2) → x.f.toNat < 256 → size = 2 ^ (atSz x.f + 1) → (th.rd x.a).toNat % size = 0 →
    s.translate th (thrTile t) false .write (th.rd x.a).toNat = .ok (pa, e) →
    ((peUncached e && !isWeld pa) = false → exec (.cas t x) s = .next ((s.pushAcc t th
      ⟨th.pc, th.rd x.a, pa, size, false, ⟨x.f.getLsbD 6, x.f.getLsbD 7⟩, .cas (th.rd x.b) (th.rd x.d) (some (r5 x.d)), none, []⟩).issued t)) ∧
    ((peUncached e && !isWeld pa) = true → exec (.cas t x) s = .next ((s.thrFault t 8 (th.rd x.a).toNat).issued t)))

/-- R171, R186, R187, R193, R195 to R197: a response performs an access where the order allows it, or one 8-byte part of a 64-byte access: a store to Weld changes
its bytes and no other, a load writes its register, a poisoned one faults the thread. -/
def Obligations.MemoryResponses : Prop :=
  (∀ (s : State) (t : ThrId) (k : Nat) (ans : MemAns) (a : Acc) (p : Performed), (s.thrAt t).outs[k]? = some a → (s.thrAt t).mayPerform k = true →
    s.accReady a = true → (a.size = 64 → ans.part = none) → a.parts = [] → (s.arrive a).perform a ans.errs = p →
    (p.poison = false → exec (.memoryResponse t k ans) s =
      .next ((p.s.respond t a).setThr t (({ s.thrAt t with outs := dropAt (s.thrAt t).outs k }.receive a p.data).settle t))) ∧
    (p.poison = true → (s.thrAt t).st ≠ .free → (s.thrAt t).st ≠ .faulted → ∃ u,
      exec (.memoryResponse t k ans) s = .next u ∧ (u.thrAt t).st = .faulted ∧ (u.thrAt t).fault = 7 ∧ (u.thrAt t).pc = a.pc ∧
      (u.thrAt t).g = (s.thrAt t).g ∧ (u.thrAt t).v = (s.thrAt t).v)) ∧
  (∀ (s : State) (t : ThrId) (k : Nat) (ans : MemAns) (a : Acc) (i : Fin 8) (p : Performed), (s.thrAt t).outs[k]? = some a →
    (s.thrAt t).mayPerform k = true → s.accReady a = true → a.size = 64 → ans.part = some i →
    (a.parts.lookup i.val = none → (s.arrive a).perform (a.piece i) ans.errs = p → p.poison = false →
      (a.parts.length ≠ 7 → exec (.memoryResponse t k ans) s =
        .next (p.s.setThr t { s.thrAt t with outs := (s.thrAt t).outs.set k { a with parts := (i.val, p.data) :: a.parts } })) ∧
      (a.parts.length = 7 → exec (.memoryResponse t k ans) s = .next ((p.s.respond t a).setThr t
        (({ s.thrAt t with outs := dropAt (s.thrAt t).outs k }.receive a ({ a with parts := (i.val, p.data) :: a.parts } : Acc).gathered).settle t)))) ∧
    (∀ b, a.parts.lookup i.val = some b → exec (.memoryResponse t k ans) s = .next s)) ∧
  (∀ (s : State) (t : ThrId) (k : Nat) (ans : MemAns), (s.thrAt t).mayPerform k = false → exec (.memoryResponse t k ans) s = .next s) ∧
  (∀ (s : State) (t : ThrId) (k : Nat) (ans : MemAns) (a : Acc), (s.thrAt t).outs[k]? = some a → a.uncached = true → (∀ r e, a.op ≠ .load r e) →
    isWeld a.pa = false → 0 < a.size → s.jobRow a.pa = true → exec (.memoryResponse t k ans) s = .next s) ∧
  (∀ (x : Thr) (k : Nat) (a b : Acc) (j : Nat), x.outs[k]? = some a → x.outs[j]? = some b → j < k →
    (a.order.rel = true ∨ b.order.acq = true ∨ (a.pa < b.pa + b.size ∧ b.pa < a.pa + a.size)) → x.mayPerform k = false) ∧
  (∀ (s : State) (t : ThrId) (k : Nat) (ans : MemAns) (a : Acc) (b : List Byte), (s.thrAt t).outs[k]? = some a → (s.thrAt t).mayPerform k = true →
    a.op = .store b → isWeld a.pa = true → (a.size = 64 → ans.part = none) → a.parts = [] → ∃ u, exec (.memoryResponse t k ans) s = .next u ∧
      (u.tileAt (weldTile a.pa)).weldRead (weldOff a.pa) b.length = b ∧
      (∀ o, (o < weldOff a.pa ∨ weldOff a.pa + b.length ≤ o) → (u.tileAt (weldTile a.pa)).weldRead o 1 = (s.tileAt (weldTile a.pa)).weldRead o 1) ∧
      (∀ i, i ≠ weldTile a.pa → u.tileAt i = s.tileAt i) ∧ (u.thrAt t).g = (s.thrAt t).g ∧
      u = { s with th := u.th, tile := u.tile, arr := u.arr, str := u.str }) ∧
  (∀ (s : State) (t : ThrId) (k : Nat) (ans : MemAns) (a : Acc) (r : BitVec 5) (sg : Bool), (s.thrAt t).outs[k]? = some a →
    (s.thrAt t).mayPerform k = true → a.op = .load r.toNat sg → isWeld a.pa = true → r ≠ 0 → (a.size = 64 → ans.part = none) → a.parts = [] →
    (s.tileAt (weldTile a.pa)).weldPoison (weldOff a.pa) a.size = false → ∃ u, exec (.memoryResponse t k ans) s = .next u ∧
      (u.thrAt t).rd r = loadExt a.size sg ((s.tileAt (weldTile a.pa)).weldRead (weldOff a.pa) a.size) ∧
      (∀ q, q ≠ r → (u.thrAt t).rd q = (s.thrAt t).rd q) ∧
      u.tileAt (weldTile a.pa) = { s.tileAt (weldTile a.pa) with weldCe := (s.tileAt (weldTile a.pa)).weldCe + ans.errs.length } ∧
      (∀ i, i ≠ weldTile a.pa → u.tileAt i = s.tileAt i) ∧ u = { s with th := u.th, tile := u.tile, arr := u.arr, str := u.str }) ∧
  (∀ size old v : Nat, (size = 4 ∨ size = 8) → old < 2 ^ (8 * size) → v < 2 ^ (8 * size) → atomNew 0 size old v = (old + v) % 2 ^ (8 * size) ∧
    atomNew 4 size old v = min old v ∧ atomNew 5 size old v = max old v ∧ atomNew 6 size old v = old &&& v ∧ atomNew 7 size old v = old ||| v ∧
    atomNew 8 size old v = old ^^^ v ∧ atomNew 9 size old v = v)

/-- R191, R198 to R200: copies and flushes are queued and completed, with their counter's signal; a fence passes when its scope is empty. Copies between
overlapping ranges leave free values: the model's choice (notes/assumptions/44.md). -/
def Obligations.CopiesAndFences : Prop :=
  (∀ (s : State) (t : ThrId) (th : Thr) (x : RegF) (sp dp : List (Nat × Nat)), Issues s (.acopy t x) t th [r5 x.a, r5 x.b, r5 x.d, r5 x.d + 1] →
    x.f.toNat < 2 → x.d ≠ 31 → (th.rd x.d).toNat % 64 = 0 → (th.rd x.d).toNat ≤ 1048576 → (x.f = 1 → (th.rd x.d).toNat ≤ 4096) →
    (th.rd (x.d + 1)).toNat < 2 ^ 18 → (th.rd x.a).toNat % 64 = 0 → (th.rd x.b).toNat % 64 = 0 →
    s.rangeOf th (thrTile t) true .read (th.rd x.a).toNat (th.rd x.d).toNat = .ok sp →
    s.rangeOf th (thrTile t) true .write (th.rd x.b).toNat (th.rd x.d).toNat = .ok dp →
    (s.th.copies.countP (fun k => k.thr / 64 = t.val / 64) < 16 → ∃ k, exec (.acopy t x) s =
      .next ((({ s with th := { s.th with copies := s.th.copies ++ [k] } } : State).setThr t th.next).issued t) ∧ k.thr = t.val ∧
      k.ctr = (th.rd (x.d + 1)).toNat ∧ k.src = sp ∧ k.dst = dp ∧ k.cls = (if x.f = 1 then 0 else 3)) ∧
    (16 ≤ s.th.copies.countP (fun k => k.thr / 64 = t.val / 64) → exec (.acopy t x) s = .next ((s.block t .copies).issued t))) ∧
  (∀ (s : State) (t : ThrId) (th : Thr) (x : RegF), Issues s (.acopy t x) t th [r5 x.a, r5 x.b, r5 x.d, r5 x.d + 1] → x.f.toNat < 2 → x.d ≠ 31 →
    ((th.rd x.d).toNat % 64 ≠ 0 ∨ 1048576 < (th.rd x.d).toNat ∨ (x.f = 1 ∧ 4096 < (th.rd x.d).toNat) ∨ 2 ^ 18 ≤ (th.rd (x.d + 1)).toNat) →
    exec (.acopy t x) s = .next ((s.thrFault t 1 0).issued t)) ∧
  (∀ (s : State) (k : Nat) (errs : List ScrubErr) (c : Acopy) (ps : List Piece) (u : State), s.th.copies[k]? = some c → s.copyReady c = true →
    c.overlap = false → s.readChunks .thread c.src errs = (ps, u) → ∃ v, exec (.acopyComplete k errs) s = .next v ∧
    v.th.copies = dropAt (u.writeChunks c.dst ps).th.copies k ∧
    v.sy.ops = (u.writeChunks c.dst ps).sy.ops ++ [⟨.sig ⟨ctrId c.ctr, 1, .acopy (thrId c.thr)⟩, s.time⟩] ∧
    v = { u.writeChunks c.dst ps with th := v.th, sy := v.sy }) ∧
  (∀ (s : State) (k : Nat) (errs : List ScrubErr) (c : Acopy), s.th.copies[k]? = some c → s.copyReady c = false → exec (.acopyComplete k errs) s = .next s) ∧
  (∀ (s : State) (t : ThrId) (th : Thr) (x : RegF) (r : List (Nat × Nat)), Issues s (.cflush t x) t th [r5 x.a, r5 x.b] → x.f.toNat < 2 → x.d = 0 →
    s.rangeOf th (thrTile t) false .read (th.rd x.a).toNat (th.rd x.b).toNat = .ok r → exec (.cflush t x) s =
      .next ((({ s with th := { s.th with flushes := s.th.flushes ++ [⟨t, r, x.f == 1⟩] } } : State).setThr t th.next).issued t)) ∧
  (∀ (s : State) (k : Nat) (c : Cflush), s.th.flushes[k]? = some c → s.flushReady c = true → ∃ u, exec (.cflushComplete k) s = .next u ∧
    u.th.flushes = dropAt s.th.flushes k ∧
    (c.keep = false → ∀ r ∈ c.ranges, isWeld r.1 = false → ∀ w ∈ wordsOf 64 r.1 r.2, u.plazaGet (64 * w) = none) ∧
    (∀ cw, (∀ r ∈ c.ranges, isWeld r.1 = false → ∀ w ∈ wordsOf 64 r.1 r.2, cw ≠ (s.place (64 * w)).cw ∧ cw ≠ (s.place (64 * w + 32)).cw) →
      u.dr.readPos (32 * cw) 32 = s.dr.readPos (32 * cw) 32 ∧ (cw ∈ u.dr.mark ↔ cw ∈ s.dr.mark)) ∧
    u = { s with th := u.th, tile := u.tile, dr := u.dr, fl := u.fl }) ∧
  (∀ (s : State) (k : Nat) (c : Cflush), s.th.flushes[k]? = some c → s.flushReady c = false → exec (.cflushComplete k) s = .next s) ∧
  (∀ (s : State) (t : ThrId) (th : Thr) (x : SysF), x = ⟨0, 0, 0⟩ → Issues s (.fenceSq t x) t th [] →
    (th.outs.any (fun a => a.inSquare t) = false → exec (.fenceSq t x) s = .next ((s.setThr t th.next).issued t)) ∧
    (th.outs.any (fun a => a.inSquare t) = true → exec (.fenceSq t x) s = .next ((s.block t .fenceSq).issued t))) ∧
  (∀ (s : State) (t : ThrId) (th : Thr) (x : SysF), x = ⟨0, 0, 1⟩ → Issues s (.fenceDev t x) t th [] →
    (th.outs = [] → exec (.fenceDev t x) s = .next ((s.setThr t th.next).issued t)) ∧
    (th.outs ≠ [] → exec (.fenceDev t x) s = .next ((s.block t .fenceDev).issued t)))

/-- R174, R177, R201 to R206, 07 R213 to R220, 06 Tables TILE-5, TILE-12 and TILE-13: jumps, SREAD, EXIT, SIGNAL, WATCH, WAIT and the issue of array, bank and
DMA work. -/
def Obligations.ThreadControl : Prop :=
  (∀ (s : State) (t : ThrId) (th : Thr) (x : BrF),
    (Issues s (.br t x) t th [r5 x.a] → exec (.br t x) s =
      .next ((s.setThr t { th with pc := (if (th.rd x.a ≠ 0) = (x.c = true) then th.pc + 4 * x.off.signExtend 64 else th.pc + 4) }).issued t)) ∧
    (Issues s (.jal t x) t th [r5 x.a] →
      (x.c = false → exec (.jal t x) s = .next ((s.setThr t { th.wr x.a (th.pc + 4) with pc := th.pc + 4 * x.off.signExtend 64 }).issued t)) ∧
      (x.c = true → exec (.jal t x) s = .next ((s.thrFault t 1 0).issued t)))) ∧
  (∀ (s : State) (t : ThrId) (th : Thr) (x : RegF), Issues s (.jr t x) t th [r5 x.a, r5 x.d] → x.f = 0 → x.b = 0 →
    exec (.jr t x) s = .next ((s.setThr t { th.wr x.d (th.pc + 4) with pc := th.rd x.a }).issued t)) ∧
  (∀ (s : State) (t : ThrId) (th : Thr) (x : SysF), x = ⟨0, 0, 0⟩ → Issues s (.exit t x) t th [] → exec (.exit t x) s = .next ((s.block t .exit).issued t)) ∧
  (∀ (s : State) (t : ThrId) (th : Thr) (x : SysF), Issues s (.sread t x) t th [r5 x.a] → x.b = 0 →
    (x.imm = 0 → exec (.sread t x) s = .next ((s.setThr t (th.wr x.a s.time).next).issued t)) ∧
    (x.imm = 1 → exec (.sread t x) s = .next ((s.setThr t (th.wr x.a (n64 (t.val / 2048 * 4096 + t.val % 2048))).next).issued t)) ∧
    (x.imm = 2 → exec (.sread t x) s = .next ((s.setThr t (th.wr x.a (n64 (th.domain.toNat + (if th.service then 32768 else 0)))).next).issued t)) ∧
    (3 ≤ x.imm.toNat → exec (.sread t x) s = .next ((s.thrFault t 1 0).issued t))) ∧
  (∀ (s : State) (t : ThrId) (th : Thr) (x : SysF), Issues s (.signal t x) t th [r5 x.a, r5 x.b] → x.imm.toNat < 3 →
    (2 ^ 18 ≤ (th.rd x.a).toNat → exec (.signal t x) s = .next ((s.thrFault t 1 0).issued t)) ∧
    ((th.rd x.a).toNat < 2 ^ 18 → th.pendingScope t x.imm.toNat = false → exec (.signal t x) s = .next ((({ s with sy := { s.sy with
        ops := s.sy.ops ++ [⟨.sig ⟨ctrId (th.rd x.a).toNat, (th.rd x.b).setWidth 32, .thread t th.pc th.life⟩, s.time⟩] } } : State).setThr t th.next).issued t)) ∧
    ((th.rd x.a).toNat < 2 ^ 18 → th.pendingScope t x.imm.toNat = true → exec (.signal t x) s =
      .next ((s.block t (if x.imm = 1 then .fenceSq else .fenceDev)).issued t))) ∧
  (∀ (s : State) (t : ThrId) (th : Thr) (x : SysF) (n : Nat) (cons : Bool) (tg : WatchTarget), Issues s (.watch t x) t th [r5 x.a, r5 x.b] →
    (th.rd x.a).toNat < 2 ^ 18 → (th.rd x.b).setWidth 32 ≠ (0 : W32) → n < 32 →
    ((x.imm = (if cons then 1 else 0) ∧ tg = .thread t) ∨ (x.imm = BitVec.ofNat 16 (2 + 8 * n + (if cons then 1 else 0)) ∧
      tg = .chan (chanId (32 * (t.val / 2048) + n)))) →
    (s.watchesOf t < 4 → exec (.watch t x) s = .next ((({ s with sy := { s.sy with
        ops := s.sy.ops ++ [⟨.reg ⟨ctrId (th.rd x.a).toNat, (th.rd x.b).setWidth 32, cons, tg, .thread t th.life⟩, s.time⟩] } } : State).setThr t
      { th with pc := th.pc + 4, st := .blocked, blk := .watch (th.rd x.a).toNat }).issued t)) ∧
    (4 ≤ s.watchesOf t → exec (.watch t x) s = .next ((s.block t .watches).issued t))) ∧
  (∀ (s : State) (t : ThrId) (th : Thr) (x : SysF), Issues s (.wait t x) t th [r5 x.a] → x.b = 0 → x.imm = 0 →
    (∀ c r, th.fired = c :: r → exec (.wait t x) s = .next ((s.setThr t { (th.wr x.a (n64 c)) with fired := r, pc := th.pc + 4 }).issued t)) ∧
    (th.fired = [] → s.hasWatch t = true → exec (.wait t x) s = .next ((s.setThr t { th with st := .waiting }).issued t)) ∧
    (th.fired = [] → s.hasWatch t = false → exec (.wait t x) s = .next ((s.thrFault t 1 0).issued t))) ∧
  (∀ (s s1 : State) (t : ThrId) (th : Thr) (x : SysF) (d : List Byte) (a : Nat), Issues s (.arrayIssue t x) t th [r5 x.a] → x.b = 0 → x.imm.toNat < 2 →
    s.weldDesc t th (th.rd x.a).toNat 64 = .ok d → s.arrFault t th d = none → s.arrFor (2 * (t.val / 2048) + x.imm.toNat) = a →
    s.descTouch t th (th.rd x.a).toNat 64 = s1 →
    ((s.arrAt a).jobs.length < 8 → exec (.arrayIssue t x) s = .next (((s1.setArr a { s1.arrAt a with jobs := (s1.arrAt a).jobs ++
      [jobOf (s.tileAt (t.val / 2048)) d th.domain th.service th.group] }).setThr t th.next).issued t)) ∧
    (8 ≤ (s.arrAt a).jobs.length → exec (.arrayIssue t x) s = .next ((s1.block t (.array a)).issued t))) ∧
  (∀ (s : State) (a : Nat), ((s.arrAt a).oos = false → s.arrFor a = a) ∧ ((s.arrAt a).oos = true → s.arrFor a / 2 = a / 2 ∧ s.arrFor a ≠ a)) ∧
  (∀ (s s1 : State) (t : ThrId) (th : Thr) (x : SysF) (d : List Byte), Issues s (.bankIssue t x) t th [r5 x.a] → x.b = 0 → x.imm = 0 →
    s.th.flushes.any (fun f => f.thr = t.val) = false →
    s.weldDesc t th (th.rd x.a).toNat 256 = .ok d → s.bankFault t th d = none → s.descTouch t th (th.rd x.a).toNat 256 = s1 →
    (s1.bankPlace d = none → exec (.bankIssue t x) s = .next (((s1.finishBank 0 (s1.bankJob t th d 0 0 0) 2 7 false).setThr t th.next).issued t)) ∧
    (∀ u rd wr, s1.bankPlace d = some (u, rd, wr) → s1.class2Len (u / 2) < 64 → s1.bankRefusal th d u (s1.bankJob t th d u rd wr) = none →
      exec (.bankIssue t x) s = .next (((s1.pushJob u (s1.bankJob t th d u rd wr)).setThr t th.next).issued t)) ∧
    (∀ u rd wr c, s1.bankPlace d = some (u, rd, wr) → s1.class2Len (u / 2) < 64 → s1.bankRefusal th d u (s1.bankJob t th d u rd wr) = some c →
      exec (.bankIssue t x) s = .next (((s1.finishBank u (s1.bankJob t th d u rd wr) 2 c false).setThr t th.next).issued t)) ∧
    (∀ u rd wr, s1.bankPlace d = some (u, rd, wr) → 64 ≤ s1.class2Len (u / 2) → exec (.bankIssue t x) s = .next ((s1.block t (.bank (u / 2))).issued t))) ∧
  (∀ (s : State) (u : Nat) (j : BankJob), ((s.pushJob u j).unitAt u).jobs = (s.unitAt u).jobs ++ [{ j with id := (s.sub (u / 2)).nextId }] ∧
    (s.pushJob u j).unitAt u = { s.unitAt u with jobs := ((s.pushJob u j).unitAt u).jobs, asked := ((s.pushJob u j).unitAt u).asked } ∧
    (∀ k, k ≠ u → (s.pushJob u j).unitAt k = s.unitAt k) ∧ (s.pushJob u j).sub (u / 2) = { s.sub (u / 2) with nextId := (s.sub (u / 2)).nextId + 1 }) ∧
  (∀ (s : State) (t : ThrId) (th : Thr) (x : SysF) (d : List Byte) (c : Nat), Issues s (.dmaKick t x) t th [r5 x.a] → x.b = 0 → x.imm.toNat < 32 →
    c = 32 * (t.val / 2048) + x.imm.toNat → s.weldDesc t th (th.rd x.a).toNat 64 = .ok d →
    ((s.chanAt c).state ≠ 0 → (s.chanAt c).state ≠ 3 → exec (.dmaKick t x) s = .next ((s.block t (.chan c)).issued t)) ∧
    (((s.chanAt c).state = 0 ∨ (s.chanAt c).state = 3) → ∃ u, exec (.dmaKick t x) s = .next u ∧ u.thrAt t = th.next ∧
      (u.chanAt c).service = th.service ∧ (u.chanAt c).domain = th.domain ∧ (u.chanAt c).keys = th.keys ∧ (u.chanAt c).group = th.group ∧
      (u.chanAt c).cur = (if (u.chanAt c).state = 3 then (s.chanAt c).cur else weldOff (pePhys (s.pageEntry ((th.rd x.a).toNat / 65536)) (th.rd x.a).toNat)) ∧
      u = { s with th := u.th, sy := u.sy, arr := u.arr, dm := u.dm }))

/-- R169, R170, R174, 07 R214, R220, R222: launch, release, wakes in firing order, messages to Weld, error reports and the end of EXIT; what is meant for a program
that is gone is discarded. Which step-group a launched thread works for is its launch record's: the model's choice (notes/assumptions/129.md). -/
def Obligations.ThreadEvents : Prop :=
  (∀ (s : State) (t : ThrId) (r : LaunchRec), (s.thrAt t).st = .free → ((s.tileAt (t.val / 2048)).state = 2 ∨ (s.tileAt (t.val / 2048)).state = 3) →
    (r.service = true → r.domain = 0 ∧ r.kernel ∈ s.sv.kernels) → ∃ u, exec (.threadLaunch t r) s = .next u ∧ (u.thrAt t).st = .ready ∧ (u.thrAt t).pc = r.entry ∧
    (u.thrAt t).domain = r.domain ∧ (u.thrAt t).service = r.service ∧ (u.thrAt t).keys = r.keys.take 4 ∧ (u.thrAt t).exitCtr = r.exitCtr.val ∧
    (u.thrAt t).kernel = r.kernel ∧ (u.thrAt t).group = r.group.map (·.val) ∧ (u.thrAt t).life = (s.thrAt t).life ∧ (u.thrAt t).fired = [] ∧
    (∀ i, i < 8 → (u.thrAt t).rd (BitVec.ofNat 5 (i + 1)) = r.g.getD i 0) ∧ (∀ q : BitVec 5, 8 < q.toNat → (u.thrAt t).rd q = 0) ∧
    (∀ j, j ≠ t.val → u.thrAt j = s.thrAt j) ∧ u = { s with th := { s.th with thr := u.th.thr } }) ∧
  (∀ (s : State) (t : ThrId) (r : LaunchRec), ((s.thrAt t).st ≠ .free ∨ (r.service = true ∧ (r.domain ≠ 0 ∨ r.kernel ∉ s.sv.kernels))) →
    exec (.threadLaunch t r) s = .next s) ∧
  (∀ (s : State) (t : ThrId), (s.thrAt t).st = .faulted → ∃ u, exec (.threadRelease t) s = .next u ∧ (u.thrAt t).st = .free ∧
    (u.thrAt t).life = (s.thrAt t).life + 1 ∧ u.sy = { s.sy with ops := s.sy.ops ++ [⟨.cancel (.thread t (s.thrAt t).life), s.time⟩] } ∧
    (∀ j, j ≠ t.val → u.thrAt j = s.thrAt j) ∧ u = { s with th := u.th, sy := u.sy }) ∧
  (∀ (s : State) (t : ThrId), (s.thrAt t).st ≠ .faulted → exec (.threadRelease t) s = .next s) ∧
  (∀ (s : State) (t : ThrId) (m : WakeMsg), m.target = .thread t →
    (s.sy.wakes.find? (fun q => q.target = .thread t) ≠ some m → exec (.wake m) s = .next s) ∧
    (s.sy.wakes.find? (fun q => q.target = .thread t) = some m → (s.thrAt t).st ≠ .free → m.owner = .thread t (s.thrAt t).life → exec (.wake m) s =
      .next (({ s with sy := { s.sy with wakes := s.sy.wakes.erase m } } : State).setThr t { s.thrAt t with
        fired := (s.thrAt t).fired ++ [m.ctr.val], st := (if (s.thrAt t).st = .waiting then .ready else (s.thrAt t).st) })) ∧
    (s.sy.wakes.find? (fun q => q.target = .thread t) = some m → ((s.thrAt t).st = .free ∨ m.owner ≠ .thread t (s.thrAt t).life) → ∃ u,
      exec (.wake m) s = .next u ∧ u.th = s.th ∧ u.sy.wakes = s.sy.wakes.erase m ∧
      u.fl = (s.log 0x0207 (domOf .tile (m.ctr.val / 4096)) (n64 m.ctr.val) (m.consumed.setWidth 64)).fl)) ∧
  (∀ (s : State) (m : StoreMsg), ∃ u, exec (.watchMessageStore m) s = .next u ∧ u.sy = { s.sy with stores := s.sy.stores.erase m } ∧
    (u.tileAt m.tile).weldRead m.off 8 = toBytes 8 m.word.toNat ∧
    (∀ o, (o < m.off ∨ m.off + 8 ≤ o) → (u.tileAt m.tile).weldRead o 1 = (s.tileAt m.tile).weldRead o 1) ∧
    u = { s with sy := u.sy, tile := u.tile, arr := u.arr }) ∧
  (∀ (s : State) (m : SyncErr), (s.thrAt m.thr).st ≠ .free → (s.thrAt m.thr).st ≠ .faulted → (s.thrAt m.thr).life = m.life → ∃ u,
    exec (.syncErrorReport m) s = .next u ∧
    (u.thrAt m.thr).st = .faulted ∧ (u.thrAt m.thr).fault = (if m.ovr then 0x0A else 0x09) ∧ (u.thrAt m.thr).pc = m.pc ∧
    u.sy = { s.sy with errs := s.sy.errs.erase m } ∧ u = { s with th := u.th, sy := u.sy, fl := u.fl }) ∧
  (∀ (s : State) (m : SyncErr), ((s.thrAt m.thr).st = .free ∨ (s.thrAt m.thr).st = .faulted ∨ (s.thrAt m.thr).life ≠ m.life) →
    exec (.syncErrorReport m) s = .next { s with sy := { s.sy with errs := s.sy.errs.erase m } }) ∧
  (∀ (s : State) (t : ThrId), (s.thrAt t).st = .blocked → (s.thrAt t).blk = .exit → (s.thrAt t).outs = [] → ∃ u, exec (.threadExitComplete t) s = .next u ∧
    (u.thrAt t).st = .free ∧ (u.thrAt t).life = (s.thrAt t).life + 1 ∧ u.sy.ops = s.sy.ops ++
      [⟨.cancel (.thread t (s.thrAt t).life), s.time⟩, ⟨.sig ⟨ctrId (s.thrAt t).exitCtr, 1, .exit t⟩, s.time⟩] ∧ (∀ j, j ≠ t.val → u.thrAt j = s.thrAt j) ∧
    u = { s with th := u.th, sy := { s.sy with ops := u.sy.ops } }) ∧
  (∀ (s : State) (t : ThrId), (s.thrAt t).outs ≠ [] → exec (.threadExitComplete t) s = .next s)


/-- R207 to R218, R222, R223: signals on a counter in every mode, the fires of a watch, slots and their queue, cancellations, the control core's
writes. An operation that R210's order keeps back waits. -/
def Obligations.CounterCommands : Prop :=
  (∀ (s : State) (m : SignalMsg) (r : WatchReq) (sel : CancelSel), (s.sy.mayPerform (.sig m) = false → exec (.counterSignal m) s = .next s) ∧
    (s.sy.mayPerform (.reg r) = false → exec (.watchRegistration r) s = .next s) ∧
    ((s.sy.findOp (.cancel sel)).isSome = true → s.sy.mayPerform (.cancel sel) = false → exec (.watchCancel sel) s = .next s)) ∧
  (∀ (s : State) (a b : SentOp) (i k : Nat) (o : CtrOp), s.sy.findOp o = some k → s.sy.ops[i]? = some a → s.sy.ops[k]? = some b → i < k →
    a.op.source = o.source → (∃ n, n ∈ s.sy.reaches a.op ∧ n ∈ s.sy.reaches o) → s.sy.mayPerform o = false) ∧
  (∀ (s : State) (m : SignalMsg), s.sy.mayPerform (.sig m) = true → m.amount = 0 → exec (.counterSignal m) s = .next (s.opArrived (.sig m))) ∧
  (∀ (s : State) (m : SignalMsg) (n : Int), s.sy.mayPerform (.sig m) = true → m.amount ≠ 0 → n = ((s.ctrAt m.ctr).count.toNat : Int) + m.amount.toInt →
    s.ctrGone m.ctr = false → ((s.ctrAt m.ctr).flag = false ∨ m.amount.toInt < 0) → 0 ≤ n → n ≤ 4294967295 →
    (∀ w ∈ s.sy.armed, w.ctr = m.ctr → n < threshold (s.ctrAt m.ctr) w) → exec (.counterSignal m) s =
      .next ((s.opArrived (.sig m)).setCtr m.ctr { s.ctrAt m.ctr with count := BitVec.ofInt 32 n })) ∧
  (∀ (s : State) (m : SignalMsg), s.sy.mayPerform (.sig m) = true → 0 < m.amount.toInt → (s.ctrAt m.ctr).flag = true → s.ctrGone m.ctr = false →
    (∀ w ∈ s.sy.armed, w.ctr ≠ m.ctr) → exec (.counterSignal m) s = .next ((s.opArrived (.sig m)).setCtr m.ctr { s.ctrAt m.ctr with
      count := 1, coalesced := (s.ctrAt m.ctr).coalesced || decide (1 < ((s.ctrAt m.ctr).count.toNat : Int) + m.amount.toInt) })) ∧
  (∀ (s : State) (m : SignalMsg) (n : Int), s.sy.mayPerform (.sig m) = true → n = ((s.ctrAt m.ctr).count.toNat : Int) + m.amount.toInt →
    (s.ctrAt m.ctr).flag = false → s.ctrGone m.ctr = false → s.strict m.ctr = false → fromHost m.src = false → (∀ w ∈ s.sy.armed, w.ctr ≠ m.ctr) →
    (n < 0 → exec (.counterSignal m) s = .next ((s.opArrived (.sig m)).setCtr m.ctr { s.ctrAt m.ctr with count := 0, under := true })) ∧
    (4294967295 < n → exec (.counterSignal m) s =
      .next ((s.opArrived (.sig m)).setCtr m.ctr { s.ctrAt m.ctr with count := 0xFFFFFFFF, ovr := true }))) ∧
  (∀ (s : State) (m : SignalMsg) (t : ThrId) (pc : W64) (life : Nat) (n : Int), s.sy.mayPerform (.sig m) = true →
    n = ((s.ctrAt m.ctr).count.toNat : Int) + m.amount.toInt → s.strict m.ctr = true → s.ctrGone m.ctr = false → m.src = .thread t pc life →
    (n < 0 ∨ (4294967295 < n ∧ (s.ctrAt m.ctr).flag = false)) → ∃ u, exec (.counterSignal m) s = .next u ∧
      u.sy = { (s.opArrived (.sig m)).sy with errs := s.sy.errs ++ [⟨t, life, pc, decide (0 < n)⟩] } ∧ u = { s with sy := u.sy, fl := u.fl } ∧
      u.fl = (s.detect (if 0 < n then 0x0206 else 0x0205) (domOf .tile (m.ctr.val / 4096)) (n64 m.ctr.val) (m.amount.signExtend 64)
        ((s.ctrAt m.ctr).count.setWidth 64) (n64 t.val)).fl) ∧
  (∀ (s : State) (c : CtrId) (v : W32), (∀ w ∈ s.sy.armed, w.ctr = c → v.toNat < threshold (s.ctrAt c) w) → s.ctrGone c = false →
    exec (.counterWrite c v) s = .next (s.setCtr c { s.ctrAt c with count := v })) ∧
  (∀ (s : State) (c : CtrId) (v : W32) (w : WatchReq) (t : ThrId), s.sy.armed = [w] → w.ctr = c → w.target = .thread t →
    s.ctrGone c = false → threshold (s.ctrAt c) w ≤ v.toNat → ∃ u, exec (.counterWrite c v) s = .next u ∧ u.sy.armed = [] ∧
      u.sy.wakes = s.sy.wakes ++ [⟨.thread t, w.owner, c, if w.consume then n32 (threshold (s.ctrAt c) w) else 0⟩] ∧
      u.ctrAt c = { s.ctrAt c with count := if w.consume then v - n32 (threshold (s.ctrAt c) w) else v } ∧
      (∀ d, d ≠ c.val → u.ctrAt d = s.ctrAt d) ∧ u = { s with sy := { s.sy with ctr := u.sy.ctr, armed := [], wakes := u.sy.wakes } }) ∧
  (∀ (s : State) (c : CtrId) (f : Bool), s.ctrGone c = false → exec (.counterModeSet c (.setFlag f)) s = .next (s.setCtr c { s.ctrAt c with flag := f })) ∧
  (∀ (s : State) (c : CtrId) (a b d : Bool), s.ctrGone c = false → exec (.counterModeSet c (.clear a b d)) s = .next (s.setCtr c { s.ctrAt c with
    coalesced := (s.ctrAt c).coalesced && !a, under := (s.ctrAt c).under && !b, ovr := (s.ctrAt c).ovr && !d })) ∧
  (∀ (s : State) (r : WatchReq), s.sy.mayPerform (.reg r) = true → (∀ w ∈ s.sy.armed ++ [r], w.ctr = r.ctr →
      (s.ctrAt r.ctr).count.toNat < threshold (s.ctrAt r.ctr) w) → s.poolUsed (r.ctr.val / 4096) (poolOf r.owner) < poolSize (poolOf r.owner) →
    s.ctrGone r.ctr = false → (∀ q ∈ s.sy.queued, q.ctr.val / 4096 = r.ctr.val / 4096 → poolOf q.owner ≠ poolOf r.owner) → ∃ u,
    exec (.watchRegistration r) s = .next u ∧ u.sy = { (s.opArrived (.reg r)).sy with armed := s.sy.armed ++ [r] } ∧
    (∀ (t : ThrId), r.owner = .thread t (s.thrAt t).life → (s.thrAt t).st = .blocked → (s.thrAt t).blk = .watch r.ctr.val → (u.thrAt t).st = .ready) ∧
    u = { s with sy := u.sy, th := u.th }) ∧
  (∀ (s : State) (r : WatchReq), s.sy.mayPerform (.reg r) = true → (poolSize (poolOf r.owner) ≤ s.poolUsed (r.ctr.val / 4096) (poolOf r.owner) ∨
      ∃ q ∈ s.sy.queued, q.ctr.val / 4096 = r.ctr.val / 4096 ∧ poolOf q.owner = poolOf r.owner) → s.ctrGone r.ctr = false → exec (.watchRegistration r) s =
    .next { s.opArrived (.reg r) with sy := { (s.opArrived (.reg r)).sy with queued := s.sy.queued ++ [r] } }) ∧
  (∀ (s : State) (m : SignalMsg) (r : WatchReq) (v : W32) (o : ModeOp), s.ctrGone m.ctr = true → r.ctr = m.ctr → exec (.counterWrite m.ctr v) s = .next s ∧
    exec (.counterModeSet m.ctr o) s = .next s ∧
    (s.sy.mayPerform (.sig m) = true → exec (.counterSignal m) s = .next (s.opArrived (.sig m))) ∧
    (s.sy.mayPerform (.reg r) = true → exec (.watchRegistration r) s = .next (s.opArrived (.reg r)))) ∧
  (∀ (s : State) (t : TileId) (p : WatchPool) (r : WatchReq), (s.sy.queued.find? fun r => r.ctr.val / 4096 = t.val && poolOf r.owner = p) = some r →
    (poolSize p ≤ s.poolUsed t p → exec (.watchSlotGrant t p) s = .next s) ∧
    (s.poolUsed t p < poolSize p → (∀ w ∈ s.sy.armed ++ [r], w.ctr = r.ctr → (s.ctrAt r.ctr).count.toNat < threshold (s.ctrAt r.ctr) w) → ∃ u,
      exec (.watchSlotGrant t p) s = .next u ∧ u.sy = { s.sy with queued := s.sy.queued.erase r, armed := s.sy.armed ++ [r] } ∧
      u = { s with sy := u.sy, th := u.th })) ∧
  (∀ (s : State) (sel : CancelSel), ((s.sy.findOp (.cancel sel)).isSome = false ∨ s.sy.mayPerform (.cancel sel) = true) → ∃ u,
    exec (.watchCancel sel) s = .next u ∧ u = { s with sy := u.sy, th := u.th } ∧
    u.sy = { (s.opArrived (.cancel sel)).sy with armed := u.sy.armed, queued := u.sy.queued } ∧
    (∀ w, sel = .one w → (w ∈ s.sy.armed → u.sy.armed = s.sy.armed.erase w ∧ u.sy.queued = s.sy.queued) ∧
      (w ∉ s.sy.armed → u.sy.armed = s.sy.armed ∧ u.sy.queued = s.sy.queued.erase w)) ∧
    ((∀ w, sel ≠ .one w) → u.sy.armed = s.sy.armed.filter (fun w => !selects sel w) ∧ u.sy.queued = s.sy.queued.filter (fun w => !selects sel w)) ∧
    (∀ (t : ThrId), (s.thrAt t).st = .blocked → (s.thrAt t).blk = .watches → u.watchesOf t < 4 → (u.thrAt t).st = .ready))

/-- 05 R142 to R148, R151 to R157, R164 to R167: how an array takes a job, its output tiles, weight tiles and rows, replays and drains, ends a job,
faults and halts. -/
def Obligations.ArrayWork : Prop :=
  (∀ (s : State) (a : ArrayId) (k : Nat), (s.arrAt a).turn = some k →
    (((s.arrAt a).stopped = true ∨ (s.arrAt a).oos = true) → exec (.arrayJobStart a) s = .next s) ∧
    ((s.arrAt a).stopped = false → (s.arrAt a).oos = false → ∃ u, exec (.arrayJobStart a) s = .next u ∧ ((u.arrAt a).job k).started = true ∧
      (jAccept (s.tileAt (a / 2)) ((s.arrAt a).job k).desc = false → ((u.arrAt a).job k).refused = true) ∧
      (jAccept (s.tileAt (a / 2)) ((s.arrAt a).job k).desc = true → ((u.arrAt a).job k).refused = ((s.arrAt a).job k).refused) ∧
      (∀ j, j ≠ k → (u.arrAt a).job j = (s.arrAt a).job j) ∧ (∀ b, b ≠ a.val → u.arrAt b = s.arrAt b) ∧ u = { s with arr := u.arr })) ∧
  (∀ (s : State) (a : ArrayId) (n : Nat), (s.arrAt a).nextJob = some n → s.arrHeld a = false →
    ((s.arrAt a).slot 0).state = 0 → ((s.arrAt a).slot 0).taken = false → exec (.outputTileSlot a) s = .next (s.setArr a (((s.arrAt a).setSlot 0
      { slotInit with
        taken := true, job := n, tile := ((s.arrAt a).job n).tiles, col := jN0 ((s.arrAt a).job n).desc + 64 * ((s.arrAt a).job n).tiles
        rows := jB ((s.arrAt a).job n).desc, slice := jFirst ((s.arrAt a).job n).desc, state := if jOp ((s.arrAt a).job n).desc = 1 then 3 else 0 }).setJob n
      { (s.arrAt a).job n with tiles := ((s.arrAt a).job n).tiles + 1 }))) ∧
  (∀ (s : State) (a : ArrayId) (k sl : Nat), (s.arrAt a).wanted = some (k, sl) → s.arrHeld a = false →
    (s.arrAt a).liveRegs.length < 2 → ∃ u, exec (.weightTileLoaded a) s = .next u ∧ (u.arrAt a).wregs = (s.arrAt a).liveRegs ++
      [loadTile (s.tileAt (a / 2)) ((s.arrAt a).job ((s.arrAt a).slot k).job).desc k sl ((s.arrAt a).slot k).col] ∧
      (((s.arrAt a).slot k).state = 0 → (s.arrAt a).busy (1 - k) = false → (u.arrAt a).slot k = { (s.arrAt a).slot k with state := 1 }) ∧
      (u.arrAt a).jobs = (s.arrAt a).jobs ∧ (∀ b, b ≠ a.val → u.arrAt b = s.arrAt b) ∧ u = { s with arr := u.arr }) ∧
  (∀ (x : ArrayU) (i k sl : Nat), x.wanted = some (k, sl) → i < 2 → (x.slot i).state = 2 → (x.slot k).state = 2) ∧
  (∀ (s : State) (a : ArrayId) (k i : Nat) (w : WReg) (x : ArrayU) (sl : Slot) (d : List Byte) (tl : Tile), x = s.arrAt a → sl = x.slot k →
    d = (x.job sl.job).desc → tl = s.tileAt (a / 2) → x.activeSlot = some k → (slotRows (x.job sl.job) sl).find? (fun r => sl.next ≤ r) = some i →
    x.wregs.find? (fun w => w.slot = k && w.slice = sl.slice) = some w → s.arrHeld a = false → x.isFull k = false →
    (scaleOk (rowIn tl d i sl.slice).sa = true → ∃ u, exec (.rowPass a) s = .next u ∧ u = { s with arr := u.arr } ∧ (u.arrAt a).jobs = x.jobs ∧
      ((u.arrAt a).slot k).entries = passRow d sl w (rowIn tl d i sl.slice) i (w.poison || rowInPoison tl d i sl.slice) ∧
      (sl.state = 2 → (u.arrAt a).due = s.haltAsked a)) ∧
    (scaleOk (rowIn tl d i sl.slice).sa = false → ∃ u, exec (.rowPass a) s = .next u ∧ u = { s with arr := u.arr } ∧
      ((u.arrAt a).job sl.job).rowsRefused = setIns i (x.job sl.job).rowsRefused ∧ ((u.arrAt a).slot k).entries = sl.entries)) ∧
  (∀ (s : State) (a : ArrayId) (k : Nat) (x : ArrayU) (sl : Slot), x = s.arrAt a → sl = x.slot k → s.arrHeld a = false →
    x.order.find? (fun k => (x.slot k).state = 1 && x.isFull k) = some k →
    ((sl.entries.any fun q => q.2.ovf && (x.job sl.job).active.contains (q.1 / 64)) = true → ∃ u, exec (.fillEnd a) s = .next u ∧
      ((u.arrAt a).slot k).state = 2 ∧ ((u.arrAt a).slot k).pass = 1 ∧ ((u.arrAt a).slot k).slice = jFirst (x.job sl.job).desc ∧
      ((u.arrAt a).slot k).next = 0 ∧ ((u.arrAt a).job sl.job).replays = satAdd (2 ^ 32 - 1) (x.job sl.job).replays
        (sl.entries.countP fun q => q.2.ovf && (x.job sl.job).active.contains (q.1 / 64)) ∧ u = { s with arr := u.arr }) ∧
    ((sl.entries.any fun q => q.2.ovf && (x.job sl.job).active.contains (q.1 / 64)) = false → (x.slot (1 - k)).state ≠ 3 → ∃ u,
      exec (.fillEnd a) s = .next u ∧ ((u.arrAt a).slot k).state = 3 ∧ ((u.arrAt a).slot k).entries = sl.entries ∧
      (u.arrAt a).due = s.haltAsked a ∧ u = { s with arr := u.arr }) ∧
    ((sl.entries.any fun q => q.2.ovf && (x.job sl.job).active.contains (q.1 / 64)) = false → (x.slot (1 - k)).state = 3 →
      exec (.fillEnd a) s = .next (s.setArr a { x with due := s.haltAsked a }))) ∧
  (∀ (s : State) (a : ArrayId) (k : Nat) (x : ArrayU) (sl : Slot), x = s.arrAt a → sl = x.slot k → s.arrHeld a = false →
    x.order.find? (fun k => (x.slot k).state = 2 && x.isFull k) = some k →
    ((sl.entries.any fun q => q.2.ovf && (x.job sl.job).active.contains (q.1 / 64)) = true → sl.pass < 3 → ∃ u, exec (.replayPassEnd a) s = .next u ∧
      ((u.arrAt a).slot k).state = 2 ∧ ((u.arrAt a).slot k).pass = sl.pass + 1 ∧ u = { s with arr := u.arr }) ∧
    (((sl.entries.any fun q => q.2.ovf && (x.job sl.job).active.contains (q.1 / 64)) = false ∨ 3 ≤ sl.pass) → (x.slot (1 - k)).state ≠ 3 → ∃ u,
      exec (.replayPassEnd a) s = .next u ∧ ((u.arrAt a).slot k).state = 3 ∧ ((u.arrAt a).slot k).entries = sl.entries ∧ u = { s with arr := u.arr })) ∧
  (∀ (s : State) (a : ArrayId) (k : Nat) (x : ArrayU) (sl : Slot) (j : ArrJob), x = s.arrAt a → sl = x.slot k → j = x.job sl.job →
    [0, 1].find? (fun k => (x.slot k).state = 3) = some k → s.arrHeld a = false → sl.job < x.jobs.length → ∃ u, exec (.drainEnd a) s = .next u ∧
      (u.arrAt a).slot k = slotInit ∧ ((u.arrAt a).job sl.job).drained = j.drained ++ [sl.tile] ∧ ((u.arrAt a).job sl.job).lastOut = some s.time ∧
      (∀ i, i ≠ k → (u.arrAt a).slot i = x.slot i) ∧ u.tileAt (a / 2) = drainTo (s.tileAt (a / 2)) (drainRows (s.tileAt (a / 2)) j sl s.freeCount) ∧
      (∀ i, i ≠ a.val / 2 → u.tileAt i = s.tileAt i) ∧ u = { s with tile := u.tile, arr := u.arr, freeCount := u.freeCount }) ∧
  (∀ (x : Tile) (j : ArrJob) (sl : Slot) (f : Nat), j.undef = false → jOp j.desc = 0 → drainRows x j sl f =
    ((List.range (jB j.desc)).filter fun i => !j.rowsOff.contains i).map fun i =>
      (jObase j.desc + i * jOstride j.desc + jSize j.desc * (sl.col - jN0 j.desc), (List.range 64).map fun c => drainElem j sl i c)) ∧
  (∀ (s : State) (a : ArrayId) (j : ArrJob) (r : List ArrJob), (s.arrAt a).jobs = j :: r → j.started = true → (s.arrAt a).stopped = false →
    (j.drained.length ≠ j.ntiles → exec (.arrayJobComplete a) s = .next s) ∧
    (j.drained.length = j.ntiles → ∃ u, exec (.arrayJobComplete a) s = .next u ∧ (u.arrAt a).jobs = r.map (·.touched (jStatus j.desc) 32 true) ∧
      (u.tileAt (a / 2)).weldRead (jStatus j.desc) 32 = statusBytes j false s.freeCount ∧
      (∀ t, j.lastOut = some t → (∀ i, i < 32 → meets (jStatus j.desc + i) 1 j.reads = false) → statusBytes j false s.freeCount = arrStatus j false t) ∧
      u.sy = { s.sy with ops := s.sy.ops ++ [⟨.sig ⟨ctrId (jCounter j.desc), 1, .array a⟩, s.time⟩] } ∧
      (∀ i, i ≠ a.val / 2 → u.tileAt i = s.tileAt i) ∧
      u = { s with th := u.th, tile := u.tile, sy := u.sy, arr := u.arr, freeCount := u.freeCount })) ∧
  (∀ (s : State) (a : ArrayId) (j : ArrJob) (r : List ArrJob), (s.arrAt a).jobs = j :: r → j.started = true → j.refused = false → ∃ u,
    exec (.arrayHw a) s = .next u ∧
    (u.tileAt (a / 2)).weldRead (jStatus j.desc) 32 = statusBytes j true (s.freeCount + (undrained j j.drained).length) ∧
    u.sy = { s.sy with ops := s.sy.ops ++ [⟨.sig ⟨ctrId (jCounter j.desc), 1, .array a⟩, s.time⟩] } ∧ (u.arrAt a).stopped = true ∧
    ((s.arrAt a).hwTimes = [] → (u.arrAt a).jobs = (r.map (·.touched (jStatus j.desc) 32 true)).map ArrJob.restart ∧ (u.arrAt a).oos = (s.arrAt a).oos) ∧
    ((s.arrAt a).hwTimes = [s.time] → (u.arrAt a).oos = true ∧ (u.arrAt a).jobs = [] ∧ ⟨.array, a.val⟩ ∈ u.fl.out)) ∧
  (∀ (s : State) (a : ArrayId), (s.tileAt (a / 2)).state = 3 → ((s.arrAt a).due = true ∨ (s.arrAt a).idle = true) →
    (if a.val % 2 = 0 then (s.tileAt (a / 2)).haltA else (s.tileAt (a / 2)).haltB) = true →
    exec (.arrayHalt a) s = .next (s.setArr a { s.arrAt a with halted := true, due := false })) ∧
  (∀ (s : State) (a : ArrayId), ((s.tileAt (a / 2)).state ≠ 3 ∨ ((s.arrAt a).due = false ∧ (s.arrAt a).idle = false)) → exec (.arrayHalt a) s = .next s) ∧
  (∀ (s : State) (a : ArrayId), s.arrHeld a = true → exec (.outputTileSlot a) s = .next s ∧ exec (.weightTileLoaded a) s = .next s ∧
    exec (.rowPass a) s = .next s ∧ exec (.fillEnd a) s = .next s ∧ exec (.replayPassEnd a) s = .next s ∧ exec (.drainEnd a) s = .next s) ∧
  (∀ (e : Entry) (y : List Int), e.ovf = false → (∀ v ∈ y, -549755813888 ≤ v ∧ v ≤ 549755813887) →
    (-2147483648 ≤ e.acc + sumInts y → e.acc + sumInts y ≤ 2147483647 → accStep false e y = { e with acc := e.acc + sumInts y } ∧
      accStep true e y = { e with acc := e.acc + sumInts y }) ∧
    (2147483647 < e.acc + sumInts y → accStep false e y = { e with ovf := true } ∧ accStep true e y = { e with acc := 2147483647, sat := true }) ∧
    (e.acc + sumInts y < -2147483648 → accStep false e y = { e with ovf := true } ∧ accStep true e y = { e with acc := -2147483648, sat := true })) ∧
  (∀ (t f e : Int) (r : W64), f < e → gridY t f e r * 2 ^ (64 + (e - f).toNat) ≤ t * 2 ^ 64 + r.toNat * 2 ^ (e - f).toNat ∧
    t * 2 ^ 64 + r.toNat * 2 ^ (e - f).toNat < (gridY t f e r + 1) * 2 ^ (64 + (e - f).toNat))

/-- 02 R46, R57, R60, R63, R65, R66, R68, R71 to R75: requests, commands, refreshes, temperature, the maintenance slot, retraining, the lane-spare switch,
scrub and write bursts of one sub-channel. That a controller does an ADD itself for a unit out of service is the model's choice
(notes/assumptions/114.md). -/
def Obligations.SubChannelWork : Prop :=
  (∀ (s : State) (c : SubId) (r : Req), s.madderOk r.addr = true → subOfBank (s.place r.addr).bank = c.val →
    (s.classLen c r.cls < 64 → (∀ q ∈ (s.sub c).stalled, q.cls ≠ r.cls) → exec (.scRequestArrival c r) s = .next (s.setSub c { s.sub c with
      queue := (s.sub c).queue ++ [⟨(s.sub c).nextId, r, 0, [], false, none⟩], nextId := (s.sub c).nextId + 1 })) ∧
    ((64 ≤ s.classLen c r.cls ∨ ∃ q ∈ (s.sub c).stalled, q.cls = r.cls) →
      exec (.scRequestArrival c r) s = .next (s.setSub c { s.sub c with stalled := (s.sub c).stalled ++ [r] }))) ∧
  (∀ (s : State) (c : SubId) (r : Req), s.madderOk r.addr = false → exec (.scRequestArrival c r) s = .next s) ∧
  (∀ (s : State) (c : SubId) (now : Nat) (b : Bank), b = s.bankAt (4 * c.val) → (s.sub c).state ≠ 0 → (s.sub c).state ≠ 3 → (s.sub c).banksOut.getLsbD 0 = false →
    b.hold = .none → b.tRef = none → b.tPre = none → b.openRow = none → b.urgent (s.sub c).dieTemp.toNat = true →
    exec (.commandIssue c now) s = .next (s.setBank (4 * c.val) (b.refresh now))) ∧
  (∀ (s : State) (c : SubId) (now : Nat), ((s.sub c).state = 0 ∨ (s.sub c).state = 3) → exec (.commandIssue c now) s = .next s) ∧
  (∀ (s : State) (c : SubId) (now : Nat), (s.sub c).state = 2 → ∃ u, exec (.commandIssue c now) s = .next u ∧
    u = { s with dr := { s.dr with bank := u.dr.bank } }) ∧
  (∀ (s : State) (c : SubId) (now : Nat), (s.sub c).state = 1 → s.refreshPick c now (fun b => s.urgentAt b || (s.bankAt b).dueRow.isSome) = none →
    (∀ p, s.owed c 1 now = true → s.classPick c 1 now = some p → exec (.commandIssue c now) s = .next (s.issuePick c now p)) ∧
    (∀ q k, (∀ n, n ∈ [1, 2, 3] → s.owed c n now = false) → s.oldest c 0 now = some (q, k) → s.classWindows c 0 now = [] →
      exec (.commandIssue c now) s = .next (s.issue q k now))) ∧
  (∀ (s : State) (c : SubId) (now b row col : Nat) (j : InitJob), s.pick c now = .burst .col → (s.sub c).burstAt = some (j, b, row, col) → ∃ u,
    exec (.commandIssue c now) s = .next u ∧ u.dr.madder = (s.dr.writeCw (cwIdx b row col) j.pattern false).madder) ∧
  (∀ (s : State) (c : SubId) (now : Nat) (k : Cmd) (r : ScrubRow), s.pick c now = .scrub k → (s.sub c).scrub = some r →
    exec (.commandIssue c now) s = .next (s.scrubDo c k now) ∧
    (∀ col d, r.fix = some (col, d) → (s.scrubDo c .col now).dr.madder = (s.dr.writeCw (cwIdx r.bank r.row col) d false).madder) ∧
    (r.fix = none → curCol (s.sub c).scrubCur < 63 → ((s.scrubDo c .col now).sub c).scrubCur =
      mkCur (curBank (s.sub c).scrubCur) (curRow (s.sub c).scrubCur) (curCol (s.sub c).scrubCur + 1) ∧ (s.scrubDo c .col now).dr.madder = s.dr.madder)) ∧
  (∀ (s s1 : State) (c : SubId) (id : Nat) (rest : List Nat) (q : QReq) (m : Sample) (errs : List SymErr) (r : CwRead), (s.sub c).out = id :: rest →
    (s.sub c).queue.find? (fun q => q.id = id) = some q → q.sample = some m →
    (s.setSub c { s.sub c with out := rest }).decodeRead (q.req.addr / 32 * 32) q.req.src m errs = (r, s1) →
    (q.req.kind = .read → ∃ u, exec (.readReturn c errs) s = .next u ∧
      (u.sub c).resp = some ⟨q.req, r.data, r.poison⟩ ∧ (u.sub c).out = rest ∧ u = { s1 with dr := { s1.dr with sub := u.dr.sub } }) ∧
    (∀ off d psn, q.req.kind = .write off d psn → exec (.readReturn c errs) s = .next (s1.setSub c { s1.sub c with queue := (s1.sub c).queue.map fun o =>
      if o.id = id then { o with stage := 2, merged := r.data.take off ++ d ++ r.data.drop (off + d.length), mPoison := psn || r.poison } else o })) ∧
    (∀ d, q.req.kind = .add d → exec (.readReturn c errs) s = .next ((s.setSub c { s.sub c with out := rest }).addGo q
      { d with bank := BitVec.ofNat 8 ((s.place q.req.addr).bank % 2), col := BitVec.ofNat 8 (s.place q.req.addr).col } (1000 * s.now) errs))) ∧
  (∀ (s : State) (c : SubId) (j : Fin 4), 5 < s.bt.phase → (s.sub c).state ≠ 3 → (s.sub c).banksOut.getLsbD j = false → (s.sub c).rateTo = none →
    exec (.refreshBoundary c j) s = .next (s.setBank (4 * c.val + j.val) { s.bankAt (4 * c.val + j.val) with debt := (s.bankAt (4 * c.val + j.val)).debt + 1 })) ∧
  (∀ (s : State) (c : SubId) (j : Fin 4) (v : Bool), 5 < s.bt.phase → (s.sub c).state ≠ 3 → (s.sub c).banksOut.getLsbD j = false → (s.sub c).rateTo = some v →
    (s.sub c).holder = 2 → ∃ u, exec (.refreshBoundary c j) s = .next u ∧ (u.sub c).x2 = v ∧ (u.sub c).rateTo = none ∧
      (u.bankAt (4 * c.val + j.val)).debt = (s.bankAt (4 * c.val + j.val)).debt + 1) ∧
  (∀ (s : State) (c : SubId) (n : Nat), (s.sub c).state ≠ 3 → ∃ u, exec (.temperatureRead c n) s = .next u ∧ (u.sub c).dieTemp = BitVec.ofNat 8 n ∧
    (u.sub c).x2 = (s.sub c).x2 ∧ (85 < n → (s.sub c).x2 = false → (u.sub c).rateTo = some true ∧ ((u.sub c).holder = 2 ∨ 2 ∈ (u.sub c).waiting)) ∧
    (n ≤ 82 → (s.sub c).x2 = true → (u.sub c).rateTo = some false ∧ ((u.sub c).holder = 2 ∨ 2 ∈ (u.sub c).waiting)) ∧
    (85 < n → (s.sub c).x2 = true → (u.sub c).rateTo = none) ∧ (n ≤ 82 → (s.sub c).x2 = false → (u.sub c).rateTo = none) ∧
    (82 < n → n ≤ 85 → (s.sub c).rateTo = none → u = s.setSub c { s.sub c with dieTemp := BitVec.ofNat 8 n }) ∧
    u = { s with dr := { s.dr with sub := u.dr.sub }, unit := u.unit, fl := u.fl }) ∧
  (∀ (s : State) (c : SubId), exec (.accountingPeriod c) s = .next (s.setSub c { s.sub c with
    svc1 := 0, svc2 := 0, svc3 := 0, svcAll := 0, periodStart := 1000 * s.time.toNat / 4000000 * 4000000 })) ∧
  (∀ (s : State) (c : SubId) (d : Bool), (s.sub c).state = 1 → ∃ u, exec (.driftTracking c d) s = .next u ∧ (u.sub c).drifted = d ∧
    (d = true → (u.sub c).retrainCause = 0 ∧ ((u.sub c).holder = 1 ∨ 1 ∈ (u.sub c).waiting)) ∧ u = { s with dr := { s.dr with sub := u.dr.sub } }) ∧
  (∀ (s : State) (c : SubId), (s.sub c).holder = 1 → ((s.sub c).state = 1 ∨ (s.sub c).state = 4) → s.windowRuns c = false →
    exec (.retrainingStart c) s = .next ((s.setSub c { s.sub c with state := 2 }).log 0x0104 (domOf .sub c) (n64 (s.sub c).retrainCause))) ∧
  (∀ (s : State) (c : SubId), s.windowRuns c = true → exec (.retrainingStart c) s = .next s) ∧
  (∀ (s : State) (c : SubId), (s.sub c).state = 2 → (s.sub c).holder = 1 →
    ((s.sub c).trainFails = 0 → exec (.retrainingEnd c false) s = .next (s.setSub c { s.sub c with trainFails := 1 })) ∧
    ((s.sub c).trainFails ≠ 0 → ∃ u, exec (.retrainingEnd c false) s = .next u ∧ (u.sub c).state = 3 ∧ ⟨.sub, c.val⟩ ∈ u.fl.out) ∧
    ((s.sub c).erased.isSome = true → (s.sub c).spareFailed = false → exec (.retrainingEnd c true) s = .next (s.setSub c { s.sub c with holder := 3 })) ∧
    (((s.sub c).erased = none ∨ (s.sub c).spareFailed = true) → ∃ u, exec (.retrainingEnd c true) s = .next u ∧
      (u.sub c).state = 1 ∧ (u.sub c).reads = 0)) ∧
  (∀ (s : State) (c : SubId), (s.sub c).state = 2 → (s.sub c).holder = 3 → ∃ u v, exec (.spareVerifyEnd c true) s = .next u ∧ (u.sub c).state = 1 ∧
    (u.sub c).spare = (s.sub c).erased ∧ (u.sub c).erased = none ∧ exec (.spareVerifyEnd c false) s = .next v ∧ (v.sub c).state = 1 ∧
    (v.sub c).spare = (s.sub c).spare ∧ (v.sub c).erased = (s.sub c).erased) ∧
  (∀ (s : State) (c : SubId) (run : ScrubRun), (s.sub c).state = 1 → (s.sub c).holder = 4 → (s.sub c).scrub = none →
    ((s.sub c).banksOut.getLsbD (curBank (s.sub c).scrubCur) = false →
      (s.sub c).isClean (bankOf c (curBank (s.sub c).scrubCur)) (curRow (s.sub c).scrubCur) = false → exec (.scrubRow c run) s =
        .next ((s.setSub c { s.sub c with
          scrub := some ⟨(s.sub c).nextId, bankOf c (curBank (s.sub c).scrubCur), curRow (s.sub c).scrubCur, run.errs, none, false⟩
          nextId := (s.sub c).nextId + 1 }).scrubRun c 200 run.now)) ∧
    (((s.sub c).banksOut.getLsbD (curBank (s.sub c).scrubCur) = true ∨
      (s.sub c).isClean (bankOf c (curBank (s.sub c).scrubCur)) (curRow (s.sub c).scrubCur) = true) → ∃ u, exec (.scrubRow c run) s = .next u ∧
        (u.sub c).scrubCur = nextRow (curBank (s.sub c).scrubCur) (curRow (s.sub c).scrubCur) ∧
        u = { s with dr := { s.dr with sub := u.dr.sub, stack := u.dr.stack } })) ∧
  (∀ (s : State) (c : SubId) (run : ScrubRun), (s.sub c).state = 1 → ∃ u, exec (.scrubRow c run) s = .next u ∧ u = { s with dr := u.dr, fl := u.fl } ∧
    u.dr.segs = s.dr.segs ∧ ((s.sub c).holder ≠ 0 → (s.sub c).holder ≠ 4 → (s.sub c).waiting.contains 4 = false → u = s.setSub c { s.sub c with waiting := setIns 4 (s.sub c).waiting })) ∧
  (∀ (s : State) (c : SubId) (a : Nat) (r : List Nat), (s.sub c).waiting = a :: r → s.atCursor c = true → a < (s.sub c).holder →
    ∃ u, exec (.maintPreempt c) s = .next u ∧ (u.sub c).holder = a ∧ (u.sub c).waiting = setIns (s.sub c).holder r ∧
      (u.sub c).scrubCur = (s.sub c).scrubCur ∧ (u.sub c).initCur = (s.sub c).initCur ∧
      ((s.sub c).scrubPaused = false → u.fl = (s.maintPause c (s.sub c).holder ((s.sub c).cursor (s.sub c).holder) a).fl) ∧
      u = { s with dr := { s.dr with sub := u.dr.sub }, fl := u.fl }) ∧
  (∀ (s : State) (c : SubId), (s.sub c).waiting = [] → (s.sub c).holder = 4 → (s.sub c).scrub = none → (s.sub c).inits = [] →
    exec (.maintSlotRelease c) s = .next (s.setSub c { s.sub c with holder := 0 })) ∧
  (∀ (s : State) (c : SubId), (s.sub c).waiting = [] → (s.sub c).holder = 5 → (s.sub c).inits = [] →
    exec (.maintSlotRelease c) s = .next (s.setSub c { s.sub c with initCur := 0, holder := 0 })) ∧
  (∀ (s : State) (c : SubId) (j : InitJob), (s.sub c).waiting = [] → (s.sub c).holder = 5 → (s.sub c).inits = [j] → j.begun = true → j.units = [] →
    j.bursts = [] → ∃ u, exec (.maintSlotRelease c) s = .next u ∧ (u.sub c).holder = 0 ∧ (u.sub c).inits = [] ∧
      (u.sub c).clean = (s.sub c).clean ++ (initBanks c j).map fun b => (b, j.firstRow, j.rows))


/-- 03 R86, R87, R93 to R101, R104, R116, R117, R121, 06 R204: windows open where R97 allows, a unit takes OPEN, STEP, CLOSE, ABORT and ADD in the states of
Table BANK-4, decides at a yield point, finds a command discarded, and ends its job with a record and a signal. -/
def Obligations.BankUnitCommands : Prop :=
  (∀ (s : State) (u : UnitId) (now : Nat), s.pick (u / 2) now ≠ .window u → exec (.windowStart u now) s = .next s) ∧
  (∀ (s : State) (u : UnitId) (now : Nat), s.pick (u / 2) now = .window u → ∃ t, exec (.windowStart u now) s = .next t ∧ (t.unitAt u).inWindow = true ∧
    (t.unitAt u).cmd = 1 ∧ (t.unitAt u).openAt = now ∧ (t.unitAt u).holds = true ∧
    ((s.unitAt u).alleyPeer u = none → (∀ b, b = 2 * u.val ∨ b = 2 * u.val + 1 → (t.bankAt b).openRow = none ∧ (t.bankAt b).held = true) ∧
      (t.unitAt u).jobs.map (·.desc) = (s.unitAt u).jobs.map (·.desc))) ∧
  (∀ (s : State) (u : UnitId) (now : Nat), s.pick (u / 2) now = .window u → s.windowOk u now = true ∧ (s.sub (u.val / 2)).state = 1 ∧
    (s.sub (u.val / 2)).holder ≠ 1 ∧ s.dieOpen (u.val / 8) < s.capInForce (u.val / 128) ∧ (s.unitAt u).oos = false ∧ (s.unitAt u).jobs ≠ [] ∧
    (∀ b, b = 2 * u.val ∨ b = 2 * u.val + 1 → (s.bankAt b).hold = .none ∧ s.urgentAt b = false ∧ (s.bankAt b).dueRow = none ∧ s.bankGone b = false)) ∧
  (∀ (s : State) (u : UnitId) (tag : W32), (s.unitAt u).cmd = 1 → (s.unitAt u).oos = false →
    ((s.unitAt u).state ∈ [0, 4, 5] → ∃ t, exec (.unitOpen u tag) s = .next t ∧ (t.unitAt u).state = 1 ∧ (t.unitAt u).fault = 0 ∧ (t.unitAt u).tag = tag ∧
      (t.unitAt u).pc = (s.unitAt u).entry ∧ (t.unitAt u).poison = false ∧ (t.unitAt u).accs = [] ∧ (t.unitAt u).cmd = 0 ∧
      (∀ i, i < 16 → (t.unitAt u).xr i = BitVec.ofNat 24 ((s.unitAt u).dField (64 + 4 * i) 4)) ∧ (∀ i, (t.unitAt u).kr i = 0) ∧ t = { s with unit := t.unit }) ∧
    ((s.unitAt u).state = 3 → exec (.unitOpen u tag) s =
      .next (s.setUnit u { s.unitAt u with state := 1, tag := tag, cmd := 0, rewrote := false, log := [] })) ∧
    ((s.unitAt u).state ∈ [1, 2] → exec (.unitOpen u tag) s = .next s)) ∧
  (∀ (s : State) (u : UnitId) (tag : W32), ((s.unitAt u).cmd = 2 → (s.unitAt u).state = 2 →
      exec (.unitStep u tag) s = .next (s.setUnit u { s.unitAt u with state := 1, tag := tag, cmd := 0, rewrote := false })) ∧
    (((s.unitAt u).cmd ≠ 2 ∨ (s.unitAt u).state ≠ 2) → exec (.unitStep u tag) s = .next s) ∧
    ((s.unitAt u).cmd = 3 → (s.unitAt u).state = 2 → s.unitDoomed u = false → ∃ t, exec (.unitClose u tag) s = .next t ∧ t.unitAt u =
      { s.unitAt u with state := 3, tag := tag, inWindow := false, openRows := [], times := [], cmd := 0, rewrote := false, asked := s.time } ∧
      (∀ b, b = 2 * u.val ∨ b = 2 * u.val + 1 → t.bankAt b = { s.bankAt b with hold := .none, openRow := none, tPre := some (1000 * s.time.toNat) }) ∧
      t = { s with unit := t.unit, dr := { s.dr with bank := t.dr.bank, sub := t.dr.sub } }) ∧
    ((s.unitAt u).cmd = 3 → (s.unitAt u).state = 2 → s.unitDoomed u = true → ∃ t, exec (.unitClose u tag) s = .next t ∧ (t.unitAt u).state = 0 ∧
      (t.unitAt u).holds = false ∧ (t.unitAt u).jobs = (s.unitAt u).jobs.drop 1) ∧
    (((s.unitAt u).cmd ≠ 3 ∨ (s.unitAt u).state ≠ 2) → exec (.unitClose u tag) s = .next s) ∧
    ((s.unitAt u).holds = true → ∃ t, exec (.unitAbort u tag) s = .next t ∧ (t.unitAt u).state = 0 ∧ (t.unitAt u).holds = false ∧ (t.unitAt u).tag = tag ∧
      (t.unitAt u).jobs = (s.unitAt u).jobs.drop 1 ∧ (t.unitAt u).result = [] ∧ (t.unitAt u).accs = [] ∧
      t = { s with unit := t.unit, dr := { s.dr with bank := t.dr.bank, sub := t.dr.sub } }) ∧
    ((s.unitAt u).holds = false → exec (.unitAbort u tag) s = .next s)) ∧
  (∀ (s s1 : State) (u : UnitId) (a : AddCmd) (p : Place) (id old st : Nat) (q : QReq) (r : CwRead), (s.unitAt u).addReq = some id →
    (s.sub (u / 2)).queue.find? (fun q => q.id = id) = some q → p = s.place q.req.addr → unitOfBank p.bank = u.val → (s.unitAt u).cmd = 5 →
    (s.unitAt u).oos = false → (s.unitAt u).addDesc = a.desc → a.desc.bank.toNat < 2 → a.desc.form.toNat < 4 → a.desc.col.toNat < 64 →
    a.desc.off.toNat + addSize a.desc ≤ 32 → a.desc.off.toNat % addSize a.desc = 0 →
    s.addAt p.cw a.desc.off.toNat a.desc.form.toNat a.desc.operand.toNat (s.stackAt (u.val / 128)).policy2 a.errs = (old, st, r, s1) →
    ∃ t, exec (.unitAdd u a) s = .next t ∧ t.unitAt u = { s.unitAt u with
        cmd := 0, rewrote := false, tag := a.tag, addReq := none, poisonRec := none, addOld := if a.desc.wantOld then n64 old else 0, addStatus := st } ∧
      (t.sub (u / 2)).resp = some ⟨q.req, (toBytes 8 (if a.desc.wantOld then n64 old else 0).toNat).take (addSize a.desc), st = 1⟩ ∧
      (t.bankAt p.bank).hold = .none ∧ (t.bankAt p.bank).tWr = some (1000 * s.time.toNat + 20000) ∧ t.dr.madder = s1.dr.madder ∧ t.dr.mark = s1.dr.mark ∧
      t = { s with unit := t.unit, dr := t.dr, fl := t.fl }) ∧
  (∀ (s : State) (cw off form v : Nat) (p : Bool) (errs : List SymErr) (r : CwRead) (f : List (Nat × Nat)), s.dr.decode p none cw errs = (r, f) →
    (r.poison = true → s.addAt cw off form v p errs = (leAt r.data off (addBits form / 8), 1, r, s)) ∧
    (r.poison = false → s.addAt cw off form v p errs = (leAt r.data off (addBits form / 8), 0, r, { s with dr := s.dr.writeCw cw (r.data.take off ++
      toBytes (addBits form / 8) (addForm form (leAt r.data off (addBits form / 8)) v) ++ r.data.drop (off + addBits form / 8)) false }))) ∧
  (∀ (s : State) (u : UnitId) (y : YieldRead), (s.unitAt u).cmd ≠ 0 → (y.now ≤ (s.unitAt u).decided → exec (.yieldPoint u y) s = .next s) ∧
    ((s.unitAt u).decided < y.now → (s.unitAt u).rewrote = false →
      exec (.yieldPoint u y) s = .next (s.setUnit u { s.unitAt u with rewrote := true, decided := y.now })) ∧
    ((s.unitAt u).decided < y.now → (s.unitAt u).rewrote = true → (s.unitAt u).cmd ≠ 5 → ∃ t, exec (.yieldPoint u y) s = .next t ∧
      (t.unitAt u).state = 5 ∧ (t.unitAt u).fault = 4 ∧ (t.unitAt u).cmd = 0 ∧ t = { s with unit := t.unit }) ∧
    ((s.unitAt u).decided < y.now → (s.unitAt u).rewrote = true → (s.unitAt u).cmd = 5 → ∃ t, exec (.yieldPoint u y) s = .next t ∧
      (t.unitAt u).addReq = none ∧ (t.unitAt u).cmd = 0 ∧ (t.unitAt u).state = (s.unitAt u).state)) ∧
  (∀ (s : State) (u : UnitId) (y : YieldRead), (s.unitAt u).cmd = 0 →
    (((s.unitAt u).inWindow = false ∨ (y.parity = false ∧ (s.unitAt u).state ≠ 2)) → exec (.yieldPoint u y) s = .next s) ∧
    ((s.unitAt u).inWindow = true → y.parity = true → (s.unitAt u).state ∈ [1, 2] → ∃ t, exec (.yieldPoint u y) s = .next t ∧
      (t.unitAt u).state = 5 ∧ (t.unitAt u).fault = 4 ∧ t = { s with unit := t.unit })) ∧
  (∀ (s s1 : State) (u : UnitId) (y : YieldRead) (t : Nat), (s.unitAt u).cmd = 0 → (s.unitAt u).inWindow = true → (s.unitAt u).state = 2 → y.parity = false →
    (s.unitAt u).alleyPeer u = none → s.intervene u y.now y.errs = (t, s1) → s1.unitDoomed u = false →
    ((s1.unitAt u).state = 2 → exec (.yieldPoint u y) s =
      .next ((s1.moveInit u).command u (if (s1.moveInit u).goesOn u (max y.now t) then 2 else 3) (max y.now t))) ∧
    ((s1.unitAt u).state ≠ 2 → exec (.yieldPoint u y) s = .next (s1.moveInit u)) ∧ (s1.unitAt u).log = []) ∧
  (∀ (s : State) (u now : Nat), s.goesOn u now = true → now + 13500 + (s.unitAt u).segLenAt (s.unitAt u).pc * 2500 + 18000 ≤ (s.unitAt u).openAt + 2000000) ∧
  (∀ (s : State) (u : UnitId) (j : BankJob) (r : List BankJob), (s.unitAt u).jobs = j :: r → (s.unitAt u).holds = true → j.init = false →
    (∀ i ∈ (s.sub (u / 2)).inits, i.begun = true → i.units = [] → i.bursts ≠ []) →
    ((s.unitAt u).state = 4 → ∃ t, exec (.bankJobEnd u) s = .next t ∧ (t.unitAt u).jobs = r ∧ (t.unitAt u).holds = false ∧
      (t.tileAt j.tile).weldRead (leAt j.desc 52 4) 16 = bankRecord 0 0 (s.unitAt u).poison s.time ∧
      (leAt j.desc 40 4 + min (leAt j.desc 44 4) 8192 ≤ leAt j.desc 52 4 → (t.tileAt j.tile).weldRead (leAt j.desc 40 4) (min (leAt j.desc 44 4) 8192) =
        mread zeroByte (s.unitAt u).result 0 (min (leAt j.desc 44 4) 8192)) ∧
      t.sy = { s.sy with ops := s.sy.ops ++ [⟨.sig ⟨ctrId (leAt j.desc 48 4), 1, .bank u⟩, s.time⟩] }) ∧
    ((s.unitAt u).state = 5 → (s.unitAt u).fault ≠ 3 → (s.unitAt u).fault ≠ 4 → ∃ t, exec (.bankJobEnd u) s = .next t ∧ (t.unitAt u).jobs = r ∧
      (t.unitAt u).holds = false ∧ (t.tileAt j.tile).weldRead (leAt j.desc 52 4) 16 = bankRecord 1 (s.unitAt u).fault (s.unitAt u).poison s.time ∧
      t.sy = { s.sy with ops := s.sy.ops ++ [⟨.sig ⟨ctrId (leAt j.desc 48 4), 1, .bank u⟩, s.time⟩] } ∧
      t.fl.backlog.getLast?.map (·.code) = some 0x0202)) ∧
  (∀ (s : State) (u : UnitId) (j : BankJob) (r : List BankJob) (i : InitJob), (s.unitAt u).jobs = j :: r → (s.unitAt u).holds = true → j.init = true →
    (s.unitAt u).state = 4 → (s.sub (u / 2)).inits = [i] → i.begun = true → i.units = [u.val] → i.bursts = [] → ∃ t, exec (.bankJobEnd u) s = .next t ∧
      (t.unitAt u).jobs = r ∧ (t.sub (u / 2)).inits = [] ∧
      (t.sub (u / 2)).clean = (s.sub (u / 2)).clean ++ (initBanks (u / 2) i).map fun b => (b, i.firstRow, i.rows)) ∧
  (∀ (s : State) (u : UnitId), ((s.unitAt u).holds = false ∨ (s.unitAt u).state < 4) → exec (.bankJobEnd u) s = .next s) ∧
  (∀ (s : State) (u v : UnitId), ((s.unitAt u).holds = true → (s.unitAt v).holds = true → u ≠ v → (s.unitAt u).alleyPeer u = some v.val →
      (s.unitAt u).awaits = true → exec (.alleyTimeout u v) s =
        .next ((s.setUnit u { s.unitAt u with state := 5, fault := 3 }).setUnit v { s.unitAt v with state := 5, fault := 3 })) ∧
    (((s.unitAt u).alleyPeer u ≠ some v.val ∨ (s.unitAt u).awaits = false) → exec (.alleyTimeout u v) s = .next s))

/-- 03 R84, R87 to R89, R100, R101, R103, R116, R117, Table BANK-8: what each micro-instruction does to its unit; one of a unit not RUNNING, or that its store
does not hold at its pc, does nothing. Which operand fields name which buffers, and the lanes' sums, are the model's choices (notes/assumptions/19.md, 20.md, 21.md,
115.md). -/
def Obligations.MicroInstructions : Prop :=
  (∀ (i : Instr) (u : UnitId) (s : State), microUnit i = some u → (s.unitAt u).state ≠ 1 → exec i s = .next s) ∧
  (∀ (s : State) (u : UnitId) (m : Micro) (now : Nat) (errs : List ScrubErr) (p : Nat × Instr), p ∈ [(0x00, Instr.mNop u m), (0x01, .mEnd u ⟨m, errs⟩),
      (0x02, .mSetx u m), (0x03, .mAddx u m), (0x04, .mSetk u m), (0x05, .mLoop u m), (0x06, .mBrz u m), (0x07, .mAct u ⟨m, now⟩), (0x08, .mPre u ⟨m, now⟩),
      (0x09, .mRd u ⟨m, now⟩ errs), (0x0A, .mWr u ⟨m, now⟩), (0x0B, .mBop u m), (0x0C, .mTlu u m), (0x0D, .mGrp u m), (0x0E, .mDot u m), (0x0F, .mExpw u m),
      (0x10, .mLdr u m), (0x11, .mFin u m), (0x12, .mAsnd u m), (0x13, .mArcv u m), (0x14, .mFill u m)] →
    ((s.unitAt u).word (s.unitAt u).pc).toNat ≠ microBits p.1 m → exec p.2 s = .next s) ∧
  (∀ (s : State) (u : UnitId) (m : Micro) (x : BUnit), x = s.unitAt u → x.state = 1 →
    ((x.word x.pc).toNat = microBits 0x00 m → exec (.mNop u m) s = .next (s.setUnit u { x with pc := (x.pc + 1) % 512, state := if m.y then 2 else 1 })) ∧
    ((x.word x.pc).toNat = microBits 0x02 m → m.mode ≠ 1 →
      exec (.mSetx u m) s = .next (s.setUnit u ((x.setX m.xa.toNat (BitVec.ofNat 24 m.imm.toNat)).advance m (x.pc + 1)))) ∧
    ((x.word x.pc).toNat = microBits 0x02 m → m.mode = 1 →
      exec (.mSetx u m) s = .next (s.setUnit u ((x.setX m.xa.toNat (BitVec.ofNat 24 (x.param (m.imm.toNat % 32)))).advance m (x.pc + 1)))) ∧
    ((x.word x.pc).toNat = microBits 0x04 m → m.mode ≠ 1 →
      exec (.mSetk u m) s = .next (s.setUnit u ((x.setK m.kc.toNat (m.imm.setWidth 16)).advance m (x.pc + 1)))) ∧
    ((x.word x.pc).toNat = microBits 0x04 m → m.mode = 1 →
      exec (.mSetk u m) s = .next (s.setUnit u ((x.setK m.kc.toNat ((x.xr m.xb.toNat).setWidth 16)).advance m (x.pc + 1)))) ∧
    ((x.word x.pc).toNat = microBits 0x05 m → exec (.mLoop u m) s = .next (s.setUnit u (if x.kr m.kc.toNat = 0 then x.advance m (x.pc + 1) else
      (x.setK m.kc.toNat (x.kr m.kc.toNat - 1)).advance m (m.imm.toNat % 512)))) ∧
    ((x.word x.pc).toNat = microBits 0x06 m →
      exec (.mBrz u m) s = .next (s.setUnit u (x.advance m (if x.xr m.xa.toNat = 0 then m.imm.toNat % 512 else x.pc + 1))))) ∧
  (∀ (s : State) (u : UnitId) (m : Micro) (x : BUnit), x = s.unitAt u → x.state = 1 → (x.word x.pc).toNat = microBits 0x03 m → ∃ t,
    exec (.mAddx u m) s = .next t ∧ (∀ i, i ≠ m.xa.toNat → (t.unitAt u).xr i = x.xr i) ∧ t = { s with unit := t.unit } ∧
    (m.xa ≠ m.xb → (t.unitAt u).xr m.xa.toNat = x.xr m.xb.toNat + m.imm.setWidth 24) ∧
    (m.xa = m.xb → (t.unitAt u).xr m.xa.toNat = x.xr m.xa.toNat + BitVec.ofNat 24 (m.rep.toNat + 1) * m.imm.setWidth 24)) ∧
  (∀ (s : State) (u : UnitId) (m : Micro) (errs : List ScrubErr) (x : BUnit) (r : Run), x = s.unitAt u → x.state = 1 → (x.word x.pc).toNat = microBits 0x01 m →
    r = (Run.mk s.dr u x errs).finish →
    (∃ t, exec (.mEnd u ⟨m, errs⟩) s = .next t ∧ t = { s with dr := t.dr, unit := t.unit } ∧ t.dr = r.d ∧
      (r.x.fault = 0 → (t.unitAt u).state = 4 ∧ (t.unitAt u).pc = (x.pc + 1) % 512) ∧
      (r.x.fault ≠ 0 → (t.unitAt u).state = 5 ∧ (t.unitAt u).fault = r.x.fault)) ∧
    (x.entry ∉ [0x000, 0x040, 0x060, 0x0A0, 0x100] → x.fault = 0 → r.x.fault = 0 ∧ r.d = s.dr) ∧
    (x.entry = 0x040 → x.wrote = false → x.prog = 0 → x.fault = 0 → x.param 1 = 1 → x.param 2 = 1 →
      (x.inWrite (x.param 0) = true → r.x.fault = 0 ∧ r.d.madder = ((List.range 32).foldl (fun d j => d.putChunk u 0 (x.param 0) j
        (mread zeroByte x.desc 160 32 ++ mread zeroByte x.desc 160 32) false) s.dr).madder) ∧
      (x.inWrite (x.param 0) = false → r.x.fault = 1 ∧ r.d = s.dr))) ∧
  (∀ (s : State) (u : UnitId) (m : Micro) (now : Nat) (x : BUnit) (row i : Nat), x = s.unitAt u → x.state = 1 → (x.word x.pc).toNat = microBits 0x07 m →
    row = (x.xr m.xa.toNat).toNat → i = 2 * m.bk.toNat + row % 2 →
    (((x.inRead row = false ∧ x.inWrite row = false) ∨ m.bk = 3) → exec (.mAct u ⟨m, now⟩) s = .next (s.setUnit u { x with state := 5, fault := 1 })) ∧
    ((x.inRead row = true ∨ x.inWrite row = true) → m.bk.toNat < 2 → actReady x i now = true → gridUp (s.sub (u / 2)).grid u now = now →
      exec (.mAct u ⟨m, now⟩) s = .next (s.setUnit u ((({ x with
        openRows := tput rowD x.openRows i (some row), log := (x.log ++ List.replicate (m.rep.toNat + 1) (row, m.bk.toNat)).take 16, acted := true } : BUnit).setHalf i
          fun h => { h with act := some (lastRep m 24 now) }).advance m (x.pc + 1)))) ∧
    ((x.inRead row = true ∨ x.inWrite row = true) → m.bk.toNat < 2 → (actReady x i now = false ∨ gridUp (s.sub (u / 2)).grid u now ≠ now) →
      exec (.mAct u ⟨m, now⟩) s = .next s)) ∧
  (∀ (s : State) (u : UnitId) (m : Micro) (now : Nat) (x : BUnit) (i : Nat), x = s.unitAt u → x.state = 1 → (x.word x.pc).toNat = microBits 0x08 m →
    i = 2 * m.bk.toNat + m.mode.toNat % 2 → m.bk.toNat < 2 →
    (preReady x i now = true → exec (.mPre u ⟨m, now⟩) s = .next (s.setUnit u ((({ x with openRows := tput rowD x.openRows i none } : BUnit).setHalf i
      fun h => { h with pre := some (lastRep m 1 now) }).advance m (x.pc + 1)))) ∧
    (preReady x i now = false → exec (.mPre u ⟨m, now⟩) s = .next s)) ∧
  (∀ (s : State) (u : UnitId) (m : Micro) (now : Nat) (errs : List ScrubErr) (x : BUnit) (row i col : Nat), x = s.unitAt u → x.state = 1 → m.bk.toNat < 2 →
    i = 2 * m.bk.toNat + m.mode.toNat % 2 → col = (x.xr m.xa.toNat).toNat % 64 / 2 * 2 →
    ((x.word x.pc).toNat = microBits 0x09 m → tget rowD x.openRows i = none → exec (.mRd u ⟨m, now⟩ errs) s = .next (s.setUnit u { x with state := 5, fault := 1 })) ∧
    ((x.word x.pc).toNat = microBits 0x09 m → tget rowD x.openRows i = some row → x.inRead row = false → x.inWrite row = false →
      exec (.mRd u ⟨m, now⟩ errs) s = .next (s.setUnit u { x with state := 5, fault := 1 })) ∧
    ((x.word x.pc).toNat = microBits 0x09 m → tget rowD x.openRows i = some row → (x.inRead row = true ∨ x.inWrite row = true) → rdReady x i now = false →
      exec (.mRd u ⟨m, now⟩ errs) s = .next s) ∧
    (∀ a b, (x.word x.pc).toNat = microBits 0x09 m → tget rowD x.openRows i = some row → (x.inRead row = true ∨ x.inWrite row = true) → m.rep = 0 →
      rdReady x i now = true → a = s.dr.unitRead x.pol2 u m.bk.toNat row col (errsOf errs (2 * m.bk.toNat)) →
      b = s.dr.unitRead x.pol2 u m.bk.toNat row (col + 1) (errsOf errs (2 * m.bk.toNat + 1)) → ∃ t, exec (.mRd u ⟨m, now⟩ errs) s = .next t ∧
        (t.unitAt u).buf (2 * m.bk.toNat + m.mode.toNat / 2 % 2) = ⟨a.data ++ b.data, a.poison || b.poison⟩ ∧
        (t.unitAt u).poison = (x.poison || a.poison || b.poison) ∧ (t.unitAt u).xr m.xa.toNat = x.xr m.xa.toNat + 2 ∧ (t.unitAt u).pc = (x.pc + 1) % 512 ∧
        t = { s with unit := t.unit }) ∧
    ((x.word x.pc).toNat = microBits 0x0A m → tget rowD x.openRows i = some row → x.inWrite row = false →
      exec (.mWr u ⟨m, now⟩) s = .next (s.setUnit u { x with state := 5, fault := 1 })) ∧
    ((x.word x.pc).toNat = microBits 0x0A m → tget rowD x.openRows i = some row → x.inWrite row = true → wrReady x i now = false →
      exec (.mWr u ⟨m, now⟩) s = .next s) ∧
    ((x.word x.pc).toNat = microBits 0x0A m → tget rowD x.openRows i = some row → x.inWrite row = true → m.rep = 0 → wrReady x i now = true → ∃ t,
      exec (.mWr u ⟨m, now⟩) s = .next t ∧ t.dr = s.dr.putChunk u m.bk.toNat row (col / 2) (x.buf (2 * m.bk.toNat + m.mode.toNat / 2 % 2)).data
        (x.buf (2 * m.bk.toNat + m.mode.toNat / 2 % 2)).poison ∧ (t.unitAt u).xr m.xa.toNat = x.xr m.xa.toNat + 2 ∧ (t.unitAt u).wrote = true ∧
      t = { s with unit := t.unit, dr := t.dr })) ∧
  (∀ (s : State) (u : UnitId) (m : Micro) (x : BUnit), x = s.unitAt u → x.state = 1 →
    ((x.word x.pc).toNat = microBits 0x0B m → ∃ t, exec (.mBop u m) s = .next t ∧ t = { s with unit := t.unit } ∧ (m.rep = 0 →
      (t.unitAt u).buf (m.imm.toNat % 4) = ⟨bitopList m.mode.toNat (x.buf (m.xa.toNat % 4)).data (x.buf (m.xb.toNat % 4)).data (x.buf m.kc.toNat).data,
        (x.buf (m.xa.toNat % 4)).poison || (m.mode.toNat ≠ 3 && (x.buf (m.xb.toNat % 4)).poison) || (m.mode.toNat = 4 && (x.buf m.kc.toNat).poison)⟩)) ∧
    ((x.word x.pc).toNat = microBits 0x10 m → ∃ t, exec (.mLdr u m) s = .next t ∧ (t.unitAt u).recs =
      mwrite zeroByte x.recs ((x.xr m.xb.toNat).toNat % 2048 / 64 * 64) (x.buf (2 * (m.bk.toNat % 2) + m.mode.toNat / 2 % 2)).data ∧
      t = { s with unit := t.unit }) ∧
    ((x.word x.pc).toNat = microBits 0x14 m → m.bk.toNat < 2 → ∃ t, exec (.mFill u m) s = .next t ∧
      (t.unitAt u).buf (2 * m.bk.toNat + m.mode.toNat / 2 % 2) = ⟨mread zeroByte x.desc 160 32 ++ mread zeroByte x.desc 160 32, false⟩ ∧
      t = { s with unit := t.unit }) ∧
    (x.alleyIn.length ≤ m.rep.toNat → exec (.mArcv u m) s = .next s) ∧
    (∀ c r, (x.word x.pc).toNat = microBits 0x13 m → m.rep = 0 → x.alleyIn = c :: r → ∃ t, exec (.mArcv u m) s = .next t ∧
      (t.unitAt u).buf (2 * (m.bk.toNat % 2) + m.mode.toNat / 2 % 2) = c ∧ (t.unitAt u).alleyIn = r ∧ (t.unitAt u).poison = (x.poison || c.poison) ∧
      t = { s with unit := t.unit }) ∧
    (∀ v, (x.word x.pc).toNat = microBits 0x12 m → v = u.val / 128 * 128 + alleyUnit (x.param 3 % 128) →
      (v / 32 ≠ u.val / 32 → exec (.mAsnd u m) s = .next (s.setUnit u { x with state := 5, fault := 1 })) ∧
      (v / 32 = u.val / 32 → v ≠ u.val → ∃ t, exec (.mAsnd u m) s = .next t ∧ (t.unitAt v).alleyIn =
        (s.unitAt v).alleyIn ++ List.replicate (m.rep.toNat + 1) (x.buf (2 * (m.bk.toNat % 2) + m.mode.toNat / 2 % 2)) ∧
        (t.unitAt u).pc = (x.pc + 1) % 512 ∧ t = { s with unit := t.unit })) ∧
    (∀ i, i ∈ [(0x0C, Instr.mTlu u m), (0x0D, .mGrp u m), (0x0E, .mDot u m), (0x0F, .mExpw u m)] → (x.word x.pc).toNat = microBits i.1 m → ∃ a, exec i.2 s =
      .next (({ s with freeCount := s.freeCount + 1024 } : State).setUnit u (({ x with accs := a } : BUnit).advance m (x.pc + 1)))) ∧
    ((x.word x.pc).toNat = microBits 0x11 m → ∃ a, exec (.mFin u m) s =
      .next (({ s with freeCount := s.freeCount + 8192 } : State).setUnit u (({ x with result := a } : BUnit).advance m (x.pc + 1)))))

/-- 08 R250, R255 to R261, Tables TIER-7 to TIER-9: a descriptor's check, its bursts, its record and signal, the next of the chain; triggers; aborts; the grants
of an engine among channels that may issue a burst. -/
def Obligations.DmaChannels : Prop :=
  (∀ (s : State) (c : ChanId), (s.chanAt c).state = 2 → (s.chanAt c).started = false → (s.chanAt c).ended = none →
    (∀ e, s.dmCheck c (s.chanAt c) = some e → exec (.descriptorStart c) s = .next (s.setChan c { s.chanAt c with ended := some e })) ∧
    (s.dmCheck c (s.chanAt c) = none → (fromLot (s.chanAt c).desc = false ∨ dmOp (s.chanAt c).desc ≠ 2) →
      exec (.descriptorStart c) s = .next (s.setChan c { s.chanAt c with started := true })) ∧
    (s.dmCheck c (s.chanAt c) = none → fromLot (s.chanAt c).desc = true → dmOp (s.chanAt c).desc = 2 →
      exec (.descriptorStart c) s = .next ((s.setChan c { s.chanAt c with started := true }).blockRead c (s.chanAt c).desc))) ∧
  (∀ (s : State) (c : ChanId), ((s.chanAt c).state ≠ 2 ∨ (s.chanAt c).started = true) → exec (.descriptorStart c) s = .next s) ∧
  (∀ (s : State) (c : Nat) (x : Chan), (dmFormatOk x.desc = false → s.dmCheck c x = some 7) ∧
    (dmFormatOk x.desc = true → x.service = false → (dmOp x.desc = 1 ∨ dmOp x.desc = 2 ∨ dmClass x.desc ≠ 3 ∨
      (dmOp x.desc = 0 ∧ (dmSrcKind x.desc ≠ 0 ∨ dmDstKind x.desc ≠ 0))) → s.dmCheck c x = some 2) ∧
    (dmFormatOk x.desc = true → x.service = true → s.recordOk c x = false → s.dmCheck c x = some 2)) ∧
  (∀ (s s0 s1 : State) (c : ChanId) (host : HostData) (errs : BurstErr) (x : Chan) (b : Burst) (h k : Nat × Nat) (hs ks : List (Nat × Nat)) (ps : List Piece),
    x = s.chanAt c → x.doing 0 = true → x.flight[errs.pos.val]? = some b → dmSrcKind x.desc < 2 → dmDstKind x.desc < 2 → fromLot x.desc = false →
    toLot x.desc = false → b.src = h :: hs → b.dst = k :: ks → isCtrl h.1 = false → isCtrl k.1 = false → s.dmReady x.desc b.src b.dst = true →
    s0 = b.msg.elim s s.carryMsg → s0.readChunks .dma b.src errs.errs (dmClass x.desc) = (ps, s1) →
    exec (.dmaCopy c host errs) s = .next ((s1.writeChunksAs .dma (dmClass x.desc) b.dst ps).burstDone c b)) ∧
  (∀ (s : State) (c : ChanId) (b : Burst), (s.burstDone c b).chanAt c =
    if (s.chanAt c).granted = dmBursts (s.chanAt c).desc ∧ (s.chanAt c).flight.erase b = [] then { s.chanAt c with flight := [], ended := some 0 }
    else { s.chanAt c with flight := (s.chanAt c).flight.erase b }) ∧
  (∀ (s : State) (c : ChanId) (host : HostData) (errs : BurstErr), ((s.chanAt c).doing 0 = false ∨ (s.chanAt c).flight[errs.pos.val]? = none) →
    exec (.dmaCopy c host errs) s = .next s) ∧
  (∀ (s : State) (c : ChanId) (host : HostData) (errs : BurstErr) (b : Burst), (s.chanAt c).doing 0 = true → (s.chanAt c).flight[errs.pos.val]? = some b →
    s.linkBad (s.chanAt c) host.linkOk = true → exec (.dmaCopy c host errs) s = .next (s.linkFail c)) ∧
  (∀ (s : State) (c : ChanId) (x : Chan), x = s.chanAt c →
    ((x.other = true ∨ bitAt (dmFlags x.desc) 2 = false ∨ s.portsUp x.desc true = false) →
      s.linkFail c = s.setChan c { x with ended := some 5, flight := [] }) ∧
    (x.other = false → bitAt (dmFlags x.desc) 2 = true → dmOutside x.desc = true → s.portsUp x.desc true = true →
      s.poolsOk x.desc true (dmDstLen x.desc) = true → s.linkFail c = s.setChan c { x with other := true })) ∧
  (∀ (s s1 : State) (c : ChanId) (errs : List ScrubErr) (x : Chan) (h : Nat × Nat) (hs : List (Nat × Nat)) (ps : List Piece) (text : List Byte),
    x = s.chanAt c → x.doing 1 = true → x.moved = true → dmSrcKind x.desc < 2 → fromLot x.desc = false → isCtrl h.1 = false →
    s.dmRange x (dmSrcKind x.desc) false (dmSrc x.desc) (dmLen x.desc) = .ok (h :: hs) → s.linkBad x true = false → s.dmReady x.desc (h :: hs) [] = true →
    s.readChunks .dma (h :: hs) errs (dmClass x.desc) = (ps, s1) →
    text = cipherText (BitVec.ofNat 16 (dmTenant x.desc)) (s.ten (dmTenant x.desc)).epoch (n32 (dmObject x.desc)) (n32 (dmUnit x.desc))
      (buildFrame (fCompress (s.objAt (dmObject x.desc)).flags) (dmUkind x.desc) (dmObject x.desc) (dmUnit x.desc) (bytesOf ps)) →
    (anyPoison ps = true → exec (.dmaEncode c errs) s = .next (s1.endXfer c 3)) ∧
    (anyPoison ps = false → 2 ≤ dmDstKind x.desc → s1.poolsOk x.desc x.other text.length = true → ∃ t, exec (.dmaEncode c errs) s = .next t ∧
      (t.chanAt c).ended = some 0 ∧ (t.chanAt c).flen = text.length ∧
      t.ho = (s1.hostWrite (dmDst x.desc) (bytesOf (recut 0 text fun _ => false))).ho)) ∧
  (∀ (s s1 : State) (c : ChanId) (host : HostData) (errs : List ScrubErr) (x : Chan) (h : Nat × Nat) (hs dp : List (Nat × Nat)) (ps : List Piece),
    x = s.chanAt c → x.doing 2 = true → x.moved = true → dmSrcKind x.desc < 2 → dmDstKind x.desc < 2 → fromLot x.desc = false → isCtrl h.1 = false →
    s.dmRange x (dmSrcKind x.desc) false (dmSrc x.desc) (dmFlen x.desc) = .ok (h :: hs) →
    s.dmRange x (dmDstKind x.desc) true (dmDst x.desc) (dmLen x.desc) = .ok dp → s.dmReady x.desc (h :: hs) dp = true →
    s.readChunks .dma (h :: hs) errs (dmClass x.desc) = (ps, s1) →
    (∀ b, anyPoison ps = false → s1.decipher x.desc (bytesOf ps) = some b → exec (.dmaDecode c host errs) s =
      .next ((s1.dmWrite c x.desc dp 0 (recut 0 b fun _ => false)).endXfer c 0)) ∧
    ((anyPoison ps = true ∨ s1.decipher x.desc (bytesOf ps) = none) →
      (x.reread = true → exec (.dmaDecode c host errs) s = .next (s1.endXfer c 4)) ∧
      (x.reread = false → exec (.dmaDecode c host errs) s = .next (s1.setChan c { s1.chanAt c with reread := true, granted := 0 })))) ∧
  (∀ (s : State) (c : ChanId) (host : HostData) (errs : List ScrubErr), (s.chanAt c).moved = false →
    exec (.dmaEncode c errs) s = .next s ∧ exec (.dmaDecode c host errs) s = .next s) ∧
  (∀ (s : State) (c : ChanId), (s.chanAt c).doing 3 = true → exec (.dmaWait c) s = .next (s.setChan c { s.chanAt c with ended := some 0, flight := [] })) ∧
  (∀ (s : State) (t : TileId) (n : Fin 16), (tget (fun _ => (⟨0, 0, 0⟩ : Timer)) (s.tileAt t).timers n).fires s.time = true → ∃ u, exec (.timerFiring t n) s = .next u ∧
    (∀ k, k < 32 → u.chanAt (32 * t + k) = if (s.chanAt (32 * t + k)).state = 1 ∧ dmTrigger (s.chanAt (32 * t + k)).desc = 1 ∧
      dmTindex (s.chanAt (32 * t + k)).desc = n.val then { s.chanAt (32 * t + k) with state := 2 } else s.chanAt (32 * t + k)) ∧
    u = { s with dm := { s.dm with chan := u.dm.chan } }) ∧
  (∀ (s : State) (t : TileId) (n : Fin 16), (tget (fun _ => (⟨0, 0, 0⟩ : Timer)) (s.tileAt t).timers n).fires s.time = false →
    exec (.timerFiring t n) s = .next s) ∧
  (∀ (x : Timer) (t : W64), x.fires t = true ↔ x.period ≠ 0 ∧ x.period.toNat ∣ (t - x.phase).toNat) ∧
  (∀ (s : State) (c : ChanId), (s.chanAt c).state = 1 → dmTrigger (s.chanAt c).desc = 2 →
    (s.chanRests (c.val / 32 * 32 + dmTindex (s.chanAt c).desc) = true → exec (.channelTrigger c) s = .next (s.setChan c { s.chanAt c with state := 2 })) ∧
    (s.chanRests (c.val / 32 * 32 + dmTindex (s.chanAt c).desc) = false → exec (.channelTrigger c) s = .next s)) ∧
  (∀ (s : State) (c : ChanId) (m : WakeMsg), (s.sy.wakes.find? fun m => m.target = .chan c) = some m →
    ((s.chanAt c).state = 1 → 3 ≤ dmTrigger (s.chanAt c).desc → m.owner = .chan c (s.chanAt c).life → exec (.dmaTriggerDelivery c) s =
      .next (({ s with sy := { s.sy with wakes := s.sy.wakes.erase m } } : State).setChan c { s.chanAt c with state := 2 })) ∧
    (((s.chanAt c).state ≠ 1 ∨ ∃ d l, m.owner = .chan d l ∧ l ≠ (s.chanAt c).life) → exec (.dmaTriggerDelivery c) s =
      .next (({ s with sy := { s.sy with wakes := s.sy.wakes.erase m } } : State).log 0x0207
        (domOf .tile (m.ctr.val / 4096)) (n64 m.ctr.val) (m.consumed.setWidth 64)))) ∧
  (∀ (s : State) (c : ChanId) (e : Nat) (x : Chan) (tl : Tile), x = s.chanAt c → tl = s.tileAt (c.val / 32) → x.state = 2 → x.ended = some e →
    (e = 0 → s.chanReqs c = []) → s.stageOf c = none → (x.service = false ∨ dmOp x.desc ≠ 2) → ∃ t, exec (.descriptorEnd c) s = .next t ∧
      (dmStatus x.desc + 16 ≤ tl.weldSize → s.recordOk c x = true →
        (t.tileAt (c.val / 32)).weldRead (dmStatus x.desc) 16 = dmRecord e (x.other || x.reread) x.flen s.time) ∧
      (bitAt (dmFlags x.desc) 0 = true → t.sy.sigs = s.sy.sigs ++ [⟨ctrId (dmCounter x.desc), 1, .chan c⟩]) ∧
      (bitAt (dmFlags x.desc) 0 = false → t.sy.sigs = s.sy.sigs) ∧
      (e ≠ 0 → (t.chanAt c).state = 3 ∧ (t.chanAt c).code = e) ∧
      (e = 0 → dmNext x.desc = 0xFFFFFFFF → (t.chanAt c).state = 0) ∧
      (e = 0 → dmNext x.desc ≠ 0xFFFFFFFF → s.descBad c (dmNext x.desc) x = none → (t.chanAt c).cur = dmNext x.desc ∧ (t.chanAt c).started = false) ∧
      (∀ k, e = 0 → dmNext x.desc ≠ 0xFFFFFFFF → s.descBad c (dmNext x.desc) x = some k → (t.chanAt c).state = 3 ∧ (t.chanAt c).code = k)) ∧
  (∀ (s : State) (c : ChanId) (m t l : Nat), (s.chanAt c).state = 2 → (s.chanAt c).ended = some 0 → s.chanReqs c = [] → s.stageOf c = some (m, t, l, true) → ∃ u,
    exec (.descriptorEnd c) s = .next u ∧
      tget (fun _ => 0) (u.modelAt m).staged (256 * t + l) = tget (fun _ => 0) (s.modelAt m).staged (256 * t + l) + 1) ∧
  (∀ (s : State) (c : ChanId), (s.chanAt c).state = 2 → (s.chanAt c).ended = some 0 → s.chanReqs c ≠ [] → exec (.descriptorEnd c) s = .next s) ∧
  (∀ (s : State) (c : ChanId), ((s.chanAt c).state = 0 ∨ (s.chanAt c).state = 3) → exec (.dmaAbort c) s = .next s) ∧
  (∀ (s : State) (c : ChanId), (s.chanAt c).state ≠ 0 → (s.chanAt c).state ≠ 3 → ∃ t, exec (.dmaAbort c) s = .next t ∧ (t.chanAt c).state = 3 ∧
    (t.chanAt c).code = 9 ∧ (t.chanAt c).ended = none ∧ (∀ d, d ≠ c.val → t.chanAt d = s.chanAt d) ∧
    (∀ w, (s.chanAt c).state = 1 → triggerWatch c (s.chanAt c).life (s.chanAt c).desc = some w → ⟨.cancel (.one w), s.time⟩ ∈ t.sy.ops)) ∧
  (∀ (s : State) (t : TileId) (ready : List Nat), (∀ k ∈ ready, s.canBurst t k = false) → exec (.burstGrant t ready) s = .next s) ∧
  (∀ (s : State) (t k : Nat), s.canBurst t k = true → (s.chanAt (32 * t + k)).flight.length < 8 ∧ s.engineFlight t < 64 ∧
    (s.chanAt (32 * t + k)).granted < dmBursts (s.chanAt (32 * t + k)).desc) ∧
  (∀ (s : State) (t : TileId) (ready : List Nat) (P k : Nat), P < 4 → s.readyAt t ready P = [k] → (∀ q, q < P → s.readyAt t ready q = []) →
    (∀ q, P < q → q < 4 → tget natD s.dm.starve (4 * t + q) < 64) → ∃ u, exec (.burstGrant t ready) s = .next u ∧
      tget natD u.dm.last (4 * t + P) = k ∧ tget natD u.dm.starve (4 * t + P) = 0 ∧
      (∀ q, P < q → q < 4 → tget natD u.dm.starve (4 * t + q) =
        if s.readyAt t ready q = [] then 0 else tget natD s.dm.starve (4 * t + q) + 1) ∧ u = { s with dm := u.dm, str := u.str, cw := u.cw } ∧
      (dmOp (s.chanAt (32 * t + k)).desc ≠ 0 → (u.chanAt (32 * t + k)).granted = (s.chanAt (32 * t + k)).granted + 1) ∧
      (∀ e, dmOp (s.chanAt (32 * t + k)).desc = 0 → s.dmRange (s.chanAt (32 * t + k)) (dmSrcKind (s.chanAt (32 * t + k)).desc) false
          (dmSrc (s.chanAt (32 * t + k)).desc + 512 * (s.chanAt (32 * t + k)).granted)
          (min 512 (dmSrcLen (s.chanAt (32 * t + k)).desc - 512 * (s.chanAt (32 * t + k)).granted)) = .error e →
        (u.chanAt (32 * t + k)).ended = some e) ∧
      ((u.chanAt (32 * t + k)).ended = none → (u.chanAt (32 * t + k)).granted = (s.chanAt (32 * t + k)).granted + 1))


/-- 11 R306 to R320, 02 R72, 07 R226, R227: what a report logs and starts, aborts and replays, expired limits, probes and self-checks, adoption, the roles, rebuilds
and their moves to new pages. What REBUILD_COPY_DONE stands for, and that a released thread is FREE, are the model's choices (notes/assumptions/52.md, 69.md). -/
def Obligations.ErrorHandling : Prop :=
  (∀ (s : State) (e : ErrRep), s.md.state = 2 → exec (.errorReport e) s = .next s) ∧
  (∀ (s : State) (e : ErrRep), s.md.state ≠ 2 → handled e.code.toNat = false → e.code ≠ 0x0306 →
    (s.fl.detected.find? fun d => d.code = e.code && d.dom = e.dom && d.a0 = e.a0) = none →
    exec (.errorReport e) s = .next (s.log e.code e.dom e.a0 e.a1 e.a2 e.a3 (s.nesting e.dom))) ∧
  (∀ (s : State) (e : ErrRep), s.md.state ≠ 2 → e.code = 0x0306 → ∃ t, exec (.errorReport e) s = .next t ∧ t.md.state = 2 ∧ t.md.failReason = 4 ∧
    t.md.running = false) ∧
  (∀ (s : State) (e : ErrRep) (c : SubId), s.md.state ≠ 2 → e.code = 0x0103 → e.dom = ⟨.sub, c.val⟩ → e.affected = [] → e.served = [] →
    (s.fl.detected.find? fun d => d.code = e.code && d.dom = e.dom && d.a0 = e.a0) = none → s.handlerOf e.dom = none → ∃ t,
      exec (.errorReport e) s = .next t ∧ ⟨⟨.sub, c.val⟩, false, s.fl.seq, s.time⟩ ∈ t.fl.handlers ∧ t.fl.seq = s.fl.seq + 1 ∧ (t.sub c).retrainCause = 1 ∧
      ((t.sub c).holder = 1 ∨ 1 ∈ (t.sub c).waiting)) ∧
  (∀ (s : State) (m : ModelId) (g : Group), (s.modelAt m).group = some g → (g.replay = false ∨ s.md.running = false) → exec (.replayStart m) s = .next s) ∧
  (∀ (s s1 : State) (m : ModelId) (g : Group) (cs : List Nat), (s.modelAt m).group = some g → g.replay = true → s.md.running = true →
    cs = s.groupCounters m → s1 = (s.setStrict cs false).cancelOn cs →
    ((s1.signalsDue cs = true ∨ s1.workLeft m = true) → exec (.replayStart m) s =
      .next (s1.setModel m { s.modelAt m with group := some { g with calm := none } })) ∧
    (s1.signalsDue cs = false → s1.workLeft m = false → s.time.toNat < (g.calm.getD s.time).toNat + 40 → exec (.replayStart m) s =
      .next (s1.setModel m { s.modelAt m with group := some { g with calm := some (g.calm.getD s.time) } })) ∧
    (s1.signalsDue cs = false → s1.workLeft m = false → (g.calm.getD s.time).toNat + 40 ≤ s.time.toNat → exec (.replayStart m) s =
      .next (((cs.foldl State.zeroCtr s1).setStrict cs true).replayNow m g))) ∧
  (∀ (s : State) (m : ModelId) (g : Group), (s.modelAt m).stageTiles = [] → ∃ ps, ps.length = g.pieces.length ∧
    (s.replayNow m g).modelAt m = { s.modelAt m with
      group := some { g with replay := false, calm := none, pieces := ps }, staged := [], layerAt := s.time } ∧
    (s.replayNow m g).fl.backlog = (s.log 0x0601 (domOf .square (s.modelAt m).lead) (n64 (g.attempts + 1)) (g.cause.setWidth 64) (s.time - g.abortAt) 0
      { model := BitVec.ofNat 16 m, step := (s.modelAt m).stepNo }).fl.backlog ∧
    (s.replayNow m g).sy.sigs.length = s.sy.sigs.length + (s.modelAt m).homeTiles.length) ∧
  (∀ (s : State) (m : Nat) (cause : W32) (g : Group), (s.modelAt m).group = some g →
    (g.replay = true → s.abortGroup m cause = s.setModel m { s.modelAt m with group := some { g with cause := cause } }) ∧
    (g.replay = false → 4 ≤ g.attempts → s.abortGroup m cause = s.faultAll (g.members.map (·.slot)) cause) ∧
    (g.replay = false → g.attempts < 4 → (∃ h, ((s.abortGroup m cause).modelAt m).group = some h ∧ h.replay = true ∧ h.layer = 0 ∧
        h.attempts = g.attempts + 1 ∧ h.cause = cause ∧ h.members = g.members ∧ h.pieces = g.pieces) ∧
      (∀ i, i < 131072 → ((s.abortGroup m cause).thrAt i).group = some m → ((s.abortGroup m cause).thrAt i).st = .free))) ∧
  (∀ (s : State) (d : Domain), (∀ h ∈ s.fl.handlers, h.dom ≠ d) → exec (.handlerLimitExpiry d) s = .next s) ∧
  (∀ (s : State) (d : Domain) (h : Handler), (s.fl.handlers.find? fun h => h.dom = d) = some h →
    (limitOf d.kind = none ∨ ∃ l, limitOf d.kind = some l ∧ s.time.toNat < h.since.toNat + l) → exec (.handlerLimitExpiry d) s = .next s) ∧
  (limitOf .sub = some 110000 ∧ limitOf .die = some 120000 ∧ limitOf .stack = some 150000 ∧ limitOf .tile = some 280000 ∧ limitOf .square = some 320000 ∧
    limitOf .hostPort = some 300000 ∧ limitOf .module = some 350000 ∧ limitOf .cwPort = none) ∧
  (∀ (s : State) (c : SubId) (seq : W32) (since : W64), (s.fl.handlers.find? fun h => h.dom = ⟨.sub, c.val⟩) = some ⟨⟨.sub, c.val⟩, false, seq, since⟩ →
    since.toNat + 110000 ≤ s.time.toNat → (s.sub c).state = 1 → ∃ t,
    exec (.handlerLimitExpiry ⟨.sub, c.val⟩) s = .next t ∧ ⟨⟨.stack, c.val / 64⟩, true, seq, s.time⟩ ∈ t.fl.handlers ∧
    ((t.sub c).holder = 1 ∨ 1 ∈ (t.sub c).waiting)) ∧
  (∀ (s : State) (c : SubId) (seq : W32) (since : W64), (s.fl.handlers.find? fun h => h.dom = ⟨.sub, c.val⟩) = some ⟨⟨.sub, c.val⟩, true, seq, since⟩ →
    since.toNat + 110000 ≤ s.time.toNat → (s.sub c).state ≠ 3 → ∃ t,
    exec (.handlerLimitExpiry ⟨.sub, c.val⟩) s = .next t ∧ (t.sub c).state = 3 ∧ (∀ h ∈ t.fl.handlers, h.dom ≠ ⟨.sub, c.val⟩) ∧ ⟨.sub, c.val⟩ ∈ t.fl.out) ∧
  (∀ (s : State) (l : List TileId), (s.md.running = false ∨ s.time.toNat < s.md.probeAt.toNat + 20000) → exec (.livenessProbe l) s = .next s) ∧
  (∀ (s : State) (t : TileId), s.md.running = true → s.md.probeAt.toNat + 20000 ≤ s.time.toNat → s.tileUp t = true → (s.tileAt t).missed = 0 → ∃ u,
    exec (.livenessProbe [t]) s = .next u ∧
    u.tileAt t = { s.tileAt t with missed := 1 } ∧ (∀ i, i < 64 → i ≠ t.val → s.tileUp i = true → u.tileAt i = { s.tileAt i with missed := 0 }) ∧
    u = { s with tile := u.tile, fl := u.fl, md := { s.md with probeAt := s.time }, dr := { s.dr with sub := u.dr.sub } }) ∧
  (∀ (s : State) (t : TileId) (pass : Bool), ((s.tileAt t).state ≠ 1 ∨ s.md.state ≠ 1) → exec (.tileSelfCheckEnd t pass) s = .next s) ∧
  (∀ (s : State) (t : TileId), (s.tileAt t).state = 1 → s.md.state = 1 → (∃ u, exec (.tileSelfCheckEnd t true) s = .next u ∧ (u.tileAt t).state = 2 ∧
      (u.tileAt t).weld = [] ∧ (u.tileAt t).plaza = [] ∧ (u.tileAt t).weldMark = [] ∧ (∀ i, i ≠ t.val → u.tileAt i = s.tileAt i) ∧
      (∀ i, i / 2048 = t.val → (u.thrAt i).st = .free ∧ (u.thrAt i).g = [] ∧ (u.thrAt i).v = [] ∧ (u.thrAt i).pc = 0) ∧
      (∀ i, i < 131072 → i / 2048 ≠ t.val → (s.thrAt i).st = .blocked → (∃ c, (s.thrAt i).blk = .watch c ∧ c / 4096 = t.val) → (u.thrAt i).st = .free) ∧ (∀ c, c / 4096 = t.val → u.ctrAt c = ctrInit)) ∧
    (∃ u, exec (.tileSelfCheckEnd t false) s = .next u ∧ (u.tileAt t).state = 0)) ∧
  (∀ (s : State) (c : SubId), (s.sub c).state = 0 → (s.sub c).standbyPort = true → ∃ t, exec (.adoptedSubchannelOpen c) s = .next t ∧ (t.sub c).state = 1 ∧
    (t.sub c).serving = (s.sub c).serving) ∧
  (∀ (s : State) (c : SubId), (s.sub c).standbyPort = false → exec (.adoptedSubchannelOpen c) s = .next s) ∧
  (∀ s : State, (s.md.takeover = false → exec .primaryTakeover s = .next s) ∧ (s.md.takeover = true → ∃ t, exec .primaryTakeover s = .next t ∧
    t.md.primary = s.md.standby ∧ t.md.takeover = false ∧ t.md.standbyReady = false ∧ t.md.hbFirst = true ∧ t.fl.seq = s.fl.seq + 1 ∧ t = { s with md := t.md, fl := t.fl })) ∧
  (∀ s : State, s.tileUp s.md.standby = true → s.md.standby ≠ s.md.primary → exec .standbyReady s = .next { s with md := { s.md with standbyReady := true } }) ∧
  (∀ (s : State) (obj unit : W32) (ok : Bool), (∀ r ∈ s.fl.rebuilds, (r.obj, r.unit) ≠ (obj, unit)) → exec (.rebuildCopyDone obj unit ok) s = .next s ∧
    exec (.rebuildRetry obj unit) s = .next s) ∧
  (∀ (s : State) (obj unit : W32) (r : Rebuild), (s.fl.rebuilds.find? fun r => (r.obj, r.unit) = (obj, unit)) = some r → (s.objAt obj.toNat).live = true →
    ((s.objAt obj.toNat).unit unit.toNat).quarantined = true →
    (r.waiting = false → ∃ t, exec (.rebuildCopyDone obj unit true) s = .next t ∧ ((t.objAt obj.toNat).unit unit.toNat).quarantined = false ∧
      (∀ q ∈ t.fl.rebuilds, (q.obj, q.unit) ≠ (obj, unit)) ∧ (t.objAt obj.toNat).pages = (s.objAt obj.toNat).pages) ∧
    (r.waiting = false → exec (.rebuildRetry obj unit) s = .next s) ∧
    (r.waiting = true → s.newPages (fBank (s.objAt obj.toNat).flags) (((s.objAt obj.toNat).unitPages unit.toNat).map fun i =>
      ((s.objAt obj.toNat).copyPages r.mirror).getD i 0) = none → ∃ t, exec (.rebuildRetry obj unit) s = .next t ∧ t = { s with fl := t.fl } ∧
      t.fl.rebuilds.length = s.fl.rebuilds.length)) ∧
  (∀ (s : State) (obj unit : W32) (r : Rebuild) (o : Obj) (old new : List Nat), (s.fl.rebuilds.find? fun r => (r.obj, r.unit) = (obj, unit)) = some r →
    r.waiting = true → o = s.objAt obj.toNat → old = (o.unitPages unit.toNat).map (fun i => (o.copyPages r.mirror).getD i 0) →
    s.newPages (fBank o.flags) old = some new → ∃ t, exec (.rebuildRetry obj unit) s = .next t ∧
      (t.objAt obj.toNat).copyPages r.mirror = ((o.unitPages unit.toNat).zip new).foldl (fun l q => l.set q.1 q.2) (o.copyPages r.mirror) ∧
      (t.objAt obj.toNat).copyPages (!r.mirror) = o.copyPages (!r.mirror) ∧ ((t.objAt obj.toNat).unit unit.toNat).quarantined = false ∧
      (∀ q ∈ t.fl.rebuilds, (q.obj, q.unit) ≠ (obj, unit)) ∧ (∀ p ∈ old, p ∈ t.fl.retired) ∧
      t.ti.used = (s.ti.used.filter fun p => !old.contains p) ++ new)

/-- 13 R359 to R366: flits, acknowledgement and go-back-N, the choice of the next flit, training and its failures, keepalives. -/
def Obligations.CausewayLink : Prop :=
  (∀ (s : State) (p : CwPortId) (f : List Byte), (s.cwAt p).state ≠ 2 → exec (.flitReceive p f) s = .next s) ∧
  (∀ (s : State) (p : CwPortId) (f : List Byte), (s.cwAt p).state = 2 → flitOk f = false → leAt f 0 1 ≠ 1 → exec (.flitReceive p f) s = .next s) ∧
  (∀ (s : State) (p : CwPortId) (f : List Byte), (s.cwAt p).state = 2 → flitOk f = false → leAt f 0 1 = 1 → 
    ((s.cwAt p).nakSeq ≠ some (s.cwAt p).rxNext ∨ (s.cwAt p).nakAt.toNat + 1000 ≤ s.time.toNat) → exec (.flitReceive p f) s = .next (s.setCw p { s.cwAt p with nakSeq := some (s.cwAt p).rxNext, nakAt := s.time, nakDue := true })) ∧
  (∀ (s : State) (p : CwPortId) (f : List Byte), (s.cwAt p).state = 2 → flitOk f = false → leAt f 0 1 = 1 → (s.cwAt p).nakSeq = some (s.cwAt p).rxNext →
    s.time.toNat < (s.cwAt p).nakAt.toNat + 1000 → exec (.flitReceive p f) s = .next s) ∧
  (∀ (s : State) (p : CwPortId) (f : List Byte), (s.cwAt p).state = 2 → flitOk f = true → leAt f 0 1 = 1 → leAt f 1 1 % 4 < 3 →
    n32 (leAt f 4 4) = (s.cwAt p).rxNext → ∃ t, exec (.flitReceive p f) s = .next t ∧ (t.cwAt p).rxNext = (s.cwAt p).rxNext + 1 ∧ (t.cwAt p).nakSeq = none ∧
      (t.cwAt p).txSeq = (s.cwAt p).txSeq ∧ (t.cwAt p).reqs = (s.cwAt p).reqs ∧ (∀ q, q ≠ p.val → t.cwAt q = s.cwAt q) ∧
      t = { s with cw := { s.cw with port := t.cw.port }, fl := t.fl }) ∧
  (∀ (s : State) (p : CwPortId) (f : List Byte), (s.cwAt p).state = 2 → flitOk f = true → leAt f 0 1 = 1 → n32 (leAt f 4 4) ≠ (s.cwAt p).rxNext → ∃ t,
    exec (.flitReceive p f) s = .next t ∧ (t.cwAt p).rxNext = (s.cwAt p).rxNext ∧ (t.cwAt p).inb = (s.cwAt p).inb ∧ (t.cwAt p).part = (s.cwAt p).part) ∧
  (∀ (s : State) (p : CwPortId) (ack : W32) (f : RFlit) (r : List RFlit), (s.cwAt p).state = 2 → (s.cwAt p).replay = f :: r → serialCmp f.seq ack = .before →
    exec (.cwNak p ack) s = .next (s.setCw p { s.cwAt p with replay := (f :: r).map (fun g => { g with since := s.time.toNat }), resend := r.length + 1, expired := true, replayTop := f.seq })) ∧
  (∀ (s : State) (p : CwPortId) (f : RFlit), (s.cwAt p).state = 2 → (s.cwAt p).replay = [f] → ∃ t, exec (.cwNak p f.seq) s = .next t ∧ (t.cwAt p).replay = [] ∧
    (t.cwAt p).resend = 0) ∧
  (∀ (s : State) (p : CwPortId) (f : RFlit) (r : List RFlit), (s.cwAt p).state = 2 → (s.cwAt p).replay = f :: r →
    (s.time.toNat < f.since + 1000 → exec (.replayTimer p) s = .next s) ∧
    (f.since + 1000 ≤ s.time.toNat → exec (.replayTimer p) s =
      .next (s.setCw p { s.cwAt p with
        replay := (f :: r).map (fun g => { g with since := s.time.toNat }), resend := r.length + 1, expired := true, replayTop := f.seq,
        failed := if (s.cwAt p).expired then min 15 ((s.cwAt p).failed + 1) else (s.cwAt p).failed }))) ∧
  (∀ (s : State) (p : CwPortId), (s.cwAt p).state = 2 → ((s.cwAt p).nakDue = true → ∃ t, exec (.flitSlot p) s = .next t ∧ (t.cwAt p).nakDue = false ∧
      leAt (t.cwAt p).wire 0 1 = 2 ∧ (t.cwAt p).replay = (s.cwAt p).replay ∧ (t.cwAt p).txSeq = (s.cwAt p).txSeq) ∧
    (∀ v, (s.cwAt p).nakDue = false → (s.cwAt p).resend = 0 → (s.cwAt p).nextVc = some v → ∃ t w, exec (.flitSlot p) s = .next t ∧
      (t.cwAt p).txSeq = (s.cwAt p).txSeq + 1 ∧ (t.cwAt p).replay = (s.cwAt p).replay ++ [⟨(s.cwAt p).txSeq, v, w, s.time.toNat⟩] ∧ w.length = 112 ∧
      (t.cwAt p).credits.getD v 0 = (s.cwAt p).credits.getD v 0 - 1 ∧ t = { s with cw := { s.cw with port := t.cw.port } }) ∧
    ((s.cwAt p).nakDue = false → (s.cwAt p).resend = 0 → (s.cwAt p).nextVc = none → ∃ t, exec (.flitSlot p) s = .next t ∧ leAt (t.cwAt p).wire 0 1 = 0 ∧
      (t.cwAt p).txSeq = (s.cwAt p).txSeq ∧ (t.cwAt p).replay = (s.cwAt p).replay)) ∧
  (∀ (x : CwPort) (v : Nat), x.nextVc = some v → x.replay.length < 1024 ∧ 1 ≤ x.credits.getD v 0 ∧ x.out.getD v [] ≠ []) ∧
  (∀ (type vcs credits : Nat) (seq ack : W32) (b : List Byte), type ≤ 2 → vcs < 256 → b.length ≤ 112 → flitOk (mkFlit type vcs credits seq ack b) = true) ∧
  (∀ (s : State) (p : CwPortId), (s.cwAt p).failed < 8 → exec (.linkRetrain p .replays) s = .next s) ∧
  (∀ (s : State) (p : CwPortId) (c : LinkCause), (s.cwAt p).state = 2 → (c = .noCodeword ∨ 8 ≤ (s.cwAt p).failed) → ∃ t, exec (.linkRetrain p c) s = .next t ∧
    (t.cwAt p).state = 1 ∧ (t.cwAt p).attempts = 0 ∧ (t.cwAt p).replay = (s.cwAt p).replay ∧ (t.cwAt p).failed = 0 ∧ (t.cwAt p).expired = false ∧
    (t.cwAt p).cause = (match c with | .replays => some 0 | .noCodeword => some 1) ∧
    t = { s with cw := { s.cw with port := t.cw.port } }) ∧
  (∀ (s : State) (p : CwPortId) (l : BitVec 4), (s.cwAt p).state = 1 →
    (l ≠ 0 → ∃ t, exec (.trainingAttemptEnd p l) s = .next t ∧ (t.cwAt p).state = 2 ∧ (t.cwAt p).excluded = ~~~l ∧
      (t.cwAt p).width = (if l = 15 then 4 else if l.toNat % 4 = 3 ∨ l.toNat / 4 = 3 then 2 else 1) ∧ (t.cwAt p).resend = (s.cwAt p).replay.length) ∧
    ((s.cwAt p).attempts < 2 → ∃ t, exec (.trainingAttemptEnd p 0) s = .next t ∧ (t.cwAt p).state = 1 ∧ (t.cwAt p).attempts = (s.cwAt p).attempts + 1) ∧
    (2 ≤ (s.cwAt p).attempts → ∃ t, exec (.trainingAttemptEnd p 0) s = .next t ∧ (t.cwAt p).state = 3 ∧ (t.cwAt p).replay = [])) ∧
  (∀ (s : State) (p : CwPortId), (s.cwAt p).state = 3 → (s.cwAt p).enable = true → s.cwUsable p = true →
    (s.time.toNat < (s.cwAt p).downAt + 100000000 → exec (.portRetry p) s = .next s) ∧
    ((s.cwAt p).downAt + 100000000 ≤ s.time.toNat → exec (.portRetry p) s = .next (s.setCw p ((s.cwAt p).fresh 1 s.time.toNat)))) ∧
  (∀ (s : State) (p : CwPortId), (s.cwAt p).state = 2 → 
    (∀ a, (s.cwAt p).keepSent = some a → s.time.toNat < a + 100000 → exec (.keepaliveSend p) s = .next s) ∧
    ((∀ a, (s.cwAt p).keepSent = some a → a + 100000 ≤ s.time.toNat) → exec (.keepaliveSend p) s =
      .next ((s.setCw p { s.cwAt p with keepSent := some s.time.toNat }).cwSend p 0 (cwMessage 0x20 0 0 0 0 0 (n32 (s.offerOf p))
        (toBytes 8 Config.moduleId.toNat ++ toBytes 4 s.bt.epoch.toNat))))) ∧
  (∀ (s : State) (p : CwPortId), (s.cwAt p).state = 2 →
    (s.time.toNat < (s.cwAt p).keepAt.toNat + 500000 → exec (.keepaliveTimeout p) s = .next s) ∧
    ((s.cwAt p).keepAt.toNat + 500000 ≤ s.time.toNat → ∃ t, exec (.keepaliveTimeout p) s = .next t ∧ (t.cwAt p).state = 3 ∧ (t.cwAt p).replay = []))

/-- 13 R367 to R373, 15 R413: messages on a port that is up, with the answers; lots lent, borrowed and recalled; reads and writes of a lot; the port's
control registers. -/
def Obligations.CausewayMessages : Prop :=
  (∀ (s : State) (p : CwPortId) (m : CwMsg), (s.cwAt p).state ≠ 2 → exec (.lotOffer p m) s = .next s ∧ exec (.lotRequest p m) s = .next s ∧
    exec (.lotGrant p m) s = .next s ∧ exec (.cwWriteAck p m) s = .next s ∧ exec (.cwError p m) s = .next s) ∧
  (∀ (s : State) (p : CwPortId) (m : CwMsg), (s.cwAt p).turn (cwBytes 0x01 m []) = false → exec (.lotOffer p m) s = .next s) ∧
  (∀ (s s0 : State) (p : CwPortId) (m : CwMsg) (o : Nat), (s.cwAt p).state = 2 → cwBroken 0x10 m = some o → (s.cwAt p).turn (cwBytes 0x10 m []) = true →
    s0 = s.setCw p { s.cwAt p with inb := (s.cwAt p).inb.erase (cwBytes 0x10 m []) } →
    exec (.cwRead p m []) s = .next ((s0.cwProtocol p 0x10 (some m.tag) o).cwSend p 2 (cwMessage 0x1A 0 m.tag 0 0 0 3 []))) ∧
  (∀ (s : State) (p : CwPortId) (m : CwMsg), (s.cwAt p).state = 2 → cwBroken 0x01 m = none → (s.cwAt p).turn (cwBytes 0x01 m []) = true → ∃ t, exec (.lotOffer p m) s = .next t ∧
    (t.cwAt p).offered = m.arg.toNat ∧ t = { s with cw := { s.cw with port := t.cw.port } }) ∧
  (∀ (s s0 : State) (p : CwPortId) (m : CwMsg), (s.cwAt p).state = 2 → cwBroken 0x02 m = none → (s.cwAt p).turn (cwBytes 0x02 m []) = true → s0 = s.setCw p { s.cwAt p with inb := (s.cwAt p).inb.erase (cwBytes 0x02 m []) } →
    ((s.cwAt p).lend ≤ s.lentOn p → exec (.lotRequest p m) s = .next (s0.cwSend p 0 (cwMessage 0x04 0 m.tag 0 0 0 0 []))) ∧
    (∀ ps, s.lentOn p < (s.cwAt p).lend → s.cw.reserve + 1 ≤ s.freeGiB → s.lotPages p = some ps → ∃ t k, exec (.lotRequest p m) s = .next t ∧
      k ∈ t.cw.lent ∧ k.port = p.val ∧ k.pages = ps ∧ t.ti.used = s.ti.used ++ ps)) ∧
  (∀ (s s0 : State) (p : CwPortId) (m : CwMsg), (s.cwAt p).state = 2 → cwBroken 0x03 m = none → (s.cwAt p).turn (cwBytes 0x03 m []) = true → s0 = s.setCw p { s.cwAt p with inb := (s.cwAt p).inb.erase (cwBytes 0x03 m []) } →
    ((s.cwAt p).lotReq = some m.tag → (s.lotAt 0).state = 0 → exec (.lotGrant p m) s =
      .next ((s0.setCw p { s0.cwAt p with lotReq := none }).setLot 0 ⟨1, m.lot, p.val, 0, []⟩)) ∧
    ((s.cwAt p).lotReq ≠ some m.tag → exec (.lotGrant p m) s = .next (s0.cwSend p 0 (cwMessage 0x06 0 0 m.lot 0 0 0 [])))) ∧
  (∀ (s : State) (p : CwPortId) (m : CwMsg), (s.cwAt p).state = 2 → cwBroken 0x04 m = none → (s.cwAt p).turn (cwBytes 0x04 m []) = true → (s.cwAt p).lotReq = some m.tag → exec (.lotRefuse p m) s =
    .next (s.setCw p { s.cwAt p with inb := (s.cwAt p).inb.erase (cwBytes 0x04 m []), lotReq := none })) ∧
  (∀ (s : State) (p : CwPortId), 
    (s.time.toNat < (s.cwAt p).lotReqAt + 2000000 → exec (.lotRequestGiveup p) s = .next s) ∧
    ((s.cwAt p).lotReqAt + 2000000 ≤ s.time.toNat → exec (.lotRequestGiveup p) s = .next (s.setCw p { s.cwAt p with lotReq := none }))) ∧
  (∀ (s s0 : State) (p : CwPortId) (m : CwMsg) (k : Nat), (s.cwAt p).state = 2 → cwBroken 0x05 m = none → (s.cwAt p).turn (cwBytes 0x05 m []) = true → s.slotOf p m.lot = some k → (s.lotAt k).state = 1 →
    s0 = s.setCw p { s.cwAt p with inb := (s.cwAt p).inb.erase (cwBytes 0x05 m []) } →
    exec (.lotRecall p m) s = .next (s0.setLot k { s.lotAt k with state := 2, deadline := s.time + 50000000 })) ∧
  (∀ (s : State) (p : CwPortId) (m : CwMsg) (l : Lent), (s.cwAt p).state = 2 → cwBroken 0x06 m = none → (s.cwAt p).turn (cwBytes 0x06 m []) = true →
    (s.cw.lent.find? fun l => l.lot = m.lot && l.port = p.val) = some l → ∃ t, exec (.lotRelease p m) s = .next t ∧ ∀ k ∈ t.cw.lent, k.lot ≠ m.lot) ∧
  (∀ (s : State) (p : CwPortId) (m : CwMsg) (k : Nat), (s.cwAt p).state = 2 → cwBroken 0x07 m = none → (s.cwAt p).turn (cwBytes 0x07 m []) = true → s.slotOf p m.lot = some k → ∃ t,
    exec (.lotReleased p m) s = .next t ∧ t.lotAt k = lotInit) ∧
  (∀ (s : State) (lot : W32) (l : Lent), (s.cw.lent.find? fun l => l.lot = lot && l.recalled) = some l →
    (s.time < l.deadline → exec (.lenderRecallDeadline lot) s = .next s) ∧
    (l.deadline ≤ s.time → ∃ t, exec (.lenderRecallDeadline lot) s = .next t ∧ ∀ k ∈ t.cw.lent, k.lot ≠ lot)) ∧
  (∀ (s s0 s1 : State) (p : CwPortId) (m : CwMsg) (errs : List ScrubErr) (ps : List Piece) (l : Lent), (s.cwAt p).state = 2 → cwBroken 0x10 m = none → (s.cwAt p).turn (cwBytes 0x10 m []) = true →
    s0 = s.setCw p { s.cwAt p with inb := (s.cwAt p).inb.erase (cwBytes 0x10 m []) } →
    (s.cw.lent.find? fun l => l.lot = m.lot && l.port = p.val) = some l → m.off.toNat + m.len.toNat ≤ 2 ^ 30 →
    s.xferReady (chunksOf l.pages m.off.toNat m.len.toNat) [] = true →
    s0.readChunks .partner (chunksOf l.pages m.off.toNat m.len.toNat) errs = (ps, s1) → exec (.cwRead p m errs) s = .next (s1.sendData p m.tag ps)) ∧
  (∀ (s s0 s1 : State) (p : CwPortId) (m : CwMsg) (errs : List ScrubErr) (ps : List Piece) (l : Lent), (s.cwAt p).state = 2 → cwBroken 0x11 m = none → (s.cwAt p).turn (cwBytes 0x11 m []) = true →
    s0 = s.setCw p { s.cwAt p with inb := (s.cwAt p).inb.erase (cwBytes 0x11 m []) } →
    (s.cw.lent.find? fun l => l.lot = m.lot && l.port = p.val) = some l → m.off.toNat + m.len.toNat ≤ 2 ^ 30 →
    s.xferReady (chunksOf l.pages m.off.toNat m.len.toNat) [] = true →
    s0.readChunks .partner (chunksOf l.pages m.off.toNat m.len.toNat) errs = (ps, s1) → exec (.cwBlockRead p m errs) s = .next (s1.sendData p m.tag ps)) ∧
  (∀ (s s0 : State) (p : CwPortId) (m : CwMsg) (data : List Byte), (s.cwAt p).state = 2 → cwBroken 0x12 m = none → (s.cwAt p).turn (cwBytes 0x12 m data) = true →
    s0 = s.setCw p { s.cwAt p with inb := (s.cwAt p).inb.erase (cwBytes 0x12 m data) } →
    ((∀ l ∈ s.cw.lent, l.lot = m.lot → l.port ≠ p.val) → exec (.cwWrite p m data) s = .next (s0.cwSend p 2 (cwMessage 0x1A 0 m.tag 0 0 0 1 []))) ∧
    (∀ l, (s.cw.lent.find? fun l => l.lot = m.lot && l.port = p.val) = some l →
      (2 ^ 30 < m.off.toNat + m.len.toNat → exec (.cwWrite p m data) s = .next (s0.cwSend p 2 (cwMessage 0x1A 0 m.tag 0 0 0 2 []))) ∧
      (m.off.toNat + m.len.toNat ≤ 2 ^ 30 → s.xferReady [] (chunksOf l.pages m.off.toNat m.len.toNat) = true → exec (.cwWrite p m data) s = .next ((s0.writeChunksAs .partner 3 (chunksOf l.pages m.off.toNat m.len.toNat)
        (recut m.off.toNat (padTo 0 m.len.toNat data) fun _ => m.flags = 1)).cwSend p 2 (cwMessage 0x19 0 m.tag 0 0 0 0 []))))) ∧
  (∀ (s : State) (p : CwPortId) (m : CwMsg) (data : List Byte) (r : CwReq), (s.cwAt p).state = 2 → cwBroken 0x18 m = none → (s.cwAt p).turn (cwBytes 0x18 m data) = true → (s.cwAt p).reqs = [r] → r.tag = m.tag →
    r.read = true → m.off.toNat + m.len.toNat ≤ r.len → ∃ t, exec (.cwData p m data) s = .next t ∧ (t.cwAt p).reqs =
      [{ r with got := mwrite zeroByte r.got m.off.toNat (padTo 0 m.len.toNat data), recv := r.recv + m.len.toNat,
                bad := if m.flags = 1 then r.bad ++ [(m.off.toNat, m.len.toNat)] else r.bad }] ∧ t = { s with cw := { s.cw with port := t.cw.port } }) ∧
  (∀ (s : State) (p : CwPortId) (m : CwMsg), (s.cwAt p).state = 2 → cwBroken 0x19 m = none → (s.cwAt p).turn (cwBytes 0x19 m []) = true → exec (.cwWriteAck p m) s = .next (s.setCw p { s.cwAt p with
    inb := (s.cwAt p).inb.erase (cwBytes 0x19 m []), reqs := (s.cwAt p).reqs.filter fun r => !(r.tag = m.tag && !r.read) })) ∧
  (∀ (s : State) (p : CwPortId) (m : CwMsg) (r : CwReq), (s.cwAt p).state = 2 → cwBroken 0x1A m = none → (s.cwAt p).turn (cwBytes 0x1A m []) = true → ((s.cwAt p).reqs.find? fun r => r.tag = m.tag) = some r →
    r.chan < 2048 → (s.chanAt r.chan).state = 2 → ∃ t, exec (.cwError p m) s = .next t ∧ (t.chanAt r.chan).ended = some (if m.arg = 1 then 6 else if m.arg = 2 then 1 else 7) ∧
      t.chanReqs r.chan = []) ∧
  (∀ (s : State) (p : CwPortId) (tag : W32) (r : CwReq), ((s.cwAt p).reqs.find? fun r => r.tag = tag) = some r → r.sent + 2000000 ≤ s.time.toNat → r.chan < 2048 →
    (s.chanAt r.chan).state = 2 → ∃ t,
    exec (.requestTimeout p tag) s = .next t ∧ (t.chanAt r.chan).ended = some 5 ∧ t.chanReqs r.chan = []) ∧
  (∀ (s : State) (p : CwPortId) (tag : W32), (∀ r ∈ (s.cwAt p).reqs, r.tag = tag → s.time.toNat < r.sent + 2000000) →
    exec (.requestTimeout p tag) s = .next s) ∧
  (∀ (s : State) (p : CwPortId) (m : CwMsg) (i : W64) (e : W32), (s.cwAt p).state = 2 → cwBroken 0x20 m = none → (s.cwAt p).turn (cwBytes 0x20 m (toBytes 8 i.toNat ++ toBytes 4 e.toNat)) = true →
    ((s.cwAt p).known = false → ∃ t, exec (.keepalive p m i e) s = .next t ∧ (t.cwAt p).known = true ∧ (t.cwAt p).partnerId = i ∧ (t.cwAt p).partnerEpoch = e ∧
      (t.cwAt p).keepAt = s.time ∧ (t.cwAt p).offered = m.arg.toNat ∧ (t.cwAt p).state = 2) ∧
    ((s.cwAt p).known = true → ((s.cwAt p).partnerId ≠ i ∨ (s.cwAt p).partnerEpoch ≠ e) → ∃ t, exec (.keepalive p m i e) s = .next t ∧ (t.cwAt p).state = 3)) ∧
  (∀ (s : State) (p : CwPortId) (v : W64), ∃ t, exec (.cwPortCtrlWrite p v) s = .next t ∧ (t.cwAt p).enable = v.getLsbD 0 ∧
    (t.cwAt p).lend = v.toNat / 16 % 256 ∧ (t.cwAt p).borrow = v.toNat / 4096 % 256 ∧ (v.getLsbD 0 = false → (t.cwAt p).state = 0) ∧
    (v.getLsbD 0 = true → (s.cwAt p).state = 0 → (t.cwAt p).state = if s.cwUsable p then 1 else 3)) ∧
  (∀ (s : State) (v : W64), ∃ t, exec (.cwLendCtrlWrite v) s = .next t ∧ t.cw.reserve = min 1024 (v.toNat % 2048))

/-- No command of the table changes the queue: step alone takes commands from it. -/
def Obligations.QueueKept : Prop := ∀ (c : Instr) (s t : State), exec c s = .next t → t.pending = s.pending

/-- R399, R412: from every state whose power cap lies within 1,100 to 2,200 W, every step answers a state whose cap does. -/
def Obligations.PowerCapKept : Prop := Kept CapLegal

/-- R399: after reset the cap is the 2,200 W of Table REGS-15, within its range. -/
def Obligations.PowerCapAtReset : Prop := CapLegal State.reset ∧ State.reset.pw.cap = 2200
end

