-- ==== Sys2Proof/Laws/Tables.lean ====
section
/-! SUPPORT. Laws of tables and byte memories (Machine/Ops.lean): read after write, the canonical form, bytes and numbers. -/
namespace Sys2Proof.Machine

open Sys2Proof

variable {α : Type}

/-! #### Read after write -/

@[simp] theorem tget_nil (d : Nat → α) (i : Nat) : tget d [] i = d i := rfl

@[simp] theorem tget_tdel_same (d : Nat → α) (t : Tab α) (i : Nat) : tget d (tdel t i) i = d i := by
  induction t with
  | nil => rfl
  | cons p r ih =>
    obtain ⟨k, v⟩ := p
    by_cases h : k = i
    · simpa [tdel, h] using ih
    · simpa [tdel, h, tget] using ih

theorem tget_tdel_ne (d : Nat → α) (t : Tab α) {i j : Nat} (h : j ≠ i) : tget d (tdel t i) j = tget d t j := by
  induction t with
  | nil => rfl
  | cons p r ih =>
    obtain ⟨k, v⟩ := p
    by_cases hk : k = i
    · subst hk; simp [tdel, tget, Ne.symm h, ih]
    · rw [tdel, if_neg hk, tget, tget, ih]

theorem tget_tins_ne (d : Nat → α) (t : Tab α) {i j : Nat} (v : α) (h : j ≠ i) : tget d (tins t i v) j = tget d t j := by
  induction t with
  | nil => simp [tins, tget, Ne.symm h]
  | cons p r ih =>
    obtain ⟨k, w⟩ := p
    by_cases hk : i < k
    · simp [tins, hk, tget, Ne.symm h]
    · rw [tins, if_neg hk, tget, tget, ih]

theorem tget_tins_tdel (d : Nat → α) (t : Tab α) (i : Nat) (v : α) : tget d (tins (tdel t i) i v) i = v := by
  induction t with
  | nil => simp [tdel, tins, tget]
  | cons p r ih =>
    obtain ⟨k, w⟩ := p
    by_cases hk : k = i
    · simpa [tdel, hk] using ih
    · by_cases hl : i < k
      · simp [tdel, hk, tins, hl, tget]
      · simpa [tdel, hk, tins, hl, tget] using ih

theorem tdel_tdel (t : Tab α) (i : Nat) : tdel (tdel t i) i = tdel t i := by
  induction t with
  | nil => rfl
  | cons p r ih =>
    obtain ⟨k, v⟩ := p
    by_cases h : k = i <;> simp [tdel, h, ih]

theorem tdel_tins (t : Tab α) (i : Nat) (v : α) : tdel (tins t i v) i = tdel t i := by
  induction t with
  | nil => simp [tins, tdel]
  | cons p r ih =>
    obtain ⟨k, w⟩ := p
    by_cases hl : i < k
    · simp [tins, hl, tdel]
    · by_cases h : k = i
      · simp [tins, tdel, h] at ih ⊢; exact ih
      · simp [tins, hl, tdel, h, ih]

variable [DecidableEq α]

@[simp] theorem tget_tput_same (d : Nat → α) (t : Tab α) (i : Nat) (v : α) : tget d (tput d t i v) i = v := by
  unfold tput
  split
  · next h => rw [tget_tdel_same, h]
  · exact tget_tins_tdel d t i v

theorem tget_tput_ne (d : Nat → α) (t : Tab α) {i j : Nat} (v : α) (h : j ≠ i) : tget d (tput d t i v) j = tget d t j := by
  unfold tput
  split
  · exact tget_tdel_ne d t h
  · rw [tget_tins_ne d _ v h, tget_tdel_ne d t h]

theorem tget_tput (d : Nat → α) (t : Tab α) (i j : Nat) (v : α) : tget d (tput d t i v) j = if j = i then v else tget d t j := by
  split
  · next h => rw [h, tget_tput_same]
  · next h => exact tget_tput_ne d t v h

/-- The last of two writes to an index counts. -/
@[simp] theorem tput_tput (d : Nat → α) (t : Tab α) (i : Nat) (v w : α) : tput d (tput d t i v) i w = tput d t i w := by
  have h : tdel (tput d t i v) i = tdel t i := by
    unfold tput
    split
    · exact tdel_tdel t i
    · rw [tdel_tins, tdel_tdel]
  unfold tput at h ⊢
  rw [h]

/-! #### The canonical form -/

/-- Every entry of a canonical table lies above `b`. -/
def tabAbove (b : Nat) (t : Tab α) : Prop := ∀ p ∈ t, b < p.1

theorem tabWf_cons (d : Nat → α) (k : Nat) (v : α) (r : Tab α) :
    tabWf d ((k, v) :: r) = true ↔ v ≠ d k ∧ tabAbove k r ∧ tabWf d r = true := by
  induction r generalizing k v with
  | nil => simp [tabWf, tabAbove]
  | cons p r ih =>
    obtain ⟨k', v'⟩ := p
    constructor
    · intro h
      simp only [tabWf, Bool.and_eq_true, decide_eq_true_eq] at h
      obtain ⟨⟨h1, h2⟩, h3⟩ := h
      refine ⟨h1, ?_, h3⟩
      intro p hp
      rcases List.mem_cons.1 hp with rfl | hp
      · exact h2
      · exact Nat.lt_trans h2 (((ih k' v').1 h3).2.1 p hp)
    · rintro ⟨h1, h2, h3⟩
      simp only [tabWf, Bool.and_eq_true, decide_eq_true_eq]
      exact ⟨⟨h1, h2 (k', v') (by simp)⟩, h3⟩

omit [DecidableEq α] in
theorem tabAbove_tdel {b : Nat} {t : Tab α} (i : Nat) (h : tabAbove b t) : tabAbove b (tdel t i) := by
  induction t with
  | nil => exact h
  | cons p r ih =>
    obtain ⟨k, v⟩ := p
    have hr : tabAbove b r := fun q hq => h q (by simp [hq])
    by_cases hk : k = i
    · simpa [tdel, hk] using ih hr
    · intro q hq
      simp only [tdel, hk, if_false, List.mem_cons] at hq
      rcases hq with rfl | hq
      · exact h (k, v) (by simp)
      · exact ih hr q hq

omit [DecidableEq α] in
theorem tabAbove_tins {b i : Nat} {t : Tab α} (v : α) (hi : b < i) (h : tabAbove b t) : tabAbove b (tins t i v) := by
  induction t with
  | nil =>
    intro q hq
    simp only [tins, List.mem_singleton] at hq
    rw [hq]; exact hi
  | cons p r ih =>
    obtain ⟨k, w⟩ := p
    have hr : tabAbove b r := fun q hq => h q (by simp [hq])
    intro q hq
    by_cases hl : i < k
    · simp only [tins, hl, if_true, List.mem_cons] at hq
      rcases hq with rfl | rfl | hq
      · exact hi
      · exact h (k, w) (by simp)
      · exact hr q hq
    · simp only [tins, hl, if_false, List.mem_cons] at hq
      rcases hq with rfl | hq
      · exact h (k, w) (by simp)
      · exact ih hr q hq

theorem tabWf_tdel (d : Nat → α) {t : Tab α} (i : Nat) (h : tabWf d t = true) : tabWf d (tdel t i) = true := by
  induction t with
  | nil => rfl
  | cons p r ih =>
    obtain ⟨k, v⟩ := p
    obtain ⟨h1, h2, h3⟩ := (tabWf_cons d k v r).1 h
    by_cases hk : k = i
    · simpa [tdel, hk] using ih h3
    · simp only [tdel, hk, if_false]
      exact (tabWf_cons d k v _).2 ⟨h1, tabAbove_tdel i h2, ih h3⟩

omit [DecidableEq α] in
theorem not_mem_tdel (t : Tab α) (i : Nat) : ∀ p ∈ tdel t i, p.1 ≠ i := by
  induction t with
  | nil => simp [tdel]
  | cons p r ih =>
    obtain ⟨k, v⟩ := p
    by_cases hk : k = i
    · simpa [tdel, hk] using ih
    · intro q hq
      simp only [tdel, hk, if_false, List.mem_cons] at hq
      rcases hq with rfl | hq
      · exact hk
      · exact ih q hq

theorem tabWf_tins (d : Nat → α) {t : Tab α} {i : Nat} {v : α} (hv : v ≠ d i) (hn : ∀ p ∈ t, p.1 ≠ i) (h : tabWf d t = true) :
    tabWf d (tins t i v) = true := by
  induction t with
  | nil => simp [tins, tabWf, hv]
  | cons p r ih =>
    obtain ⟨k, w⟩ := p
    obtain ⟨h1, h2, h3⟩ := (tabWf_cons d k w r).1 h
    by_cases hl : i < k
    · simp only [tins, hl, if_true]
      refine (tabWf_cons d i v _).2 ⟨hv, ?_, h⟩
      intro q hq
      rcases List.mem_cons.1 hq with rfl | hq
      · exact hl
      · exact Nat.lt_trans hl (h2 q hq)
    · simp only [tins, hl, if_false]
      have hk : k < i := Nat.lt_of_le_of_ne (Nat.le_of_not_lt hl) (hn (k, w) (by simp))
      exact (tabWf_cons d k w _).2 ⟨h1, tabAbove_tins v hk h2, ih (fun q hq => hn q (by simp [hq])) h3⟩

/-- A write keeps the canonical form. -/
theorem tabWf_tput (d : Nat → α) {t : Tab α} (i : Nat) (v : α) (h : tabWf d t = true) : tabWf d (tput d t i v) = true := by
  unfold tput
  split
  · exact tabWf_tdel d i h
  · next hv => exact tabWf_tins d hv (not_mem_tdel t i) (tabWf_tdel d i h)

/-- Writes of a byte memory keep the canonical form. -/
theorem tabWf_mwrite (d : Nat → Byte) {m : List Host.Cell} (a : Nat) (b : List Byte) (h : tabWf d m = true) : tabWf d (mwrite d m a b) = true := by
  induction b generalizing m a with
  | nil => exact h
  | cons x r ih => exact ih (a + 1) (tabWf_tput d a x h)

/-! #### Byte memories -/

@[simp] theorem mread_length (d : Nat → Byte) (m : List Host.Cell) (a n : Nat) : (mread d m a n).length = n := by simp [mread]

/-- A byte outside the bytes written reads as before. -/
theorem tget_mwrite_out (d : Nat → Byte) (m : List Host.Cell) (a : Nat) (b : List Byte) (i : Nat) (h : i < a ∨ a + b.length ≤ i) :
    tget d (mwrite d m a b) i = tget d m i := by
  induction b generalizing m a with
  | nil => rfl
  | cons x r ih =>
    simp only [List.length_cons] at h
    rw [mwrite, ih _ _ (by omega), tget_tput_ne d m x (by omega)]

/-- A byte written reads as written. -/
theorem tget_mwrite_in (d : Nat → Byte) (m : List Host.Cell) (a : Nat) (b : List Byte) (k : Nat) (h : k < b.length) :
    tget d (mwrite d m a b) (a + k) = b[k] := by
  induction b generalizing m a k with
  | nil => simp at h
  | cons x r ih =>
    cases k with
    | zero => simp only [mwrite, Nat.add_zero, List.getElem_cons_zero]; rw [tget_mwrite_out _ _ _ _ _ (by omega), tget_tput_same]
    | succ k =>
      simp only [mwrite, List.getElem_cons_succ]
      have := ih (tput d m a x) (a + 1) k (by simpa using h)
      rw [← this]; congr 1; omega

/-- Reading the bytes written gives them. -/
@[simp] theorem mread_mwrite (d : Nat → Byte) (m : List Host.Cell) (a : Nat) (b : List Byte) : mread d (mwrite d m a b) a b.length = b := by
  apply List.ext_getElem
  · simp
  · intro i h1 h2
    simpa [mread] using tget_mwrite_in d m a b i h2

/-- A read that meets none of the bytes written gives what it gave before. -/
theorem mread_mwrite_out (d : Nat → Byte) (m : List Host.Cell) (a : Nat) (b : List Byte) (o n : Nat) (h : o + n ≤ a ∨ a + b.length ≤ o) :
    mread d (mwrite d m a b) o n = mread d m o n := by
  apply List.ext_getElem
  · simp
  · intro i h1 h2
    simp only [mread_length] at h1
    simpa [mread] using tget_mwrite_out d m a b (o + i) (by omega)

/-! #### Bytes and numbers -/

@[simp] theorem toBytes_length (n v : Nat) : (toBytes n v).length = n := by
  induction n generalizing v with
  | zero => rfl
  | succ n ih => simp [toBytes, ih]

/-- The number of the bytes of a number that fits. -/
theorem ofBytes_toBytes (n v : Nat) : ofBytes (toBytes n v) = v % 256 ^ n := by
  induction n generalizing v with
  | zero => simp [toBytes, ofBytes, Nat.mod_one]
  | succ n ih =>
    simp only [toBytes, ofBytes, ih, BitVec.toNat_ofNat]
    rw [show (2 : Nat) ^ 8 = 256 from rfl, Nat.pow_succ', Nat.mod_mul]

theorem ofBytes_lt (b : List Byte) : ofBytes b < 256 ^ b.length := by
  induction b with
  | nil => simp [ofBytes]
  | cons x r ih =>
    have := x.isLt
    simp only [ofBytes, List.length_cons, Nat.pow_succ]
    omega

/-! #### Folds -/

/-- What each step of a fold leaves unchanged, the fold leaves unchanged. -/
theorem foldl_keeps {σ β γ : Type} (p : σ → γ) (f : σ → β → σ) (l : List β) (s : σ) (h : ∀ s a, p (f s a) = p s) : p (l.foldl f s) = p s := by
  induction l generalizing s with
  | nil => rfl
  | cons a r ih => rw [List.foldl_cons, ih, h]

end Sys2Proof.Machine
end

