-- ==== Sys2Proof/Laws/Cipher.lean ====
section
/-! SUPPORT. The cipher of frames (08 R244): AES-256 in XTS mode undoes itself, block by block. -/
namespace Sys2Proof.Machine
open Sys2Proof

/-- What holds of the 256 numbers holds of every byte. -/
theorem byte_cases {P : Byte → Prop} (h : ∀ n, n < 256 → P (BitVec.ofNat 8 n)) (a : Byte) : P a := by
  have := h a.toNat a.isLt
  rwa [BitVec.ofNat_toNat, BitVec.setWidth_eq] at this

/-! #### SubBytes: the inverse in GF(2^8) over Nat, its table, the affine map -/

def xtimeN (n : Nat) : Nat := if n < 128 then 2 * n else (2 * n) ^^^ 0x11B
def mulN (a : Nat) : Nat → Nat → Nat
  | _, 0 => 0
  | b, n + 1 => xtimeN (mulN a (b / 2) n) ^^^ (if b % 2 = 0 then 0 else a)
def invN (a : Nat) : Nat :=
  let t a b := mulN a b 8
  let a2 := t a a
  let a3 := t a2 a
  let a6 := t a3 a3
  let a12 := t a6 a6
  let a15 := t a12 a3
  let a30 := t a15 a15
  let a60 := t a30 a30
  let a120 := t a60 a60
  let a126 := t a120 a6
  let a127 := t a126 a
  t a127 a127
/-- The inverses, eight bits each. -/
def invTable : Nat := 0x1c411acda07d9cdd8c0346683438235bb31e505de3d74e08adcf0ec6ebd60db16b90f89dd5c48b94eae2dbc563ae077ae6acfc1b045327a90fe4d4daa32f280b5786bcbd3d768ea571787511ef1fe00c62d2e7ce4a12c8264865b88fc32e7cfb9a89dcf9889f142a72848ad86d326adea4b902f7d9959e9b56be7396807f7e838281faa106d070b63cbab5108597b7793b219333df9147f44336a649d3af5e161761ec51f0223e18bf87244cca055ced09e9255413ab64a769f5312d6737fe1d1959bb776f2035f2426639f36c92452cc2a2443015980ac1c9a84d55f15a6e3ab2ee40ffccfd3f585f602b994baab474c7e5e1b0c0294fe8d17b52cbf68d0100

theorem xtimeN_toNat (a : Byte) : (xtime a).toNat = xtimeN a.toNat := byte_cases (P := fun a => (xtime a).toNat = xtimeN a.toNat) (by decide +kernel) a

theorem mulN_toNat (a b : Byte) (n : Nat) : (aesMul a b n).toNat = mulN a.toNat b.toNat n := by
  induction n generalizing b with
  | zero => rfl
  | succ n ih =>
    have hb : (b >>> 1).toNat = b.toNat / 2 := by simp [BitVec.toNat_ushiftRight, Nat.shiftRight_eq_div_pow]
    have hz : b.getLsbD 0 = decide (b.toNat % 2 = 1) := by
      rw [← BitVec.testBit_toNat, Nat.testBit_zero]
    simp only [aesMul, mulN, BitVec.toNat_xor, xtimeN_toNat, ih, hb, hz]
    rcases Nat.mod_two_eq_zero_or_one b.toNat with h | h <;> simp [h]

theorem invN_toNat (a : Byte) : (aesInv a).toNat = invN a.toNat := by simp only [aesInv, aesTimes, invN, mulN_toNat]

theorem invN_table : ∀ n, n < 256 → invN n = (invTable >>> (8 * n)) % 256 := by decide +kernel
theorem invTable_twice : ∀ n, n < 256 → (invTable >>> (8 * ((invTable >>> (8 * n)) % 256))) % 256 = n := by decide +kernel

theorem inv_inv (a : Byte) : aesInv (aesInv a) = a := by
  apply BitVec.eq_of_toNat_eq
  rw [invN_toNat, invN_toNat, invN_table _ a.isLt, invN_table _ (Nat.mod_lt _ (by decide)), invTable_twice _ a.isLt]

def rotN (a k : Nat) : Nat := (a <<< k) % 256 ||| (a >>> (8 - k))
def affN (a : Nat) : Nat := a ^^^ rotN a 1 ^^^ rotN a 2 ^^^ rotN a 3 ^^^ rotN a 4 ^^^ 0x63
theorem affN_back : ∀ n, n < 256 → rotN (affN n) 1 ^^^ rotN (affN n) 3 ^^^ rotN (affN n) 6 ^^^ 0x05 = n := by decide +kernel

theorem affine_back (b : Byte) : (b ^^^ b.rotateLeft 1 ^^^ b.rotateLeft 2 ^^^ b.rotateLeft 3 ^^^ b.rotateLeft 4 ^^^ 0x63).rotateLeft 1 ^^^
    (b ^^^ b.rotateLeft 1 ^^^ b.rotateLeft 2 ^^^ b.rotateLeft 3 ^^^ b.rotateLeft 4 ^^^ 0x63).rotateLeft 3 ^^^
    (b ^^^ b.rotateLeft 1 ^^^ b.rotateLeft 2 ^^^ b.rotateLeft 3 ^^^ b.rotateLeft 4 ^^^ 0x63).rotateLeft 6 ^^^ 0x05 = b := by
  apply BitVec.eq_of_toNat_eq
  simp only [BitVec.toNat_xor, BitVec.toNat_rotateLeft]
  exact affN_back _ b.isLt

theorem unsub_sub (a : Byte) : unsubByte (subByte a) = a := by
  simp only [unsubByte, subByte, affine_back, inv_inv]

/-! #### MixColumns: products are additive, and the two matrices are inverse -/

theorem xor_back (k x : Byte) : k ^^^ (k ^^^ x) = x := by rw [← BitVec.xor_assoc]; simp

theorem xtime_xor (a b : Byte) : xtime (a ^^^ b) = xtime a ^^^ xtime b := by
  unfold xtime
  rw [BitVec.msb_xor, BitVec.shiftLeft_xor_distrib]
  cases a.msb <;> cases b.msb
  · simp
  · simp only [Bool.false_xor, if_true, if_false, Bool.false_eq_true]; ac_rfl
  · simp only [Bool.xor_false, if_true, if_false, Bool.false_eq_true]; ac_rfl
  · simp only [Bool.xor_self, if_true, if_false, Bool.false_eq_true]
    calc _ = 0x1B ^^^ (0x1B ^^^ (a <<< 1 ^^^ b <<< 1)) := (by rw [xor_back]; simp)
      _ = _ := by ac_rfl

theorem aesMul_xor (a b m : Byte) (n : Nat) : aesMul (a ^^^ b) m n = aesMul a m n ^^^ aesMul b m n := by
  induction n generalizing m with
  | zero => simp [aesMul]
  | succ n ih =>
    simp only [aesMul, ih, xtime_xor]
    cases m.getLsbD 0
    · simp
    · simp only [if_true]; ac_rfl
theorem aesTimes_xor (a b m : Byte) : aesTimes (a ^^^ b) m = aesTimes a m ^^^ aesTimes b m := aesMul_xor a b m 8

theorem times_small (a : Byte) : aesTimes a 1 = a ∧ aesTimes a 2 = xtime a ∧ aesTimes a 3 = xtime a ^^^ a ∧ aesTimes a 9 = xtime (xtime (xtime a)) ^^^ a ∧
    aesTimes a 11 = xtime (xtime (xtime a)) ^^^ xtime a ^^^ a ∧ aesTimes a 13 = xtime (xtime (xtime a)) ^^^ xtime (xtime a) ^^^ a ∧
    aesTimes a 14 = xtime (xtime (xtime a)) ^^^ xtime (xtime a) ^^^ xtime a := by
  have z : xtime 0#8 = 0#8 := by decide
  simp [aesTimes, aesMul, z, xtime_xor]

theorem xor_left (a b c : Byte) : a ^^^ (b ^^^ c) = b ^^^ (a ^^^ c) := by rw [← BitVec.xor_assoc, ← BitVec.xor_assoc, BitVec.xor_comm a b]

/-- The products of the two circulant matrices, one entry: 1 on the diagonal, 0 off it. -/
theorem mix_diag (a : Byte) : aesTimes (aesTimes a 2) 14 ^^^ aesTimes (aesTimes a 1) 11 ^^^ aesTimes (aesTimes a 1) 13 ^^^ aesTimes (aesTimes a 3) 9 = a ∧
    aesTimes (aesTimes a 3) 14 ^^^ aesTimes (aesTimes a 2) 11 ^^^ aesTimes (aesTimes a 1) 13 ^^^ aesTimes (aesTimes a 1) 9 = 0 ∧
    aesTimes (aesTimes a 1) 14 ^^^ aesTimes (aesTimes a 3) 11 ^^^ aesTimes (aesTimes a 2) 13 ^^^ aesTimes (aesTimes a 1) 9 = 0 ∧
    aesTimes (aesTimes a 1) 14 ^^^ aesTimes (aesTimes a 1) 11 ^^^ aesTimes (aesTimes a 3) 13 ^^^ aesTimes (aesTimes a 2) 9 = 0 := by
  simp only [(times_small _).1, (times_small _).2.1, (times_small _).2.2.1, (times_small _).2.2.2.1, (times_small _).2.2.2.2.1, (times_small _).2.2.2.2.2.1,
    (times_small _).2.2.2.2.2.2, xtime_xor]
  generalize xtime (xtime (xtime (xtime a))) = a4
  generalize xtime (xtime (xtime a)) = a3
  generalize xtime (xtime a) = a2
  generalize xtime a = a1
  refine ⟨by simp only [BitVec.xor_assoc, xor_left, BitVec.xor_comm, xor_back, BitVec.xor_self, BitVec.xor_zero], ?_, ?_, ?_⟩ <;> simp only [BitVec.xor_assoc, xor_left, BitVec.xor_comm, xor_back, BitVec.xor_self, BitVec.xor_zero] <;> rfl

/-- One byte of a mixed column. -/
def mixCol (m0 m1 m2 m3 x0 x1 x2 x3 : Byte) : Byte := 0 ^^^ aesTimes x0 m0 ^^^ aesTimes x1 m1 ^^^ aesTimes x2 m2 ^^^ aesTimes x3 m3

theorem mix_col0 (p q r t : Byte) : mixCol 14 11 13 9 (mixCol 2 3 1 1 p q r t) (mixCol 1 2 3 1 p q r t) (mixCol 1 1 2 3 p q r t) (mixCol 3 1 1 2 p q r t) = p := by
  obtain ⟨p1, p2, p3, p4⟩ := mix_diag p
  obtain ⟨q1, q2, q3, q4⟩ := mix_diag q
  obtain ⟨r1, r2, r3, r4⟩ := mix_diag r
  obtain ⟨t1, t2, t3, t4⟩ := mix_diag t
  have z (x : Byte) : 0 ^^^ x = x := by simp
  simp only [mixCol, z, aesTimes_xor]
  calc _ = (aesTimes (aesTimes p 2) 14 ^^^ aesTimes (aesTimes p 1) 11 ^^^ aesTimes (aesTimes p 1) 13 ^^^ aesTimes (aesTimes p 3) 9) ^^^
      (aesTimes (aesTimes q 3) 14 ^^^ aesTimes (aesTimes q 2) 11 ^^^ aesTimes (aesTimes q 1) 13 ^^^ aesTimes (aesTimes q 1) 9) ^^^
      (aesTimes (aesTimes r 1) 14 ^^^ aesTimes (aesTimes r 3) 11 ^^^ aesTimes (aesTimes r 2) 13 ^^^ aesTimes (aesTimes r 1) 9) ^^^
      (aesTimes (aesTimes t 1) 14 ^^^ aesTimes (aesTimes t 1) 11 ^^^ aesTimes (aesTimes t 3) 13 ^^^ aesTimes (aesTimes t 2) 9) := by ac_rfl
    _ = p := by rw [p1, q2, r3, t4]; simp

theorem mix_col1 (p q r t : Byte) : mixCol 9 14 11 13 (mixCol 2 3 1 1 p q r t) (mixCol 1 2 3 1 p q r t) (mixCol 1 1 2 3 p q r t) (mixCol 3 1 1 2 p q r t) = q := by
  obtain ⟨p1, p2, p3, p4⟩ := mix_diag p
  obtain ⟨q1, q2, q3, q4⟩ := mix_diag q
  obtain ⟨r1, r2, r3, r4⟩ := mix_diag r
  obtain ⟨t1, t2, t3, t4⟩ := mix_diag t
  have z (x : Byte) : 0 ^^^ x = x := by simp
  simp only [mixCol, z, aesTimes_xor]
  calc _ = (aesTimes (aesTimes p 1) 14 ^^^ aesTimes (aesTimes p 1) 11 ^^^ aesTimes (aesTimes p 3) 13 ^^^ aesTimes (aesTimes p 2) 9) ^^^
      (aesTimes (aesTimes q 2) 14 ^^^ aesTimes (aesTimes q 1) 11 ^^^ aesTimes (aesTimes q 1) 13 ^^^ aesTimes (aesTimes q 3) 9) ^^^
      (aesTimes (aesTimes r 3) 14 ^^^ aesTimes (aesTimes r 2) 11 ^^^ aesTimes (aesTimes r 1) 13 ^^^ aesTimes (aesTimes r 1) 9) ^^^
      (aesTimes (aesTimes t 1) 14 ^^^ aesTimes (aesTimes t 3) 11 ^^^ aesTimes (aesTimes t 2) 13 ^^^ aesTimes (aesTimes t 1) 9) := by ac_rfl
    _ = q := by rw [p4, q1, r2, t3]; simp

theorem mix_col2 (p q r t : Byte) : mixCol 13 9 14 11 (mixCol 2 3 1 1 p q r t) (mixCol 1 2 3 1 p q r t) (mixCol 1 1 2 3 p q r t) (mixCol 3 1 1 2 p q r t) = r := by
  obtain ⟨p1, p2, p3, p4⟩ := mix_diag p
  obtain ⟨q1, q2, q3, q4⟩ := mix_diag q
  obtain ⟨r1, r2, r3, r4⟩ := mix_diag r
  obtain ⟨t1, t2, t3, t4⟩ := mix_diag t
  have z (x : Byte) : 0 ^^^ x = x := by simp
  simp only [mixCol, z, aesTimes_xor]
  calc _ = (aesTimes (aesTimes p 1) 14 ^^^ aesTimes (aesTimes p 3) 11 ^^^ aesTimes (aesTimes p 2) 13 ^^^ aesTimes (aesTimes p 1) 9) ^^^
      (aesTimes (aesTimes q 1) 14 ^^^ aesTimes (aesTimes q 1) 11 ^^^ aesTimes (aesTimes q 3) 13 ^^^ aesTimes (aesTimes q 2) 9) ^^^
      (aesTimes (aesTimes r 2) 14 ^^^ aesTimes (aesTimes r 1) 11 ^^^ aesTimes (aesTimes r 1) 13 ^^^ aesTimes (aesTimes r 3) 9) ^^^
      (aesTimes (aesTimes t 3) 14 ^^^ aesTimes (aesTimes t 2) 11 ^^^ aesTimes (aesTimes t 1) 13 ^^^ aesTimes (aesTimes t 1) 9) := by ac_rfl
    _ = r := by rw [p3, q4, r1, t2]; simp

theorem mix_col3 (p q r t : Byte) : mixCol 11 13 9 14 (mixCol 2 3 1 1 p q r t) (mixCol 1 2 3 1 p q r t) (mixCol 1 1 2 3 p q r t) (mixCol 3 1 1 2 p q r t) = t := by
  obtain ⟨p1, p2, p3, p4⟩ := mix_diag p
  obtain ⟨q1, q2, q3, q4⟩ := mix_diag q
  obtain ⟨r1, r2, r3, r4⟩ := mix_diag r
  obtain ⟨t1, t2, t3, t4⟩ := mix_diag t
  have z (x : Byte) : 0 ^^^ x = x := by simp
  simp only [mixCol, z, aesTimes_xor]
  calc _ = (aesTimes (aesTimes p 3) 14 ^^^ aesTimes (aesTimes p 2) 11 ^^^ aesTimes (aesTimes p 1) 13 ^^^ aesTimes (aesTimes p 1) 9) ^^^
      (aesTimes (aesTimes q 1) 14 ^^^ aesTimes (aesTimes q 3) 11 ^^^ aesTimes (aesTimes q 2) 13 ^^^ aesTimes (aesTimes q 1) 9) ^^^
      (aesTimes (aesTimes r 1) 14 ^^^ aesTimes (aesTimes r 1) 11 ^^^ aesTimes (aesTimes r 3) 13 ^^^ aesTimes (aesTimes r 2) 9) ^^^
      (aesTimes (aesTimes t 2) 14 ^^^ aesTimes (aesTimes t 1) 11 ^^^ aesTimes (aesTimes t 1) 13 ^^^ aesTimes (aesTimes t 3) 9) := by ac_rfl
    _ = t := by rw [p2, q3, r4, t1]; simp

theorem xorBytes_length (a b : List Byte) : (xorBytes a b).length = min a.length b.length := by simp [xorBytes]
theorem xorBytes_cancel (a k : List Byte) (h : a.length ≤ k.length) : xorBytes (xorBytes a k) k = a := by
  induction a generalizing k with
  | nil => simp [xorBytes]
  | cons x a ih =>
    cases k with
    | nil => simp at h
    | cons y k =>
      have := ih k (by simpa using h)
      simp only [xorBytes, List.zipWith_cons_cons] at this ⊢
      rw [this]; simp [BitVec.xor_assoc]

theorem list16 {b : List Byte} (h : b.length = 16) : ∃ a0 a1 a2 a3 a4 a5 a6 a7 a8 a9 a10 a11 a12 a13 a14 a15,
    b = [a0, a1, a2, a3, a4, a5, a6, a7, a8, a9, a10, a11, a12, a13, a14, a15] := by
  match b, h with
  | [a0, a1, a2, a3, a4, a5, a6, a7, a8, a9, a10, a11, a12, a13, a14, a15], _ => exact ⟨_, _, _, _, _, _, _, _, _, _, _, _, _, _, _, _, rfl⟩

theorem unshift_shift {b : List Byte} (h : b.length = 16) : unshiftRows (shiftRows b) = b := by
  obtain ⟨a0, a1, a2, a3, a4, a5, a6, a7, a8, a9, a10, a11, a12, a13, a14, a15, rfl⟩ := list16 h
  rfl


/-! #### Blocks -/

theorem getD_len {l : List (List Byte)} {n i : Nat} (h : ∀ k ∈ l, k.length = n) (hi : i < l.length) : (l.getD i []).length = n := by
  rw [show l.getD i [] = l[i] by simp [List.getD, hi]]
  exact h _ (List.getElem_mem _)

theorem flatten_len {l : List (List Byte)} {n : Nat} (h : ∀ k ∈ l, k.length = n) : l.flatten.length = n * l.length := by
  induction l with
  | nil => simp
  | cons k l ih =>
    rw [List.flatten_cons, List.length_append, h k List.mem_cons_self, ih fun x hx => h x (List.mem_cons_of_mem _ hx), List.length_cons, Nat.mul_succ, Nat.add_comm]

theorem sub_back (b : List Byte) : (b.map subByte).map unsubByte = b := by
  rw [List.map_map]
  conv => rhs; rw [← List.map_id b]
  exact List.map_congr_left fun a _ => unsub_sub a

theorem unmix_mix {b : List Byte} (h : b.length = 16) : unmixColumns (mixColumns b) = b := by
  obtain ⟨a0, a1, a2, a3, a4, a5, a6, a7, a8, a9, a10, a11, a12, a13, a14, a15, rfl⟩ := list16 h
  have hm (x0 x1 x2 x3 x4 x5 x6 x7 x8 x9 x10 x11 x12 x13 x14 x15 m0 m1 m2 m3 : Byte) :
      mixWith [m0, m1, m2, m3] [x0, x1, x2, x3, x4, x5, x6, x7, x8, x9, x10, x11, x12, x13, x14, x15] =
      [mixCol m0 m1 m2 m3 x0 x1 x2 x3, mixCol m3 m0 m1 m2 x0 x1 x2 x3, mixCol m2 m3 m0 m1 x0 x1 x2 x3, mixCol m1 m2 m3 m0 x0 x1 x2 x3,
        mixCol m0 m1 m2 m3 x4 x5 x6 x7, mixCol m3 m0 m1 m2 x4 x5 x6 x7, mixCol m2 m3 m0 m1 x4 x5 x6 x7, mixCol m1 m2 m3 m0 x4 x5 x6 x7,
        mixCol m0 m1 m2 m3 x8 x9 x10 x11, mixCol m3 m0 m1 m2 x8 x9 x10 x11, mixCol m2 m3 m0 m1 x8 x9 x10 x11, mixCol m1 m2 m3 m0 x8 x9 x10 x11,
        mixCol m0 m1 m2 m3 x12 x13 x14 x15, mixCol m3 m0 m1 m2 x12 x13 x14 x15, mixCol m2 m3 m0 m1 x12 x13 x14 x15, mixCol m1 m2 m3 m0 x12 x13 x14 x15] := by
    rfl
  simp only [unmixColumns, mixColumns, hm]
  simp only [mix_col0, mix_col1, mix_col2, mix_col3]

theorem mixWith_length (m b : List Byte) : (mixWith m b).length = 16 := by simp [mixWith]
theorem shiftRows_length (b : List Byte) : (shiftRows b).length = 16 := by simp [shiftRows]

/-- A middle round and its inverse. -/
theorem round_back {b k : List Byte} (h : b.length = 16) (hk : k.length = 16) :
    (unshiftRows (shiftRows (b.map subByte))).map unsubByte = b ∧
    unmixColumns (xorBytes (xorBytes (mixColumns (shiftRows (b.map subByte))) k) k) = shiftRows (b.map subByte) := by
  constructor
  · rw [unshift_shift (by simpa using h), sub_back]
  · rw [xorBytes_cancel _ _ (Nat.le_of_eq (by rw [mixColumns, mixWith_length, hk])), unmix_mix (shiftRows_length _)]

theorem encRound_length (b k : List Byte) (hk : k.length = 16) : (xorBytes (mixColumns (shiftRows (b.map subByte))) k).length = 16 := by
  rw [xorBytes_length, mixColumns, mixWith_length, hk]; rfl

theorem foldl_enc_length (l : List (List Byte)) (hl : ∀ k ∈ l, k.length = 16) (b : List Byte) (h : b.length = 16) :
    (l.foldl (fun b k => xorBytes (mixColumns (shiftRows (b.map subByte))) k) b).length = 16 := by
  induction l generalizing b with
  | nil => exact h
  | cons k l ih => exact ih (fun x hx => hl x (List.mem_cons_of_mem _ hx)) _ (encRound_length b k (hl k List.mem_cons_self))

/-- The rounds of decryption, started from the last SubBytes and ShiftRows, undo those of encryption. -/
theorem rounds_back (l : List (List Byte)) (hl : ∀ k ∈ l, k.length = 16) (b : List Byte) (h : b.length = 16) :
    (unshiftRows (l.reverse.foldl (fun b k => unmixColumns (xorBytes ((unshiftRows b).map unsubByte) k))
      (shiftRows ((l.foldl (fun b k => xorBytes (mixColumns (shiftRows (b.map subByte))) k) b).map subByte)))).map unsubByte = b := by
  induction l generalizing b with
  | nil => exact (round_back h (k := List.replicate 16 0) rfl).1
  | cons k l ih =>
    have hk := hl k List.mem_cons_self
    have hb := encRound_length b k hk
    have := ih (fun x hx => hl x (List.mem_cons_of_mem _ hx)) _ hb
    rw [List.reverse_cons, List.foldl_append]
    simp only [List.foldl_cons, List.foldl_nil] at this ⊢
    rw [this, (round_back h hk).2, unshift_shift (by simpa using h), sub_back]

/-- Decryption of a block undoes its encryption, under fifteen round keys of 16 bytes. -/
theorem aesDec_aesEnc (ks : List (List Byte)) (hn : ks.length = 15) (hk : ∀ k ∈ ks, k.length = 16) (b : List Byte) (h : b.length = 16) :
    aesDec ks (aesEnc ks b) = b := by
  have hg (i : Nat) (hi : i < 15) : (ks.getD i []).length = 16 := getD_len hk (by omega)
  have hm : ∀ k ∈ (ks.drop 1).take 13, k.length = 16 := fun k hx => hk k (List.mem_of_mem_drop (List.mem_of_mem_take hx))
  have h0 : (xorBytes b (ks.getD 0 [])).length = 16 := by rw [xorBytes_length, hg 0 (by omega), h]; rfl
  simp only [aesDec, aesEnc]
  rw [xorBytes_cancel _ _ (Nat.le_of_eq (by rw [shiftRows_length, hg 14 (by omega)])), rounds_back _ hm _ h0, xorBytes_cancel _ _ (Nat.le_of_eq (by rw [hg 0 (by omega), h]))]

/-! #### Round keys -/

theorem keyWords_ok (n i : Nat) (ws : List (List Byte)) (hw : 8 ≤ ws.length) (h : ∀ w ∈ ws, w.length = 4) :
    (keyWords n i ws).length = ws.length + n ∧ ∀ w ∈ keyWords n i ws, w.length = 4 := by
  induction n generalizing i ws with
  | zero => exact ⟨rfl, h⟩
  | succ n ih =>
    have hp : (ws.headD []).length = 4 := by
      cases ws with
      | nil => simp at hw
      | cons w ws => exact h w List.mem_cons_self
    have h7 : (ws.getD 7 []).length = 4 := getD_len h (by omega)
    simp only [keyWords]
    generalize ws.headD [] = p at hp ⊢
    refine (ih (i + 1) _ (by simp; omega) ?_).imp (fun e => by rw [e]; simp; omega) id
    intro w hx
    rcases List.mem_cons.1 hx with rfl | hx
    · rw [xorBytes_length, h7]
      split
      · simp [xorBytes_length, hp]
      · split <;> simp [hp]
    · exact h w hx

theorem roundKeys_ok (key : List Byte) (h : key.length = 32) : (roundKeys key).length = 15 ∧ ∀ k ∈ roundKeys key, k.length = 16 := by
  have hw : ∀ w ∈ ((List.range 8).map fun i => (key.drop (4 * i)).take 4).reverse, w.length = 4 := by
    intro w hx
    simp only [List.mem_reverse, List.mem_map, List.mem_range] at hx
    obtain ⟨i, hi, rfl⟩ := hx
    simp; omega
  have hl := keyWords_ok 52 8 ((List.range 8).map fun i => (key.drop (4 * i)).take 4).reverse (by simp) hw
  refine ⟨by simp [roundKeys], ?_⟩
  intro k hx
  simp only [roundKeys, List.mem_map, List.mem_range] at hx
  obtain ⟨r, hr, rfl⟩ := hx
  have h4 : ∀ w ∈ (((keyWords 52 8 ((List.range 8).map fun i => (key.drop (4 * i)).take 4).reverse).reverse.drop (4 * r)).take 4), w.length = 4 :=
    fun w hx => hl.2 w (List.mem_reverse.1 (List.mem_of_mem_drop (List.mem_of_mem_take hx)))
  rw [flatten_len h4]
  simp [hl.1]; omega

/-! #### XTS and the key -/

theorem xtsBlocks_back (f g : List Byte → List Byte) (hf : ∀ b, b.length = 16 → (f b).length = 16 ∧ g (f b) = b) (n t : Nat) (l : List Byte)
    (hl : l.length = 16 * n) : (xtsBlocks f n t l).length = 16 * n ∧ xtsBlocks g n t (xtsBlocks f n t l) = l := by
  induction n generalizing t l with
  | zero => exact ⟨rfl, (List.length_eq_zero_iff.1 (by simpa using hl)).symm⟩
  | succ n ih =>
    have h1 : (xorBytes (l.take 16) (toBytes 16 t)).length = 16 := by rw [xorBytes_length]; simp; omega
    obtain ⟨h2, h3⟩ := hf _ h1
    have h4 : (xorBytes (f (xorBytes (l.take 16) (toBytes 16 t))) (toBytes 16 t)).length = 16 := by rw [xorBytes_length, h2]; simp
    obtain ⟨h5, h6⟩ := ih (xtsNext t) (l.drop 16) (by simp; omega)
    constructor
    · simp only [xtsBlocks, List.length_append, h4, h5]; omega
    · simp only [xtsBlocks]
      rw [List.take_left' h4, List.drop_left' h4, h6, xorBytes_cancel _ _ (Nat.le_of_eq (by rw [h2, toBytes_length])), h3,
        xorBytes_cancel _ _ (by simp <;> omega), List.take_append_drop]

theorem xts_length (key : List Byte) (tweak : Nat) (l : List Byte) (hk : 32 ≤ key.length) (hl : l.length % 16 = 0) :
    (xts false key tweak l).length = l.length ∧ xts true key tweak (xts false key tweak l) = l := by
  obtain ⟨k1, k2⟩ := roundKeys_ok (key.take 32) (by simp; omega)
  have hf : ∀ b : List Byte, b.length = 16 → (aesEnc (roundKeys (key.take 32)) b).length = 16 ∧
      aesDec (roundKeys (key.take 32)) (aesEnc (roundKeys (key.take 32)) b) = b := by
    intro b hb
    refine ⟨?_, aesDec_aesEnc _ k1 k2 b hb⟩
    simp only [aesEnc]
    rw [xorBytes_length, shiftRows_length, getD_len k2 (by omega)]; rfl
  have hx := xtsBlocks_back _ _ hf (l.length / 16) (ofBytes (aesEnc (roundKeys (key.drop 32)) (toBytes 16 tweak))) l (by omega)
  have hlen : (xts false key tweak l).length = l.length := by
    simp only [xts, Bool.false_eq_true, if_false]; rw [hx.1]; omega
  refine ⟨hlen, ?_⟩
  have e : xts true key tweak (xts false key tweak l) = xtsBlocks (aesDec (roundKeys (key.take 32))) ((xts false key tweak l).length / 16)
      (ofBytes (aesEnc (roundKeys (key.drop 32)) (toBytes 16 tweak))) (xts false key tweak l) := rfl
  rw [e, hlen]
  exact hx.2

theorem shaFold_length (l : List W64) (h : List W64) (hh : h.length = 8) : (l.foldl shaRound h).length = 8 := by
  induction l generalizing h with
  | nil => exact hh
  | cons w l ih => exact ih _ rfl

theorem shaBlocks_length (l : List Nat) (m : List Byte) (h : List W64) (hh : h.length = 8) :
    (l.foldl (fun h i => shaBlock h ((m.drop (128 * i)).take 128)) h).length = 8 := by
  induction l generalizing h with
  | nil => exact hh
  | cons i l ih => exact ih _ (by simp [shaBlock, shaFold_length _ _ hh, hh])

theorem shaInit_length : shaInit.length = 8 := by
  have : 16 ≤ primes.length := by decide +kernel
  simp [shaInit]; omega

theorem sha384_length (l : List Byte) : (sha384 l).length = 48 := by
  simp only [sha384]
  rw [List.flatMap_def, flatten_len (n := 8) (by intro w hx; simp only [List.mem_map] at hx; obtain ⟨y, -, rfl⟩ := hx; simp)]
  have := shaBlocks_length (List.range ((l ++ [0x80] ++ List.replicate ((239 - l.length % 128) % 128) 0 ++ (toBytes 16 (8 * l.length)).reverse).length / 128))
    (l ++ [0x80] ++ List.replicate ((239 - l.length % 128) % 128) 0 ++ (toBytes 16 (8 * l.length)).reverse) shaInit shaInit_length
  rw [List.length_map, List.length_take, this]
  rfl

theorem tenantKey_length (tenant : W16) (epoch : W32) : (tenantKey tenant epoch).length = 64 := by
  simp only [tenantKey, hkdf64, hmac384, List.length_append, List.length_take, sha384_length]
  rfl

/-- What the module encrypted it decrypts: the plain text of a frame's cipher text is the frame, whatever the key is (08 R244). -/
theorem plainText_cipherText (tenant : W16) (epoch obj unit : W32) (plain : List Byte) (h : plain.length % 16 = 0) :
    plainText tenant epoch obj unit (cipherText tenant epoch obj unit plain) = plain :=
  (xts_length _ _ _ (by rw [tenantKey_length]; omega) h).2

theorem cipherText_length (tenant : W16) (epoch obj unit : W32) (plain : List Byte) (h : plain.length % 16 = 0) :
    (cipherText tenant epoch obj unit plain).length = plain.length :=
  (xts_length _ _ _ (by rw [tenantKey_length]; omega) h).1

end Sys2Proof.Machine
end

