-- ==== Sys2Proof/Laws/State.lean ====
section
/-! SUPPORT. What each update of the state changes: one lemma per field per update, and reading back what an update wrote. -/
namespace Sys2Proof.Machine

open Sys2Proof

variable (s : State)

/-! #### setThr -/

@[simp] theorem State.setThr_pending (i : Nat) (x : Thr) : (s.setThr i x).pending = s.pending := rfl
@[simp] theorem State.setThr_freeCount (i : Nat) (x : Thr) : (s.setThr i x).freeCount = s.freeCount := rfl
@[simp] theorem State.setThr_time (i : Nat) (x : Thr) : (s.setThr i x).time = s.time := rfl
@[simp] theorem State.setThr_dr (i : Nat) (x : Thr) : (s.setThr i x).dr = s.dr := rfl
@[simp] theorem State.setThr_str (i : Nat) (x : Thr) : (s.setThr i x).str = s.str := rfl
@[simp] theorem State.setThr_tile (i : Nat) (x : Thr) : (s.setThr i x).tile = s.tile := rfl
@[simp] theorem State.setThr_sy (i : Nat) (x : Thr) : (s.setThr i x).sy = s.sy := rfl
@[simp] theorem State.setThr_pages (i : Nat) (x : Thr) : (s.setThr i x).pages = s.pages := rfl
@[simp] theorem State.setThr_arr (i : Nat) (x : Thr) : (s.setThr i x).arr = s.arr := rfl
@[simp] theorem State.setThr_unit (i : Nat) (x : Thr) : (s.setThr i x).unit = s.unit := rfl
@[simp] theorem State.setThr_fl (i : Nat) (x : Thr) : (s.setThr i x).fl = s.fl := rfl
@[simp] theorem State.setThr_pw (i : Nat) (x : Thr) : (s.setThr i x).pw = s.pw := rfl
@[simp] theorem State.setThr_dm (i : Nat) (x : Thr) : (s.setThr i x).dm = s.dm := rfl
@[simp] theorem State.setThr_ti (i : Nat) (x : Thr) : (s.setThr i x).ti = s.ti := rfl
@[simp] theorem State.setThr_cw (i : Nat) (x : Thr) : (s.setThr i x).cw = s.cw := rfl
@[simp] theorem State.setThr_ho (i : Nat) (x : Thr) : (s.setThr i x).ho = s.ho := rfl
@[simp] theorem State.setThr_sv (i : Nat) (x : Thr) : (s.setThr i x).sv = s.sv := rfl
@[simp] theorem State.setThr_bt (i : Nat) (x : Thr) : (s.setThr i x).bt = s.bt := rfl
@[simp] theorem State.setThr_md (i : Nat) (x : Thr) : (s.setThr i x).md = s.md := rfl
@[simp] theorem State.setThr_th_last (i : Nat) (x : Thr) : (s.setThr i x).th.last = s.th.last := rfl
@[simp] theorem State.setThr_th_copies (i : Nat) (x : Thr) : (s.setThr i x).th.copies = s.th.copies := rfl
@[simp] theorem State.setThr_th_flushes (i : Nat) (x : Thr) : (s.setThr i x).th.flushes = s.th.flushes := rfl

/-! #### setTile -/

@[simp] theorem State.setTile_pending (i : Nat) (x : Tile) : (s.setTile i x).pending = s.pending := rfl
@[simp] theorem State.setTile_freeCount (i : Nat) (x : Tile) : (s.setTile i x).freeCount = s.freeCount := rfl
@[simp] theorem State.setTile_time (i : Nat) (x : Tile) : (s.setTile i x).time = s.time := rfl
@[simp] theorem State.setTile_dr (i : Nat) (x : Tile) : (s.setTile i x).dr = s.dr := rfl
@[simp] theorem State.setTile_th (i : Nat) (x : Tile) : (s.setTile i x).th = s.th := rfl
@[simp] theorem State.setTile_str (i : Nat) (x : Tile) : (s.setTile i x).str = s.str := rfl
@[simp] theorem State.setTile_sy (i : Nat) (x : Tile) : (s.setTile i x).sy = s.sy := rfl
@[simp] theorem State.setTile_pages (i : Nat) (x : Tile) : (s.setTile i x).pages = s.pages := rfl
@[simp] theorem State.setTile_arr (i : Nat) (x : Tile) : (s.setTile i x).arr = s.arr := rfl
@[simp] theorem State.setTile_unit (i : Nat) (x : Tile) : (s.setTile i x).unit = s.unit := rfl
@[simp] theorem State.setTile_fl (i : Nat) (x : Tile) : (s.setTile i x).fl = s.fl := rfl
@[simp] theorem State.setTile_pw (i : Nat) (x : Tile) : (s.setTile i x).pw = s.pw := rfl
@[simp] theorem State.setTile_dm (i : Nat) (x : Tile) : (s.setTile i x).dm = s.dm := rfl
@[simp] theorem State.setTile_ti (i : Nat) (x : Tile) : (s.setTile i x).ti = s.ti := rfl
@[simp] theorem State.setTile_cw (i : Nat) (x : Tile) : (s.setTile i x).cw = s.cw := rfl
@[simp] theorem State.setTile_ho (i : Nat) (x : Tile) : (s.setTile i x).ho = s.ho := rfl
@[simp] theorem State.setTile_sv (i : Nat) (x : Tile) : (s.setTile i x).sv = s.sv := rfl
@[simp] theorem State.setTile_bt (i : Nat) (x : Tile) : (s.setTile i x).bt = s.bt := rfl
@[simp] theorem State.setTile_md (i : Nat) (x : Tile) : (s.setTile i x).md = s.md := rfl

/-! #### setSub -/

@[simp] theorem State.setSub_pending (i : Nat) (x : SubCh) : (s.setSub i x).pending = s.pending := rfl
@[simp] theorem State.setSub_freeCount (i : Nat) (x : SubCh) : (s.setSub i x).freeCount = s.freeCount := rfl
@[simp] theorem State.setSub_time (i : Nat) (x : SubCh) : (s.setSub i x).time = s.time := rfl
@[simp] theorem State.setSub_th (i : Nat) (x : SubCh) : (s.setSub i x).th = s.th := rfl
@[simp] theorem State.setSub_str (i : Nat) (x : SubCh) : (s.setSub i x).str = s.str := rfl
@[simp] theorem State.setSub_tile (i : Nat) (x : SubCh) : (s.setSub i x).tile = s.tile := rfl
@[simp] theorem State.setSub_sy (i : Nat) (x : SubCh) : (s.setSub i x).sy = s.sy := rfl
@[simp] theorem State.setSub_pages (i : Nat) (x : SubCh) : (s.setSub i x).pages = s.pages := rfl
@[simp] theorem State.setSub_arr (i : Nat) (x : SubCh) : (s.setSub i x).arr = s.arr := rfl
@[simp] theorem State.setSub_unit (i : Nat) (x : SubCh) : (s.setSub i x).unit = s.unit := rfl
@[simp] theorem State.setSub_fl (i : Nat) (x : SubCh) : (s.setSub i x).fl = s.fl := rfl
@[simp] theorem State.setSub_pw (i : Nat) (x : SubCh) : (s.setSub i x).pw = s.pw := rfl
@[simp] theorem State.setSub_dm (i : Nat) (x : SubCh) : (s.setSub i x).dm = s.dm := rfl
@[simp] theorem State.setSub_ti (i : Nat) (x : SubCh) : (s.setSub i x).ti = s.ti := rfl
@[simp] theorem State.setSub_cw (i : Nat) (x : SubCh) : (s.setSub i x).cw = s.cw := rfl
@[simp] theorem State.setSub_ho (i : Nat) (x : SubCh) : (s.setSub i x).ho = s.ho := rfl
@[simp] theorem State.setSub_sv (i : Nat) (x : SubCh) : (s.setSub i x).sv = s.sv := rfl
@[simp] theorem State.setSub_bt (i : Nat) (x : SubCh) : (s.setSub i x).bt = s.bt := rfl
@[simp] theorem State.setSub_md (i : Nat) (x : SubCh) : (s.setSub i x).md = s.md := rfl
@[simp] theorem State.setSub_dr_madder (i : Nat) (x : SubCh) : (s.setSub i x).dr.madder = s.dr.madder := rfl
@[simp] theorem State.setSub_dr_mark (i : Nat) (x : SubCh) : (s.setSub i x).dr.mark = s.dr.mark := rfl
@[simp] theorem State.setSub_dr_reported (i : Nat) (x : SubCh) : (s.setSub i x).dr.reported = s.dr.reported := rfl
@[simp] theorem State.setSub_dr_segs (i : Nat) (x : SubCh) : (s.setSub i x).dr.segs = s.dr.segs := rfl
@[simp] theorem State.setSub_dr_segEpoch (i : Nat) (x : SubCh) : (s.setSub i x).dr.segEpoch = s.dr.segEpoch := rfl
@[simp] theorem State.setSub_dr_bank (i : Nat) (x : SubCh) : (s.setSub i x).dr.bank = s.dr.bank := rfl
@[simp] theorem State.setSub_dr_stack (i : Nat) (x : SubCh) : (s.setSub i x).dr.stack = s.dr.stack := rfl

/-! #### setBank -/

@[simp] theorem State.setBank_pending (i : Nat) (x : Bank) : (s.setBank i x).pending = s.pending := rfl
@[simp] theorem State.setBank_freeCount (i : Nat) (x : Bank) : (s.setBank i x).freeCount = s.freeCount := rfl
@[simp] theorem State.setBank_time (i : Nat) (x : Bank) : (s.setBank i x).time = s.time := rfl
@[simp] theorem State.setBank_th (i : Nat) (x : Bank) : (s.setBank i x).th = s.th := rfl
@[simp] theorem State.setBank_str (i : Nat) (x : Bank) : (s.setBank i x).str = s.str := rfl
@[simp] theorem State.setBank_tile (i : Nat) (x : Bank) : (s.setBank i x).tile = s.tile := rfl
@[simp] theorem State.setBank_sy (i : Nat) (x : Bank) : (s.setBank i x).sy = s.sy := rfl
@[simp] theorem State.setBank_pages (i : Nat) (x : Bank) : (s.setBank i x).pages = s.pages := rfl
@[simp] theorem State.setBank_arr (i : Nat) (x : Bank) : (s.setBank i x).arr = s.arr := rfl
@[simp] theorem State.setBank_unit (i : Nat) (x : Bank) : (s.setBank i x).unit = s.unit := rfl
@[simp] theorem State.setBank_fl (i : Nat) (x : Bank) : (s.setBank i x).fl = s.fl := rfl
@[simp] theorem State.setBank_pw (i : Nat) (x : Bank) : (s.setBank i x).pw = s.pw := rfl
@[simp] theorem State.setBank_dm (i : Nat) (x : Bank) : (s.setBank i x).dm = s.dm := rfl
@[simp] theorem State.setBank_ti (i : Nat) (x : Bank) : (s.setBank i x).ti = s.ti := rfl
@[simp] theorem State.setBank_cw (i : Nat) (x : Bank) : (s.setBank i x).cw = s.cw := rfl
@[simp] theorem State.setBank_ho (i : Nat) (x : Bank) : (s.setBank i x).ho = s.ho := rfl
@[simp] theorem State.setBank_sv (i : Nat) (x : Bank) : (s.setBank i x).sv = s.sv := rfl
@[simp] theorem State.setBank_bt (i : Nat) (x : Bank) : (s.setBank i x).bt = s.bt := rfl
@[simp] theorem State.setBank_md (i : Nat) (x : Bank) : (s.setBank i x).md = s.md := rfl
@[simp] theorem State.setBank_dr_madder (i : Nat) (x : Bank) : (s.setBank i x).dr.madder = s.dr.madder := rfl
@[simp] theorem State.setBank_dr_mark (i : Nat) (x : Bank) : (s.setBank i x).dr.mark = s.dr.mark := rfl
@[simp] theorem State.setBank_dr_reported (i : Nat) (x : Bank) : (s.setBank i x).dr.reported = s.dr.reported := rfl
@[simp] theorem State.setBank_dr_segs (i : Nat) (x : Bank) : (s.setBank i x).dr.segs = s.dr.segs := rfl
@[simp] theorem State.setBank_dr_segEpoch (i : Nat) (x : Bank) : (s.setBank i x).dr.segEpoch = s.dr.segEpoch := rfl
@[simp] theorem State.setBank_dr_sub (i : Nat) (x : Bank) : (s.setBank i x).dr.sub = s.dr.sub := rfl
@[simp] theorem State.setBank_dr_stack (i : Nat) (x : Bank) : (s.setBank i x).dr.stack = s.dr.stack := rfl

/-! #### setStack -/

@[simp] theorem State.setStack_pending (i : Nat) (x : Stack) : (s.setStack i x).pending = s.pending := rfl
@[simp] theorem State.setStack_freeCount (i : Nat) (x : Stack) : (s.setStack i x).freeCount = s.freeCount := rfl
@[simp] theorem State.setStack_time (i : Nat) (x : Stack) : (s.setStack i x).time = s.time := rfl
@[simp] theorem State.setStack_th (i : Nat) (x : Stack) : (s.setStack i x).th = s.th := rfl
@[simp] theorem State.setStack_str (i : Nat) (x : Stack) : (s.setStack i x).str = s.str := rfl
@[simp] theorem State.setStack_tile (i : Nat) (x : Stack) : (s.setStack i x).tile = s.tile := rfl
@[simp] theorem State.setStack_sy (i : Nat) (x : Stack) : (s.setStack i x).sy = s.sy := rfl
@[simp] theorem State.setStack_pages (i : Nat) (x : Stack) : (s.setStack i x).pages = s.pages := rfl
@[simp] theorem State.setStack_arr (i : Nat) (x : Stack) : (s.setStack i x).arr = s.arr := rfl
@[simp] theorem State.setStack_unit (i : Nat) (x : Stack) : (s.setStack i x).unit = s.unit := rfl
@[simp] theorem State.setStack_fl (i : Nat) (x : Stack) : (s.setStack i x).fl = s.fl := rfl
@[simp] theorem State.setStack_pw (i : Nat) (x : Stack) : (s.setStack i x).pw = s.pw := rfl
@[simp] theorem State.setStack_dm (i : Nat) (x : Stack) : (s.setStack i x).dm = s.dm := rfl
@[simp] theorem State.setStack_ti (i : Nat) (x : Stack) : (s.setStack i x).ti = s.ti := rfl
@[simp] theorem State.setStack_cw (i : Nat) (x : Stack) : (s.setStack i x).cw = s.cw := rfl
@[simp] theorem State.setStack_ho (i : Nat) (x : Stack) : (s.setStack i x).ho = s.ho := rfl
@[simp] theorem State.setStack_sv (i : Nat) (x : Stack) : (s.setStack i x).sv = s.sv := rfl
@[simp] theorem State.setStack_bt (i : Nat) (x : Stack) : (s.setStack i x).bt = s.bt := rfl
@[simp] theorem State.setStack_md (i : Nat) (x : Stack) : (s.setStack i x).md = s.md := rfl
@[simp] theorem State.setStack_dr_madder (i : Nat) (x : Stack) : (s.setStack i x).dr.madder = s.dr.madder := rfl
@[simp] theorem State.setStack_dr_mark (i : Nat) (x : Stack) : (s.setStack i x).dr.mark = s.dr.mark := rfl
@[simp] theorem State.setStack_dr_reported (i : Nat) (x : Stack) : (s.setStack i x).dr.reported = s.dr.reported := rfl
@[simp] theorem State.setStack_dr_segs (i : Nat) (x : Stack) : (s.setStack i x).dr.segs = s.dr.segs := rfl
@[simp] theorem State.setStack_dr_segEpoch (i : Nat) (x : Stack) : (s.setStack i x).dr.segEpoch = s.dr.segEpoch := rfl
@[simp] theorem State.setStack_dr_sub (i : Nat) (x : Stack) : (s.setStack i x).dr.sub = s.dr.sub := rfl
@[simp] theorem State.setStack_dr_bank (i : Nat) (x : Stack) : (s.setStack i x).dr.bank = s.dr.bank := rfl

/-! #### setUnit -/

@[simp] theorem State.setUnit_pending (i : Nat) (x : BUnit) : (s.setUnit i x).pending = s.pending := rfl
@[simp] theorem State.setUnit_freeCount (i : Nat) (x : BUnit) : (s.setUnit i x).freeCount = s.freeCount := rfl
@[simp] theorem State.setUnit_time (i : Nat) (x : BUnit) : (s.setUnit i x).time = s.time := rfl
@[simp] theorem State.setUnit_dr (i : Nat) (x : BUnit) : (s.setUnit i x).dr = s.dr := rfl
@[simp] theorem State.setUnit_th (i : Nat) (x : BUnit) : (s.setUnit i x).th = s.th := rfl
@[simp] theorem State.setUnit_str (i : Nat) (x : BUnit) : (s.setUnit i x).str = s.str := rfl
@[simp] theorem State.setUnit_tile (i : Nat) (x : BUnit) : (s.setUnit i x).tile = s.tile := rfl
@[simp] theorem State.setUnit_sy (i : Nat) (x : BUnit) : (s.setUnit i x).sy = s.sy := rfl
@[simp] theorem State.setUnit_pages (i : Nat) (x : BUnit) : (s.setUnit i x).pages = s.pages := rfl
@[simp] theorem State.setUnit_arr (i : Nat) (x : BUnit) : (s.setUnit i x).arr = s.arr := rfl
@[simp] theorem State.setUnit_fl (i : Nat) (x : BUnit) : (s.setUnit i x).fl = s.fl := rfl
@[simp] theorem State.setUnit_pw (i : Nat) (x : BUnit) : (s.setUnit i x).pw = s.pw := rfl
@[simp] theorem State.setUnit_dm (i : Nat) (x : BUnit) : (s.setUnit i x).dm = s.dm := rfl
@[simp] theorem State.setUnit_ti (i : Nat) (x : BUnit) : (s.setUnit i x).ti = s.ti := rfl
@[simp] theorem State.setUnit_cw (i : Nat) (x : BUnit) : (s.setUnit i x).cw = s.cw := rfl
@[simp] theorem State.setUnit_ho (i : Nat) (x : BUnit) : (s.setUnit i x).ho = s.ho := rfl
@[simp] theorem State.setUnit_sv (i : Nat) (x : BUnit) : (s.setUnit i x).sv = s.sv := rfl
@[simp] theorem State.setUnit_bt (i : Nat) (x : BUnit) : (s.setUnit i x).bt = s.bt := rfl
@[simp] theorem State.setUnit_md (i : Nat) (x : BUnit) : (s.setUnit i x).md = s.md := rfl

/-! #### setArr -/

@[simp] theorem State.setArr_pending (i : Nat) (x : ArrayU) : (s.setArr i x).pending = s.pending := rfl
@[simp] theorem State.setArr_freeCount (i : Nat) (x : ArrayU) : (s.setArr i x).freeCount = s.freeCount := rfl
@[simp] theorem State.setArr_time (i : Nat) (x : ArrayU) : (s.setArr i x).time = s.time := rfl
@[simp] theorem State.setArr_dr (i : Nat) (x : ArrayU) : (s.setArr i x).dr = s.dr := rfl
@[simp] theorem State.setArr_th (i : Nat) (x : ArrayU) : (s.setArr i x).th = s.th := rfl
@[simp] theorem State.setArr_str (i : Nat) (x : ArrayU) : (s.setArr i x).str = s.str := rfl
@[simp] theorem State.setArr_tile (i : Nat) (x : ArrayU) : (s.setArr i x).tile = s.tile := rfl
@[simp] theorem State.setArr_sy (i : Nat) (x : ArrayU) : (s.setArr i x).sy = s.sy := rfl
@[simp] theorem State.setArr_pages (i : Nat) (x : ArrayU) : (s.setArr i x).pages = s.pages := rfl
@[simp] theorem State.setArr_unit (i : Nat) (x : ArrayU) : (s.setArr i x).unit = s.unit := rfl
@[simp] theorem State.setArr_fl (i : Nat) (x : ArrayU) : (s.setArr i x).fl = s.fl := rfl
@[simp] theorem State.setArr_pw (i : Nat) (x : ArrayU) : (s.setArr i x).pw = s.pw := rfl
@[simp] theorem State.setArr_dm (i : Nat) (x : ArrayU) : (s.setArr i x).dm = s.dm := rfl
@[simp] theorem State.setArr_ti (i : Nat) (x : ArrayU) : (s.setArr i x).ti = s.ti := rfl
@[simp] theorem State.setArr_cw (i : Nat) (x : ArrayU) : (s.setArr i x).cw = s.cw := rfl
@[simp] theorem State.setArr_ho (i : Nat) (x : ArrayU) : (s.setArr i x).ho = s.ho := rfl
@[simp] theorem State.setArr_sv (i : Nat) (x : ArrayU) : (s.setArr i x).sv = s.sv := rfl
@[simp] theorem State.setArr_bt (i : Nat) (x : ArrayU) : (s.setArr i x).bt = s.bt := rfl
@[simp] theorem State.setArr_md (i : Nat) (x : ArrayU) : (s.setArr i x).md = s.md := rfl

/-! #### setCtr -/

@[simp] theorem State.setCtr_pending (i : Nat) (x : Ctr) : (s.setCtr i x).pending = s.pending := rfl
@[simp] theorem State.setCtr_freeCount (i : Nat) (x : Ctr) : (s.setCtr i x).freeCount = s.freeCount := rfl
@[simp] theorem State.setCtr_time (i : Nat) (x : Ctr) : (s.setCtr i x).time = s.time := rfl
@[simp] theorem State.setCtr_dr (i : Nat) (x : Ctr) : (s.setCtr i x).dr = s.dr := rfl
@[simp] theorem State.setCtr_th (i : Nat) (x : Ctr) : (s.setCtr i x).th = s.th := rfl
@[simp] theorem State.setCtr_str (i : Nat) (x : Ctr) : (s.setCtr i x).str = s.str := rfl
@[simp] theorem State.setCtr_tile (i : Nat) (x : Ctr) : (s.setCtr i x).tile = s.tile := rfl
@[simp] theorem State.setCtr_pages (i : Nat) (x : Ctr) : (s.setCtr i x).pages = s.pages := rfl
@[simp] theorem State.setCtr_arr (i : Nat) (x : Ctr) : (s.setCtr i x).arr = s.arr := rfl
@[simp] theorem State.setCtr_unit (i : Nat) (x : Ctr) : (s.setCtr i x).unit = s.unit := rfl
@[simp] theorem State.setCtr_fl (i : Nat) (x : Ctr) : (s.setCtr i x).fl = s.fl := rfl
@[simp] theorem State.setCtr_pw (i : Nat) (x : Ctr) : (s.setCtr i x).pw = s.pw := rfl
@[simp] theorem State.setCtr_dm (i : Nat) (x : Ctr) : (s.setCtr i x).dm = s.dm := rfl
@[simp] theorem State.setCtr_ti (i : Nat) (x : Ctr) : (s.setCtr i x).ti = s.ti := rfl
@[simp] theorem State.setCtr_cw (i : Nat) (x : Ctr) : (s.setCtr i x).cw = s.cw := rfl
@[simp] theorem State.setCtr_ho (i : Nat) (x : Ctr) : (s.setCtr i x).ho = s.ho := rfl
@[simp] theorem State.setCtr_sv (i : Nat) (x : Ctr) : (s.setCtr i x).sv = s.sv := rfl
@[simp] theorem State.setCtr_bt (i : Nat) (x : Ctr) : (s.setCtr i x).bt = s.bt := rfl
@[simp] theorem State.setCtr_md (i : Nat) (x : Ctr) : (s.setCtr i x).md = s.md := rfl
@[simp] theorem State.setCtr_sy_armed (i : Nat) (x : Ctr) : (s.setCtr i x).sy.armed = s.sy.armed := rfl
@[simp] theorem State.setCtr_sy_queued (i : Nat) (x : Ctr) : (s.setCtr i x).sy.queued = s.sy.queued := rfl
@[simp] theorem State.setCtr_sy_ops (i : Nat) (x : Ctr) : (s.setCtr i x).sy.ops = s.sy.ops := rfl
@[simp] theorem State.setCtr_sy_wakes (i : Nat) (x : Ctr) : (s.setCtr i x).sy.wakes = s.sy.wakes := rfl
@[simp] theorem State.setCtr_sy_stores (i : Nat) (x : Ctr) : (s.setCtr i x).sy.stores = s.sy.stores := rfl
@[simp] theorem State.setCtr_sy_errs (i : Nat) (x : Ctr) : (s.setCtr i x).sy.errs = s.sy.errs := rfl
@[simp] theorem State.setCtr_sy_fw (i : Nat) (x : Ctr) : (s.setCtr i x).sy.fw = s.sy.fw := rfl

/-! #### setChan -/

@[simp] theorem State.setChan_pending (i : Nat) (x : Chan) : (s.setChan i x).pending = s.pending := rfl
@[simp] theorem State.setChan_freeCount (i : Nat) (x : Chan) : (s.setChan i x).freeCount = s.freeCount := rfl
@[simp] theorem State.setChan_time (i : Nat) (x : Chan) : (s.setChan i x).time = s.time := rfl
@[simp] theorem State.setChan_dr (i : Nat) (x : Chan) : (s.setChan i x).dr = s.dr := rfl
@[simp] theorem State.setChan_th (i : Nat) (x : Chan) : (s.setChan i x).th = s.th := rfl
@[simp] theorem State.setChan_str (i : Nat) (x : Chan) : (s.setChan i x).str = s.str := rfl
@[simp] theorem State.setChan_tile (i : Nat) (x : Chan) : (s.setChan i x).tile = s.tile := rfl
@[simp] theorem State.setChan_sy (i : Nat) (x : Chan) : (s.setChan i x).sy = s.sy := rfl
@[simp] theorem State.setChan_pages (i : Nat) (x : Chan) : (s.setChan i x).pages = s.pages := rfl
@[simp] theorem State.setChan_arr (i : Nat) (x : Chan) : (s.setChan i x).arr = s.arr := rfl
@[simp] theorem State.setChan_unit (i : Nat) (x : Chan) : (s.setChan i x).unit = s.unit := rfl
@[simp] theorem State.setChan_fl (i : Nat) (x : Chan) : (s.setChan i x).fl = s.fl := rfl
@[simp] theorem State.setChan_pw (i : Nat) (x : Chan) : (s.setChan i x).pw = s.pw := rfl
@[simp] theorem State.setChan_ti (i : Nat) (x : Chan) : (s.setChan i x).ti = s.ti := rfl
@[simp] theorem State.setChan_cw (i : Nat) (x : Chan) : (s.setChan i x).cw = s.cw := rfl
@[simp] theorem State.setChan_ho (i : Nat) (x : Chan) : (s.setChan i x).ho = s.ho := rfl
@[simp] theorem State.setChan_sv (i : Nat) (x : Chan) : (s.setChan i x).sv = s.sv := rfl
@[simp] theorem State.setChan_bt (i : Nat) (x : Chan) : (s.setChan i x).bt = s.bt := rfl
@[simp] theorem State.setChan_md (i : Nat) (x : Chan) : (s.setChan i x).md = s.md := rfl
@[simp] theorem State.setChan_dm_starve (i : Nat) (x : Chan) : (s.setChan i x).dm.starve = s.dm.starve := rfl
@[simp] theorem State.setChan_dm_last (i : Nat) (x : Chan) : (s.setChan i x).dm.last = s.dm.last := rfl

/-! #### setCw -/

@[simp] theorem State.setCw_pending (i : Nat) (x : CwPort) : (s.setCw i x).pending = s.pending := rfl
@[simp] theorem State.setCw_freeCount (i : Nat) (x : CwPort) : (s.setCw i x).freeCount = s.freeCount := rfl
@[simp] theorem State.setCw_time (i : Nat) (x : CwPort) : (s.setCw i x).time = s.time := rfl
@[simp] theorem State.setCw_dr (i : Nat) (x : CwPort) : (s.setCw i x).dr = s.dr := rfl
@[simp] theorem State.setCw_th (i : Nat) (x : CwPort) : (s.setCw i x).th = s.th := rfl
@[simp] theorem State.setCw_str (i : Nat) (x : CwPort) : (s.setCw i x).str = s.str := rfl
@[simp] theorem State.setCw_tile (i : Nat) (x : CwPort) : (s.setCw i x).tile = s.tile := rfl
@[simp] theorem State.setCw_sy (i : Nat) (x : CwPort) : (s.setCw i x).sy = s.sy := rfl
@[simp] theorem State.setCw_pages (i : Nat) (x : CwPort) : (s.setCw i x).pages = s.pages := rfl
@[simp] theorem State.setCw_arr (i : Nat) (x : CwPort) : (s.setCw i x).arr = s.arr := rfl
@[simp] theorem State.setCw_unit (i : Nat) (x : CwPort) : (s.setCw i x).unit = s.unit := rfl
@[simp] theorem State.setCw_fl (i : Nat) (x : CwPort) : (s.setCw i x).fl = s.fl := rfl
@[simp] theorem State.setCw_pw (i : Nat) (x : CwPort) : (s.setCw i x).pw = s.pw := rfl
@[simp] theorem State.setCw_dm (i : Nat) (x : CwPort) : (s.setCw i x).dm = s.dm := rfl
@[simp] theorem State.setCw_ti (i : Nat) (x : CwPort) : (s.setCw i x).ti = s.ti := rfl
@[simp] theorem State.setCw_ho (i : Nat) (x : CwPort) : (s.setCw i x).ho = s.ho := rfl
@[simp] theorem State.setCw_sv (i : Nat) (x : CwPort) : (s.setCw i x).sv = s.sv := rfl
@[simp] theorem State.setCw_bt (i : Nat) (x : CwPort) : (s.setCw i x).bt = s.bt := rfl
@[simp] theorem State.setCw_md (i : Nat) (x : CwPort) : (s.setCw i x).md = s.md := rfl
@[simp] theorem State.setCw_cw_lent (i : Nat) (x : CwPort) : (s.setCw i x).cw.lent = s.cw.lent := rfl
@[simp] theorem State.setCw_cw_slot (i : Nat) (x : CwPort) : (s.setCw i x).cw.slot = s.cw.slot := rfl
@[simp] theorem State.setCw_cw_reserve (i : Nat) (x : CwPort) : (s.setCw i x).cw.reserve = s.cw.reserve := rfl
@[simp] theorem State.setCw_cw_nextLot (i : Nat) (x : CwPort) : (s.setCw i x).cw.nextLot = s.cw.nextLot := rfl

/-! #### setLot -/

@[simp] theorem State.setLot_pending (i : Nat) (x : LotRec) : (s.setLot i x).pending = s.pending := rfl
@[simp] theorem State.setLot_freeCount (i : Nat) (x : LotRec) : (s.setLot i x).freeCount = s.freeCount := rfl
@[simp] theorem State.setLot_time (i : Nat) (x : LotRec) : (s.setLot i x).time = s.time := rfl
@[simp] theorem State.setLot_dr (i : Nat) (x : LotRec) : (s.setLot i x).dr = s.dr := rfl
@[simp] theorem State.setLot_th (i : Nat) (x : LotRec) : (s.setLot i x).th = s.th := rfl
@[simp] theorem State.setLot_str (i : Nat) (x : LotRec) : (s.setLot i x).str = s.str := rfl
@[simp] theorem State.setLot_tile (i : Nat) (x : LotRec) : (s.setLot i x).tile = s.tile := rfl
@[simp] theorem State.setLot_sy (i : Nat) (x : LotRec) : (s.setLot i x).sy = s.sy := rfl
@[simp] theorem State.setLot_pages (i : Nat) (x : LotRec) : (s.setLot i x).pages = s.pages := rfl
@[simp] theorem State.setLot_arr (i : Nat) (x : LotRec) : (s.setLot i x).arr = s.arr := rfl
@[simp] theorem State.setLot_unit (i : Nat) (x : LotRec) : (s.setLot i x).unit = s.unit := rfl
@[simp] theorem State.setLot_fl (i : Nat) (x : LotRec) : (s.setLot i x).fl = s.fl := rfl
@[simp] theorem State.setLot_pw (i : Nat) (x : LotRec) : (s.setLot i x).pw = s.pw := rfl
@[simp] theorem State.setLot_dm (i : Nat) (x : LotRec) : (s.setLot i x).dm = s.dm := rfl
@[simp] theorem State.setLot_ti (i : Nat) (x : LotRec) : (s.setLot i x).ti = s.ti := rfl
@[simp] theorem State.setLot_ho (i : Nat) (x : LotRec) : (s.setLot i x).ho = s.ho := rfl
@[simp] theorem State.setLot_sv (i : Nat) (x : LotRec) : (s.setLot i x).sv = s.sv := rfl
@[simp] theorem State.setLot_bt (i : Nat) (x : LotRec) : (s.setLot i x).bt = s.bt := rfl
@[simp] theorem State.setLot_md (i : Nat) (x : LotRec) : (s.setLot i x).md = s.md := rfl
@[simp] theorem State.setLot_cw_port (i : Nat) (x : LotRec) : (s.setLot i x).cw.port = s.cw.port := rfl
@[simp] theorem State.setLot_cw_lent (i : Nat) (x : LotRec) : (s.setLot i x).cw.lent = s.cw.lent := rfl
@[simp] theorem State.setLot_cw_reserve (i : Nat) (x : LotRec) : (s.setLot i x).cw.reserve = s.cw.reserve := rfl
@[simp] theorem State.setLot_cw_nextLot (i : Nat) (x : LotRec) : (s.setLot i x).cw.nextLot = s.cw.nextLot := rfl

/-! #### setObj -/

@[simp] theorem State.setObj_pending (i : Nat) (x : Obj) : (s.setObj i x).pending = s.pending := rfl
@[simp] theorem State.setObj_freeCount (i : Nat) (x : Obj) : (s.setObj i x).freeCount = s.freeCount := rfl
@[simp] theorem State.setObj_time (i : Nat) (x : Obj) : (s.setObj i x).time = s.time := rfl
@[simp] theorem State.setObj_dr (i : Nat) (x : Obj) : (s.setObj i x).dr = s.dr := rfl
@[simp] theorem State.setObj_th (i : Nat) (x : Obj) : (s.setObj i x).th = s.th := rfl
@[simp] theorem State.setObj_str (i : Nat) (x : Obj) : (s.setObj i x).str = s.str := rfl
@[simp] theorem State.setObj_tile (i : Nat) (x : Obj) : (s.setObj i x).tile = s.tile := rfl
@[simp] theorem State.setObj_sy (i : Nat) (x : Obj) : (s.setObj i x).sy = s.sy := rfl
@[simp] theorem State.setObj_pages (i : Nat) (x : Obj) : (s.setObj i x).pages = s.pages := rfl
@[simp] theorem State.setObj_arr (i : Nat) (x : Obj) : (s.setObj i x).arr = s.arr := rfl
@[simp] theorem State.setObj_unit (i : Nat) (x : Obj) : (s.setObj i x).unit = s.unit := rfl
@[simp] theorem State.setObj_fl (i : Nat) (x : Obj) : (s.setObj i x).fl = s.fl := rfl
@[simp] theorem State.setObj_pw (i : Nat) (x : Obj) : (s.setObj i x).pw = s.pw := rfl
@[simp] theorem State.setObj_dm (i : Nat) (x : Obj) : (s.setObj i x).dm = s.dm := rfl
@[simp] theorem State.setObj_cw (i : Nat) (x : Obj) : (s.setObj i x).cw = s.cw := rfl
@[simp] theorem State.setObj_ho (i : Nat) (x : Obj) : (s.setObj i x).ho = s.ho := rfl
@[simp] theorem State.setObj_sv (i : Nat) (x : Obj) : (s.setObj i x).sv = s.sv := rfl
@[simp] theorem State.setObj_bt (i : Nat) (x : Obj) : (s.setObj i x).bt = s.bt := rfl
@[simp] theorem State.setObj_md (i : Nat) (x : Obj) : (s.setObj i x).md = s.md := rfl
@[simp] theorem State.setObj_ti_pools (i : Nat) (x : Obj) : (s.setObj i x).ti.pools = s.ti.pools := rfl
@[simp] theorem State.setObj_ti_used (i : Nat) (x : Obj) : (s.setObj i x).ti.used = s.ti.used := rfl

/-! #### setModel -/

@[simp] theorem State.setModel_pending (i : Nat) (x : ModelD) : (s.setModel i x).pending = s.pending := rfl
@[simp] theorem State.setModel_freeCount (i : Nat) (x : ModelD) : (s.setModel i x).freeCount = s.freeCount := rfl
@[simp] theorem State.setModel_time (i : Nat) (x : ModelD) : (s.setModel i x).time = s.time := rfl
@[simp] theorem State.setModel_dr (i : Nat) (x : ModelD) : (s.setModel i x).dr = s.dr := rfl
@[simp] theorem State.setModel_th (i : Nat) (x : ModelD) : (s.setModel i x).th = s.th := rfl
@[simp] theorem State.setModel_str (i : Nat) (x : ModelD) : (s.setModel i x).str = s.str := rfl
@[simp] theorem State.setModel_tile (i : Nat) (x : ModelD) : (s.setModel i x).tile = s.tile := rfl
@[simp] theorem State.setModel_sy (i : Nat) (x : ModelD) : (s.setModel i x).sy = s.sy := rfl
@[simp] theorem State.setModel_pages (i : Nat) (x : ModelD) : (s.setModel i x).pages = s.pages := rfl
@[simp] theorem State.setModel_arr (i : Nat) (x : ModelD) : (s.setModel i x).arr = s.arr := rfl
@[simp] theorem State.setModel_unit (i : Nat) (x : ModelD) : (s.setModel i x).unit = s.unit := rfl
@[simp] theorem State.setModel_fl (i : Nat) (x : ModelD) : (s.setModel i x).fl = s.fl := rfl
@[simp] theorem State.setModel_pw (i : Nat) (x : ModelD) : (s.setModel i x).pw = s.pw := rfl
@[simp] theorem State.setModel_dm (i : Nat) (x : ModelD) : (s.setModel i x).dm = s.dm := rfl
@[simp] theorem State.setModel_ti (i : Nat) (x : ModelD) : (s.setModel i x).ti = s.ti := rfl
@[simp] theorem State.setModel_cw (i : Nat) (x : ModelD) : (s.setModel i x).cw = s.cw := rfl
@[simp] theorem State.setModel_ho (i : Nat) (x : ModelD) : (s.setModel i x).ho = s.ho := rfl
@[simp] theorem State.setModel_bt (i : Nat) (x : ModelD) : (s.setModel i x).bt = s.bt := rfl
@[simp] theorem State.setModel_md (i : Nat) (x : ModelD) : (s.setModel i x).md = s.md := rfl
@[simp] theorem State.setModel_sv_tenant (i : Nat) (x : ModelD) : (s.setModel i x).sv.tenant = s.sv.tenant := rfl
@[simp] theorem State.setModel_sv_overlay (i : Nat) (x : ModelD) : (s.setModel i x).sv.overlay = s.sv.overlay := rfl
@[simp] theorem State.setModel_sv_sess (i : Nat) (x : ModelD) : (s.setModel i x).sv.sess = s.sv.sess := rfl
@[simp] theorem State.setModel_sv_refs (i : Nat) (x : ModelD) : (s.setModel i x).sv.refs = s.sv.refs := rfl
@[simp] theorem State.setModel_sv_bounds (i : Nat) (x : ModelD) : (s.setModel i x).sv.bounds = s.sv.bounds := rfl
@[simp] theorem State.setModel_sv_rebinds (i : Nat) (x : ModelD) : (s.setModel i x).sv.rebinds = s.sv.rebinds := rfl
@[simp] theorem State.setModel_sv_refillTick (i : Nat) (x : ModelD) : (s.setModel i x).sv.refillTick = s.sv.refillTick := rfl
@[simp] theorem State.setModel_sv_kernels (i : Nat) (x : ModelD) : (s.setModel i x).sv.kernels = s.sv.kernels := rfl

/-! #### setOv -/

@[simp] theorem State.setOv_pending (i : Nat) (x : Overlay) : (s.setOv i x).pending = s.pending := rfl
@[simp] theorem State.setOv_freeCount (i : Nat) (x : Overlay) : (s.setOv i x).freeCount = s.freeCount := rfl
@[simp] theorem State.setOv_time (i : Nat) (x : Overlay) : (s.setOv i x).time = s.time := rfl
@[simp] theorem State.setOv_dr (i : Nat) (x : Overlay) : (s.setOv i x).dr = s.dr := rfl
@[simp] theorem State.setOv_th (i : Nat) (x : Overlay) : (s.setOv i x).th = s.th := rfl
@[simp] theorem State.setOv_str (i : Nat) (x : Overlay) : (s.setOv i x).str = s.str := rfl
@[simp] theorem State.setOv_tile (i : Nat) (x : Overlay) : (s.setOv i x).tile = s.tile := rfl
@[simp] theorem State.setOv_sy (i : Nat) (x : Overlay) : (s.setOv i x).sy = s.sy := rfl
@[simp] theorem State.setOv_pages (i : Nat) (x : Overlay) : (s.setOv i x).pages = s.pages := rfl
@[simp] theorem State.setOv_arr (i : Nat) (x : Overlay) : (s.setOv i x).arr = s.arr := rfl
@[simp] theorem State.setOv_unit (i : Nat) (x : Overlay) : (s.setOv i x).unit = s.unit := rfl
@[simp] theorem State.setOv_fl (i : Nat) (x : Overlay) : (s.setOv i x).fl = s.fl := rfl
@[simp] theorem State.setOv_pw (i : Nat) (x : Overlay) : (s.setOv i x).pw = s.pw := rfl
@[simp] theorem State.setOv_dm (i : Nat) (x : Overlay) : (s.setOv i x).dm = s.dm := rfl
@[simp] theorem State.setOv_ti (i : Nat) (x : Overlay) : (s.setOv i x).ti = s.ti := rfl
@[simp] theorem State.setOv_cw (i : Nat) (x : Overlay) : (s.setOv i x).cw = s.cw := rfl
@[simp] theorem State.setOv_ho (i : Nat) (x : Overlay) : (s.setOv i x).ho = s.ho := rfl
@[simp] theorem State.setOv_bt (i : Nat) (x : Overlay) : (s.setOv i x).bt = s.bt := rfl
@[simp] theorem State.setOv_md (i : Nat) (x : Overlay) : (s.setOv i x).md = s.md := rfl
@[simp] theorem State.setOv_sv_tenant (i : Nat) (x : Overlay) : (s.setOv i x).sv.tenant = s.sv.tenant := rfl
@[simp] theorem State.setOv_sv_model (i : Nat) (x : Overlay) : (s.setOv i x).sv.model = s.sv.model := rfl
@[simp] theorem State.setOv_sv_sess (i : Nat) (x : Overlay) : (s.setOv i x).sv.sess = s.sv.sess := rfl
@[simp] theorem State.setOv_sv_refs (i : Nat) (x : Overlay) : (s.setOv i x).sv.refs = s.sv.refs := rfl
@[simp] theorem State.setOv_sv_bounds (i : Nat) (x : Overlay) : (s.setOv i x).sv.bounds = s.sv.bounds := rfl
@[simp] theorem State.setOv_sv_rebinds (i : Nat) (x : Overlay) : (s.setOv i x).sv.rebinds = s.sv.rebinds := rfl
@[simp] theorem State.setOv_sv_refillTick (i : Nat) (x : Overlay) : (s.setOv i x).sv.refillTick = s.sv.refillTick := rfl
@[simp] theorem State.setOv_sv_kernels (i : Nat) (x : Overlay) : (s.setOv i x).sv.kernels = s.sv.kernels := rfl

/-! #### setSess -/

@[simp] theorem State.setSess_pending (i : Nat) (x : Sess) : (s.setSess i x).pending = s.pending := rfl
@[simp] theorem State.setSess_freeCount (i : Nat) (x : Sess) : (s.setSess i x).freeCount = s.freeCount := rfl
@[simp] theorem State.setSess_time (i : Nat) (x : Sess) : (s.setSess i x).time = s.time := rfl
@[simp] theorem State.setSess_dr (i : Nat) (x : Sess) : (s.setSess i x).dr = s.dr := rfl
@[simp] theorem State.setSess_th (i : Nat) (x : Sess) : (s.setSess i x).th = s.th := rfl
@[simp] theorem State.setSess_str (i : Nat) (x : Sess) : (s.setSess i x).str = s.str := rfl
@[simp] theorem State.setSess_tile (i : Nat) (x : Sess) : (s.setSess i x).tile = s.tile := rfl
@[simp] theorem State.setSess_sy (i : Nat) (x : Sess) : (s.setSess i x).sy = s.sy := rfl
@[simp] theorem State.setSess_pages (i : Nat) (x : Sess) : (s.setSess i x).pages = s.pages := rfl
@[simp] theorem State.setSess_arr (i : Nat) (x : Sess) : (s.setSess i x).arr = s.arr := rfl
@[simp] theorem State.setSess_unit (i : Nat) (x : Sess) : (s.setSess i x).unit = s.unit := rfl
@[simp] theorem State.setSess_fl (i : Nat) (x : Sess) : (s.setSess i x).fl = s.fl := rfl
@[simp] theorem State.setSess_pw (i : Nat) (x : Sess) : (s.setSess i x).pw = s.pw := rfl
@[simp] theorem State.setSess_dm (i : Nat) (x : Sess) : (s.setSess i x).dm = s.dm := rfl
@[simp] theorem State.setSess_ti (i : Nat) (x : Sess) : (s.setSess i x).ti = s.ti := rfl
@[simp] theorem State.setSess_cw (i : Nat) (x : Sess) : (s.setSess i x).cw = s.cw := rfl
@[simp] theorem State.setSess_ho (i : Nat) (x : Sess) : (s.setSess i x).ho = s.ho := rfl
@[simp] theorem State.setSess_bt (i : Nat) (x : Sess) : (s.setSess i x).bt = s.bt := rfl
@[simp] theorem State.setSess_md (i : Nat) (x : Sess) : (s.setSess i x).md = s.md := rfl
@[simp] theorem State.setSess_sv_tenant (i : Nat) (x : Sess) : (s.setSess i x).sv.tenant = s.sv.tenant := rfl
@[simp] theorem State.setSess_sv_model (i : Nat) (x : Sess) : (s.setSess i x).sv.model = s.sv.model := rfl
@[simp] theorem State.setSess_sv_overlay (i : Nat) (x : Sess) : (s.setSess i x).sv.overlay = s.sv.overlay := rfl
@[simp] theorem State.setSess_sv_refs (i : Nat) (x : Sess) : (s.setSess i x).sv.refs = s.sv.refs := rfl
@[simp] theorem State.setSess_sv_bounds (i : Nat) (x : Sess) : (s.setSess i x).sv.bounds = s.sv.bounds := rfl
@[simp] theorem State.setSess_sv_rebinds (i : Nat) (x : Sess) : (s.setSess i x).sv.rebinds = s.sv.rebinds := rfl
@[simp] theorem State.setSess_sv_refillTick (i : Nat) (x : Sess) : (s.setSess i x).sv.refillTick = s.sv.refillTick := rfl
@[simp] theorem State.setSess_sv_kernels (i : Nat) (x : Sess) : (s.setSess i x).sv.kernels = s.sv.kernels := rfl

/-! #### setTen -/

@[simp] theorem State.setTen_pending (i : Nat) (x : Tenant) : (s.setTen i x).pending = s.pending := rfl
@[simp] theorem State.setTen_freeCount (i : Nat) (x : Tenant) : (s.setTen i x).freeCount = s.freeCount := rfl
@[simp] theorem State.setTen_time (i : Nat) (x : Tenant) : (s.setTen i x).time = s.time := rfl
@[simp] theorem State.setTen_dr (i : Nat) (x : Tenant) : (s.setTen i x).dr = s.dr := rfl
@[simp] theorem State.setTen_th (i : Nat) (x : Tenant) : (s.setTen i x).th = s.th := rfl
@[simp] theorem State.setTen_str (i : Nat) (x : Tenant) : (s.setTen i x).str = s.str := rfl
@[simp] theorem State.setTen_tile (i : Nat) (x : Tenant) : (s.setTen i x).tile = s.tile := rfl
@[simp] theorem State.setTen_sy (i : Nat) (x : Tenant) : (s.setTen i x).sy = s.sy := rfl
@[simp] theorem State.setTen_pages (i : Nat) (x : Tenant) : (s.setTen i x).pages = s.pages := rfl
@[simp] theorem State.setTen_arr (i : Nat) (x : Tenant) : (s.setTen i x).arr = s.arr := rfl
@[simp] theorem State.setTen_unit (i : Nat) (x : Tenant) : (s.setTen i x).unit = s.unit := rfl
@[simp] theorem State.setTen_fl (i : Nat) (x : Tenant) : (s.setTen i x).fl = s.fl := rfl
@[simp] theorem State.setTen_pw (i : Nat) (x : Tenant) : (s.setTen i x).pw = s.pw := rfl
@[simp] theorem State.setTen_dm (i : Nat) (x : Tenant) : (s.setTen i x).dm = s.dm := rfl
@[simp] theorem State.setTen_ti (i : Nat) (x : Tenant) : (s.setTen i x).ti = s.ti := rfl
@[simp] theorem State.setTen_cw (i : Nat) (x : Tenant) : (s.setTen i x).cw = s.cw := rfl
@[simp] theorem State.setTen_ho (i : Nat) (x : Tenant) : (s.setTen i x).ho = s.ho := rfl
@[simp] theorem State.setTen_bt (i : Nat) (x : Tenant) : (s.setTen i x).bt = s.bt := rfl
@[simp] theorem State.setTen_md (i : Nat) (x : Tenant) : (s.setTen i x).md = s.md := rfl
@[simp] theorem State.setTen_sv_model (i : Nat) (x : Tenant) : (s.setTen i x).sv.model = s.sv.model := rfl
@[simp] theorem State.setTen_sv_overlay (i : Nat) (x : Tenant) : (s.setTen i x).sv.overlay = s.sv.overlay := rfl
@[simp] theorem State.setTen_sv_sess (i : Nat) (x : Tenant) : (s.setTen i x).sv.sess = s.sv.sess := rfl
@[simp] theorem State.setTen_sv_refs (i : Nat) (x : Tenant) : (s.setTen i x).sv.refs = s.sv.refs := rfl
@[simp] theorem State.setTen_sv_bounds (i : Nat) (x : Tenant) : (s.setTen i x).sv.bounds = s.sv.bounds := rfl
@[simp] theorem State.setTen_sv_rebinds (i : Nat) (x : Tenant) : (s.setTen i x).sv.rebinds = s.sv.rebinds := rfl
@[simp] theorem State.setTen_sv_refillTick (i : Nat) (x : Tenant) : (s.setTen i x).sv.refillTick = s.sv.refillTick := rfl
@[simp] theorem State.setTen_sv_kernels (i : Nat) (x : Tenant) : (s.setTen i x).sv.kernels = s.sv.kernels := rfl

/-! #### setRefs -/

@[simp] theorem State.setRefs_pending (i n : Nat) : (s.setRefs i n).pending = s.pending := rfl
@[simp] theorem State.setRefs_freeCount (i n : Nat) : (s.setRefs i n).freeCount = s.freeCount := rfl
@[simp] theorem State.setRefs_time (i n : Nat) : (s.setRefs i n).time = s.time := rfl
@[simp] theorem State.setRefs_dr (i n : Nat) : (s.setRefs i n).dr = s.dr := rfl
@[simp] theorem State.setRefs_th (i n : Nat) : (s.setRefs i n).th = s.th := rfl
@[simp] theorem State.setRefs_str (i n : Nat) : (s.setRefs i n).str = s.str := rfl
@[simp] theorem State.setRefs_tile (i n : Nat) : (s.setRefs i n).tile = s.tile := rfl
@[simp] theorem State.setRefs_sy (i n : Nat) : (s.setRefs i n).sy = s.sy := rfl
@[simp] theorem State.setRefs_pages (i n : Nat) : (s.setRefs i n).pages = s.pages := rfl
@[simp] theorem State.setRefs_arr (i n : Nat) : (s.setRefs i n).arr = s.arr := rfl
@[simp] theorem State.setRefs_unit (i n : Nat) : (s.setRefs i n).unit = s.unit := rfl
@[simp] theorem State.setRefs_fl (i n : Nat) : (s.setRefs i n).fl = s.fl := rfl
@[simp] theorem State.setRefs_pw (i n : Nat) : (s.setRefs i n).pw = s.pw := rfl
@[simp] theorem State.setRefs_dm (i n : Nat) : (s.setRefs i n).dm = s.dm := rfl
@[simp] theorem State.setRefs_ti (i n : Nat) : (s.setRefs i n).ti = s.ti := rfl
@[simp] theorem State.setRefs_cw (i n : Nat) : (s.setRefs i n).cw = s.cw := rfl
@[simp] theorem State.setRefs_ho (i n : Nat) : (s.setRefs i n).ho = s.ho := rfl
@[simp] theorem State.setRefs_bt (i n : Nat) : (s.setRefs i n).bt = s.bt := rfl
@[simp] theorem State.setRefs_md (i n : Nat) : (s.setRefs i n).md = s.md := rfl
@[simp] theorem State.setRefs_sv_tenant (i n : Nat) : (s.setRefs i n).sv.tenant = s.sv.tenant := rfl
@[simp] theorem State.setRefs_sv_model (i n : Nat) : (s.setRefs i n).sv.model = s.sv.model := rfl
@[simp] theorem State.setRefs_sv_overlay (i n : Nat) : (s.setRefs i n).sv.overlay = s.sv.overlay := rfl
@[simp] theorem State.setRefs_sv_sess (i n : Nat) : (s.setRefs i n).sv.sess = s.sv.sess := rfl
@[simp] theorem State.setRefs_sv_bounds (i n : Nat) : (s.setRefs i n).sv.bounds = s.sv.bounds := rfl
@[simp] theorem State.setRefs_sv_rebinds (i n : Nat) : (s.setRefs i n).sv.rebinds = s.sv.rebinds := rfl
@[simp] theorem State.setRefs_sv_refillTick (i n : Nat) : (s.setRefs i n).sv.refillTick = s.sv.refillTick := rfl
@[simp] theorem State.setRefs_sv_kernels (i n : Nat) : (s.setRefs i n).sv.kernels = s.sv.kernels := rfl

/-! #### setMbox -/

@[simp] theorem State.setMbox_pending (i : Nat) (x : MBox) : (s.setMbox i x).pending = s.pending := rfl
@[simp] theorem State.setMbox_freeCount (i : Nat) (x : MBox) : (s.setMbox i x).freeCount = s.freeCount := rfl
@[simp] theorem State.setMbox_time (i : Nat) (x : MBox) : (s.setMbox i x).time = s.time := rfl
@[simp] theorem State.setMbox_dr (i : Nat) (x : MBox) : (s.setMbox i x).dr = s.dr := rfl
@[simp] theorem State.setMbox_th (i : Nat) (x : MBox) : (s.setMbox i x).th = s.th := rfl
@[simp] theorem State.setMbox_str (i : Nat) (x : MBox) : (s.setMbox i x).str = s.str := rfl
@[simp] theorem State.setMbox_tile (i : Nat) (x : MBox) : (s.setMbox i x).tile = s.tile := rfl
@[simp] theorem State.setMbox_sy (i : Nat) (x : MBox) : (s.setMbox i x).sy = s.sy := rfl
@[simp] theorem State.setMbox_pages (i : Nat) (x : MBox) : (s.setMbox i x).pages = s.pages := rfl
@[simp] theorem State.setMbox_arr (i : Nat) (x : MBox) : (s.setMbox i x).arr = s.arr := rfl
@[simp] theorem State.setMbox_unit (i : Nat) (x : MBox) : (s.setMbox i x).unit = s.unit := rfl
@[simp] theorem State.setMbox_fl (i : Nat) (x : MBox) : (s.setMbox i x).fl = s.fl := rfl
@[simp] theorem State.setMbox_pw (i : Nat) (x : MBox) : (s.setMbox i x).pw = s.pw := rfl
@[simp] theorem State.setMbox_dm (i : Nat) (x : MBox) : (s.setMbox i x).dm = s.dm := rfl
@[simp] theorem State.setMbox_ti (i : Nat) (x : MBox) : (s.setMbox i x).ti = s.ti := rfl
@[simp] theorem State.setMbox_cw (i : Nat) (x : MBox) : (s.setMbox i x).cw = s.cw := rfl
@[simp] theorem State.setMbox_sv (i : Nat) (x : MBox) : (s.setMbox i x).sv = s.sv := rfl
@[simp] theorem State.setMbox_bt (i : Nat) (x : MBox) : (s.setMbox i x).bt = s.bt := rfl
@[simp] theorem State.setMbox_md (i : Nat) (x : MBox) : (s.setMbox i x).md = s.md := rfl
@[simp] theorem State.setMbox_ho_portA (i : Nat) (x : MBox) : (s.setMbox i x).ho.portA = s.ho.portA := rfl
@[simp] theorem State.setMbox_ho_portB (i : Nat) (x : MBox) : (s.setMbox i x).ho.portB = s.ho.portB := rfl
@[simp] theorem State.setMbox_ho_bar2Write (i : Nat) (x : MBox) : (s.setMbox i x).ho.bar2Write = s.ho.bar2Write := rfl
@[simp] theorem State.setMbox_ho_bar2Timeouts (i : Nat) (x : MBox) : (s.setMbox i x).ho.bar2Timeouts = s.ho.bar2Timeouts := rfl
@[simp] theorem State.setMbox_ho_bar2Poisoned (i : Nat) (x : MBox) : (s.setMbox i x).ho.bar2Poisoned = s.ho.bar2Poisoned := rfl
@[simp] theorem State.setMbox_ho_ring (i : Nat) (x : MBox) : (s.setMbox i x).ho.ring = s.ho.ring := rfl
@[simp] theorem State.setMbox_ho_event (i : Nat) (x : MBox) : (s.setMbox i x).ho.event = s.ho.event := rfl
@[simp] theorem State.setMbox_ho_eventSet (i : Nat) (x : MBox) : (s.setMbox i x).ho.eventSet = s.ho.eventSet := rfl
@[simp] theorem State.setMbox_ho_mem (i : Nat) (x : MBox) : (s.setMbox i x).ho.mem = s.ho.mem := rfl
@[simp] theorem State.setMbox_ho_bells (i : Nat) (x : MBox) : (s.setMbox i x).ho.bells = s.ho.bells := rfl
@[simp] theorem State.setMbox_ho_fetched (i : Nat) (x : MBox) : (s.setMbox i x).ho.fetched = s.ho.fetched := rfl

/-! #### setRing -/

@[simp] theorem State.setRing_pending (i : Nat) (x : Ring) : (s.setRing i x).pending = s.pending := rfl
@[simp] theorem State.setRing_freeCount (i : Nat) (x : Ring) : (s.setRing i x).freeCount = s.freeCount := rfl
@[simp] theorem State.setRing_time (i : Nat) (x : Ring) : (s.setRing i x).time = s.time := rfl
@[simp] theorem State.setRing_dr (i : Nat) (x : Ring) : (s.setRing i x).dr = s.dr := rfl
@[simp] theorem State.setRing_th (i : Nat) (x : Ring) : (s.setRing i x).th = s.th := rfl
@[simp] theorem State.setRing_str (i : Nat) (x : Ring) : (s.setRing i x).str = s.str := rfl
@[simp] theorem State.setRing_tile (i : Nat) (x : Ring) : (s.setRing i x).tile = s.tile := rfl
@[simp] theorem State.setRing_sy (i : Nat) (x : Ring) : (s.setRing i x).sy = s.sy := rfl
@[simp] theorem State.setRing_pages (i : Nat) (x : Ring) : (s.setRing i x).pages = s.pages := rfl
@[simp] theorem State.setRing_arr (i : Nat) (x : Ring) : (s.setRing i x).arr = s.arr := rfl
@[simp] theorem State.setRing_unit (i : Nat) (x : Ring) : (s.setRing i x).unit = s.unit := rfl
@[simp] theorem State.setRing_fl (i : Nat) (x : Ring) : (s.setRing i x).fl = s.fl := rfl
@[simp] theorem State.setRing_pw (i : Nat) (x : Ring) : (s.setRing i x).pw = s.pw := rfl
@[simp] theorem State.setRing_dm (i : Nat) (x : Ring) : (s.setRing i x).dm = s.dm := rfl
@[simp] theorem State.setRing_ti (i : Nat) (x : Ring) : (s.setRing i x).ti = s.ti := rfl
@[simp] theorem State.setRing_cw (i : Nat) (x : Ring) : (s.setRing i x).cw = s.cw := rfl
@[simp] theorem State.setRing_sv (i : Nat) (x : Ring) : (s.setRing i x).sv = s.sv := rfl
@[simp] theorem State.setRing_bt (i : Nat) (x : Ring) : (s.setRing i x).bt = s.bt := rfl
@[simp] theorem State.setRing_md (i : Nat) (x : Ring) : (s.setRing i x).md = s.md := rfl
@[simp] theorem State.setRing_ho_portA (i : Nat) (x : Ring) : (s.setRing i x).ho.portA = s.ho.portA := rfl
@[simp] theorem State.setRing_ho_portB (i : Nat) (x : Ring) : (s.setRing i x).ho.portB = s.ho.portB := rfl
@[simp] theorem State.setRing_ho_bar2Write (i : Nat) (x : Ring) : (s.setRing i x).ho.bar2Write = s.ho.bar2Write := rfl
@[simp] theorem State.setRing_ho_bar2Timeouts (i : Nat) (x : Ring) : (s.setRing i x).ho.bar2Timeouts = s.ho.bar2Timeouts := rfl
@[simp] theorem State.setRing_ho_bar2Poisoned (i : Nat) (x : Ring) : (s.setRing i x).ho.bar2Poisoned = s.ho.bar2Poisoned := rfl
@[simp] theorem State.setRing_ho_mbox (i : Nat) (x : Ring) : (s.setRing i x).ho.mbox = s.ho.mbox := rfl
@[simp] theorem State.setRing_ho_event (i : Nat) (x : Ring) : (s.setRing i x).ho.event = s.ho.event := rfl
@[simp] theorem State.setRing_ho_eventSet (i : Nat) (x : Ring) : (s.setRing i x).ho.eventSet = s.ho.eventSet := rfl
@[simp] theorem State.setRing_ho_mem (i : Nat) (x : Ring) : (s.setRing i x).ho.mem = s.ho.mem := rfl
@[simp] theorem State.setRing_ho_bells (i : Nat) (x : Ring) : (s.setRing i x).ho.bells = s.ho.bells := rfl
@[simp] theorem State.setRing_ho_fetched (i : Nat) (x : Ring) : (s.setRing i x).ho.fetched = s.ho.fetched := rfl

/-! #### setEventRing -/

@[simp] theorem State.setEventRing_pending (x : Ring) : (s.setEventRing x).pending = s.pending := rfl
@[simp] theorem State.setEventRing_freeCount (x : Ring) : (s.setEventRing x).freeCount = s.freeCount := rfl
@[simp] theorem State.setEventRing_time (x : Ring) : (s.setEventRing x).time = s.time := rfl
@[simp] theorem State.setEventRing_dr (x : Ring) : (s.setEventRing x).dr = s.dr := rfl
@[simp] theorem State.setEventRing_th (x : Ring) : (s.setEventRing x).th = s.th := rfl
@[simp] theorem State.setEventRing_str (x : Ring) : (s.setEventRing x).str = s.str := rfl
@[simp] theorem State.setEventRing_tile (x : Ring) : (s.setEventRing x).tile = s.tile := rfl
@[simp] theorem State.setEventRing_sy (x : Ring) : (s.setEventRing x).sy = s.sy := rfl
@[simp] theorem State.setEventRing_pages (x : Ring) : (s.setEventRing x).pages = s.pages := rfl
@[simp] theorem State.setEventRing_arr (x : Ring) : (s.setEventRing x).arr = s.arr := rfl
@[simp] theorem State.setEventRing_unit (x : Ring) : (s.setEventRing x).unit = s.unit := rfl
@[simp] theorem State.setEventRing_fl (x : Ring) : (s.setEventRing x).fl = s.fl := rfl
@[simp] theorem State.setEventRing_pw (x : Ring) : (s.setEventRing x).pw = s.pw := rfl
@[simp] theorem State.setEventRing_dm (x : Ring) : (s.setEventRing x).dm = s.dm := rfl
@[simp] theorem State.setEventRing_ti (x : Ring) : (s.setEventRing x).ti = s.ti := rfl
@[simp] theorem State.setEventRing_cw (x : Ring) : (s.setEventRing x).cw = s.cw := rfl
@[simp] theorem State.setEventRing_sv (x : Ring) : (s.setEventRing x).sv = s.sv := rfl
@[simp] theorem State.setEventRing_bt (x : Ring) : (s.setEventRing x).bt = s.bt := rfl
@[simp] theorem State.setEventRing_md (x : Ring) : (s.setEventRing x).md = s.md := rfl
@[simp] theorem State.setEventRing_ho_portA (x : Ring) : (s.setEventRing x).ho.portA = s.ho.portA := rfl
@[simp] theorem State.setEventRing_ho_portB (x : Ring) : (s.setEventRing x).ho.portB = s.ho.portB := rfl
@[simp] theorem State.setEventRing_ho_bar2Write (x : Ring) : (s.setEventRing x).ho.bar2Write = s.ho.bar2Write := rfl
@[simp] theorem State.setEventRing_ho_bar2Timeouts (x : Ring) : (s.setEventRing x).ho.bar2Timeouts = s.ho.bar2Timeouts := rfl
@[simp] theorem State.setEventRing_ho_bar2Poisoned (x : Ring) : (s.setEventRing x).ho.bar2Poisoned = s.ho.bar2Poisoned := rfl
@[simp] theorem State.setEventRing_ho_mbox (x : Ring) : (s.setEventRing x).ho.mbox = s.ho.mbox := rfl
@[simp] theorem State.setEventRing_ho_ring (x : Ring) : (s.setEventRing x).ho.ring = s.ho.ring := rfl
@[simp] theorem State.setEventRing_ho_eventSet (x : Ring) : (s.setEventRing x).ho.eventSet = s.ho.eventSet := rfl
@[simp] theorem State.setEventRing_ho_mem (x : Ring) : (s.setEventRing x).ho.mem = s.ho.mem := rfl
@[simp] theorem State.setEventRing_ho_bells (x : Ring) : (s.setEventRing x).ho.bells = s.ho.bells := rfl
@[simp] theorem State.setEventRing_ho_fetched (x : Ring) : (s.setEventRing x).ho.fetched = s.ho.fetched := rfl

/-! #### useFree -/

@[simp] theorem State.useFree_pending (n : Nat) : (s.useFree n).pending = s.pending := rfl
@[simp] theorem State.useFree_time (n : Nat) : (s.useFree n).time = s.time := rfl
@[simp] theorem State.useFree_dr (n : Nat) : (s.useFree n).dr = s.dr := rfl
@[simp] theorem State.useFree_th (n : Nat) : (s.useFree n).th = s.th := rfl
@[simp] theorem State.useFree_str (n : Nat) : (s.useFree n).str = s.str := rfl
@[simp] theorem State.useFree_tile (n : Nat) : (s.useFree n).tile = s.tile := rfl
@[simp] theorem State.useFree_sy (n : Nat) : (s.useFree n).sy = s.sy := rfl
@[simp] theorem State.useFree_pages (n : Nat) : (s.useFree n).pages = s.pages := rfl
@[simp] theorem State.useFree_arr (n : Nat) : (s.useFree n).arr = s.arr := rfl
@[simp] theorem State.useFree_unit (n : Nat) : (s.useFree n).unit = s.unit := rfl
@[simp] theorem State.useFree_fl (n : Nat) : (s.useFree n).fl = s.fl := rfl
@[simp] theorem State.useFree_pw (n : Nat) : (s.useFree n).pw = s.pw := rfl
@[simp] theorem State.useFree_dm (n : Nat) : (s.useFree n).dm = s.dm := rfl
@[simp] theorem State.useFree_ti (n : Nat) : (s.useFree n).ti = s.ti := rfl
@[simp] theorem State.useFree_cw (n : Nat) : (s.useFree n).cw = s.cw := rfl
@[simp] theorem State.useFree_ho (n : Nat) : (s.useFree n).ho = s.ho := rfl
@[simp] theorem State.useFree_sv (n : Nat) : (s.useFree n).sv = s.sv := rfl
@[simp] theorem State.useFree_bt (n : Nat) : (s.useFree n).bt = s.bt := rfl
@[simp] theorem State.useFree_md (n : Nat) : (s.useFree n).md = s.md := rfl

/-! #### sendSignal -/

@[simp] theorem State.sendSignal_pending (m : SignalMsg) : (s.sendSignal m).pending = s.pending := rfl
@[simp] theorem State.sendSignal_freeCount (m : SignalMsg) : (s.sendSignal m).freeCount = s.freeCount := rfl
@[simp] theorem State.sendSignal_time (m : SignalMsg) : (s.sendSignal m).time = s.time := rfl
@[simp] theorem State.sendSignal_dr (m : SignalMsg) : (s.sendSignal m).dr = s.dr := rfl
@[simp] theorem State.sendSignal_th (m : SignalMsg) : (s.sendSignal m).th = s.th := rfl
@[simp] theorem State.sendSignal_str (m : SignalMsg) : (s.sendSignal m).str = s.str := rfl
@[simp] theorem State.sendSignal_tile (m : SignalMsg) : (s.sendSignal m).tile = s.tile := rfl
@[simp] theorem State.sendSignal_pages (m : SignalMsg) : (s.sendSignal m).pages = s.pages := rfl
@[simp] theorem State.sendSignal_arr (m : SignalMsg) : (s.sendSignal m).arr = s.arr := rfl
@[simp] theorem State.sendSignal_unit (m : SignalMsg) : (s.sendSignal m).unit = s.unit := rfl
@[simp] theorem State.sendSignal_fl (m : SignalMsg) : (s.sendSignal m).fl = s.fl := rfl
@[simp] theorem State.sendSignal_pw (m : SignalMsg) : (s.sendSignal m).pw = s.pw := rfl
@[simp] theorem State.sendSignal_dm (m : SignalMsg) : (s.sendSignal m).dm = s.dm := rfl
@[simp] theorem State.sendSignal_ti (m : SignalMsg) : (s.sendSignal m).ti = s.ti := rfl
@[simp] theorem State.sendSignal_cw (m : SignalMsg) : (s.sendSignal m).cw = s.cw := rfl
@[simp] theorem State.sendSignal_ho (m : SignalMsg) : (s.sendSignal m).ho = s.ho := rfl
@[simp] theorem State.sendSignal_sv (m : SignalMsg) : (s.sendSignal m).sv = s.sv := rfl
@[simp] theorem State.sendSignal_bt (m : SignalMsg) : (s.sendSignal m).bt = s.bt := rfl
@[simp] theorem State.sendSignal_md (m : SignalMsg) : (s.sendSignal m).md = s.md := rfl
@[simp] theorem State.sendSignal_sy_ctr (m : SignalMsg) : (s.sendSignal m).sy.ctr = s.sy.ctr := rfl
@[simp] theorem State.sendSignal_sy_armed (m : SignalMsg) : (s.sendSignal m).sy.armed = s.sy.armed := rfl
@[simp] theorem State.sendSignal_sy_queued (m : SignalMsg) : (s.sendSignal m).sy.queued = s.sy.queued := rfl
@[simp] theorem State.sendSignal_sy_wakes (m : SignalMsg) : (s.sendSignal m).sy.wakes = s.sy.wakes := rfl
@[simp] theorem State.sendSignal_sy_stores (m : SignalMsg) : (s.sendSignal m).sy.stores = s.sy.stores := rfl
@[simp] theorem State.sendSignal_sy_errs (m : SignalMsg) : (s.sendSignal m).sy.errs = s.sy.errs := rfl
@[simp] theorem State.sendSignal_sy_fw (m : SignalMsg) : (s.sendSignal m).sy.fw = s.sy.fw := rfl

/-! #### sendOp -/

@[simp] theorem State.sendOp_pending (o : CtrOp) : (s.sendOp o).pending = s.pending := rfl
@[simp] theorem State.sendOp_freeCount (o : CtrOp) : (s.sendOp o).freeCount = s.freeCount := rfl
@[simp] theorem State.sendOp_time (o : CtrOp) : (s.sendOp o).time = s.time := rfl
@[simp] theorem State.sendOp_dr (o : CtrOp) : (s.sendOp o).dr = s.dr := rfl
@[simp] theorem State.sendOp_th (o : CtrOp) : (s.sendOp o).th = s.th := rfl
@[simp] theorem State.sendOp_str (o : CtrOp) : (s.sendOp o).str = s.str := rfl
@[simp] theorem State.sendOp_tile (o : CtrOp) : (s.sendOp o).tile = s.tile := rfl
@[simp] theorem State.sendOp_pages (o : CtrOp) : (s.sendOp o).pages = s.pages := rfl
@[simp] theorem State.sendOp_arr (o : CtrOp) : (s.sendOp o).arr = s.arr := rfl
@[simp] theorem State.sendOp_unit (o : CtrOp) : (s.sendOp o).unit = s.unit := rfl
@[simp] theorem State.sendOp_fl (o : CtrOp) : (s.sendOp o).fl = s.fl := rfl
@[simp] theorem State.sendOp_pw (o : CtrOp) : (s.sendOp o).pw = s.pw := rfl
@[simp] theorem State.sendOp_dm (o : CtrOp) : (s.sendOp o).dm = s.dm := rfl
@[simp] theorem State.sendOp_ti (o : CtrOp) : (s.sendOp o).ti = s.ti := rfl
@[simp] theorem State.sendOp_cw (o : CtrOp) : (s.sendOp o).cw = s.cw := rfl
@[simp] theorem State.sendOp_ho (o : CtrOp) : (s.sendOp o).ho = s.ho := rfl
@[simp] theorem State.sendOp_sv (o : CtrOp) : (s.sendOp o).sv = s.sv := rfl
@[simp] theorem State.sendOp_bt (o : CtrOp) : (s.sendOp o).bt = s.bt := rfl
@[simp] theorem State.sendOp_md (o : CtrOp) : (s.sendOp o).md = s.md := rfl
@[simp] theorem State.sendOp_sy_ctr (o : CtrOp) : (s.sendOp o).sy.ctr = s.sy.ctr := rfl
@[simp] theorem State.sendOp_sy_armed (o : CtrOp) : (s.sendOp o).sy.armed = s.sy.armed := rfl
@[simp] theorem State.sendOp_sy_queued (o : CtrOp) : (s.sendOp o).sy.queued = s.sy.queued := rfl
@[simp] theorem State.sendOp_sy_wakes (o : CtrOp) : (s.sendOp o).sy.wakes = s.sy.wakes := rfl
@[simp] theorem State.sendOp_sy_stores (o : CtrOp) : (s.sendOp o).sy.stores = s.sy.stores := rfl
@[simp] theorem State.sendOp_sy_errs (o : CtrOp) : (s.sendOp o).sy.errs = s.sy.errs := rfl
@[simp] theorem State.sendOp_sy_fw (o : CtrOp) : (s.sendOp o).sy.fw = s.sy.fw := rfl

/-! #### issued -/

@[simp] theorem State.issued_pending (i : Nat) : (s.issued i).pending = s.pending := rfl
@[simp] theorem State.issued_freeCount (i : Nat) : (s.issued i).freeCount = s.freeCount := rfl
@[simp] theorem State.issued_time (i : Nat) : (s.issued i).time = s.time := rfl
@[simp] theorem State.issued_dr (i : Nat) : (s.issued i).dr = s.dr := rfl
@[simp] theorem State.issued_str (i : Nat) : (s.issued i).str = s.str := rfl
@[simp] theorem State.issued_tile (i : Nat) : (s.issued i).tile = s.tile := rfl
@[simp] theorem State.issued_sy (i : Nat) : (s.issued i).sy = s.sy := rfl
@[simp] theorem State.issued_pages (i : Nat) : (s.issued i).pages = s.pages := rfl
@[simp] theorem State.issued_arr (i : Nat) : (s.issued i).arr = s.arr := rfl
@[simp] theorem State.issued_unit (i : Nat) : (s.issued i).unit = s.unit := rfl
@[simp] theorem State.issued_fl (i : Nat) : (s.issued i).fl = s.fl := rfl
@[simp] theorem State.issued_pw (i : Nat) : (s.issued i).pw = s.pw := rfl
@[simp] theorem State.issued_dm (i : Nat) : (s.issued i).dm = s.dm := rfl
@[simp] theorem State.issued_ti (i : Nat) : (s.issued i).ti = s.ti := rfl
@[simp] theorem State.issued_cw (i : Nat) : (s.issued i).cw = s.cw := rfl
@[simp] theorem State.issued_ho (i : Nat) : (s.issued i).ho = s.ho := rfl
@[simp] theorem State.issued_sv (i : Nat) : (s.issued i).sv = s.sv := rfl
@[simp] theorem State.issued_bt (i : Nat) : (s.issued i).bt = s.bt := rfl
@[simp] theorem State.issued_md (i : Nat) : (s.issued i).md = s.md := rfl
@[simp] theorem State.issued_th_thr (i : Nat) : (s.issued i).th.thr = s.th.thr := rfl
@[simp] theorem State.issued_th_copies (i : Nat) : (s.issued i).th.copies = s.th.copies := rfl
@[simp] theorem State.issued_th_flushes (i : Nat) : (s.issued i).th.flushes = s.th.flushes := rfl

/-! #### wakeFor -/

@[simp] theorem State.wakeFor_pending (p : Nat → Blk → Bool) : (s.wakeFor p).pending = s.pending := rfl
@[simp] theorem State.wakeFor_freeCount (p : Nat → Blk → Bool) : (s.wakeFor p).freeCount = s.freeCount := rfl
@[simp] theorem State.wakeFor_time (p : Nat → Blk → Bool) : (s.wakeFor p).time = s.time := rfl
@[simp] theorem State.wakeFor_dr (p : Nat → Blk → Bool) : (s.wakeFor p).dr = s.dr := rfl
@[simp] theorem State.wakeFor_str (p : Nat → Blk → Bool) : (s.wakeFor p).str = s.str := rfl
@[simp] theorem State.wakeFor_tile (p : Nat → Blk → Bool) : (s.wakeFor p).tile = s.tile := rfl
@[simp] theorem State.wakeFor_sy (p : Nat → Blk → Bool) : (s.wakeFor p).sy = s.sy := rfl
@[simp] theorem State.wakeFor_pages (p : Nat → Blk → Bool) : (s.wakeFor p).pages = s.pages := rfl
@[simp] theorem State.wakeFor_arr (p : Nat → Blk → Bool) : (s.wakeFor p).arr = s.arr := rfl
@[simp] theorem State.wakeFor_unit (p : Nat → Blk → Bool) : (s.wakeFor p).unit = s.unit := rfl
@[simp] theorem State.wakeFor_fl (p : Nat → Blk → Bool) : (s.wakeFor p).fl = s.fl := rfl
@[simp] theorem State.wakeFor_pw (p : Nat → Blk → Bool) : (s.wakeFor p).pw = s.pw := rfl
@[simp] theorem State.wakeFor_dm (p : Nat → Blk → Bool) : (s.wakeFor p).dm = s.dm := rfl
@[simp] theorem State.wakeFor_ti (p : Nat → Blk → Bool) : (s.wakeFor p).ti = s.ti := rfl
@[simp] theorem State.wakeFor_cw (p : Nat → Blk → Bool) : (s.wakeFor p).cw = s.cw := rfl
@[simp] theorem State.wakeFor_ho (p : Nat → Blk → Bool) : (s.wakeFor p).ho = s.ho := rfl
@[simp] theorem State.wakeFor_sv (p : Nat → Blk → Bool) : (s.wakeFor p).sv = s.sv := rfl
@[simp] theorem State.wakeFor_bt (p : Nat → Blk → Bool) : (s.wakeFor p).bt = s.bt := rfl
@[simp] theorem State.wakeFor_md (p : Nat → Blk → Bool) : (s.wakeFor p).md = s.md := rfl
@[simp] theorem State.wakeFor_th_last (p : Nat → Blk → Bool) : (s.wakeFor p).th.last = s.th.last := rfl
@[simp] theorem State.wakeFor_th_copies (p : Nat → Blk → Bool) : (s.wakeFor p).th.copies = s.th.copies := rfl
@[simp] theorem State.wakeFor_th_flushes (p : Nat → Blk → Bool) : (s.wakeFor p).th.flushes = s.th.flushes := rfl

/-! #### weldTouch -/

@[simp] theorem State.weldTouch_pending (i o n : Nat) (w : Bool) : (s.weldTouch i o n w).pending = s.pending := rfl
@[simp] theorem State.weldTouch_freeCount (i o n : Nat) (w : Bool) : (s.weldTouch i o n w).freeCount = s.freeCount := rfl
@[simp] theorem State.weldTouch_time (i o n : Nat) (w : Bool) : (s.weldTouch i o n w).time = s.time := rfl
@[simp] theorem State.weldTouch_dr (i o n : Nat) (w : Bool) : (s.weldTouch i o n w).dr = s.dr := rfl
@[simp] theorem State.weldTouch_th (i o n : Nat) (w : Bool) : (s.weldTouch i o n w).th = s.th := rfl
@[simp] theorem State.weldTouch_str (i o n : Nat) (w : Bool) : (s.weldTouch i o n w).str = s.str := rfl
@[simp] theorem State.weldTouch_tile (i o n : Nat) (w : Bool) : (s.weldTouch i o n w).tile = s.tile := rfl
@[simp] theorem State.weldTouch_sy (i o n : Nat) (w : Bool) : (s.weldTouch i o n w).sy = s.sy := rfl
@[simp] theorem State.weldTouch_pages (i o n : Nat) (w : Bool) : (s.weldTouch i o n w).pages = s.pages := rfl
@[simp] theorem State.weldTouch_unit (i o n : Nat) (w : Bool) : (s.weldTouch i o n w).unit = s.unit := rfl
@[simp] theorem State.weldTouch_fl (i o n : Nat) (w : Bool) : (s.weldTouch i o n w).fl = s.fl := rfl
@[simp] theorem State.weldTouch_pw (i o n : Nat) (w : Bool) : (s.weldTouch i o n w).pw = s.pw := rfl
@[simp] theorem State.weldTouch_dm (i o n : Nat) (w : Bool) : (s.weldTouch i o n w).dm = s.dm := rfl
@[simp] theorem State.weldTouch_ti (i o n : Nat) (w : Bool) : (s.weldTouch i o n w).ti = s.ti := rfl
@[simp] theorem State.weldTouch_cw (i o n : Nat) (w : Bool) : (s.weldTouch i o n w).cw = s.cw := rfl
@[simp] theorem State.weldTouch_ho (i o n : Nat) (w : Bool) : (s.weldTouch i o n w).ho = s.ho := rfl
@[simp] theorem State.weldTouch_sv (i o n : Nat) (w : Bool) : (s.weldTouch i o n w).sv = s.sv := rfl
@[simp] theorem State.weldTouch_bt (i o n : Nat) (w : Bool) : (s.weldTouch i o n w).bt = s.bt := rfl
@[simp] theorem State.weldTouch_md (i o n : Nat) (w : Bool) : (s.weldTouch i o n w).md = s.md := rfl

/-! #### weldWrite -/

@[simp] theorem State.weldWrite_pending (i o : Nat) (b : List Byte) (p : Bool) : (s.weldWrite i o b p).pending = s.pending := rfl
@[simp] theorem State.weldWrite_freeCount (i o : Nat) (b : List Byte) (p : Bool) : (s.weldWrite i o b p).freeCount = s.freeCount := rfl
@[simp] theorem State.weldWrite_time (i o : Nat) (b : List Byte) (p : Bool) : (s.weldWrite i o b p).time = s.time := rfl
@[simp] theorem State.weldWrite_dr (i o : Nat) (b : List Byte) (p : Bool) : (s.weldWrite i o b p).dr = s.dr := rfl
@[simp] theorem State.weldWrite_th (i o : Nat) (b : List Byte) (p : Bool) : (s.weldWrite i o b p).th = s.th := rfl
@[simp] theorem State.weldWrite_str (i o : Nat) (b : List Byte) (p : Bool) : (s.weldWrite i o b p).str = s.str := rfl
@[simp] theorem State.weldWrite_sy (i o : Nat) (b : List Byte) (p : Bool) : (s.weldWrite i o b p).sy = s.sy := rfl
@[simp] theorem State.weldWrite_pages (i o : Nat) (b : List Byte) (p : Bool) : (s.weldWrite i o b p).pages = s.pages := rfl
@[simp] theorem State.weldWrite_unit (i o : Nat) (b : List Byte) (p : Bool) : (s.weldWrite i o b p).unit = s.unit := rfl
@[simp] theorem State.weldWrite_fl (i o : Nat) (b : List Byte) (p : Bool) : (s.weldWrite i o b p).fl = s.fl := rfl
@[simp] theorem State.weldWrite_pw (i o : Nat) (b : List Byte) (p : Bool) : (s.weldWrite i o b p).pw = s.pw := rfl
@[simp] theorem State.weldWrite_dm (i o : Nat) (b : List Byte) (p : Bool) : (s.weldWrite i o b p).dm = s.dm := rfl
@[simp] theorem State.weldWrite_ti (i o : Nat) (b : List Byte) (p : Bool) : (s.weldWrite i o b p).ti = s.ti := rfl
@[simp] theorem State.weldWrite_cw (i o : Nat) (b : List Byte) (p : Bool) : (s.weldWrite i o b p).cw = s.cw := rfl
@[simp] theorem State.weldWrite_ho (i o : Nat) (b : List Byte) (p : Bool) : (s.weldWrite i o b p).ho = s.ho := rfl
@[simp] theorem State.weldWrite_sv (i o : Nat) (b : List Byte) (p : Bool) : (s.weldWrite i o b p).sv = s.sv := rfl
@[simp] theorem State.weldWrite_bt (i o : Nat) (b : List Byte) (p : Bool) : (s.weldWrite i o b p).bt = s.bt := rfl
@[simp] theorem State.weldWrite_md (i o : Nat) (b : List Byte) (p : Bool) : (s.weldWrite i o b p).md = s.md := rfl

/-! #### log -/

@[simp] theorem State.log_pending (c : W16) (d : Domain) (a0 a1 a2 a3 : W64) (x : EvExtra) : (s.log c d a0 a1 a2 a3 x).pending = s.pending := rfl
@[simp] theorem State.log_freeCount (c : W16) (d : Domain) (a0 a1 a2 a3 : W64) (x : EvExtra) : (s.log c d a0 a1 a2 a3 x).freeCount = s.freeCount := rfl
@[simp] theorem State.log_time (c : W16) (d : Domain) (a0 a1 a2 a3 : W64) (x : EvExtra) : (s.log c d a0 a1 a2 a3 x).time = s.time := rfl
@[simp] theorem State.log_dr (c : W16) (d : Domain) (a0 a1 a2 a3 : W64) (x : EvExtra) : (s.log c d a0 a1 a2 a3 x).dr = s.dr := rfl
@[simp] theorem State.log_th (c : W16) (d : Domain) (a0 a1 a2 a3 : W64) (x : EvExtra) : (s.log c d a0 a1 a2 a3 x).th = s.th := rfl
@[simp] theorem State.log_str (c : W16) (d : Domain) (a0 a1 a2 a3 : W64) (x : EvExtra) : (s.log c d a0 a1 a2 a3 x).str = s.str := rfl
@[simp] theorem State.log_tile (c : W16) (d : Domain) (a0 a1 a2 a3 : W64) (x : EvExtra) : (s.log c d a0 a1 a2 a3 x).tile = s.tile := rfl
@[simp] theorem State.log_sy (c : W16) (d : Domain) (a0 a1 a2 a3 : W64) (x : EvExtra) : (s.log c d a0 a1 a2 a3 x).sy = s.sy := rfl
@[simp] theorem State.log_pages (c : W16) (d : Domain) (a0 a1 a2 a3 : W64) (x : EvExtra) : (s.log c d a0 a1 a2 a3 x).pages = s.pages := rfl
@[simp] theorem State.log_arr (c : W16) (d : Domain) (a0 a1 a2 a3 : W64) (x : EvExtra) : (s.log c d a0 a1 a2 a3 x).arr = s.arr := rfl
@[simp] theorem State.log_unit (c : W16) (d : Domain) (a0 a1 a2 a3 : W64) (x : EvExtra) : (s.log c d a0 a1 a2 a3 x).unit = s.unit := rfl
@[simp] theorem State.log_pw (c : W16) (d : Domain) (a0 a1 a2 a3 : W64) (x : EvExtra) : (s.log c d a0 a1 a2 a3 x).pw = s.pw := rfl
@[simp] theorem State.log_dm (c : W16) (d : Domain) (a0 a1 a2 a3 : W64) (x : EvExtra) : (s.log c d a0 a1 a2 a3 x).dm = s.dm := rfl
@[simp] theorem State.log_ti (c : W16) (d : Domain) (a0 a1 a2 a3 : W64) (x : EvExtra) : (s.log c d a0 a1 a2 a3 x).ti = s.ti := rfl
@[simp] theorem State.log_cw (c : W16) (d : Domain) (a0 a1 a2 a3 : W64) (x : EvExtra) : (s.log c d a0 a1 a2 a3 x).cw = s.cw := rfl
@[simp] theorem State.log_ho (c : W16) (d : Domain) (a0 a1 a2 a3 : W64) (x : EvExtra) : (s.log c d a0 a1 a2 a3 x).ho = s.ho := rfl
@[simp] theorem State.log_sv (c : W16) (d : Domain) (a0 a1 a2 a3 : W64) (x : EvExtra) : (s.log c d a0 a1 a2 a3 x).sv = s.sv := rfl
@[simp] theorem State.log_bt (c : W16) (d : Domain) (a0 a1 a2 a3 : W64) (x : EvExtra) : (s.log c d a0 a1 a2 a3 x).bt = s.bt := rfl
@[simp] theorem State.log_md (c : W16) (d : Domain) (a0 a1 a2 a3 : W64) (x : EvExtra) : (s.log c d a0 a1 a2 a3 x).md = s.md := rfl

/-! #### detect -/

@[simp] theorem State.detect_pending (c : W16) (d : Domain) (a0 a1 a2 a3 : W64) (x : EvExtra) : (s.detect c d a0 a1 a2 a3 x).pending = s.pending := rfl
@[simp] theorem State.detect_freeCount (c : W16) (d : Domain) (a0 a1 a2 a3 : W64) (x : EvExtra) : (s.detect c d a0 a1 a2 a3 x).freeCount = s.freeCount := rfl
@[simp] theorem State.detect_time (c : W16) (d : Domain) (a0 a1 a2 a3 : W64) (x : EvExtra) : (s.detect c d a0 a1 a2 a3 x).time = s.time := rfl
@[simp] theorem State.detect_dr (c : W16) (d : Domain) (a0 a1 a2 a3 : W64) (x : EvExtra) : (s.detect c d a0 a1 a2 a3 x).dr = s.dr := rfl
@[simp] theorem State.detect_th (c : W16) (d : Domain) (a0 a1 a2 a3 : W64) (x : EvExtra) : (s.detect c d a0 a1 a2 a3 x).th = s.th := rfl
@[simp] theorem State.detect_str (c : W16) (d : Domain) (a0 a1 a2 a3 : W64) (x : EvExtra) : (s.detect c d a0 a1 a2 a3 x).str = s.str := rfl
@[simp] theorem State.detect_tile (c : W16) (d : Domain) (a0 a1 a2 a3 : W64) (x : EvExtra) : (s.detect c d a0 a1 a2 a3 x).tile = s.tile := rfl
@[simp] theorem State.detect_sy (c : W16) (d : Domain) (a0 a1 a2 a3 : W64) (x : EvExtra) : (s.detect c d a0 a1 a2 a3 x).sy = s.sy := rfl
@[simp] theorem State.detect_pages (c : W16) (d : Domain) (a0 a1 a2 a3 : W64) (x : EvExtra) : (s.detect c d a0 a1 a2 a3 x).pages = s.pages := rfl
@[simp] theorem State.detect_arr (c : W16) (d : Domain) (a0 a1 a2 a3 : W64) (x : EvExtra) : (s.detect c d a0 a1 a2 a3 x).arr = s.arr := rfl
@[simp] theorem State.detect_unit (c : W16) (d : Domain) (a0 a1 a2 a3 : W64) (x : EvExtra) : (s.detect c d a0 a1 a2 a3 x).unit = s.unit := rfl
@[simp] theorem State.detect_pw (c : W16) (d : Domain) (a0 a1 a2 a3 : W64) (x : EvExtra) : (s.detect c d a0 a1 a2 a3 x).pw = s.pw := rfl
@[simp] theorem State.detect_dm (c : W16) (d : Domain) (a0 a1 a2 a3 : W64) (x : EvExtra) : (s.detect c d a0 a1 a2 a3 x).dm = s.dm := rfl
@[simp] theorem State.detect_ti (c : W16) (d : Domain) (a0 a1 a2 a3 : W64) (x : EvExtra) : (s.detect c d a0 a1 a2 a3 x).ti = s.ti := rfl
@[simp] theorem State.detect_cw (c : W16) (d : Domain) (a0 a1 a2 a3 : W64) (x : EvExtra) : (s.detect c d a0 a1 a2 a3 x).cw = s.cw := rfl
@[simp] theorem State.detect_ho (c : W16) (d : Domain) (a0 a1 a2 a3 : W64) (x : EvExtra) : (s.detect c d a0 a1 a2 a3 x).ho = s.ho := rfl
@[simp] theorem State.detect_sv (c : W16) (d : Domain) (a0 a1 a2 a3 : W64) (x : EvExtra) : (s.detect c d a0 a1 a2 a3 x).sv = s.sv := rfl
@[simp] theorem State.detect_bt (c : W16) (d : Domain) (a0 a1 a2 a3 : W64) (x : EvExtra) : (s.detect c d a0 a1 a2 a3 x).bt = s.bt := rfl
@[simp] theorem State.detect_md (c : W16) (d : Domain) (a0 a1 a2 a3 : W64) (x : EvExtra) : (s.detect c d a0 a1 a2 a3 x).md = s.md := rfl

/-! #### outOfService -/

@[simp] theorem State.outOfService_pending (d : Domain) (x : EvExtra) : (s.outOfService d x).pending = s.pending := rfl
@[simp] theorem State.outOfService_freeCount (d : Domain) (x : EvExtra) : (s.outOfService d x).freeCount = s.freeCount := rfl
@[simp] theorem State.outOfService_time (d : Domain) (x : EvExtra) : (s.outOfService d x).time = s.time := rfl
@[simp] theorem State.outOfService_dr (d : Domain) (x : EvExtra) : (s.outOfService d x).dr = s.dr := rfl
@[simp] theorem State.outOfService_th (d : Domain) (x : EvExtra) : (s.outOfService d x).th = s.th := rfl
@[simp] theorem State.outOfService_str (d : Domain) (x : EvExtra) : (s.outOfService d x).str = s.str := rfl
@[simp] theorem State.outOfService_tile (d : Domain) (x : EvExtra) : (s.outOfService d x).tile = s.tile := rfl
@[simp] theorem State.outOfService_sy (d : Domain) (x : EvExtra) : (s.outOfService d x).sy = s.sy := rfl
@[simp] theorem State.outOfService_pages (d : Domain) (x : EvExtra) : (s.outOfService d x).pages = s.pages := rfl
@[simp] theorem State.outOfService_arr (d : Domain) (x : EvExtra) : (s.outOfService d x).arr = s.arr := rfl
@[simp] theorem State.outOfService_unit (d : Domain) (x : EvExtra) : (s.outOfService d x).unit = s.unit := rfl
@[simp] theorem State.outOfService_pw (d : Domain) (x : EvExtra) : (s.outOfService d x).pw = s.pw := rfl
@[simp] theorem State.outOfService_dm (d : Domain) (x : EvExtra) : (s.outOfService d x).dm = s.dm := rfl
@[simp] theorem State.outOfService_ti (d : Domain) (x : EvExtra) : (s.outOfService d x).ti = s.ti := rfl
@[simp] theorem State.outOfService_cw (d : Domain) (x : EvExtra) : (s.outOfService d x).cw = s.cw := rfl
@[simp] theorem State.outOfService_ho (d : Domain) (x : EvExtra) : (s.outOfService d x).ho = s.ho := rfl
@[simp] theorem State.outOfService_sv (d : Domain) (x : EvExtra) : (s.outOfService d x).sv = s.sv := rfl
@[simp] theorem State.outOfService_bt (d : Domain) (x : EvExtra) : (s.outOfService d x).bt = s.bt := rfl
@[simp] theorem State.outOfService_md (d : Domain) (x : EvExtra) : (s.outOfService d x).md = s.md := rfl

/-! #### Reading back -/

@[simp] theorem State.thrAt_setThr (i : Nat) (x : Thr) : (s.setThr i x).thrAt i = x := tget_tput_same _ _ _ _
theorem State.thrAt_setThr_ne {i j : Nat} (x : Thr) (h : j ≠ i) : (s.setThr i x).thrAt j = s.thrAt j := tget_tput_ne _ _ _ h
theorem State.thrAt_setThr_if (i j : Nat) (x : Thr) : (s.setThr i x).thrAt j = if j = i then x else s.thrAt j := tget_tput _ _ _ _ _
@[simp] theorem State.setThr_setThr (i : Nat) (x y : Thr) : (s.setThr i x).setThr i y = s.setThr i y := by simp [State.setThr]
@[simp] theorem State.tileAt_setTile (i : Nat) (x : Tile) : (s.setTile i x).tileAt i = x := tget_tput_same _ _ _ _
theorem State.tileAt_setTile_ne {i j : Nat} (x : Tile) (h : j ≠ i) : (s.setTile i x).tileAt j = s.tileAt j := tget_tput_ne _ _ _ h
theorem State.tileAt_setTile_if (i j : Nat) (x : Tile) : (s.setTile i x).tileAt j = if j = i then x else s.tileAt j := tget_tput _ _ _ _ _
@[simp] theorem State.setTile_setTile (i : Nat) (x y : Tile) : (s.setTile i x).setTile i y = s.setTile i y := by simp [State.setTile]
@[simp] theorem State.sub_setSub (i : Nat) (x : SubCh) : (s.setSub i x).sub i = x := tget_tput_same _ _ _ _
theorem State.sub_setSub_ne {i j : Nat} (x : SubCh) (h : j ≠ i) : (s.setSub i x).sub j = s.sub j := tget_tput_ne _ _ _ h
theorem State.sub_setSub_if (i j : Nat) (x : SubCh) : (s.setSub i x).sub j = if j = i then x else s.sub j := tget_tput _ _ _ _ _
@[simp] theorem State.setSub_setSub (i : Nat) (x y : SubCh) : (s.setSub i x).setSub i y = s.setSub i y := by simp [State.setSub]
@[simp] theorem State.bankAt_setBank (i : Nat) (x : Bank) : (s.setBank i x).bankAt i = x := tget_tput_same _ _ _ _
theorem State.bankAt_setBank_ne {i j : Nat} (x : Bank) (h : j ≠ i) : (s.setBank i x).bankAt j = s.bankAt j := tget_tput_ne _ _ _ h
theorem State.bankAt_setBank_if (i j : Nat) (x : Bank) : (s.setBank i x).bankAt j = if j = i then x else s.bankAt j := tget_tput _ _ _ _ _
@[simp] theorem State.setBank_setBank (i : Nat) (x y : Bank) : (s.setBank i x).setBank i y = s.setBank i y := by simp [State.setBank]
@[simp] theorem State.stackAt_setStack (i : Nat) (x : Stack) : (s.setStack i x).stackAt i = x := tget_tput_same _ _ _ _
theorem State.stackAt_setStack_ne {i j : Nat} (x : Stack) (h : j ≠ i) : (s.setStack i x).stackAt j = s.stackAt j := tget_tput_ne _ _ _ h
theorem State.stackAt_setStack_if (i j : Nat) (x : Stack) : (s.setStack i x).stackAt j = if j = i then x else s.stackAt j := tget_tput _ _ _ _ _
@[simp] theorem State.setStack_setStack (i : Nat) (x y : Stack) : (s.setStack i x).setStack i y = s.setStack i y := by simp [State.setStack]
@[simp] theorem State.unitAt_setUnit (i : Nat) (x : BUnit) : (s.setUnit i x).unitAt i = x := tget_tput_same _ _ _ _
theorem State.unitAt_setUnit_ne {i j : Nat} (x : BUnit) (h : j ≠ i) : (s.setUnit i x).unitAt j = s.unitAt j := tget_tput_ne _ _ _ h
theorem State.unitAt_setUnit_if (i j : Nat) (x : BUnit) : (s.setUnit i x).unitAt j = if j = i then x else s.unitAt j := tget_tput _ _ _ _ _
@[simp] theorem State.setUnit_setUnit (i : Nat) (x y : BUnit) : (s.setUnit i x).setUnit i y = s.setUnit i y := by simp [State.setUnit]
@[simp] theorem State.arrAt_setArr (i : Nat) (x : ArrayU) : (s.setArr i x).arrAt i = x := tget_tput_same _ _ _ _
theorem State.arrAt_setArr_ne {i j : Nat} (x : ArrayU) (h : j ≠ i) : (s.setArr i x).arrAt j = s.arrAt j := tget_tput_ne _ _ _ h
theorem State.arrAt_setArr_if (i j : Nat) (x : ArrayU) : (s.setArr i x).arrAt j = if j = i then x else s.arrAt j := tget_tput _ _ _ _ _
@[simp] theorem State.setArr_setArr (i : Nat) (x y : ArrayU) : (s.setArr i x).setArr i y = s.setArr i y := by simp [State.setArr]
@[simp] theorem State.ctrAt_setCtr (i : Nat) (x : Ctr) : (s.setCtr i x).ctrAt i = x := tget_tput_same _ _ _ _
theorem State.ctrAt_setCtr_ne {i j : Nat} (x : Ctr) (h : j ≠ i) : (s.setCtr i x).ctrAt j = s.ctrAt j := tget_tput_ne _ _ _ h
theorem State.ctrAt_setCtr_if (i j : Nat) (x : Ctr) : (s.setCtr i x).ctrAt j = if j = i then x else s.ctrAt j := tget_tput _ _ _ _ _
@[simp] theorem State.setCtr_setCtr (i : Nat) (x y : Ctr) : (s.setCtr i x).setCtr i y = s.setCtr i y := by simp [State.setCtr]
@[simp] theorem State.chanAt_setChan (i : Nat) (x : Chan) : (s.setChan i x).chanAt i = x := tget_tput_same _ _ _ _
theorem State.chanAt_setChan_ne {i j : Nat} (x : Chan) (h : j ≠ i) : (s.setChan i x).chanAt j = s.chanAt j := tget_tput_ne _ _ _ h
theorem State.chanAt_setChan_if (i j : Nat) (x : Chan) : (s.setChan i x).chanAt j = if j = i then x else s.chanAt j := tget_tput _ _ _ _ _
@[simp] theorem State.setChan_setChan (i : Nat) (x y : Chan) : (s.setChan i x).setChan i y = s.setChan i y := by simp [State.setChan]
@[simp] theorem State.cwAt_setCw (i : Nat) (x : CwPort) : (s.setCw i x).cwAt i = x := tget_tput_same _ _ _ _
theorem State.cwAt_setCw_ne {i j : Nat} (x : CwPort) (h : j ≠ i) : (s.setCw i x).cwAt j = s.cwAt j := tget_tput_ne _ _ _ h
theorem State.cwAt_setCw_if (i j : Nat) (x : CwPort) : (s.setCw i x).cwAt j = if j = i then x else s.cwAt j := tget_tput _ _ _ _ _
@[simp] theorem State.setCw_setCw (i : Nat) (x y : CwPort) : (s.setCw i x).setCw i y = s.setCw i y := by simp [State.setCw]
@[simp] theorem State.lotAt_setLot (i : Nat) (x : LotRec) : (s.setLot i x).lotAt i = x := tget_tput_same _ _ _ _
theorem State.lotAt_setLot_ne {i j : Nat} (x : LotRec) (h : j ≠ i) : (s.setLot i x).lotAt j = s.lotAt j := tget_tput_ne _ _ _ h
theorem State.lotAt_setLot_if (i j : Nat) (x : LotRec) : (s.setLot i x).lotAt j = if j = i then x else s.lotAt j := tget_tput _ _ _ _ _
@[simp] theorem State.setLot_setLot (i : Nat) (x y : LotRec) : (s.setLot i x).setLot i y = s.setLot i y := by simp [State.setLot]
@[simp] theorem State.objAt_setObj (i : Nat) (x : Obj) : (s.setObj i x).objAt i = x := tget_tput_same _ _ _ _
theorem State.objAt_setObj_ne {i j : Nat} (x : Obj) (h : j ≠ i) : (s.setObj i x).objAt j = s.objAt j := tget_tput_ne _ _ _ h
theorem State.objAt_setObj_if (i j : Nat) (x : Obj) : (s.setObj i x).objAt j = if j = i then x else s.objAt j := tget_tput _ _ _ _ _
@[simp] theorem State.setObj_setObj (i : Nat) (x y : Obj) : (s.setObj i x).setObj i y = s.setObj i y := by simp [State.setObj]
@[simp] theorem State.modelAt_setModel (i : Nat) (x : ModelD) : (s.setModel i x).modelAt i = x := tget_tput_same _ _ _ _
theorem State.modelAt_setModel_ne {i j : Nat} (x : ModelD) (h : j ≠ i) : (s.setModel i x).modelAt j = s.modelAt j := tget_tput_ne _ _ _ h
theorem State.modelAt_setModel_if (i j : Nat) (x : ModelD) : (s.setModel i x).modelAt j = if j = i then x else s.modelAt j := tget_tput _ _ _ _ _
@[simp] theorem State.setModel_setModel (i : Nat) (x y : ModelD) : (s.setModel i x).setModel i y = s.setModel i y := by simp [State.setModel]
@[simp] theorem State.sessAt_setSess (i : Nat) (x : Sess) : (s.setSess i x).sessAt i = x := tget_tput_same _ _ _ _
theorem State.sessAt_setSess_ne {i j : Nat} (x : Sess) (h : j ≠ i) : (s.setSess i x).sessAt j = s.sessAt j := tget_tput_ne _ _ _ h
theorem State.sessAt_setSess_if (i j : Nat) (x : Sess) : (s.setSess i x).sessAt j = if j = i then x else s.sessAt j := tget_tput _ _ _ _ _
@[simp] theorem State.setSess_setSess (i : Nat) (x y : Sess) : (s.setSess i x).setSess i y = s.setSess i y := by simp [State.setSess]
@[simp] theorem State.ten_setTen (i : Nat) (x : Tenant) : (s.setTen i x).ten i = x := tget_tput_same _ _ _ _
theorem State.ten_setTen_ne {i j : Nat} (x : Tenant) (h : j ≠ i) : (s.setTen i x).ten j = s.ten j := tget_tput_ne _ _ _ h
theorem State.ten_setTen_if (i j : Nat) (x : Tenant) : (s.setTen i x).ten j = if j = i then x else s.ten j := tget_tput _ _ _ _ _
@[simp] theorem State.setTen_setTen (i : Nat) (x y : Tenant) : (s.setTen i x).setTen i y = s.setTen i y := by simp [State.setTen]
@[simp] theorem State.mbox_setMbox (i : Nat) (x : MBox) : (s.setMbox i x).mbox i = x := tget_tput_same _ _ _ _
theorem State.mbox_setMbox_ne {i j : Nat} (x : MBox) (h : j ≠ i) : (s.setMbox i x).mbox j = s.mbox j := tget_tput_ne _ _ _ h
theorem State.mbox_setMbox_if (i j : Nat) (x : MBox) : (s.setMbox i x).mbox j = if j = i then x else s.mbox j := tget_tput _ _ _ _ _
@[simp] theorem State.setMbox_setMbox (i : Nat) (x y : MBox) : (s.setMbox i x).setMbox i y = s.setMbox i y := by simp [State.setMbox]
@[simp] theorem State.ovAt_setOv (i : Nat) (x : Overlay) : (s.setOv i x).ovAt i = x := tget_tput_same _ _ _ _
theorem State.ovAt_setOv_ne {i j : Nat} (x : Overlay) (h : j ≠ i) : (s.setOv i x).ovAt j = s.ovAt j := tget_tput_ne _ _ _ h
theorem State.ovAt_setOv_if (i j : Nat) (x : Overlay) : (s.setOv i x).ovAt j = if j = i then x else s.ovAt j := tget_tput _ _ _ _ _
@[simp] theorem State.setOv_setOv (i : Nat) (x y : Overlay) : (s.setOv i x).setOv i y = s.setOv i y := by simp [State.setOv]
@[simp] theorem State.thrAt_setTile' (j : Nat) (i : Nat) (x : Tile) : (s.setTile i x).thrAt j = s.thrAt j := rfl
@[simp] theorem State.thrAt_setSub' (j : Nat) (i : Nat) (x : SubCh) : (s.setSub i x).thrAt j = s.thrAt j := rfl
@[simp] theorem State.thrAt_setBank' (j : Nat) (i : Nat) (x : Bank) : (s.setBank i x).thrAt j = s.thrAt j := rfl
@[simp] theorem State.thrAt_setStack' (j : Nat) (i : Nat) (x : Stack) : (s.setStack i x).thrAt j = s.thrAt j := rfl
@[simp] theorem State.thrAt_setUnit' (j : Nat) (i : Nat) (x : BUnit) : (s.setUnit i x).thrAt j = s.thrAt j := rfl
@[simp] theorem State.thrAt_setArr' (j : Nat) (i : Nat) (x : ArrayU) : (s.setArr i x).thrAt j = s.thrAt j := rfl
@[simp] theorem State.thrAt_setCtr' (j : Nat) (i : Nat) (x : Ctr) : (s.setCtr i x).thrAt j = s.thrAt j := rfl
@[simp] theorem State.thrAt_setChan' (j : Nat) (i : Nat) (x : Chan) : (s.setChan i x).thrAt j = s.thrAt j := rfl
@[simp] theorem State.thrAt_setCw' (j : Nat) (i : Nat) (x : CwPort) : (s.setCw i x).thrAt j = s.thrAt j := rfl
@[simp] theorem State.thrAt_setLot' (j : Nat) (i : Nat) (x : LotRec) : (s.setLot i x).thrAt j = s.thrAt j := rfl
@[simp] theorem State.thrAt_setObj' (j : Nat) (i : Nat) (x : Obj) : (s.setObj i x).thrAt j = s.thrAt j := rfl
@[simp] theorem State.thrAt_setModel' (j : Nat) (i : Nat) (x : ModelD) : (s.setModel i x).thrAt j = s.thrAt j := rfl
@[simp] theorem State.thrAt_setOv' (j : Nat) (i : Nat) (x : Overlay) : (s.setOv i x).thrAt j = s.thrAt j := rfl
@[simp] theorem State.thrAt_setSess' (j : Nat) (i : Nat) (x : Sess) : (s.setSess i x).thrAt j = s.thrAt j := rfl
@[simp] theorem State.thrAt_setTen' (j : Nat) (i : Nat) (x : Tenant) : (s.setTen i x).thrAt j = s.thrAt j := rfl
@[simp] theorem State.thrAt_setRefs' (j : Nat) (i n : Nat) : (s.setRefs i n).thrAt j = s.thrAt j := rfl
@[simp] theorem State.thrAt_setMbox' (j : Nat) (i : Nat) (x : MBox) : (s.setMbox i x).thrAt j = s.thrAt j := rfl
@[simp] theorem State.thrAt_setRing' (j : Nat) (i : Nat) (x : Ring) : (s.setRing i x).thrAt j = s.thrAt j := rfl
@[simp] theorem State.thrAt_setEventRing' (j : Nat) (x : Ring) : (s.setEventRing x).thrAt j = s.thrAt j := rfl
@[simp] theorem State.thrAt_useFree' (j : Nat) (n : Nat) : (s.useFree n).thrAt j = s.thrAt j := rfl
@[simp] theorem State.thrAt_sendSignal' (j : Nat) (m : SignalMsg) : (s.sendSignal m).thrAt j = s.thrAt j := rfl
@[simp] theorem State.thrAt_sendOp' (j : Nat) (o : CtrOp) : (s.sendOp o).thrAt j = s.thrAt j := rfl
@[simp] theorem State.thrAt_issued' (j : Nat) (i : Nat) : (s.issued i).thrAt j = s.thrAt j := rfl
@[simp] theorem State.thrAt_weldTouch' (j : Nat) (i o n : Nat) (w : Bool) : (s.weldTouch i o n w).thrAt j = s.thrAt j := rfl
@[simp] theorem State.thrAt_weldWrite' (j : Nat) (i o : Nat) (b : List Byte) (p : Bool) : (s.weldWrite i o b p).thrAt j = s.thrAt j := rfl
@[simp] theorem State.thrAt_log' (j : Nat) (c : W16) (d : Domain) (a0 a1 a2 a3 : W64) (x : EvExtra) : (s.log c d a0 a1 a2 a3 x).thrAt j = s.thrAt j := rfl
@[simp] theorem State.thrAt_detect' (j : Nat) (c : W16) (d : Domain) (a0 a1 a2 a3 : W64) (x : EvExtra) : (s.detect c d a0 a1 a2 a3 x).thrAt j = s.thrAt j := rfl
@[simp] theorem State.thrAt_outOfService' (j : Nat) (d : Domain) (x : EvExtra) : (s.outOfService d x).thrAt j = s.thrAt j := rfl
@[simp] theorem State.tileAt_setThr' (j : Nat) (i : Nat) (x : Thr) : (s.setThr i x).tileAt j = s.tileAt j := rfl
@[simp] theorem State.tileAt_setSub' (j : Nat) (i : Nat) (x : SubCh) : (s.setSub i x).tileAt j = s.tileAt j := rfl
@[simp] theorem State.tileAt_setBank' (j : Nat) (i : Nat) (x : Bank) : (s.setBank i x).tileAt j = s.tileAt j := rfl
@[simp] theorem State.tileAt_setStack' (j : Nat) (i : Nat) (x : Stack) : (s.setStack i x).tileAt j = s.tileAt j := rfl
@[simp] theorem State.tileAt_setUnit' (j : Nat) (i : Nat) (x : BUnit) : (s.setUnit i x).tileAt j = s.tileAt j := rfl
@[simp] theorem State.tileAt_setArr' (j : Nat) (i : Nat) (x : ArrayU) : (s.setArr i x).tileAt j = s.tileAt j := rfl
@[simp] theorem State.tileAt_setCtr' (j : Nat) (i : Nat) (x : Ctr) : (s.setCtr i x).tileAt j = s.tileAt j := rfl
@[simp] theorem State.tileAt_setChan' (j : Nat) (i : Nat) (x : Chan) : (s.setChan i x).tileAt j = s.tileAt j := rfl
@[simp] theorem State.tileAt_setCw' (j : Nat) (i : Nat) (x : CwPort) : (s.setCw i x).tileAt j = s.tileAt j := rfl
@[simp] theorem State.tileAt_setLot' (j : Nat) (i : Nat) (x : LotRec) : (s.setLot i x).tileAt j = s.tileAt j := rfl
@[simp] theorem State.tileAt_setObj' (j : Nat) (i : Nat) (x : Obj) : (s.setObj i x).tileAt j = s.tileAt j := rfl
@[simp] theorem State.tileAt_setModel' (j : Nat) (i : Nat) (x : ModelD) : (s.setModel i x).tileAt j = s.tileAt j := rfl
@[simp] theorem State.tileAt_setOv' (j : Nat) (i : Nat) (x : Overlay) : (s.setOv i x).tileAt j = s.tileAt j := rfl
@[simp] theorem State.tileAt_setSess' (j : Nat) (i : Nat) (x : Sess) : (s.setSess i x).tileAt j = s.tileAt j := rfl
@[simp] theorem State.tileAt_setTen' (j : Nat) (i : Nat) (x : Tenant) : (s.setTen i x).tileAt j = s.tileAt j := rfl
@[simp] theorem State.tileAt_setRefs' (j : Nat) (i n : Nat) : (s.setRefs i n).tileAt j = s.tileAt j := rfl
@[simp] theorem State.tileAt_setMbox' (j : Nat) (i : Nat) (x : MBox) : (s.setMbox i x).tileAt j = s.tileAt j := rfl
@[simp] theorem State.tileAt_setRing' (j : Nat) (i : Nat) (x : Ring) : (s.setRing i x).tileAt j = s.tileAt j := rfl
@[simp] theorem State.tileAt_setEventRing' (j : Nat) (x : Ring) : (s.setEventRing x).tileAt j = s.tileAt j := rfl
@[simp] theorem State.tileAt_useFree' (j : Nat) (n : Nat) : (s.useFree n).tileAt j = s.tileAt j := rfl
@[simp] theorem State.tileAt_sendSignal' (j : Nat) (m : SignalMsg) : (s.sendSignal m).tileAt j = s.tileAt j := rfl
@[simp] theorem State.tileAt_sendOp' (j : Nat) (o : CtrOp) : (s.sendOp o).tileAt j = s.tileAt j := rfl
@[simp] theorem State.tileAt_issued' (j : Nat) (i : Nat) : (s.issued i).tileAt j = s.tileAt j := rfl
@[simp] theorem State.tileAt_wakeFor' (j : Nat) (p : Nat → Blk → Bool) : (s.wakeFor p).tileAt j = s.tileAt j := rfl
@[simp] theorem State.tileAt_weldTouch' (j : Nat) (i o n : Nat) (w : Bool) : (s.weldTouch i o n w).tileAt j = s.tileAt j := rfl
@[simp] theorem State.tileAt_log' (j : Nat) (c : W16) (d : Domain) (a0 a1 a2 a3 : W64) (x : EvExtra) : (s.log c d a0 a1 a2 a3 x).tileAt j = s.tileAt j := rfl
@[simp] theorem State.tileAt_detect' (j : Nat) (c : W16) (d : Domain) (a0 a1 a2 a3 : W64) (x : EvExtra) : (s.detect c d a0 a1 a2 a3 x).tileAt j = s.tileAt j := rfl
@[simp] theorem State.tileAt_outOfService' (j : Nat) (d : Domain) (x : EvExtra) : (s.outOfService d x).tileAt j = s.tileAt j := rfl
@[simp] theorem State.sub_setThr' (j : Nat) (i : Nat) (x : Thr) : (s.setThr i x).sub j = s.sub j := rfl
@[simp] theorem State.sub_setTile' (j : Nat) (i : Nat) (x : Tile) : (s.setTile i x).sub j = s.sub j := rfl
@[simp] theorem State.sub_setBank' (j : Nat) (i : Nat) (x : Bank) : (s.setBank i x).sub j = s.sub j := rfl
@[simp] theorem State.sub_setStack' (j : Nat) (i : Nat) (x : Stack) : (s.setStack i x).sub j = s.sub j := rfl
@[simp] theorem State.sub_setUnit' (j : Nat) (i : Nat) (x : BUnit) : (s.setUnit i x).sub j = s.sub j := rfl
@[simp] theorem State.sub_setArr' (j : Nat) (i : Nat) (x : ArrayU) : (s.setArr i x).sub j = s.sub j := rfl
@[simp] theorem State.sub_setCtr' (j : Nat) (i : Nat) (x : Ctr) : (s.setCtr i x).sub j = s.sub j := rfl
@[simp] theorem State.sub_setChan' (j : Nat) (i : Nat) (x : Chan) : (s.setChan i x).sub j = s.sub j := rfl
@[simp] theorem State.sub_setCw' (j : Nat) (i : Nat) (x : CwPort) : (s.setCw i x).sub j = s.sub j := rfl
@[simp] theorem State.sub_setLot' (j : Nat) (i : Nat) (x : LotRec) : (s.setLot i x).sub j = s.sub j := rfl
@[simp] theorem State.sub_setObj' (j : Nat) (i : Nat) (x : Obj) : (s.setObj i x).sub j = s.sub j := rfl
@[simp] theorem State.sub_setModel' (j : Nat) (i : Nat) (x : ModelD) : (s.setModel i x).sub j = s.sub j := rfl
@[simp] theorem State.sub_setOv' (j : Nat) (i : Nat) (x : Overlay) : (s.setOv i x).sub j = s.sub j := rfl
@[simp] theorem State.sub_setSess' (j : Nat) (i : Nat) (x : Sess) : (s.setSess i x).sub j = s.sub j := rfl
@[simp] theorem State.sub_setTen' (j : Nat) (i : Nat) (x : Tenant) : (s.setTen i x).sub j = s.sub j := rfl
@[simp] theorem State.sub_setRefs' (j : Nat) (i n : Nat) : (s.setRefs i n).sub j = s.sub j := rfl
@[simp] theorem State.sub_setMbox' (j : Nat) (i : Nat) (x : MBox) : (s.setMbox i x).sub j = s.sub j := rfl
@[simp] theorem State.sub_setRing' (j : Nat) (i : Nat) (x : Ring) : (s.setRing i x).sub j = s.sub j := rfl
@[simp] theorem State.sub_setEventRing' (j : Nat) (x : Ring) : (s.setEventRing x).sub j = s.sub j := rfl
@[simp] theorem State.sub_useFree' (j : Nat) (n : Nat) : (s.useFree n).sub j = s.sub j := rfl
@[simp] theorem State.sub_sendSignal' (j : Nat) (m : SignalMsg) : (s.sendSignal m).sub j = s.sub j := rfl
@[simp] theorem State.sub_sendOp' (j : Nat) (o : CtrOp) : (s.sendOp o).sub j = s.sub j := rfl
@[simp] theorem State.sub_issued' (j : Nat) (i : Nat) : (s.issued i).sub j = s.sub j := rfl
@[simp] theorem State.sub_wakeFor' (j : Nat) (p : Nat → Blk → Bool) : (s.wakeFor p).sub j = s.sub j := rfl
@[simp] theorem State.sub_weldTouch' (j : Nat) (i o n : Nat) (w : Bool) : (s.weldTouch i o n w).sub j = s.sub j := rfl
@[simp] theorem State.sub_weldWrite' (j : Nat) (i o : Nat) (b : List Byte) (p : Bool) : (s.weldWrite i o b p).sub j = s.sub j := rfl
@[simp] theorem State.sub_log' (j : Nat) (c : W16) (d : Domain) (a0 a1 a2 a3 : W64) (x : EvExtra) : (s.log c d a0 a1 a2 a3 x).sub j = s.sub j := rfl
@[simp] theorem State.sub_detect' (j : Nat) (c : W16) (d : Domain) (a0 a1 a2 a3 : W64) (x : EvExtra) : (s.detect c d a0 a1 a2 a3 x).sub j = s.sub j := rfl
@[simp] theorem State.sub_outOfService' (j : Nat) (d : Domain) (x : EvExtra) : (s.outOfService d x).sub j = s.sub j := rfl
@[simp] theorem State.bankAt_setThr' (j : Nat) (i : Nat) (x : Thr) : (s.setThr i x).bankAt j = s.bankAt j := rfl
@[simp] theorem State.bankAt_setTile' (j : Nat) (i : Nat) (x : Tile) : (s.setTile i x).bankAt j = s.bankAt j := rfl
@[simp] theorem State.bankAt_setSub' (j : Nat) (i : Nat) (x : SubCh) : (s.setSub i x).bankAt j = s.bankAt j := rfl
@[simp] theorem State.bankAt_setStack' (j : Nat) (i : Nat) (x : Stack) : (s.setStack i x).bankAt j = s.bankAt j := rfl
@[simp] theorem State.bankAt_setUnit' (j : Nat) (i : Nat) (x : BUnit) : (s.setUnit i x).bankAt j = s.bankAt j := rfl
@[simp] theorem State.bankAt_setArr' (j : Nat) (i : Nat) (x : ArrayU) : (s.setArr i x).bankAt j = s.bankAt j := rfl
@[simp] theorem State.bankAt_setCtr' (j : Nat) (i : Nat) (x : Ctr) : (s.setCtr i x).bankAt j = s.bankAt j := rfl
@[simp] theorem State.bankAt_setChan' (j : Nat) (i : Nat) (x : Chan) : (s.setChan i x).bankAt j = s.bankAt j := rfl
@[simp] theorem State.bankAt_setCw' (j : Nat) (i : Nat) (x : CwPort) : (s.setCw i x).bankAt j = s.bankAt j := rfl
@[simp] theorem State.bankAt_setLot' (j : Nat) (i : Nat) (x : LotRec) : (s.setLot i x).bankAt j = s.bankAt j := rfl
@[simp] theorem State.bankAt_setObj' (j : Nat) (i : Nat) (x : Obj) : (s.setObj i x).bankAt j = s.bankAt j := rfl
@[simp] theorem State.bankAt_setModel' (j : Nat) (i : Nat) (x : ModelD) : (s.setModel i x).bankAt j = s.bankAt j := rfl
@[simp] theorem State.bankAt_setOv' (j : Nat) (i : Nat) (x : Overlay) : (s.setOv i x).bankAt j = s.bankAt j := rfl
@[simp] theorem State.bankAt_setSess' (j : Nat) (i : Nat) (x : Sess) : (s.setSess i x).bankAt j = s.bankAt j := rfl
@[simp] theorem State.bankAt_setTen' (j : Nat) (i : Nat) (x : Tenant) : (s.setTen i x).bankAt j = s.bankAt j := rfl
@[simp] theorem State.bankAt_setRefs' (j : Nat) (i n : Nat) : (s.setRefs i n).bankAt j = s.bankAt j := rfl
@[simp] theorem State.bankAt_setMbox' (j : Nat) (i : Nat) (x : MBox) : (s.setMbox i x).bankAt j = s.bankAt j := rfl
@[simp] theorem State.bankAt_setRing' (j : Nat) (i : Nat) (x : Ring) : (s.setRing i x).bankAt j = s.bankAt j := rfl
@[simp] theorem State.bankAt_setEventRing' (j : Nat) (x : Ring) : (s.setEventRing x).bankAt j = s.bankAt j := rfl
@[simp] theorem State.bankAt_useFree' (j : Nat) (n : Nat) : (s.useFree n).bankAt j = s.bankAt j := rfl
@[simp] theorem State.bankAt_sendSignal' (j : Nat) (m : SignalMsg) : (s.sendSignal m).bankAt j = s.bankAt j := rfl
@[simp] theorem State.bankAt_sendOp' (j : Nat) (o : CtrOp) : (s.sendOp o).bankAt j = s.bankAt j := rfl
@[simp] theorem State.bankAt_issued' (j : Nat) (i : Nat) : (s.issued i).bankAt j = s.bankAt j := rfl
@[simp] theorem State.bankAt_wakeFor' (j : Nat) (p : Nat → Blk → Bool) : (s.wakeFor p).bankAt j = s.bankAt j := rfl
@[simp] theorem State.bankAt_weldTouch' (j : Nat) (i o n : Nat) (w : Bool) : (s.weldTouch i o n w).bankAt j = s.bankAt j := rfl
@[simp] theorem State.bankAt_weldWrite' (j : Nat) (i o : Nat) (b : List Byte) (p : Bool) : (s.weldWrite i o b p).bankAt j = s.bankAt j := rfl
@[simp] theorem State.bankAt_log' (j : Nat) (c : W16) (d : Domain) (a0 a1 a2 a3 : W64) (x : EvExtra) : (s.log c d a0 a1 a2 a3 x).bankAt j = s.bankAt j := rfl
@[simp] theorem State.bankAt_detect' (j : Nat) (c : W16) (d : Domain) (a0 a1 a2 a3 : W64) (x : EvExtra) : (s.detect c d a0 a1 a2 a3 x).bankAt j = s.bankAt j := rfl
@[simp] theorem State.bankAt_outOfService' (j : Nat) (d : Domain) (x : EvExtra) : (s.outOfService d x).bankAt j = s.bankAt j := rfl
@[simp] theorem State.stackAt_setThr' (j : Nat) (i : Nat) (x : Thr) : (s.setThr i x).stackAt j = s.stackAt j := rfl
@[simp] theorem State.stackAt_setTile' (j : Nat) (i : Nat) (x : Tile) : (s.setTile i x).stackAt j = s.stackAt j := rfl
@[simp] theorem State.stackAt_setSub' (j : Nat) (i : Nat) (x : SubCh) : (s.setSub i x).stackAt j = s.stackAt j := rfl
@[simp] theorem State.stackAt_setBank' (j : Nat) (i : Nat) (x : Bank) : (s.setBank i x).stackAt j = s.stackAt j := rfl
@[simp] theorem State.stackAt_setUnit' (j : Nat) (i : Nat) (x : BUnit) : (s.setUnit i x).stackAt j = s.stackAt j := rfl
@[simp] theorem State.stackAt_setArr' (j : Nat) (i : Nat) (x : ArrayU) : (s.setArr i x).stackAt j = s.stackAt j := rfl
@[simp] theorem State.stackAt_setCtr' (j : Nat) (i : Nat) (x : Ctr) : (s.setCtr i x).stackAt j = s.stackAt j := rfl
@[simp] theorem State.stackAt_setChan' (j : Nat) (i : Nat) (x : Chan) : (s.setChan i x).stackAt j = s.stackAt j := rfl
@[simp] theorem State.stackAt_setCw' (j : Nat) (i : Nat) (x : CwPort) : (s.setCw i x).stackAt j = s.stackAt j := rfl
@[simp] theorem State.stackAt_setLot' (j : Nat) (i : Nat) (x : LotRec) : (s.setLot i x).stackAt j = s.stackAt j := rfl
@[simp] theorem State.stackAt_setObj' (j : Nat) (i : Nat) (x : Obj) : (s.setObj i x).stackAt j = s.stackAt j := rfl
@[simp] theorem State.stackAt_setModel' (j : Nat) (i : Nat) (x : ModelD) : (s.setModel i x).stackAt j = s.stackAt j := rfl
@[simp] theorem State.stackAt_setOv' (j : Nat) (i : Nat) (x : Overlay) : (s.setOv i x).stackAt j = s.stackAt j := rfl
@[simp] theorem State.stackAt_setSess' (j : Nat) (i : Nat) (x : Sess) : (s.setSess i x).stackAt j = s.stackAt j := rfl
@[simp] theorem State.stackAt_setTen' (j : Nat) (i : Nat) (x : Tenant) : (s.setTen i x).stackAt j = s.stackAt j := rfl
@[simp] theorem State.stackAt_setRefs' (j : Nat) (i n : Nat) : (s.setRefs i n).stackAt j = s.stackAt j := rfl
@[simp] theorem State.stackAt_setMbox' (j : Nat) (i : Nat) (x : MBox) : (s.setMbox i x).stackAt j = s.stackAt j := rfl
@[simp] theorem State.stackAt_setRing' (j : Nat) (i : Nat) (x : Ring) : (s.setRing i x).stackAt j = s.stackAt j := rfl
@[simp] theorem State.stackAt_setEventRing' (j : Nat) (x : Ring) : (s.setEventRing x).stackAt j = s.stackAt j := rfl
@[simp] theorem State.stackAt_useFree' (j : Nat) (n : Nat) : (s.useFree n).stackAt j = s.stackAt j := rfl
@[simp] theorem State.stackAt_sendSignal' (j : Nat) (m : SignalMsg) : (s.sendSignal m).stackAt j = s.stackAt j := rfl
@[simp] theorem State.stackAt_sendOp' (j : Nat) (o : CtrOp) : (s.sendOp o).stackAt j = s.stackAt j := rfl
@[simp] theorem State.stackAt_issued' (j : Nat) (i : Nat) : (s.issued i).stackAt j = s.stackAt j := rfl
@[simp] theorem State.stackAt_wakeFor' (j : Nat) (p : Nat → Blk → Bool) : (s.wakeFor p).stackAt j = s.stackAt j := rfl
@[simp] theorem State.stackAt_weldTouch' (j : Nat) (i o n : Nat) (w : Bool) : (s.weldTouch i o n w).stackAt j = s.stackAt j := rfl
@[simp] theorem State.stackAt_weldWrite' (j : Nat) (i o : Nat) (b : List Byte) (p : Bool) : (s.weldWrite i o b p).stackAt j = s.stackAt j := rfl
@[simp] theorem State.stackAt_log' (j : Nat) (c : W16) (d : Domain) (a0 a1 a2 a3 : W64) (x : EvExtra) : (s.log c d a0 a1 a2 a3 x).stackAt j = s.stackAt j := rfl
@[simp] theorem State.stackAt_detect' (j : Nat) (c : W16) (d : Domain) (a0 a1 a2 a3 : W64) (x : EvExtra) : (s.detect c d a0 a1 a2 a3 x).stackAt j = s.stackAt j := rfl
@[simp] theorem State.stackAt_outOfService' (j : Nat) (d : Domain) (x : EvExtra) : (s.outOfService d x).stackAt j = s.stackAt j := rfl
@[simp] theorem State.unitAt_setThr' (j : Nat) (i : Nat) (x : Thr) : (s.setThr i x).unitAt j = s.unitAt j := rfl
@[simp] theorem State.unitAt_setTile' (j : Nat) (i : Nat) (x : Tile) : (s.setTile i x).unitAt j = s.unitAt j := rfl
@[simp] theorem State.unitAt_setSub' (j : Nat) (i : Nat) (x : SubCh) : (s.setSub i x).unitAt j = s.unitAt j := rfl
@[simp] theorem State.unitAt_setBank' (j : Nat) (i : Nat) (x : Bank) : (s.setBank i x).unitAt j = s.unitAt j := rfl
@[simp] theorem State.unitAt_setStack' (j : Nat) (i : Nat) (x : Stack) : (s.setStack i x).unitAt j = s.unitAt j := rfl
@[simp] theorem State.unitAt_setArr' (j : Nat) (i : Nat) (x : ArrayU) : (s.setArr i x).unitAt j = s.unitAt j := rfl
@[simp] theorem State.unitAt_setCtr' (j : Nat) (i : Nat) (x : Ctr) : (s.setCtr i x).unitAt j = s.unitAt j := rfl
@[simp] theorem State.unitAt_setChan' (j : Nat) (i : Nat) (x : Chan) : (s.setChan i x).unitAt j = s.unitAt j := rfl
@[simp] theorem State.unitAt_setCw' (j : Nat) (i : Nat) (x : CwPort) : (s.setCw i x).unitAt j = s.unitAt j := rfl
@[simp] theorem State.unitAt_setLot' (j : Nat) (i : Nat) (x : LotRec) : (s.setLot i x).unitAt j = s.unitAt j := rfl
@[simp] theorem State.unitAt_setObj' (j : Nat) (i : Nat) (x : Obj) : (s.setObj i x).unitAt j = s.unitAt j := rfl
@[simp] theorem State.unitAt_setModel' (j : Nat) (i : Nat) (x : ModelD) : (s.setModel i x).unitAt j = s.unitAt j := rfl
@[simp] theorem State.unitAt_setOv' (j : Nat) (i : Nat) (x : Overlay) : (s.setOv i x).unitAt j = s.unitAt j := rfl
@[simp] theorem State.unitAt_setSess' (j : Nat) (i : Nat) (x : Sess) : (s.setSess i x).unitAt j = s.unitAt j := rfl
@[simp] theorem State.unitAt_setTen' (j : Nat) (i : Nat) (x : Tenant) : (s.setTen i x).unitAt j = s.unitAt j := rfl
@[simp] theorem State.unitAt_setRefs' (j : Nat) (i n : Nat) : (s.setRefs i n).unitAt j = s.unitAt j := rfl
@[simp] theorem State.unitAt_setMbox' (j : Nat) (i : Nat) (x : MBox) : (s.setMbox i x).unitAt j = s.unitAt j := rfl
@[simp] theorem State.unitAt_setRing' (j : Nat) (i : Nat) (x : Ring) : (s.setRing i x).unitAt j = s.unitAt j := rfl
@[simp] theorem State.unitAt_setEventRing' (j : Nat) (x : Ring) : (s.setEventRing x).unitAt j = s.unitAt j := rfl
@[simp] theorem State.unitAt_useFree' (j : Nat) (n : Nat) : (s.useFree n).unitAt j = s.unitAt j := rfl
@[simp] theorem State.unitAt_sendSignal' (j : Nat) (m : SignalMsg) : (s.sendSignal m).unitAt j = s.unitAt j := rfl
@[simp] theorem State.unitAt_sendOp' (j : Nat) (o : CtrOp) : (s.sendOp o).unitAt j = s.unitAt j := rfl
@[simp] theorem State.unitAt_issued' (j : Nat) (i : Nat) : (s.issued i).unitAt j = s.unitAt j := rfl
@[simp] theorem State.unitAt_wakeFor' (j : Nat) (p : Nat → Blk → Bool) : (s.wakeFor p).unitAt j = s.unitAt j := rfl
@[simp] theorem State.unitAt_weldTouch' (j : Nat) (i o n : Nat) (w : Bool) : (s.weldTouch i o n w).unitAt j = s.unitAt j := rfl
@[simp] theorem State.unitAt_weldWrite' (j : Nat) (i o : Nat) (b : List Byte) (p : Bool) : (s.weldWrite i o b p).unitAt j = s.unitAt j := rfl
@[simp] theorem State.unitAt_log' (j : Nat) (c : W16) (d : Domain) (a0 a1 a2 a3 : W64) (x : EvExtra) : (s.log c d a0 a1 a2 a3 x).unitAt j = s.unitAt j := rfl
@[simp] theorem State.unitAt_detect' (j : Nat) (c : W16) (d : Domain) (a0 a1 a2 a3 : W64) (x : EvExtra) : (s.detect c d a0 a1 a2 a3 x).unitAt j = s.unitAt j := rfl
@[simp] theorem State.unitAt_outOfService' (j : Nat) (d : Domain) (x : EvExtra) : (s.outOfService d x).unitAt j = s.unitAt j := rfl
@[simp] theorem State.arrAt_setThr' (j : Nat) (i : Nat) (x : Thr) : (s.setThr i x).arrAt j = s.arrAt j := rfl
@[simp] theorem State.arrAt_setTile' (j : Nat) (i : Nat) (x : Tile) : (s.setTile i x).arrAt j = s.arrAt j := rfl
@[simp] theorem State.arrAt_setSub' (j : Nat) (i : Nat) (x : SubCh) : (s.setSub i x).arrAt j = s.arrAt j := rfl
@[simp] theorem State.arrAt_setBank' (j : Nat) (i : Nat) (x : Bank) : (s.setBank i x).arrAt j = s.arrAt j := rfl
@[simp] theorem State.arrAt_setStack' (j : Nat) (i : Nat) (x : Stack) : (s.setStack i x).arrAt j = s.arrAt j := rfl
@[simp] theorem State.arrAt_setUnit' (j : Nat) (i : Nat) (x : BUnit) : (s.setUnit i x).arrAt j = s.arrAt j := rfl
@[simp] theorem State.arrAt_setCtr' (j : Nat) (i : Nat) (x : Ctr) : (s.setCtr i x).arrAt j = s.arrAt j := rfl
@[simp] theorem State.arrAt_setChan' (j : Nat) (i : Nat) (x : Chan) : (s.setChan i x).arrAt j = s.arrAt j := rfl
@[simp] theorem State.arrAt_setCw' (j : Nat) (i : Nat) (x : CwPort) : (s.setCw i x).arrAt j = s.arrAt j := rfl
@[simp] theorem State.arrAt_setLot' (j : Nat) (i : Nat) (x : LotRec) : (s.setLot i x).arrAt j = s.arrAt j := rfl
@[simp] theorem State.arrAt_setObj' (j : Nat) (i : Nat) (x : Obj) : (s.setObj i x).arrAt j = s.arrAt j := rfl
@[simp] theorem State.arrAt_setModel' (j : Nat) (i : Nat) (x : ModelD) : (s.setModel i x).arrAt j = s.arrAt j := rfl
@[simp] theorem State.arrAt_setOv' (j : Nat) (i : Nat) (x : Overlay) : (s.setOv i x).arrAt j = s.arrAt j := rfl
@[simp] theorem State.arrAt_setSess' (j : Nat) (i : Nat) (x : Sess) : (s.setSess i x).arrAt j = s.arrAt j := rfl
@[simp] theorem State.arrAt_setTen' (j : Nat) (i : Nat) (x : Tenant) : (s.setTen i x).arrAt j = s.arrAt j := rfl
@[simp] theorem State.arrAt_setRefs' (j : Nat) (i n : Nat) : (s.setRefs i n).arrAt j = s.arrAt j := rfl
@[simp] theorem State.arrAt_setMbox' (j : Nat) (i : Nat) (x : MBox) : (s.setMbox i x).arrAt j = s.arrAt j := rfl
@[simp] theorem State.arrAt_setRing' (j : Nat) (i : Nat) (x : Ring) : (s.setRing i x).arrAt j = s.arrAt j := rfl
@[simp] theorem State.arrAt_setEventRing' (j : Nat) (x : Ring) : (s.setEventRing x).arrAt j = s.arrAt j := rfl
@[simp] theorem State.arrAt_useFree' (j : Nat) (n : Nat) : (s.useFree n).arrAt j = s.arrAt j := rfl
@[simp] theorem State.arrAt_sendSignal' (j : Nat) (m : SignalMsg) : (s.sendSignal m).arrAt j = s.arrAt j := rfl
@[simp] theorem State.arrAt_sendOp' (j : Nat) (o : CtrOp) : (s.sendOp o).arrAt j = s.arrAt j := rfl
@[simp] theorem State.arrAt_issued' (j : Nat) (i : Nat) : (s.issued i).arrAt j = s.arrAt j := rfl
@[simp] theorem State.arrAt_wakeFor' (j : Nat) (p : Nat → Blk → Bool) : (s.wakeFor p).arrAt j = s.arrAt j := rfl
@[simp] theorem State.arrAt_log' (j : Nat) (c : W16) (d : Domain) (a0 a1 a2 a3 : W64) (x : EvExtra) : (s.log c d a0 a1 a2 a3 x).arrAt j = s.arrAt j := rfl
@[simp] theorem State.arrAt_detect' (j : Nat) (c : W16) (d : Domain) (a0 a1 a2 a3 : W64) (x : EvExtra) : (s.detect c d a0 a1 a2 a3 x).arrAt j = s.arrAt j := rfl
@[simp] theorem State.arrAt_outOfService' (j : Nat) (d : Domain) (x : EvExtra) : (s.outOfService d x).arrAt j = s.arrAt j := rfl
@[simp] theorem State.ctrAt_setThr' (j : Nat) (i : Nat) (x : Thr) : (s.setThr i x).ctrAt j = s.ctrAt j := rfl
@[simp] theorem State.ctrAt_setTile' (j : Nat) (i : Nat) (x : Tile) : (s.setTile i x).ctrAt j = s.ctrAt j := rfl
@[simp] theorem State.ctrAt_setSub' (j : Nat) (i : Nat) (x : SubCh) : (s.setSub i x).ctrAt j = s.ctrAt j := rfl
@[simp] theorem State.ctrAt_setBank' (j : Nat) (i : Nat) (x : Bank) : (s.setBank i x).ctrAt j = s.ctrAt j := rfl
@[simp] theorem State.ctrAt_setStack' (j : Nat) (i : Nat) (x : Stack) : (s.setStack i x).ctrAt j = s.ctrAt j := rfl
@[simp] theorem State.ctrAt_setUnit' (j : Nat) (i : Nat) (x : BUnit) : (s.setUnit i x).ctrAt j = s.ctrAt j := rfl
@[simp] theorem State.ctrAt_setArr' (j : Nat) (i : Nat) (x : ArrayU) : (s.setArr i x).ctrAt j = s.ctrAt j := rfl
@[simp] theorem State.ctrAt_setChan' (j : Nat) (i : Nat) (x : Chan) : (s.setChan i x).ctrAt j = s.ctrAt j := rfl
@[simp] theorem State.ctrAt_setCw' (j : Nat) (i : Nat) (x : CwPort) : (s.setCw i x).ctrAt j = s.ctrAt j := rfl
@[simp] theorem State.ctrAt_setLot' (j : Nat) (i : Nat) (x : LotRec) : (s.setLot i x).ctrAt j = s.ctrAt j := rfl
@[simp] theorem State.ctrAt_setObj' (j : Nat) (i : Nat) (x : Obj) : (s.setObj i x).ctrAt j = s.ctrAt j := rfl
@[simp] theorem State.ctrAt_setModel' (j : Nat) (i : Nat) (x : ModelD) : (s.setModel i x).ctrAt j = s.ctrAt j := rfl
@[simp] theorem State.ctrAt_setOv' (j : Nat) (i : Nat) (x : Overlay) : (s.setOv i x).ctrAt j = s.ctrAt j := rfl
@[simp] theorem State.ctrAt_setSess' (j : Nat) (i : Nat) (x : Sess) : (s.setSess i x).ctrAt j = s.ctrAt j := rfl
@[simp] theorem State.ctrAt_setTen' (j : Nat) (i : Nat) (x : Tenant) : (s.setTen i x).ctrAt j = s.ctrAt j := rfl
@[simp] theorem State.ctrAt_setRefs' (j : Nat) (i n : Nat) : (s.setRefs i n).ctrAt j = s.ctrAt j := rfl
@[simp] theorem State.ctrAt_setMbox' (j : Nat) (i : Nat) (x : MBox) : (s.setMbox i x).ctrAt j = s.ctrAt j := rfl
@[simp] theorem State.ctrAt_setRing' (j : Nat) (i : Nat) (x : Ring) : (s.setRing i x).ctrAt j = s.ctrAt j := rfl
@[simp] theorem State.ctrAt_setEventRing' (j : Nat) (x : Ring) : (s.setEventRing x).ctrAt j = s.ctrAt j := rfl
@[simp] theorem State.ctrAt_useFree' (j : Nat) (n : Nat) : (s.useFree n).ctrAt j = s.ctrAt j := rfl
@[simp] theorem State.ctrAt_sendSignal' (j : Nat) (m : SignalMsg) : (s.sendSignal m).ctrAt j = s.ctrAt j := rfl
@[simp] theorem State.ctrAt_sendOp' (j : Nat) (o : CtrOp) : (s.sendOp o).ctrAt j = s.ctrAt j := rfl
@[simp] theorem State.ctrAt_issued' (j : Nat) (i : Nat) : (s.issued i).ctrAt j = s.ctrAt j := rfl
@[simp] theorem State.ctrAt_wakeFor' (j : Nat) (p : Nat → Blk → Bool) : (s.wakeFor p).ctrAt j = s.ctrAt j := rfl
@[simp] theorem State.ctrAt_weldTouch' (j : Nat) (i o n : Nat) (w : Bool) : (s.weldTouch i o n w).ctrAt j = s.ctrAt j := rfl
@[simp] theorem State.ctrAt_weldWrite' (j : Nat) (i o : Nat) (b : List Byte) (p : Bool) : (s.weldWrite i o b p).ctrAt j = s.ctrAt j := rfl
@[simp] theorem State.ctrAt_log' (j : Nat) (c : W16) (d : Domain) (a0 a1 a2 a3 : W64) (x : EvExtra) : (s.log c d a0 a1 a2 a3 x).ctrAt j = s.ctrAt j := rfl
@[simp] theorem State.ctrAt_detect' (j : Nat) (c : W16) (d : Domain) (a0 a1 a2 a3 : W64) (x : EvExtra) : (s.detect c d a0 a1 a2 a3 x).ctrAt j = s.ctrAt j := rfl
@[simp] theorem State.ctrAt_outOfService' (j : Nat) (d : Domain) (x : EvExtra) : (s.outOfService d x).ctrAt j = s.ctrAt j := rfl
@[simp] theorem State.chanAt_setThr' (j : Nat) (i : Nat) (x : Thr) : (s.setThr i x).chanAt j = s.chanAt j := rfl
@[simp] theorem State.chanAt_setTile' (j : Nat) (i : Nat) (x : Tile) : (s.setTile i x).chanAt j = s.chanAt j := rfl
@[simp] theorem State.chanAt_setSub' (j : Nat) (i : Nat) (x : SubCh) : (s.setSub i x).chanAt j = s.chanAt j := rfl
@[simp] theorem State.chanAt_setBank' (j : Nat) (i : Nat) (x : Bank) : (s.setBank i x).chanAt j = s.chanAt j := rfl
@[simp] theorem State.chanAt_setStack' (j : Nat) (i : Nat) (x : Stack) : (s.setStack i x).chanAt j = s.chanAt j := rfl
@[simp] theorem State.chanAt_setUnit' (j : Nat) (i : Nat) (x : BUnit) : (s.setUnit i x).chanAt j = s.chanAt j := rfl
@[simp] theorem State.chanAt_setArr' (j : Nat) (i : Nat) (x : ArrayU) : (s.setArr i x).chanAt j = s.chanAt j := rfl
@[simp] theorem State.chanAt_setCtr' (j : Nat) (i : Nat) (x : Ctr) : (s.setCtr i x).chanAt j = s.chanAt j := rfl
@[simp] theorem State.chanAt_setCw' (j : Nat) (i : Nat) (x : CwPort) : (s.setCw i x).chanAt j = s.chanAt j := rfl
@[simp] theorem State.chanAt_setLot' (j : Nat) (i : Nat) (x : LotRec) : (s.setLot i x).chanAt j = s.chanAt j := rfl
@[simp] theorem State.chanAt_setObj' (j : Nat) (i : Nat) (x : Obj) : (s.setObj i x).chanAt j = s.chanAt j := rfl
@[simp] theorem State.chanAt_setModel' (j : Nat) (i : Nat) (x : ModelD) : (s.setModel i x).chanAt j = s.chanAt j := rfl
@[simp] theorem State.chanAt_setOv' (j : Nat) (i : Nat) (x : Overlay) : (s.setOv i x).chanAt j = s.chanAt j := rfl
@[simp] theorem State.chanAt_setSess' (j : Nat) (i : Nat) (x : Sess) : (s.setSess i x).chanAt j = s.chanAt j := rfl
@[simp] theorem State.chanAt_setTen' (j : Nat) (i : Nat) (x : Tenant) : (s.setTen i x).chanAt j = s.chanAt j := rfl
@[simp] theorem State.chanAt_setRefs' (j : Nat) (i n : Nat) : (s.setRefs i n).chanAt j = s.chanAt j := rfl
@[simp] theorem State.chanAt_setMbox' (j : Nat) (i : Nat) (x : MBox) : (s.setMbox i x).chanAt j = s.chanAt j := rfl
@[simp] theorem State.chanAt_setRing' (j : Nat) (i : Nat) (x : Ring) : (s.setRing i x).chanAt j = s.chanAt j := rfl
@[simp] theorem State.chanAt_setEventRing' (j : Nat) (x : Ring) : (s.setEventRing x).chanAt j = s.chanAt j := rfl
@[simp] theorem State.chanAt_useFree' (j : Nat) (n : Nat) : (s.useFree n).chanAt j = s.chanAt j := rfl
@[simp] theorem State.chanAt_sendSignal' (j : Nat) (m : SignalMsg) : (s.sendSignal m).chanAt j = s.chanAt j := rfl
@[simp] theorem State.chanAt_sendOp' (j : Nat) (o : CtrOp) : (s.sendOp o).chanAt j = s.chanAt j := rfl
@[simp] theorem State.chanAt_issued' (j : Nat) (i : Nat) : (s.issued i).chanAt j = s.chanAt j := rfl
@[simp] theorem State.chanAt_wakeFor' (j : Nat) (p : Nat → Blk → Bool) : (s.wakeFor p).chanAt j = s.chanAt j := rfl
@[simp] theorem State.chanAt_weldTouch' (j : Nat) (i o n : Nat) (w : Bool) : (s.weldTouch i o n w).chanAt j = s.chanAt j := rfl
@[simp] theorem State.chanAt_weldWrite' (j : Nat) (i o : Nat) (b : List Byte) (p : Bool) : (s.weldWrite i o b p).chanAt j = s.chanAt j := rfl
@[simp] theorem State.chanAt_log' (j : Nat) (c : W16) (d : Domain) (a0 a1 a2 a3 : W64) (x : EvExtra) : (s.log c d a0 a1 a2 a3 x).chanAt j = s.chanAt j := rfl
@[simp] theorem State.chanAt_detect' (j : Nat) (c : W16) (d : Domain) (a0 a1 a2 a3 : W64) (x : EvExtra) : (s.detect c d a0 a1 a2 a3 x).chanAt j = s.chanAt j := rfl
@[simp] theorem State.chanAt_outOfService' (j : Nat) (d : Domain) (x : EvExtra) : (s.outOfService d x).chanAt j = s.chanAt j := rfl
@[simp] theorem State.cwAt_setThr' (j : Nat) (i : Nat) (x : Thr) : (s.setThr i x).cwAt j = s.cwAt j := rfl
@[simp] theorem State.cwAt_setTile' (j : Nat) (i : Nat) (x : Tile) : (s.setTile i x).cwAt j = s.cwAt j := rfl
@[simp] theorem State.cwAt_setSub' (j : Nat) (i : Nat) (x : SubCh) : (s.setSub i x).cwAt j = s.cwAt j := rfl
@[simp] theorem State.cwAt_setBank' (j : Nat) (i : Nat) (x : Bank) : (s.setBank i x).cwAt j = s.cwAt j := rfl
@[simp] theorem State.cwAt_setStack' (j : Nat) (i : Nat) (x : Stack) : (s.setStack i x).cwAt j = s.cwAt j := rfl
@[simp] theorem State.cwAt_setUnit' (j : Nat) (i : Nat) (x : BUnit) : (s.setUnit i x).cwAt j = s.cwAt j := rfl
@[simp] theorem State.cwAt_setArr' (j : Nat) (i : Nat) (x : ArrayU) : (s.setArr i x).cwAt j = s.cwAt j := rfl
@[simp] theorem State.cwAt_setCtr' (j : Nat) (i : Nat) (x : Ctr) : (s.setCtr i x).cwAt j = s.cwAt j := rfl
@[simp] theorem State.cwAt_setChan' (j : Nat) (i : Nat) (x : Chan) : (s.setChan i x).cwAt j = s.cwAt j := rfl
@[simp] theorem State.cwAt_setLot' (j : Nat) (i : Nat) (x : LotRec) : (s.setLot i x).cwAt j = s.cwAt j := rfl
@[simp] theorem State.cwAt_setObj' (j : Nat) (i : Nat) (x : Obj) : (s.setObj i x).cwAt j = s.cwAt j := rfl
@[simp] theorem State.cwAt_setModel' (j : Nat) (i : Nat) (x : ModelD) : (s.setModel i x).cwAt j = s.cwAt j := rfl
@[simp] theorem State.cwAt_setOv' (j : Nat) (i : Nat) (x : Overlay) : (s.setOv i x).cwAt j = s.cwAt j := rfl
@[simp] theorem State.cwAt_setSess' (j : Nat) (i : Nat) (x : Sess) : (s.setSess i x).cwAt j = s.cwAt j := rfl
@[simp] theorem State.cwAt_setTen' (j : Nat) (i : Nat) (x : Tenant) : (s.setTen i x).cwAt j = s.cwAt j := rfl
@[simp] theorem State.cwAt_setRefs' (j : Nat) (i n : Nat) : (s.setRefs i n).cwAt j = s.cwAt j := rfl
@[simp] theorem State.cwAt_setMbox' (j : Nat) (i : Nat) (x : MBox) : (s.setMbox i x).cwAt j = s.cwAt j := rfl
@[simp] theorem State.cwAt_setRing' (j : Nat) (i : Nat) (x : Ring) : (s.setRing i x).cwAt j = s.cwAt j := rfl
@[simp] theorem State.cwAt_setEventRing' (j : Nat) (x : Ring) : (s.setEventRing x).cwAt j = s.cwAt j := rfl
@[simp] theorem State.cwAt_useFree' (j : Nat) (n : Nat) : (s.useFree n).cwAt j = s.cwAt j := rfl
@[simp] theorem State.cwAt_sendSignal' (j : Nat) (m : SignalMsg) : (s.sendSignal m).cwAt j = s.cwAt j := rfl
@[simp] theorem State.cwAt_sendOp' (j : Nat) (o : CtrOp) : (s.sendOp o).cwAt j = s.cwAt j := rfl
@[simp] theorem State.cwAt_issued' (j : Nat) (i : Nat) : (s.issued i).cwAt j = s.cwAt j := rfl
@[simp] theorem State.cwAt_wakeFor' (j : Nat) (p : Nat → Blk → Bool) : (s.wakeFor p).cwAt j = s.cwAt j := rfl
@[simp] theorem State.cwAt_weldTouch' (j : Nat) (i o n : Nat) (w : Bool) : (s.weldTouch i o n w).cwAt j = s.cwAt j := rfl
@[simp] theorem State.cwAt_weldWrite' (j : Nat) (i o : Nat) (b : List Byte) (p : Bool) : (s.weldWrite i o b p).cwAt j = s.cwAt j := rfl
@[simp] theorem State.cwAt_log' (j : Nat) (c : W16) (d : Domain) (a0 a1 a2 a3 : W64) (x : EvExtra) : (s.log c d a0 a1 a2 a3 x).cwAt j = s.cwAt j := rfl
@[simp] theorem State.cwAt_detect' (j : Nat) (c : W16) (d : Domain) (a0 a1 a2 a3 : W64) (x : EvExtra) : (s.detect c d a0 a1 a2 a3 x).cwAt j = s.cwAt j := rfl
@[simp] theorem State.cwAt_outOfService' (j : Nat) (d : Domain) (x : EvExtra) : (s.outOfService d x).cwAt j = s.cwAt j := rfl
@[simp] theorem State.lotAt_setThr' (j : Nat) (i : Nat) (x : Thr) : (s.setThr i x).lotAt j = s.lotAt j := rfl
@[simp] theorem State.lotAt_setTile' (j : Nat) (i : Nat) (x : Tile) : (s.setTile i x).lotAt j = s.lotAt j := rfl
@[simp] theorem State.lotAt_setSub' (j : Nat) (i : Nat) (x : SubCh) : (s.setSub i x).lotAt j = s.lotAt j := rfl
@[simp] theorem State.lotAt_setBank' (j : Nat) (i : Nat) (x : Bank) : (s.setBank i x).lotAt j = s.lotAt j := rfl
@[simp] theorem State.lotAt_setStack' (j : Nat) (i : Nat) (x : Stack) : (s.setStack i x).lotAt j = s.lotAt j := rfl
@[simp] theorem State.lotAt_setUnit' (j : Nat) (i : Nat) (x : BUnit) : (s.setUnit i x).lotAt j = s.lotAt j := rfl
@[simp] theorem State.lotAt_setArr' (j : Nat) (i : Nat) (x : ArrayU) : (s.setArr i x).lotAt j = s.lotAt j := rfl
@[simp] theorem State.lotAt_setCtr' (j : Nat) (i : Nat) (x : Ctr) : (s.setCtr i x).lotAt j = s.lotAt j := rfl
@[simp] theorem State.lotAt_setChan' (j : Nat) (i : Nat) (x : Chan) : (s.setChan i x).lotAt j = s.lotAt j := rfl
@[simp] theorem State.lotAt_setCw' (j : Nat) (i : Nat) (x : CwPort) : (s.setCw i x).lotAt j = s.lotAt j := rfl
@[simp] theorem State.lotAt_setObj' (j : Nat) (i : Nat) (x : Obj) : (s.setObj i x).lotAt j = s.lotAt j := rfl
@[simp] theorem State.lotAt_setModel' (j : Nat) (i : Nat) (x : ModelD) : (s.setModel i x).lotAt j = s.lotAt j := rfl
@[simp] theorem State.lotAt_setOv' (j : Nat) (i : Nat) (x : Overlay) : (s.setOv i x).lotAt j = s.lotAt j := rfl
@[simp] theorem State.lotAt_setSess' (j : Nat) (i : Nat) (x : Sess) : (s.setSess i x).lotAt j = s.lotAt j := rfl
@[simp] theorem State.lotAt_setTen' (j : Nat) (i : Nat) (x : Tenant) : (s.setTen i x).lotAt j = s.lotAt j := rfl
@[simp] theorem State.lotAt_setRefs' (j : Nat) (i n : Nat) : (s.setRefs i n).lotAt j = s.lotAt j := rfl
@[simp] theorem State.lotAt_setMbox' (j : Nat) (i : Nat) (x : MBox) : (s.setMbox i x).lotAt j = s.lotAt j := rfl
@[simp] theorem State.lotAt_setRing' (j : Nat) (i : Nat) (x : Ring) : (s.setRing i x).lotAt j = s.lotAt j := rfl
@[simp] theorem State.lotAt_setEventRing' (j : Nat) (x : Ring) : (s.setEventRing x).lotAt j = s.lotAt j := rfl
@[simp] theorem State.lotAt_useFree' (j : Nat) (n : Nat) : (s.useFree n).lotAt j = s.lotAt j := rfl
@[simp] theorem State.lotAt_sendSignal' (j : Nat) (m : SignalMsg) : (s.sendSignal m).lotAt j = s.lotAt j := rfl
@[simp] theorem State.lotAt_sendOp' (j : Nat) (o : CtrOp) : (s.sendOp o).lotAt j = s.lotAt j := rfl
@[simp] theorem State.lotAt_issued' (j : Nat) (i : Nat) : (s.issued i).lotAt j = s.lotAt j := rfl
@[simp] theorem State.lotAt_wakeFor' (j : Nat) (p : Nat → Blk → Bool) : (s.wakeFor p).lotAt j = s.lotAt j := rfl
@[simp] theorem State.lotAt_weldTouch' (j : Nat) (i o n : Nat) (w : Bool) : (s.weldTouch i o n w).lotAt j = s.lotAt j := rfl
@[simp] theorem State.lotAt_weldWrite' (j : Nat) (i o : Nat) (b : List Byte) (p : Bool) : (s.weldWrite i o b p).lotAt j = s.lotAt j := rfl
@[simp] theorem State.lotAt_log' (j : Nat) (c : W16) (d : Domain) (a0 a1 a2 a3 : W64) (x : EvExtra) : (s.log c d a0 a1 a2 a3 x).lotAt j = s.lotAt j := rfl
@[simp] theorem State.lotAt_detect' (j : Nat) (c : W16) (d : Domain) (a0 a1 a2 a3 : W64) (x : EvExtra) : (s.detect c d a0 a1 a2 a3 x).lotAt j = s.lotAt j := rfl
@[simp] theorem State.lotAt_outOfService' (j : Nat) (d : Domain) (x : EvExtra) : (s.outOfService d x).lotAt j = s.lotAt j := rfl
@[simp] theorem State.objAt_setThr' (j : Nat) (i : Nat) (x : Thr) : (s.setThr i x).objAt j = s.objAt j := rfl
@[simp] theorem State.objAt_setTile' (j : Nat) (i : Nat) (x : Tile) : (s.setTile i x).objAt j = s.objAt j := rfl
@[simp] theorem State.objAt_setSub' (j : Nat) (i : Nat) (x : SubCh) : (s.setSub i x).objAt j = s.objAt j := rfl
@[simp] theorem State.objAt_setBank' (j : Nat) (i : Nat) (x : Bank) : (s.setBank i x).objAt j = s.objAt j := rfl
@[simp] theorem State.objAt_setStack' (j : Nat) (i : Nat) (x : Stack) : (s.setStack i x).objAt j = s.objAt j := rfl
@[simp] theorem State.objAt_setUnit' (j : Nat) (i : Nat) (x : BUnit) : (s.setUnit i x).objAt j = s.objAt j := rfl
@[simp] theorem State.objAt_setArr' (j : Nat) (i : Nat) (x : ArrayU) : (s.setArr i x).objAt j = s.objAt j := rfl
@[simp] theorem State.objAt_setCtr' (j : Nat) (i : Nat) (x : Ctr) : (s.setCtr i x).objAt j = s.objAt j := rfl
@[simp] theorem State.objAt_setChan' (j : Nat) (i : Nat) (x : Chan) : (s.setChan i x).objAt j = s.objAt j := rfl
@[simp] theorem State.objAt_setCw' (j : Nat) (i : Nat) (x : CwPort) : (s.setCw i x).objAt j = s.objAt j := rfl
@[simp] theorem State.objAt_setLot' (j : Nat) (i : Nat) (x : LotRec) : (s.setLot i x).objAt j = s.objAt j := rfl
@[simp] theorem State.objAt_setModel' (j : Nat) (i : Nat) (x : ModelD) : (s.setModel i x).objAt j = s.objAt j := rfl
@[simp] theorem State.objAt_setOv' (j : Nat) (i : Nat) (x : Overlay) : (s.setOv i x).objAt j = s.objAt j := rfl
@[simp] theorem State.objAt_setSess' (j : Nat) (i : Nat) (x : Sess) : (s.setSess i x).objAt j = s.objAt j := rfl
@[simp] theorem State.objAt_setTen' (j : Nat) (i : Nat) (x : Tenant) : (s.setTen i x).objAt j = s.objAt j := rfl
@[simp] theorem State.objAt_setRefs' (j : Nat) (i n : Nat) : (s.setRefs i n).objAt j = s.objAt j := rfl
@[simp] theorem State.objAt_setMbox' (j : Nat) (i : Nat) (x : MBox) : (s.setMbox i x).objAt j = s.objAt j := rfl
@[simp] theorem State.objAt_setRing' (j : Nat) (i : Nat) (x : Ring) : (s.setRing i x).objAt j = s.objAt j := rfl
@[simp] theorem State.objAt_setEventRing' (j : Nat) (x : Ring) : (s.setEventRing x).objAt j = s.objAt j := rfl
@[simp] theorem State.objAt_useFree' (j : Nat) (n : Nat) : (s.useFree n).objAt j = s.objAt j := rfl
@[simp] theorem State.objAt_sendSignal' (j : Nat) (m : SignalMsg) : (s.sendSignal m).objAt j = s.objAt j := rfl
@[simp] theorem State.objAt_sendOp' (j : Nat) (o : CtrOp) : (s.sendOp o).objAt j = s.objAt j := rfl
@[simp] theorem State.objAt_issued' (j : Nat) (i : Nat) : (s.issued i).objAt j = s.objAt j := rfl
@[simp] theorem State.objAt_wakeFor' (j : Nat) (p : Nat → Blk → Bool) : (s.wakeFor p).objAt j = s.objAt j := rfl
@[simp] theorem State.objAt_weldTouch' (j : Nat) (i o n : Nat) (w : Bool) : (s.weldTouch i o n w).objAt j = s.objAt j := rfl
@[simp] theorem State.objAt_weldWrite' (j : Nat) (i o : Nat) (b : List Byte) (p : Bool) : (s.weldWrite i o b p).objAt j = s.objAt j := rfl
@[simp] theorem State.objAt_log' (j : Nat) (c : W16) (d : Domain) (a0 a1 a2 a3 : W64) (x : EvExtra) : (s.log c d a0 a1 a2 a3 x).objAt j = s.objAt j := rfl
@[simp] theorem State.objAt_detect' (j : Nat) (c : W16) (d : Domain) (a0 a1 a2 a3 : W64) (x : EvExtra) : (s.detect c d a0 a1 a2 a3 x).objAt j = s.objAt j := rfl
@[simp] theorem State.objAt_outOfService' (j : Nat) (d : Domain) (x : EvExtra) : (s.outOfService d x).objAt j = s.objAt j := rfl
@[simp] theorem State.modelAt_setThr' (j : Nat) (i : Nat) (x : Thr) : (s.setThr i x).modelAt j = s.modelAt j := rfl
@[simp] theorem State.modelAt_setTile' (j : Nat) (i : Nat) (x : Tile) : (s.setTile i x).modelAt j = s.modelAt j := rfl
@[simp] theorem State.modelAt_setSub' (j : Nat) (i : Nat) (x : SubCh) : (s.setSub i x).modelAt j = s.modelAt j := rfl
@[simp] theorem State.modelAt_setBank' (j : Nat) (i : Nat) (x : Bank) : (s.setBank i x).modelAt j = s.modelAt j := rfl
@[simp] theorem State.modelAt_setStack' (j : Nat) (i : Nat) (x : Stack) : (s.setStack i x).modelAt j = s.modelAt j := rfl
@[simp] theorem State.modelAt_setUnit' (j : Nat) (i : Nat) (x : BUnit) : (s.setUnit i x).modelAt j = s.modelAt j := rfl
@[simp] theorem State.modelAt_setArr' (j : Nat) (i : Nat) (x : ArrayU) : (s.setArr i x).modelAt j = s.modelAt j := rfl
@[simp] theorem State.modelAt_setCtr' (j : Nat) (i : Nat) (x : Ctr) : (s.setCtr i x).modelAt j = s.modelAt j := rfl
@[simp] theorem State.modelAt_setChan' (j : Nat) (i : Nat) (x : Chan) : (s.setChan i x).modelAt j = s.modelAt j := rfl
@[simp] theorem State.modelAt_setCw' (j : Nat) (i : Nat) (x : CwPort) : (s.setCw i x).modelAt j = s.modelAt j := rfl
@[simp] theorem State.modelAt_setLot' (j : Nat) (i : Nat) (x : LotRec) : (s.setLot i x).modelAt j = s.modelAt j := rfl
@[simp] theorem State.modelAt_setObj' (j : Nat) (i : Nat) (x : Obj) : (s.setObj i x).modelAt j = s.modelAt j := rfl
@[simp] theorem State.modelAt_setOv' (j : Nat) (i : Nat) (x : Overlay) : (s.setOv i x).modelAt j = s.modelAt j := rfl
@[simp] theorem State.modelAt_setSess' (j : Nat) (i : Nat) (x : Sess) : (s.setSess i x).modelAt j = s.modelAt j := rfl
@[simp] theorem State.modelAt_setTen' (j : Nat) (i : Nat) (x : Tenant) : (s.setTen i x).modelAt j = s.modelAt j := rfl
@[simp] theorem State.modelAt_setRefs' (j : Nat) (i n : Nat) : (s.setRefs i n).modelAt j = s.modelAt j := rfl
@[simp] theorem State.modelAt_setMbox' (j : Nat) (i : Nat) (x : MBox) : (s.setMbox i x).modelAt j = s.modelAt j := rfl
@[simp] theorem State.modelAt_setRing' (j : Nat) (i : Nat) (x : Ring) : (s.setRing i x).modelAt j = s.modelAt j := rfl
@[simp] theorem State.modelAt_setEventRing' (j : Nat) (x : Ring) : (s.setEventRing x).modelAt j = s.modelAt j := rfl
@[simp] theorem State.modelAt_useFree' (j : Nat) (n : Nat) : (s.useFree n).modelAt j = s.modelAt j := rfl
@[simp] theorem State.modelAt_sendSignal' (j : Nat) (m : SignalMsg) : (s.sendSignal m).modelAt j = s.modelAt j := rfl
@[simp] theorem State.modelAt_sendOp' (j : Nat) (o : CtrOp) : (s.sendOp o).modelAt j = s.modelAt j := rfl
@[simp] theorem State.modelAt_issued' (j : Nat) (i : Nat) : (s.issued i).modelAt j = s.modelAt j := rfl
@[simp] theorem State.modelAt_wakeFor' (j : Nat) (p : Nat → Blk → Bool) : (s.wakeFor p).modelAt j = s.modelAt j := rfl
@[simp] theorem State.modelAt_weldTouch' (j : Nat) (i o n : Nat) (w : Bool) : (s.weldTouch i o n w).modelAt j = s.modelAt j := rfl
@[simp] theorem State.modelAt_weldWrite' (j : Nat) (i o : Nat) (b : List Byte) (p : Bool) : (s.weldWrite i o b p).modelAt j = s.modelAt j := rfl
@[simp] theorem State.modelAt_log' (j : Nat) (c : W16) (d : Domain) (a0 a1 a2 a3 : W64) (x : EvExtra) : (s.log c d a0 a1 a2 a3 x).modelAt j = s.modelAt j := rfl
@[simp] theorem State.modelAt_detect' (j : Nat) (c : W16) (d : Domain) (a0 a1 a2 a3 : W64) (x : EvExtra) : (s.detect c d a0 a1 a2 a3 x).modelAt j = s.modelAt j := rfl
@[simp] theorem State.modelAt_outOfService' (j : Nat) (d : Domain) (x : EvExtra) : (s.outOfService d x).modelAt j = s.modelAt j := rfl
@[simp] theorem State.sessAt_setThr' (j : Nat) (i : Nat) (x : Thr) : (s.setThr i x).sessAt j = s.sessAt j := rfl
@[simp] theorem State.sessAt_setTile' (j : Nat) (i : Nat) (x : Tile) : (s.setTile i x).sessAt j = s.sessAt j := rfl
@[simp] theorem State.sessAt_setSub' (j : Nat) (i : Nat) (x : SubCh) : (s.setSub i x).sessAt j = s.sessAt j := rfl
@[simp] theorem State.sessAt_setBank' (j : Nat) (i : Nat) (x : Bank) : (s.setBank i x).sessAt j = s.sessAt j := rfl
@[simp] theorem State.sessAt_setStack' (j : Nat) (i : Nat) (x : Stack) : (s.setStack i x).sessAt j = s.sessAt j := rfl
@[simp] theorem State.sessAt_setUnit' (j : Nat) (i : Nat) (x : BUnit) : (s.setUnit i x).sessAt j = s.sessAt j := rfl
@[simp] theorem State.sessAt_setArr' (j : Nat) (i : Nat) (x : ArrayU) : (s.setArr i x).sessAt j = s.sessAt j := rfl
@[simp] theorem State.sessAt_setCtr' (j : Nat) (i : Nat) (x : Ctr) : (s.setCtr i x).sessAt j = s.sessAt j := rfl
@[simp] theorem State.sessAt_setChan' (j : Nat) (i : Nat) (x : Chan) : (s.setChan i x).sessAt j = s.sessAt j := rfl
@[simp] theorem State.sessAt_setCw' (j : Nat) (i : Nat) (x : CwPort) : (s.setCw i x).sessAt j = s.sessAt j := rfl
@[simp] theorem State.sessAt_setLot' (j : Nat) (i : Nat) (x : LotRec) : (s.setLot i x).sessAt j = s.sessAt j := rfl
@[simp] theorem State.sessAt_setObj' (j : Nat) (i : Nat) (x : Obj) : (s.setObj i x).sessAt j = s.sessAt j := rfl
@[simp] theorem State.sessAt_setModel' (j : Nat) (i : Nat) (x : ModelD) : (s.setModel i x).sessAt j = s.sessAt j := rfl
@[simp] theorem State.sessAt_setOv' (j : Nat) (i : Nat) (x : Overlay) : (s.setOv i x).sessAt j = s.sessAt j := rfl
@[simp] theorem State.sessAt_setTen' (j : Nat) (i : Nat) (x : Tenant) : (s.setTen i x).sessAt j = s.sessAt j := rfl
@[simp] theorem State.sessAt_setRefs' (j : Nat) (i n : Nat) : (s.setRefs i n).sessAt j = s.sessAt j := rfl
@[simp] theorem State.sessAt_setMbox' (j : Nat) (i : Nat) (x : MBox) : (s.setMbox i x).sessAt j = s.sessAt j := rfl
@[simp] theorem State.sessAt_setRing' (j : Nat) (i : Nat) (x : Ring) : (s.setRing i x).sessAt j = s.sessAt j := rfl
@[simp] theorem State.sessAt_setEventRing' (j : Nat) (x : Ring) : (s.setEventRing x).sessAt j = s.sessAt j := rfl
@[simp] theorem State.sessAt_useFree' (j : Nat) (n : Nat) : (s.useFree n).sessAt j = s.sessAt j := rfl
@[simp] theorem State.sessAt_sendSignal' (j : Nat) (m : SignalMsg) : (s.sendSignal m).sessAt j = s.sessAt j := rfl
@[simp] theorem State.sessAt_sendOp' (j : Nat) (o : CtrOp) : (s.sendOp o).sessAt j = s.sessAt j := rfl
@[simp] theorem State.sessAt_issued' (j : Nat) (i : Nat) : (s.issued i).sessAt j = s.sessAt j := rfl
@[simp] theorem State.sessAt_wakeFor' (j : Nat) (p : Nat → Blk → Bool) : (s.wakeFor p).sessAt j = s.sessAt j := rfl
@[simp] theorem State.sessAt_weldTouch' (j : Nat) (i o n : Nat) (w : Bool) : (s.weldTouch i o n w).sessAt j = s.sessAt j := rfl
@[simp] theorem State.sessAt_weldWrite' (j : Nat) (i o : Nat) (b : List Byte) (p : Bool) : (s.weldWrite i o b p).sessAt j = s.sessAt j := rfl
@[simp] theorem State.sessAt_log' (j : Nat) (c : W16) (d : Domain) (a0 a1 a2 a3 : W64) (x : EvExtra) : (s.log c d a0 a1 a2 a3 x).sessAt j = s.sessAt j := rfl
@[simp] theorem State.sessAt_detect' (j : Nat) (c : W16) (d : Domain) (a0 a1 a2 a3 : W64) (x : EvExtra) : (s.detect c d a0 a1 a2 a3 x).sessAt j = s.sessAt j := rfl
@[simp] theorem State.sessAt_outOfService' (j : Nat) (d : Domain) (x : EvExtra) : (s.outOfService d x).sessAt j = s.sessAt j := rfl
@[simp] theorem State.ten_setThr' (j : Nat) (i : Nat) (x : Thr) : (s.setThr i x).ten j = s.ten j := rfl
@[simp] theorem State.ten_setTile' (j : Nat) (i : Nat) (x : Tile) : (s.setTile i x).ten j = s.ten j := rfl
@[simp] theorem State.ten_setSub' (j : Nat) (i : Nat) (x : SubCh) : (s.setSub i x).ten j = s.ten j := rfl
@[simp] theorem State.ten_setBank' (j : Nat) (i : Nat) (x : Bank) : (s.setBank i x).ten j = s.ten j := rfl
@[simp] theorem State.ten_setStack' (j : Nat) (i : Nat) (x : Stack) : (s.setStack i x).ten j = s.ten j := rfl
@[simp] theorem State.ten_setUnit' (j : Nat) (i : Nat) (x : BUnit) : (s.setUnit i x).ten j = s.ten j := rfl
@[simp] theorem State.ten_setArr' (j : Nat) (i : Nat) (x : ArrayU) : (s.setArr i x).ten j = s.ten j := rfl
@[simp] theorem State.ten_setCtr' (j : Nat) (i : Nat) (x : Ctr) : (s.setCtr i x).ten j = s.ten j := rfl
@[simp] theorem State.ten_setChan' (j : Nat) (i : Nat) (x : Chan) : (s.setChan i x).ten j = s.ten j := rfl
@[simp] theorem State.ten_setCw' (j : Nat) (i : Nat) (x : CwPort) : (s.setCw i x).ten j = s.ten j := rfl
@[simp] theorem State.ten_setLot' (j : Nat) (i : Nat) (x : LotRec) : (s.setLot i x).ten j = s.ten j := rfl
@[simp] theorem State.ten_setObj' (j : Nat) (i : Nat) (x : Obj) : (s.setObj i x).ten j = s.ten j := rfl
@[simp] theorem State.ten_setModel' (j : Nat) (i : Nat) (x : ModelD) : (s.setModel i x).ten j = s.ten j := rfl
@[simp] theorem State.ten_setOv' (j : Nat) (i : Nat) (x : Overlay) : (s.setOv i x).ten j = s.ten j := rfl
@[simp] theorem State.ten_setSess' (j : Nat) (i : Nat) (x : Sess) : (s.setSess i x).ten j = s.ten j := rfl
@[simp] theorem State.ten_setRefs' (j : Nat) (i n : Nat) : (s.setRefs i n).ten j = s.ten j := rfl
@[simp] theorem State.ten_setMbox' (j : Nat) (i : Nat) (x : MBox) : (s.setMbox i x).ten j = s.ten j := rfl
@[simp] theorem State.ten_setRing' (j : Nat) (i : Nat) (x : Ring) : (s.setRing i x).ten j = s.ten j := rfl
@[simp] theorem State.ten_setEventRing' (j : Nat) (x : Ring) : (s.setEventRing x).ten j = s.ten j := rfl
@[simp] theorem State.ten_useFree' (j : Nat) (n : Nat) : (s.useFree n).ten j = s.ten j := rfl
@[simp] theorem State.ten_sendSignal' (j : Nat) (m : SignalMsg) : (s.sendSignal m).ten j = s.ten j := rfl
@[simp] theorem State.ten_sendOp' (j : Nat) (o : CtrOp) : (s.sendOp o).ten j = s.ten j := rfl
@[simp] theorem State.ten_issued' (j : Nat) (i : Nat) : (s.issued i).ten j = s.ten j := rfl
@[simp] theorem State.ten_wakeFor' (j : Nat) (p : Nat → Blk → Bool) : (s.wakeFor p).ten j = s.ten j := rfl
@[simp] theorem State.ten_weldTouch' (j : Nat) (i o n : Nat) (w : Bool) : (s.weldTouch i o n w).ten j = s.ten j := rfl
@[simp] theorem State.ten_weldWrite' (j : Nat) (i o : Nat) (b : List Byte) (p : Bool) : (s.weldWrite i o b p).ten j = s.ten j := rfl
@[simp] theorem State.ten_log' (j : Nat) (c : W16) (d : Domain) (a0 a1 a2 a3 : W64) (x : EvExtra) : (s.log c d a0 a1 a2 a3 x).ten j = s.ten j := rfl
@[simp] theorem State.ten_detect' (j : Nat) (c : W16) (d : Domain) (a0 a1 a2 a3 : W64) (x : EvExtra) : (s.detect c d a0 a1 a2 a3 x).ten j = s.ten j := rfl
@[simp] theorem State.ten_outOfService' (j : Nat) (d : Domain) (x : EvExtra) : (s.outOfService d x).ten j = s.ten j := rfl
@[simp] theorem State.mbox_setThr' (j : Nat) (i : Nat) (x : Thr) : (s.setThr i x).mbox j = s.mbox j := rfl
@[simp] theorem State.mbox_setTile' (j : Nat) (i : Nat) (x : Tile) : (s.setTile i x).mbox j = s.mbox j := rfl
@[simp] theorem State.mbox_setSub' (j : Nat) (i : Nat) (x : SubCh) : (s.setSub i x).mbox j = s.mbox j := rfl
@[simp] theorem State.mbox_setBank' (j : Nat) (i : Nat) (x : Bank) : (s.setBank i x).mbox j = s.mbox j := rfl
@[simp] theorem State.mbox_setStack' (j : Nat) (i : Nat) (x : Stack) : (s.setStack i x).mbox j = s.mbox j := rfl
@[simp] theorem State.mbox_setUnit' (j : Nat) (i : Nat) (x : BUnit) : (s.setUnit i x).mbox j = s.mbox j := rfl
@[simp] theorem State.mbox_setArr' (j : Nat) (i : Nat) (x : ArrayU) : (s.setArr i x).mbox j = s.mbox j := rfl
@[simp] theorem State.mbox_setCtr' (j : Nat) (i : Nat) (x : Ctr) : (s.setCtr i x).mbox j = s.mbox j := rfl
@[simp] theorem State.mbox_setChan' (j : Nat) (i : Nat) (x : Chan) : (s.setChan i x).mbox j = s.mbox j := rfl
@[simp] theorem State.mbox_setCw' (j : Nat) (i : Nat) (x : CwPort) : (s.setCw i x).mbox j = s.mbox j := rfl
@[simp] theorem State.mbox_setLot' (j : Nat) (i : Nat) (x : LotRec) : (s.setLot i x).mbox j = s.mbox j := rfl
@[simp] theorem State.mbox_setObj' (j : Nat) (i : Nat) (x : Obj) : (s.setObj i x).mbox j = s.mbox j := rfl
@[simp] theorem State.mbox_setModel' (j : Nat) (i : Nat) (x : ModelD) : (s.setModel i x).mbox j = s.mbox j := rfl
@[simp] theorem State.mbox_setOv' (j : Nat) (i : Nat) (x : Overlay) : (s.setOv i x).mbox j = s.mbox j := rfl
@[simp] theorem State.mbox_setSess' (j : Nat) (i : Nat) (x : Sess) : (s.setSess i x).mbox j = s.mbox j := rfl
@[simp] theorem State.mbox_setTen' (j : Nat) (i : Nat) (x : Tenant) : (s.setTen i x).mbox j = s.mbox j := rfl
@[simp] theorem State.mbox_setRefs' (j : Nat) (i n : Nat) : (s.setRefs i n).mbox j = s.mbox j := rfl
@[simp] theorem State.mbox_setRing' (j : Nat) (i : Nat) (x : Ring) : (s.setRing i x).mbox j = s.mbox j := rfl
@[simp] theorem State.mbox_setEventRing' (j : Nat) (x : Ring) : (s.setEventRing x).mbox j = s.mbox j := rfl
@[simp] theorem State.mbox_useFree' (j : Nat) (n : Nat) : (s.useFree n).mbox j = s.mbox j := rfl
@[simp] theorem State.mbox_sendSignal' (j : Nat) (m : SignalMsg) : (s.sendSignal m).mbox j = s.mbox j := rfl
@[simp] theorem State.mbox_sendOp' (j : Nat) (o : CtrOp) : (s.sendOp o).mbox j = s.mbox j := rfl
@[simp] theorem State.mbox_issued' (j : Nat) (i : Nat) : (s.issued i).mbox j = s.mbox j := rfl
@[simp] theorem State.mbox_wakeFor' (j : Nat) (p : Nat → Blk → Bool) : (s.wakeFor p).mbox j = s.mbox j := rfl
@[simp] theorem State.mbox_weldTouch' (j : Nat) (i o n : Nat) (w : Bool) : (s.weldTouch i o n w).mbox j = s.mbox j := rfl
@[simp] theorem State.mbox_weldWrite' (j : Nat) (i o : Nat) (b : List Byte) (p : Bool) : (s.weldWrite i o b p).mbox j = s.mbox j := rfl
@[simp] theorem State.mbox_log' (j : Nat) (c : W16) (d : Domain) (a0 a1 a2 a3 : W64) (x : EvExtra) : (s.log c d a0 a1 a2 a3 x).mbox j = s.mbox j := rfl
@[simp] theorem State.mbox_detect' (j : Nat) (c : W16) (d : Domain) (a0 a1 a2 a3 : W64) (x : EvExtra) : (s.detect c d a0 a1 a2 a3 x).mbox j = s.mbox j := rfl
@[simp] theorem State.mbox_outOfService' (j : Nat) (d : Domain) (x : EvExtra) : (s.outOfService d x).mbox j = s.mbox j := rfl
@[simp] theorem State.ovAt_setThr' (j : Nat) (i : Nat) (x : Thr) : (s.setThr i x).ovAt j = s.ovAt j := rfl
@[simp] theorem State.ovAt_setTile' (j : Nat) (i : Nat) (x : Tile) : (s.setTile i x).ovAt j = s.ovAt j := rfl
@[simp] theorem State.ovAt_setSub' (j : Nat) (i : Nat) (x : SubCh) : (s.setSub i x).ovAt j = s.ovAt j := rfl
@[simp] theorem State.ovAt_setBank' (j : Nat) (i : Nat) (x : Bank) : (s.setBank i x).ovAt j = s.ovAt j := rfl
@[simp] theorem State.ovAt_setStack' (j : Nat) (i : Nat) (x : Stack) : (s.setStack i x).ovAt j = s.ovAt j := rfl
@[simp] theorem State.ovAt_setUnit' (j : Nat) (i : Nat) (x : BUnit) : (s.setUnit i x).ovAt j = s.ovAt j := rfl
@[simp] theorem State.ovAt_setArr' (j : Nat) (i : Nat) (x : ArrayU) : (s.setArr i x).ovAt j = s.ovAt j := rfl
@[simp] theorem State.ovAt_setCtr' (j : Nat) (i : Nat) (x : Ctr) : (s.setCtr i x).ovAt j = s.ovAt j := rfl
@[simp] theorem State.ovAt_setChan' (j : Nat) (i : Nat) (x : Chan) : (s.setChan i x).ovAt j = s.ovAt j := rfl
@[simp] theorem State.ovAt_setCw' (j : Nat) (i : Nat) (x : CwPort) : (s.setCw i x).ovAt j = s.ovAt j := rfl
@[simp] theorem State.ovAt_setLot' (j : Nat) (i : Nat) (x : LotRec) : (s.setLot i x).ovAt j = s.ovAt j := rfl
@[simp] theorem State.ovAt_setObj' (j : Nat) (i : Nat) (x : Obj) : (s.setObj i x).ovAt j = s.ovAt j := rfl
@[simp] theorem State.ovAt_setModel' (j : Nat) (i : Nat) (x : ModelD) : (s.setModel i x).ovAt j = s.ovAt j := rfl
@[simp] theorem State.ovAt_setSess' (j : Nat) (i : Nat) (x : Sess) : (s.setSess i x).ovAt j = s.ovAt j := rfl
@[simp] theorem State.ovAt_setTen' (j : Nat) (i : Nat) (x : Tenant) : (s.setTen i x).ovAt j = s.ovAt j := rfl
@[simp] theorem State.ovAt_setRefs' (j : Nat) (i n : Nat) : (s.setRefs i n).ovAt j = s.ovAt j := rfl
@[simp] theorem State.ovAt_setMbox' (j : Nat) (i : Nat) (x : MBox) : (s.setMbox i x).ovAt j = s.ovAt j := rfl
@[simp] theorem State.ovAt_setRing' (j : Nat) (i : Nat) (x : Ring) : (s.setRing i x).ovAt j = s.ovAt j := rfl
@[simp] theorem State.ovAt_setEventRing' (j : Nat) (x : Ring) : (s.setEventRing x).ovAt j = s.ovAt j := rfl
@[simp] theorem State.ovAt_useFree' (j : Nat) (n : Nat) : (s.useFree n).ovAt j = s.ovAt j := rfl
@[simp] theorem State.ovAt_sendSignal' (j : Nat) (m : SignalMsg) : (s.sendSignal m).ovAt j = s.ovAt j := rfl
@[simp] theorem State.ovAt_sendOp' (j : Nat) (o : CtrOp) : (s.sendOp o).ovAt j = s.ovAt j := rfl
@[simp] theorem State.ovAt_issued' (j : Nat) (i : Nat) : (s.issued i).ovAt j = s.ovAt j := rfl
@[simp] theorem State.ovAt_wakeFor' (j : Nat) (p : Nat → Blk → Bool) : (s.wakeFor p).ovAt j = s.ovAt j := rfl
@[simp] theorem State.ovAt_weldTouch' (j : Nat) (i o n : Nat) (w : Bool) : (s.weldTouch i o n w).ovAt j = s.ovAt j := rfl
@[simp] theorem State.ovAt_weldWrite' (j : Nat) (i o : Nat) (b : List Byte) (p : Bool) : (s.weldWrite i o b p).ovAt j = s.ovAt j := rfl
@[simp] theorem State.ovAt_log' (j : Nat) (c : W16) (d : Domain) (a0 a1 a2 a3 : W64) (x : EvExtra) : (s.log c d a0 a1 a2 a3 x).ovAt j = s.ovAt j := rfl
@[simp] theorem State.ovAt_detect' (j : Nat) (c : W16) (d : Domain) (a0 a1 a2 a3 : W64) (x : EvExtra) : (s.detect c d a0 a1 a2 a3 x).ovAt j = s.ovAt j := rfl
@[simp] theorem State.ovAt_outOfService' (j : Nat) (d : Domain) (x : EvExtra) : (s.outOfService d x).ovAt j = s.ovAt j := rfl

end Sys2Proof.Machine
end

