-- ==== Sys2Proof/Laws/Parts.lean ====
section
/-! SUPPORT. Which parts of the state an operation may change: `s.off k` forgets the parts named by `k` and the count of free values; an operation
that changes only parts of `k` keeps it (Laws/Frame.lean). The queue is never forgotten. -/
namespace Sys2Proof.Machine

open Sys2Proof

/-- A set of parts of the state. -/
structure Parts where
  time : Bool := false
  dr : Bool := false
  th : Bool := false
  str : Bool := false
  tile : Bool := false
  sy : Bool := false
  pages : Bool := false
  arr : Bool := false
  unit : Bool := false
  fl : Bool := false
  pw : Bool := false
  dm : Bool := false
  ti : Bool := false
  cw : Bool := false
  ho : Bool := false
  sv : Bool := false
  bt : Bool := false
  md : Bool := false

/-- Inclusion. -/
def Parts.le (a b : Parts) : Bool :=
  (!a.time || b.time) && (!a.dr || b.dr) && (!a.th || b.th) && (!a.str || b.str) && (!a.tile || b.tile) && (!a.sy || b.sy) &&
  (!a.pages || b.pages) && (!a.arr || b.arr) && (!a.unit || b.unit) && (!a.fl || b.fl) && (!a.pw || b.pw) && (!a.dm || b.dm) &&
  (!a.ti || b.ti) && (!a.cw || b.cw) && (!a.ho || b.ho) && (!a.sv || b.sv) && (!a.bt || b.bt) && (!a.md || b.md)

/-- The state with the parts of `k` and the count of free values forgotten. -/
def State.off (k : Parts) (s : State) : State :=
  { pending := s.pending, freeCount := 0
    time := bif k.time then State.reset.time else s.time, dr := bif k.dr then State.reset.dr else s.dr
    th := bif k.th then State.reset.th else s.th, str := bif k.str then State.reset.str else s.str
    tile := bif k.tile then State.reset.tile else s.tile, sy := bif k.sy then State.reset.sy else s.sy
    pages := bif k.pages then State.reset.pages else s.pages, arr := bif k.arr then State.reset.arr else s.arr
    unit := bif k.unit then State.reset.unit else s.unit, fl := bif k.fl then State.reset.fl else s.fl
    pw := bif k.pw then State.reset.pw else s.pw, dm := bif k.dm then State.reset.dm else s.dm
    ti := bif k.ti then State.reset.ti else s.ti, cw := bif k.cw then State.reset.cw else s.cw
    ho := bif k.ho then State.reset.ho else s.ho, sv := bif k.sv then State.reset.sv else s.sv
    bt := bif k.bt then State.reset.bt else s.bt, md := bif k.md then State.reset.md else s.md }

@[simp] theorem State.off_pending (k : Parts) (s : State) : (s.off k).pending = s.pending := rfl

/-! What operations that keep `off` keep. -/

theorem State.pending_of_off {k : Parts} {s t : State} (h : s.off k = t.off k) : s.pending = t.pending := by
  simpa using congrArg State.pending h
theorem State.time_of_off {k : Parts} {s t : State} (h : s.off k = t.off k) (hk : k.time = false := by rfl) : s.time = t.time := by
  simpa [State.off, hk] using congrArg State.time h
theorem State.dr_of_off {k : Parts} {s t : State} (h : s.off k = t.off k) (hk : k.dr = false := by rfl) : s.dr = t.dr := by
  simpa [State.off, hk] using congrArg State.dr h
theorem State.th_of_off {k : Parts} {s t : State} (h : s.off k = t.off k) (hk : k.th = false := by rfl) : s.th = t.th := by
  simpa [State.off, hk] using congrArg State.th h
theorem State.str_of_off {k : Parts} {s t : State} (h : s.off k = t.off k) (hk : k.str = false := by rfl) : s.str = t.str := by
  simpa [State.off, hk] using congrArg State.str h
theorem State.tile_of_off {k : Parts} {s t : State} (h : s.off k = t.off k) (hk : k.tile = false := by rfl) : s.tile = t.tile := by
  simpa [State.off, hk] using congrArg State.tile h
theorem State.sy_of_off {k : Parts} {s t : State} (h : s.off k = t.off k) (hk : k.sy = false := by rfl) : s.sy = t.sy := by
  simpa [State.off, hk] using congrArg State.sy h
theorem State.pages_of_off {k : Parts} {s t : State} (h : s.off k = t.off k) (hk : k.pages = false := by rfl) : s.pages = t.pages := by
  simpa [State.off, hk] using congrArg State.pages h
theorem State.arr_of_off {k : Parts} {s t : State} (h : s.off k = t.off k) (hk : k.arr = false := by rfl) : s.arr = t.arr := by
  simpa [State.off, hk] using congrArg State.arr h
theorem State.unit_of_off {k : Parts} {s t : State} (h : s.off k = t.off k) (hk : k.unit = false := by rfl) : s.unit = t.unit := by
  simpa [State.off, hk] using congrArg State.unit h
theorem State.fl_of_off {k : Parts} {s t : State} (h : s.off k = t.off k) (hk : k.fl = false := by rfl) : s.fl = t.fl := by
  simpa [State.off, hk] using congrArg State.fl h
theorem State.pw_of_off {k : Parts} {s t : State} (h : s.off k = t.off k) (hk : k.pw = false := by rfl) : s.pw = t.pw := by
  simpa [State.off, hk] using congrArg State.pw h
theorem State.dm_of_off {k : Parts} {s t : State} (h : s.off k = t.off k) (hk : k.dm = false := by rfl) : s.dm = t.dm := by
  simpa [State.off, hk] using congrArg State.dm h
theorem State.ti_of_off {k : Parts} {s t : State} (h : s.off k = t.off k) (hk : k.ti = false := by rfl) : s.ti = t.ti := by
  simpa [State.off, hk] using congrArg State.ti h
theorem State.cw_of_off {k : Parts} {s t : State} (h : s.off k = t.off k) (hk : k.cw = false := by rfl) : s.cw = t.cw := by
  simpa [State.off, hk] using congrArg State.cw h
theorem State.ho_of_off {k : Parts} {s t : State} (h : s.off k = t.off k) (hk : k.ho = false := by rfl) : s.ho = t.ho := by
  simpa [State.off, hk] using congrArg State.ho h
theorem State.sv_of_off {k : Parts} {s t : State} (h : s.off k = t.off k) (hk : k.sv = false := by rfl) : s.sv = t.sv := by
  simpa [State.off, hk] using congrArg State.sv h
theorem State.bt_of_off {k : Parts} {s t : State} (h : s.off k = t.off k) (hk : k.bt = false := by rfl) : s.bt = t.bt := by
  simpa [State.off, hk] using congrArg State.bt h
theorem State.md_of_off {k : Parts} {s t : State} (h : s.off k = t.off k) (hk : k.md = false := by rfl) : s.md = t.md := by
  simpa [State.off, hk] using congrArg State.md h

theorem off_pick {α : Type} {a b : Bool} {r x : α} (h : (!a || b) = true) : (bif b then r else bif a then r else x) = bif b then r else x := by
  cases a <;> cases b <;> simp at h ⊢

/-- Forgetting more keeps what forgetting less keeps. -/
theorem State.off_off {a b : Parts} (s : State) (h : a.le b = true) : (s.off a).off b = s.off b := by
  simp only [Parts.le, Bool.and_eq_true] at h
  simp only [State.off, State.mk.injEq, true_and]
  refine ⟨off_pick ?_, off_pick ?_, off_pick ?_, off_pick ?_, off_pick ?_, off_pick ?_, off_pick ?_, off_pick ?_, off_pick ?_, off_pick ?_, off_pick ?_, off_pick ?_, off_pick ?_, off_pick ?_, off_pick ?_, off_pick ?_, off_pick ?_, off_pick ?_⟩ <;> simp only [h]

theorem State.off_mono {a b : Parts} {s t : State} (h : a.le b = true) (e : s.off a = t.off a) : s.off b = t.off b := by
  rw [← State.off_off s h, e, State.off_off t h]

/-! Updates. -/

theorem State.off_with_time {k : Parts} {s : State} (x0 : W64) (h0 : k.time = true) : State.off k { s with time := x0 } = s.off k := by
  simp [State.off, h0]
theorem State.off_with_dr {k : Parts} {s : State} (x0 : Dram) (h0 : k.dr = true) : State.off k { s with dr := x0 } = s.off k := by
  simp [State.off, h0]
theorem State.off_with_th {k : Parts} {s : State} (x0 : Threads) (h0 : k.th = true) : State.off k { s with th := x0 } = s.off k := by
  simp [State.off, h0]
theorem State.off_with_str {k : Parts} {s : State} (x0 : Streets) (h0 : k.str = true) : State.off k { s with str := x0 } = s.off k := by
  simp [State.off, h0]
theorem State.off_with_tile {k : Parts} {s : State} (x0 : Tab Tile) (h0 : k.tile = true) : State.off k { s with tile := x0 } = s.off k := by
  simp [State.off, h0]
theorem State.off_with_sy {k : Parts} {s : State} (x0 : Sync) (h0 : k.sy = true) : State.off k { s with sy := x0 } = s.off k := by
  simp [State.off, h0]
theorem State.off_with_pages {k : Parts} {s : State} (x0 : Tab W64) (h0 : k.pages = true) : State.off k { s with pages := x0 } = s.off k := by
  simp [State.off, h0]
theorem State.off_with_arr {k : Parts} {s : State} (x0 : Tab ArrayU) (h0 : k.arr = true) : State.off k { s with arr := x0 } = s.off k := by
  simp [State.off, h0]
theorem State.off_with_unit {k : Parts} {s : State} (x0 : Tab BUnit) (h0 : k.unit = true) : State.off k { s with unit := x0 } = s.off k := by
  simp [State.off, h0]
theorem State.off_with_fl {k : Parts} {s : State} (x0 : Faults) (h0 : k.fl = true) : State.off k { s with fl := x0 } = s.off k := by
  simp [State.off, h0]
theorem State.off_with_pw {k : Parts} {s : State} (x0 : Power) (h0 : k.pw = true) : State.off k { s with pw := x0 } = s.off k := by
  simp [State.off, h0]
theorem State.off_with_dm {k : Parts} {s : State} (x0 : Dma) (h0 : k.dm = true) : State.off k { s with dm := x0 } = s.off k := by
  simp [State.off, h0]
theorem State.off_with_ti {k : Parts} {s : State} (x0 : Tiers) (h0 : k.ti = true) : State.off k { s with ti := x0 } = s.off k := by
  simp [State.off, h0]
theorem State.off_with_cw {k : Parts} {s : State} (x0 : Causeway) (h0 : k.cw = true) : State.off k { s with cw := x0 } = s.off k := by
  simp [State.off, h0]
theorem State.off_with_ho {k : Parts} {s : State} (x0 : HostIf) (h0 : k.ho = true) : State.off k { s with ho := x0 } = s.off k := by
  simp [State.off, h0]
theorem State.off_with_sv {k : Parts} {s : State} (x0 : Service) (h0 : k.sv = true) : State.off k { s with sv := x0 } = s.off k := by
  simp [State.off, h0]
theorem State.off_with_bt {k : Parts} {s : State} (x0 : Boot) (h0 : k.bt = true) : State.off k { s with bt := x0 } = s.off k := by
  simp [State.off, h0]
theorem State.off_with_md {k : Parts} {s : State} (x0 : Module) (h0 : k.md = true) : State.off k { s with md := x0 } = s.off k := by
  simp [State.off, h0]
theorem State.off_with_freeCount {k : Parts} {s : State} (x0 : Nat)  : State.off k { s with freeCount := x0 } = s.off k := by
  simp [State.off]
theorem State.off_with_bt_pw {k : Parts} {s : State} (x0 : Boot) (x1 : Power) (h0 : k.bt = true) (h1 : k.pw = true) : State.off k { s with bt := x0, pw := x1 } = s.off k := by
  simp [State.off, h0, h1]
theorem State.off_with_bt_md {k : Parts} {s : State} (x0 : Boot) (x1 : Module) (h0 : k.bt = true) (h1 : k.md = true) : State.off k { s with bt := x0, md := x1 } = s.off k := by
  simp [State.off, h0, h1]
theorem State.off_with_dr_tile {k : Parts} {s : State} (x0 : Dram) (x1 : Tab Tile) (h0 : k.dr = true) (h1 : k.tile = true) : State.off k { s with dr := x0, tile := x1 } = s.off k := by
  simp [State.off, h0, h1]
theorem State.off_with_fl_sv {k : Parts} {s : State} (x0 : Faults) (x1 : Service) (h0 : k.fl = true) (h1 : k.sv = true) : State.off k { s with fl := x0, sv := x1 } = s.off k := by
  simp [State.off, h0, h1]
theorem State.off_with_pages_ti {k : Parts} {s : State} (x0 : Tab W64) (x1 : Tiers) (h0 : k.pages = true) (h1 : k.ti = true) : State.off k { s with pages := x0, ti := x1 } = s.off k := by
  simp [State.off, h0, h1]
theorem State.off_with_dr_tile_unit {k : Parts} {s : State} (x0 : Dram) (x1 : Tab Tile) (x2 : Tab BUnit) (h0 : k.dr = true) (h1 : k.tile = true) (h2 : k.unit = true) : State.off k { s with dr := x0, tile := x1, unit := x2 } = s.off k := by
  simp [State.off, h0, h1, h2]
theorem State.off_with_cw_ti {k : Parts} {s : State} (x0 : Causeway) (x1 : Tiers) (h0 : k.cw = true) (h1 : k.ti = true) : State.off k { s with cw := x0, ti := x1 } = s.off k := by
  simp [State.off, h0, h1]
theorem State.off_with_fl_ti {k : Parts} {s : State} (x0 : Faults) (x1 : Tiers) (h0 : k.fl = true) (h1 : k.ti = true) : State.off k { s with fl := x0, ti := x1 } = s.off k := by
  simp [State.off, h0, h1]
theorem State.off_with_sy_th_tile_arr_dm {k : Parts} {s : State} (x0 : Sync) (x1 : Threads) (x2 : Tab Tile) (x3 : Tab ArrayU) (x4 : Dma) (h0 : k.sy = true) (h1 : k.th = true) (h2 : k.tile = true) (h3 : k.arr = true) (h4 : k.dm = true) : State.off k { s with sy := x0, th := x1, tile := x2, arr := x3, dm := x4 } = s.off k := by
  simp [State.off, h0, h1, h2, h3, h4]
theorem State.off_with_time_pw_bt {k : Parts} {s : State} (x0 : W64) (x1 : Power) (x2 : Boot) (h0 : k.time = true) (h1 : k.pw = true) (h2 : k.bt = true) : State.off k { s with time := x0, pw := x1, bt := x2 } = s.off k := by
  simp [State.off, h0, h1, h2]

theorem State.setThr_off {k : Parts} (s : State) (i : Nat) (x : Thr) (h : k.th = true) : (s.setThr i x).off k = s.off k := by
  simp [State.off, h]
theorem State.setTile_off {k : Parts} (s : State) (i : Nat) (x : Tile) (h : k.tile = true) : (s.setTile i x).off k = s.off k := by
  simp [State.off, h]
theorem State.setSub_off {k : Parts} (s : State) (i : Nat) (x : SubCh) (h : k.dr = true) : (s.setSub i x).off k = s.off k := by
  simp [State.off, h]
theorem State.setBank_off {k : Parts} (s : State) (i : Nat) (x : Bank) (h : k.dr = true) : (s.setBank i x).off k = s.off k := by
  simp [State.off, h]
theorem State.setStack_off {k : Parts} (s : State) (i : Nat) (x : Stack) (h : k.dr = true) : (s.setStack i x).off k = s.off k := by
  simp [State.off, h]
theorem State.setUnit_off {k : Parts} (s : State) (i : Nat) (x : BUnit) (h : k.unit = true) : (s.setUnit i x).off k = s.off k := by
  simp [State.off, h]
theorem State.setArr_off {k : Parts} (s : State) (i : Nat) (x : ArrayU) (h : k.arr = true) : (s.setArr i x).off k = s.off k := by
  simp [State.off, h]
theorem State.setCtr_off {k : Parts} (s : State) (i : Nat) (x : Ctr) (h : k.sy = true) : (s.setCtr i x).off k = s.off k := by
  simp [State.off, h]
theorem State.setChan_off {k : Parts} (s : State) (i : Nat) (x : Chan) (h : k.dm = true) : (s.setChan i x).off k = s.off k := by
  simp [State.off, h]
theorem State.setCw_off {k : Parts} (s : State) (i : Nat) (x : CwPort) (h : k.cw = true) : (s.setCw i x).off k = s.off k := by
  simp [State.off, h]
theorem State.setLot_off {k : Parts} (s : State) (i : Nat) (x : LotRec) (h : k.cw = true) : (s.setLot i x).off k = s.off k := by
  simp [State.off, h]
theorem State.setObj_off {k : Parts} (s : State) (i : Nat) (x : Obj) (h : k.ti = true) : (s.setObj i x).off k = s.off k := by
  simp [State.off, h]
theorem State.setModel_off {k : Parts} (s : State) (i : Nat) (x : ModelD) (h : k.sv = true) : (s.setModel i x).off k = s.off k := by
  simp [State.off, h]
theorem State.setOv_off {k : Parts} (s : State) (i : Nat) (x : Overlay) (h : k.sv = true) : (s.setOv i x).off k = s.off k := by
  simp [State.off, h]
theorem State.setSess_off {k : Parts} (s : State) (i : Nat) (x : Sess) (h : k.sv = true) : (s.setSess i x).off k = s.off k := by
  simp [State.off, h]
theorem State.setTen_off {k : Parts} (s : State) (i : Nat) (x : Tenant) (h : k.sv = true) : (s.setTen i x).off k = s.off k := by
  simp [State.off, h]
theorem State.setRefs_off {k : Parts} (s : State) (i n : Nat) (h : k.sv = true) : (s.setRefs i n).off k = s.off k := by
  simp [State.off, h]
theorem State.setMbox_off {k : Parts} (s : State) (i : Nat) (x : MBox) (h : k.ho = true) : (s.setMbox i x).off k = s.off k := by
  simp [State.off, h]
theorem State.setRing_off {k : Parts} (s : State) (i : Nat) (x : Ring) (h : k.ho = true) : (s.setRing i x).off k = s.off k := by
  simp [State.off, h]
theorem State.setEventRing_off {k : Parts} (s : State) (x : Ring) (h : k.ho = true) : (s.setEventRing x).off k = s.off k := by
  simp [State.off, h]
theorem State.useFree_off {k : Parts} (s : State) (n : Nat) : (s.useFree n).off k = s.off k := rfl
theorem State.sendSignal_off {k : Parts} (s : State) (m : SignalMsg) (h : k.sy = true) : (s.sendSignal m).off k = s.off k := by
  simp [State.off, h]
theorem State.sendOp_off {k : Parts} (s : State) (o : CtrOp) (h : k.sy = true) : (s.sendOp o).off k = s.off k := by
  simp [State.off, h]
theorem State.issued_off {k : Parts} (s : State) (t : Nat) (h : k.th = true) : (s.issued t).off k = s.off k := by
  simp [State.off, h]
theorem State.weldTouch_off {k : Parts} (s : State) (t o n : Nat) (w : Bool) (h : k.arr = true) : (s.weldTouch t o n w).off k = s.off k := by
  simp [State.off, h]
theorem State.wakeFor_off {k : Parts} (s : State) (p : Nat → Blk → Bool) (h : k.th = true) : (s.wakeFor p).off k = s.off k := by
  simp [State.off, h]
theorem State.weldWrite_off {k : Parts} (s : State) (i o : Nat) (b : List Byte) (p : Bool) (h : k.tile = true) (h1 : k.arr = true) :
    (s.weldWrite i o b p).off k = s.off k := by
  simp [State.off, h, h1]
theorem State.log_off {k : Parts} (s : State) (c : W16) (d : Domain) (a0 a1 a2 a3 : W64) (x : EvExtra) (h : k.fl = true) : (s.log c d a0 a1 a2 a3 x).off k = s.off k := by
  simp [State.off, h]
theorem State.detect_off {k : Parts} (s : State) (c : W16) (d : Domain) (a0 a1 a2 a3 : W64) (x : EvExtra) (h : k.fl = true) : (s.detect c d a0 a1 a2 a3 x).off k = s.off k := by
  simp [State.off, h]
theorem State.outOfService_off {k : Parts} (s : State) (d : Domain) (x : EvExtra) (h : k.fl = true) : (s.outOfService d x).off k = s.off k := by
  simp [State.off, h]

theorem State.off_ite {k : Parts} {c : Prop} [Decidable c] (a b : State) : (if c then a else b).off k = if c then a.off k else b.off k := apply_ite _ _ _ _

theorem off_of_ite {k : Parts} {c : Prop} [Decidable c] {a b s : State} (ha : a.off k = s.off k) (hb : b.off k = s.off k) :
    (if c then a else b).off k = s.off k := by
  split <;> assumption

theorem off_elim {k : Parts} {α : Type} {o : Option α} {f : α → State} {s : State} (h : ∀ a, (f a).off k = s.off k) : (o.elim s f).off k = s.off k := by
  cases o with
  | none => rfl
  | some a => exact h a

theorem foldl_off {k : Parts} {β : Type} (f : State → β → State) (l : List β) (s : State) (h : ∀ s a, (f s a).off k = s.off k) :
    (l.foldl f s).off k = s.off k := foldl_keeps (State.off k) f l s h

theorem foldl_snd_off {k : Parts} {β γ : Type} (f : γ × State → β → γ × State) (l : List β) (s : γ × State)
    (h : ∀ s a, (f s a).2.off k = s.2.off k) : (l.foldl f s).2.off k = s.2.off k := foldl_keeps (fun p => p.2.off k) f l s h

theorem foldl_fst_off {k : Parts} {β γ : Type} (f : State × γ → β → State × γ) (l : List β) (s : State × γ)
    (h : ∀ s a, (f s a).1.off k = s.1.off k) : (l.foldl f s).1.off k = s.1.off k := foldl_keeps (fun p => p.1.off k) f l s h

theorem foldl_snd2_off {k : Parts} {β γ δ : Type} (f : γ × δ × State → β → γ × δ × State) (l : List β) (s : γ × δ × State)
    (h : ∀ s a, (f s a).2.2.off k = s.2.2.off k) : (l.foldl f s).2.2.off k = s.2.2.off k := foldl_keeps (fun p => p.2.2.off k) f l s h

end Sys2Proof.Machine
end

