-- ==== Sys2Proof/Laws/Frame.lean ====
section
/-! SUPPORT. Frames: what each shared operation keeps. `X_off` says that X changes no part of the state outside the named ones (beside the count of
free values), so in particular never the queue; an operation that answers none or an error says nothing then. -/
namespace Sys2Proof.Machine

open Sys2Proof
theorem State.logSerial_off {kp : Parts} (hk : Parts.le { fl := true } kp = true := by rfl) (s : State) (quantity : Nat) (ref : Nat) (v : Nat)
    : (State.logSerial s quantity ref v).off kp = s.off kp :=
  State.off_mono hk (by
    unfold State.logSerial
    simp [State.log_off])

theorem State.weldReadBy_off {kp : Parts} (hk : Parts.le { tile := true, arr := true } kp = true := by rfl) (s : State) (t : Nat) (off : Nat)
    (n : Nat) (errs : Nat) : (State.weldReadBy s t off n errs).off kp = s.off kp :=
  State.off_mono hk (by
    unfold State.weldReadBy
    dsimp only
    (repeat' split) <;> simp_all [State.weldTouch_off, State.setTile_off, Parts.le])

theorem State.setArrAt_off {kp : Parts} (hk : Parts.le { arr := true } kp = true := by rfl) (s : State) (a : Nat) (y2 : ArrayU) (point : Bool)
    : (State.setArrAt s a y2 point).off kp = s.off kp :=
  State.off_mono hk (by
    simp [State.setArrAt, State.off])

theorem arrayJobStart_off {kp : Parts} (hk : Parts.le { arr := true } kp = true := by rfl) (pageOf : Nat → Option (BitVec 14)) (s : State) (a : Nat)
    : (arrayJobStart pageOf s a).off kp = s.off kp :=
  State.off_mono hk (by
    unfold arrayJobStart
    dsimp only
    (repeat' split) <;> simp_all [State.setArr_off, Parts.le])

theorem endArrayJob_off {kp : Parts} (hk : Parts.le { th := true, tile := true, sy := true, arr := true } kp = true := by rfl) (s : State) (a : Nat)
    (hw : Bool) : (endArrayJob s a hw).off kp = s.off kp :=
  State.off_mono hk (by
    simp [endArrayJob, State.off])

theorem freeWeld_off {kp : Parts} (hk : Parts.le { tile := true } kp = true := by rfl) (s : State) (t : Nat) (offs : List Nat)
    : (freeWeld s t offs).off kp = s.off kp :=
  State.off_mono hk (by
    unfold freeWeld
    simp [State.useFree_off, State.setTile_off])

theorem moveQueue_off {kp : Parts} (hk : Parts.le { arr := true } kp = true := by rfl) (s : State) (a : Nat) : (moveQueue s a).off kp = s.off kp :=
  State.off_mono hk (by
    unfold moveQueue
    simp [State.setArr_off])

theorem arrayOut_off {kp : Parts} (hk : Parts.le { arr := true, fl := true } kp = true := by rfl) (s : State) (a : Nat)
    : (arrayOut s a).off kp = s.off kp :=
  State.off_mono hk (by
    unfold arrayOut
    simp [moveQueue_off, State.outOfService_off, Parts.le])

theorem State.setPort_off {kp : Parts} (hk : Parts.le { ho := true } kp = true := by rfl) (s : State) (p : HPort) (y2 : PortSt)
    : (State.setPort s p y2).off kp = s.off kp :=
  State.off_mono hk (by
    unfold State.setPort
    (repeat' split) <;> simp [State.off_with_ho])

theorem State.hostWrite_off {kp : Parts} (hk : Parts.le { ho := true } kp = true := by rfl) (s : State) (a : Nat) (b : List Byte)
    : (State.hostWrite s a b).off kp = s.off kp :=
  State.off_mono hk (by
    unfold State.hostWrite
    simp [State.off_with_ho])

theorem State.msix_off {kp : Parts} (hk : Parts.le { ho := true } kp = true := by rfl) (s : State) (p : HPort) (v : Nat)
    : (State.msix s p v).off kp = s.off kp :=
  State.off_mono hk (by
    unfold State.msix
    simp [State.setPort_off, State.hostWrite_off, State.off_ite, Parts.le])

theorem State.irqAfter_off {kp : Parts} (hk : Parts.le { ho := true } kp = true := by rfl) (s : State) (p : HPort) (v : Nat) (coalesce : Nat)
    (i : Irq) : (State.irqAfter s p v coalesce i).1.off kp = s.off kp :=
  State.off_mono hk (by
    unfold State.irqAfter
    (repeat' split) <;> simp [State.msix_off, Parts.le])

theorem State.finishAfter_off {kp : Parts} (hk : Parts.le { ho := true } kp = true := by rfl) (s : State) (h : CmdHdr) (status : Nat) (result : W64)
    (wait : Option (Nat × W32)) : (State.finishAfter s h status result wait).off kp = s.off kp :=
  State.off_mono hk (by
    unfold State.finishAfter
    (repeat' split) <;> simp [State.setMbox_off])

theorem State.finish_off {kp : Parts} (hk : Parts.le { ho := true } kp = true := by rfl) (s : State) (h : CmdHdr) (status : Nat) (result : W64)
    : (State.finish s h status result).off kp = s.off kp :=
  State.off_mono hk (by
    unfold State.finish
    simp [State.finishAfter_off, Parts.le])

theorem State.finishOut_off {kp : Parts} (hk : Parts.le { ho := true } kp = true := by rfl) (s : State) (h : CmdHdr) (out : List Byte)
    : (State.finishOut s h out).off kp = s.off kp :=
  State.off_mono hk (by
    unfold State.finishOut
    (repeat' split) <;> simp [State.finish_off, State.hostWrite_off, Parts.le])

theorem State.onCmd_off {kp : Parts} (hk : Parts.le { ho := true } kp = true := by rfl) {s : State} {h : CmdHdr} {op : Nat} {ops : List Nat}
    {act : State → State} (ha : ∀ r, (act r).off kp = r.off kp) : (s.onCmd h op ops act).off kp = s.off kp := by
  have h0 : ∀ r, (s.setMbox h.mb r).off kp = s.off kp := fun r => State.off_mono hk (State.setMbox_off s _ _ rfl)
  unfold State.onCmd
  dsimp only
  split
  · split
    · exact (ha _).trans (h0 _)
    · exact (State.off_mono hk (State.finish_off rfl ..)).trans (h0 _)
  · rfl

theorem State.ringWrite_off {kp : Parts} (hk : Parts.le { ho := true } kp = true := by rfl) (s : State) (r : Ring) (e : List Byte)
    : (State.ringWrite s r e).1.off kp = s.off kp :=
  State.off_mono hk (by
    unfold State.ringWrite
    simp [State.hostWrite_off, State.irqAfter_off, Parts.le])

theorem State.rowClose_off {kp : Parts} (hk : Parts.le { dr := true } kp = true := by rfl) (s : State) (b : Nat) (t : Nat)
    : (State.rowClose s b t).off kp = s.off kp :=
  State.off_mono hk (by
    unfold State.rowClose
    dsimp only
    (repeat' split) <;> simp_all [State.setBank_off, Parts.le])

theorem State.refreshAt_off {kp : Parts} (hk : Parts.le { dr := true } kp = true := by rfl) (s : State) (b : Nat) (r : Option Nat) (t : Nat)
    : (State.refreshAt s b r t).off kp = s.off kp :=
  State.off_mono hk (by
    unfold State.refreshAt
    simp [State.rowClose_off, State.setBank_off, Parts.le])

theorem State.rowAct_off {kp : Parts} (hk : Parts.le { dr := true } kp = true := by rfl) (s : State) (b : Nat) (row : Nat) (t : Nat)
    : (State.rowAct s b row t).off kp = s.off kp :=
  State.off_mono hk (by
    simp [State.rowAct, State.off])

theorem State.rowOpen_off {kp : Parts} (hk : Parts.le { dr := true } kp = true := by rfl) (s : State) (b row t : Nat)
    : (s.rowOpen b row t).off kp = s.off kp :=
  State.off_mono hk (by
    have h1 := off_elim (o := (s.bankAt b).dueRow) (s := s) (f := fun r => s.refreshAt b (some r) t) fun r => State.refreshAt_off
        (kp := { dr := true }) rfl ..
    unfold State.rowOpen
    refine off_of_ite rfl ?_
    dsimp only
    refine (State.rowAct_off rfl ..).trans ((State.rowClose_off rfl ..).trans (off_of_ite ((State.refreshAt_off rfl ..).trans h1) h1)))

theorem State.colGo_off {kp : Parts} (hk : Parts.le { dr := true } kp = true := by rfl) (s : State) (b : Nat) (isRead : Bool) (cls : Nat) (t : Nat)
    : (State.colGo s b isRead cls t).off kp = s.off kp :=
  State.off_mono hk (by
    simp [State.colGo, State.off])

theorem State.serve_off {kp : Parts} (hk : Parts.le { dr := true } kp = true := by rfl) (s : State) (b : Nat) (row : Nat) (isRead : Bool)
    (cls : Nat) : (State.serve s b row isRead cls).off kp = s.off kp :=
  State.off_mono hk (by
    simp only [State.serve]
    (repeat' split) <;> (try simp [State.colGo_off, State.rowOpen_off, Parts.le]))

theorem State.laneMark_off {kp : Parts} (hk : Parts.le { dr := true, fl := true } kp = true := by rfl) (s : State) (c : Nat) (l : Nat)
    : (State.laneMark s c l).off kp = s.off kp :=
  State.off_mono hk (by
    unfold State.laneMark
    dsimp only
    (repeat' split) <;> simp_all [State.detect_off, State.setSub_off, Parts.le])

theorem State.laneDegraded_off {kp : Parts} (hk : Parts.le { dr := true, fl := true } kp = true := by rfl) (s : State) (c : Nat) (before : List Nat)
    (after : List Nat) : (State.laneDegraded s c before after).off kp = s.off kp :=
  State.off_mono hk (by
    unfold State.laneDegraded
    apply foldl_off
    intros
    simp [State.laneMark_off, Parts.le])

theorem State.reportUe_off {kp : Parts} (hk : Parts.le { dr := true, fl := true } kp = true := by rfl) (s : State) (cw : Nat) (c : Nat) (a0 : W64)
    (a1 : W64) (src : ReqSrc) : (State.reportUe s cw c a0 a1 src).off kp = s.off kp :=
  State.off_mono hk (by
    unfold State.reportUe
    simp [State.detect_off, State.off_with_dr, State.off_ite])

theorem State.decodeRead_off {kp : Parts} (hk : Parts.le { dr := true, fl := true } kp = true := by rfl) (s : State) (p : Nat) (src : ReqSrc)
    (m : Sample) (errs : List SymErr) : (State.decodeRead s p src m errs).2.off kp = s.off kp :=
  State.off_mono hk (by
    unfold State.decodeRead
    dsimp only
    (repeat' split) <;> simp_all [State.laneDegraded_off, State.setSub_off, State.reportUe_off, Parts.le])

theorem State.readCw_off {kp : Parts} (hk : Parts.le { dr := true, fl := true } kp = true := by rfl) (s : State) (p : Nat) (src : ReqSrc)
    (errs : List SymErr) (cls : Nat) : (State.readCw s p src errs cls).2.off kp = s.off kp :=
  State.off_mono hk (by
    simp only [State.readCw]
    (repeat' split) <;> (try simp [State.serve_off, State.decodeRead_off, Parts.le]))

theorem State.readCws_off {kp : Parts} (hk : Parts.le { dr := true, fl := true } kp = true := by rfl) (s : State) (p : Nat) (src : ReqSrc)
    (errs : List ScrubErr) (cls n k : Nat) : (s.readCws p src errs cls n k).2.off kp = s.off kp :=
  State.off_mono hk (by
    induction n generalizing s p k with
    | zero => rfl
    | succ n ih =>
      unfold State.readCws
      dsimp only
      exact (ih _ _ _).trans (State.readCw_off rfl _ _ _ _ _))

theorem State.putCw_off {kp : Parts} (hk : Parts.le { dr := true } kp = true := by rfl) (s : State) (p : Nat) (b : List Byte) (poison : Bool)
    (cls : Nat) : (State.putCw s p b poison cls).off kp = s.off kp :=
  State.off_mono hk (by
    unfold State.putCw
    simp [State.serve_off, State.off_with_dr, Parts.le])

theorem State.writeCwAt_off {kp : Parts} (hk : Parts.le { dr := true, fl := true } kp = true := by rfl) (s : State) (p : Nat) (off : Nat)
    (b : List Byte) (poison : Bool) (src : ReqSrc) (errs : List SymErr) (cls : Nat) : (State.writeCwAt s p off b poison src errs cls).2.off kp = s.off kp :=
  State.off_mono hk (by
    simp only [State.writeCwAt]
    (repeat' split) <;> (try simp [State.putCw_off, State.readCw_off, Parts.le]))

theorem State.plazaPut_off {kp : Parts} (hk : Parts.le { tile := true } kp = true := by rfl) (s : State) (p : Nat) (l : Line)
    : (State.plazaPut s p l).off kp = s.off kp :=
  State.off_mono hk (by
    unfold State.plazaPut
    simp [State.setTile_off])

theorem State.plazaDrop_off {kp : Parts} (hk : Parts.le { tile := true } kp = true := by rfl) (s : State) (p : Nat)
    : (State.plazaDrop s p).off kp = s.off kp :=
  State.off_mono hk (by
    unfold State.plazaDrop
    simp [State.setTile_off])

theorem State.plazaTouch_off {kp : Parts} (hk : Parts.le { tile := true } kp = true := by rfl) (s : State) (p : Nat)
    : (State.plazaTouch s p).off kp = s.off kp :=
  State.off_mono hk (by
    unfold State.plazaTouch
    dsimp only
    (repeat' split) <;> simp_all [State.setTile_off, Parts.le])

theorem State.accept_off {kp : Parts} (hk : Parts.le { dr := true } kp = true := by rfl) (s : State) (c : Nat) (r : Req)
    : (State.accept s c r).off kp = s.off kp :=
  State.off_mono hk (by
    unfold State.accept
    dsimp only
    (repeat' split) <;> simp_all [State.setSub_off, Parts.le])

theorem State.drain_off {kp : Parts} (hk : Parts.le { dr := true } kp = true := by rfl) (s : State) (c : Nat) : (State.drain s c).off kp = s.off kp :=
  State.off_mono hk (by
    unfold State.drain
    apply foldl_off
    intros
    simp [State.accept_off, Parts.le])

theorem State.lineBack_off {kp : Parts} (hk : Parts.le { dr := true, fl := true } kp = true := by rfl) (s : State) (p : Nat) (l : Line)
    : (State.lineBack s p l).off kp = s.off kp :=
  State.off_mono hk (by
    simp only [State.lineBack]
    (repeat' split) <;> (try simp) <;> (repeat' split) <;> simp_all [State.accept_off, State.writeCwAt_off, Parts.le])

theorem State.evictLine_off {kp : Parts} (hk : Parts.le { dr := true, tile := true, fl := true } kp = true := by rfl) (s : State) (t : Nat)
    (key : Nat) : (State.evictLine s t key).off kp = s.off kp :=
  State.off_mono hk (by
    unfold State.evictLine
    dsimp only
    (repeat' split) <;> simp_all [State.lineBack_off, State.setTile_off, Parts.le])

theorem State.plazaFill_off {kp : Parts} (hk : Parts.le { dr := true, tile := true, fl := true } kp = true := by rfl) (s : State) (p : Nat)
    (l : Line) : (State.plazaFill s p l).off kp = s.off kp :=
  State.off_mono hk (by
    simp only [State.plazaFill]
    (repeat' split) <;> (try simp [State.evictLine_off, State.plazaTouch_off, State.plazaPut_off, Parts.le]))

theorem State.lineRead_off {kp : Parts} (hk : Parts.le { dr := true, tile := true, fl := true } kp = true := by rfl) (s : State) (p : Nat)
    (src : ReqSrc) (alloc : Bool) (errs : List ScrubErr) (cls : Nat) : (State.lineRead s p src alloc errs cls).2.off kp = s.off kp :=
  State.off_mono hk (by
    unfold State.lineRead
    dsimp only
    (repeat' split) <;> simp_all [State.plazaTouch_off, State.readCws_off, State.plazaFill_off, Parts.le])

theorem State.cohRead_off {kp : Parts} (hk : Parts.le { dr := true, tile := true, fl := true } kp = true := by rfl) (s : State) (p n : Nat)
    (src : ReqSrc) (alloc : Bool) (errs : List ScrubErr) : (s.cohRead p n src alloc errs).2.2.off kp = s.off kp :=
  State.off_mono hk (by
    exact foldl_snd2_off _ _ _ fun x q => State.lineRead_off rfl ..)

theorem State.cohPut_off {kp : Parts} (hk : Parts.le { dr := true, tile := true, fl := true } kp = true := by rfl) (s : State) (p : Nat)
    (b : List Byte) (poison : Bool) (alloc : Bool) (src : ReqSrc) (errs : List ScrubErr) (cls : Nat)
    : (State.cohPut s p b poison alloc src errs cls).2.off kp = s.off kp :=
  State.off_mono hk (by
    unfold State.cohPut
    dsimp only
    (repeat' first | split | (refine (foldl_snd_off _ _ _ fun _ _ => ?_).trans ?_) | simp_all [State.lineRead_off, State.plazaPut_off,
        State.writeCwAt_off, Parts.le]))

theorem State.cohWrite_off {kp : Parts} (hk : Parts.le { dr := true, tile := true, fl := true } kp = true := by rfl) (s : State) (p : Nat)
    (b : List Byte) (poison : Bool) (alloc : Bool) (src : ReqSrc) (errs : List ScrubErr) (cls : Nat)
    : (State.cohWrite s p b poison alloc src errs cls).off kp = s.off kp :=
  State.off_mono hk (by
    simp only [State.cohWrite]
    (repeat' split) <;> (try simp [State.cohPut_off, Parts.le]))

theorem State.rawRead_off {kp : Parts} (hk : Parts.le { dr := true, fl := true } kp = true := by rfl) (s : State) (p : Nat) (n : Nat) (src : ReqSrc)
    (errs : List ScrubErr) : (State.rawRead s p n src errs).2.2.off kp = s.off kp :=
  State.off_mono hk (by
    unfold State.rawRead
    simp [State.readCw_off, Parts.le, foldl_snd2_off])

theorem State.rawPut_off {kp : Parts} (hk : Parts.le { dr := true, fl := true } kp = true := by rfl) (s : State) (p : Nat) (b : List Byte)
    (poison : Bool) (src : ReqSrc) (errs : List ScrubErr) : (State.rawPut s p b poison src errs).2.off kp = s.off kp :=
  State.off_mono hk (by
    unfold State.rawPut
    dsimp only
    (repeat' first | (refine (foldl_snd_off _ _ _ fun _ _ => ?_).trans ?_) | simp_all [State.writeCwAt_off, Parts.le]))

theorem State.rawWrite_off {kp : Parts} (hk : Parts.le { dr := true, fl := true } kp = true := by rfl) (s : State) (p : Nat) (b : List Byte)
    (poison : Bool) : (State.rawWrite s p b poison).off kp = s.off kp :=
  State.off_mono hk (by
    simp only [State.rawWrite]
    (repeat' split) <;> (try simp [State.rawPut_off, Parts.le]))

theorem State.clearRange_off {kp : Parts} (hk : Parts.le { dr := true, tile := true, fl := true } kp = true := by rfl) (s : State) (p n : Nat)
    : (s.clearRange p n).off kp = s.off kp :=
  State.off_mono hk (by
    exact (State.rawWrite_off rfl ..).trans (foldl_off _ _ _ fun s k => State.plazaDrop_off rfl ..))

theorem State.addAt_off {kp : Parts} (hk : Parts.le { dr := true } kp = true := by rfl) (s : State) (cw : Nat) (off : Nat) (form : Nat)
    (operand : Nat) (policy2 : Bool) (errs : List SymErr) : (State.addAt s cw off form operand policy2 errs).2.2.2.off kp = s.off kp :=
  State.off_mono hk (by
    unfold State.addAt
    (repeat' split) <;> simp [State.off_with_dr])

theorem State.madderPiece_off {kp : Parts} (hk : Parts.le { dr := true, tile := true, fl := true } kp = true := by rfl) (s : State) (src : ReqSrc)
    (p : Nat) (n : Nat) (errs : List SymErr) (cls : Nat) : (State.madderPiece s src p n errs cls).2.off kp = s.off kp :=
  State.off_mono hk (by
    simp only [State.madderPiece]
    (repeat' split) <;> (try simp [State.plazaTouch_off, State.readCw_off, Parts.le]))

theorem State.agentRead_off {kp : Parts} (hk : Parts.le { dr := true, tile := true, arr := true, fl := true } kp = true := by rfl) (s : State)
    (src : ReqSrc) (p : Nat) (n : Nat) (k0 : Nat) (errs : List ScrubErr) (cls : Nat) : (State.agentRead s src p n k0 errs cls).2.off kp = s.off kp :=
  State.off_mono hk (by
    unfold State.agentRead
    dsimp only
    (repeat' first | split | (refine (foldl_snd_off _ _ _ fun _ _ => ?_).trans ?_) | simp_all [State.weldReadBy_off, State.madderPiece_off, Parts.le]))

theorem State.agentWriteAs_off {kp : Parts} (hk : Parts.le { dr := true, tile := true, arr := true, fl := true } kp = true := by rfl) (s : State)
    (src : ReqSrc) (errs : List ScrubErr) (cls k0 p : Nat) (l : List Piece) : (s.agentWriteAs src errs cls k0 p l).off kp = s.off kp :=
  State.off_mono hk (by
    induction l generalizing s p k0 with
    | nil => simp only [State.agentWriteAs]
    | cons a l ih =>
      obtain ⟨b, psn⟩ := a
      simp only [State.agentWriteAs]
      refine (ih _ _ _).trans ?_
      split
      · exact State.weldWrite_off s _ _ _ _ rfl rfl
      · exact State.cohWrite_off rfl _ _ _ _ _ _ _ _)

theorem State.agentWrite_off {kp : Parts} (hk : Parts.le { dr := true, tile := true, arr := true, fl := true } kp = true := by rfl) (s : State)
    (p : Nat) (ps : List Piece) : (State.agentWrite s p ps).off kp = s.off kp :=
  State.off_mono hk (by
    unfold State.agentWrite
    simp [State.agentWriteAs_off, Parts.le])

theorem State.readChunks_off {kp : Parts} (hk : Parts.le { dr := true, tile := true, arr := true, fl := true } kp = true := by rfl) (s : State)
    (src : ReqSrc) (cs : List (Nat × Nat)) (errs : List ScrubErr) (cls : Nat) : (s.readChunks src cs errs cls).2.off kp = s.off kp :=
  State.off_mono hk (by
    unfold State.readChunks
    refine foldl_snd_off _ _ _ fun x q => ?_
    dsimp only
    exact State.agentRead_off rfl _ _ _ _ _ _ _)

theorem State.writeChunksAs_off {kp : Parts} (hk : Parts.le { dr := true, tile := true, arr := true, fl := true } kp = true := by rfl) (s : State)
    (src : ReqSrc) (cls : Nat) (l : List (Nat × Nat)) (ps : List Piece) : (s.writeChunksAs src cls l ps).off kp = s.off kp :=
  State.off_mono hk (by
    induction l generalizing s ps with
    | nil => rfl
    | cons a l ih => exact (ih ..).trans (State.agentWriteAs_off rfl ..))

theorem State.writeChunks_off {kp : Parts} (hk : Parts.le { dr := true, tile := true, arr := true, fl := true } kp = true := by rfl) (s : State)
    (l : List (Nat × Nat)) (ps : List Piece) : (s.writeChunks l ps).off kp = s.off kp :=
  State.off_mono hk (by
    induction l generalizing s ps with
    | nil => rfl
    | cons a l ih => exact (ih ..).trans (State.agentWrite_off rfl ..))

theorem State.givePages_off {kp : Parts} (hk : Parts.le { ti := true } kp = true := by rfl) (s : State) (ps : List Nat)
    : (State.givePages s ps).off kp = s.off kp :=
  State.off_mono hk (by
    unfold State.givePages
    simp [State.off_with_ti])

theorem State.charge_off {kp : Parts} (hk : Parts.le { sv := true } kp = true := by rfl) (s : State) (t : Nat) (tier : Nat) (n : Nat)
    : (State.charge s t tier n).off kp = s.off kp :=
  State.off_mono hk (by
    unfold State.charge
    simp [State.setTen_off])

theorem State.discharge_off {kp : Parts} (hk : Parts.le { sv := true } kp = true := by rfl) (s : State) (t : Nat) (tier : Nat) (n : Nat)
    : (State.discharge s t tier n).off kp = s.off kp :=
  State.off_mono hk (by
    unfold State.discharge
    simp [State.setTen_off])

theorem State.dischargeUnits_off {kp : Parts} (hk : Parts.le { sv := true } kp = true := by rfl) (s : State) (o : Obj)
    : (State.dischargeUnits s o).off kp = s.off kp :=
  State.off_mono hk (by
    unfold State.dischargeUnits
    simp [State.discharge_off, Parts.le, foldl_off])

theorem State.writeMaps_off {kp : Parts} (hk : Parts.le { pages := true } kp = true := by rfl) (s : State) (o : Obj)
    : (State.writeMaps s o).off kp = s.off kp :=
  State.off_mono hk (by
    unfold State.writeMaps
    simp [State.off_with_pages])

theorem State.dropMaps_off {kp : Parts} (hk : Parts.le { pages := true } kp = true := by rfl) (s : State) (o : Obj)
    : (State.dropMaps s o).off kp = s.off kp :=
  State.off_mono hk (by
    unfold State.dropMaps
    simp [State.off_with_pages])

theorem State.putImage_off {kp : Parts} (hk : Parts.le { dr := true, tile := true, arr := true, fl := true } kp = true := by rfl) (s : State)
    (pages : List Nat) (a : Nat) (img : List Byte) : (s.putImage pages a img).off kp = s.off kp :=
  State.off_mono hk (by
    exact foldl_off _ _ _ fun s q => State.agentWrite_off rfl ..)

theorem State.getImage_off {kp : Parts} (hk : Parts.le { dr := true, tile := true, arr := true, fl := true } kp = true := by rfl) (s : State)
    (pages : List Nat) (a : Nat) (n : Nat) : (State.getImage s pages a n).2.off kp = s.off kp :=
  State.off_mono hk (by
    unfold State.getImage
    simp [State.readChunks_off, Parts.le])

theorem State.clearPages_off {kp : Parts} (hk : Parts.le { dr := true, tile := true, fl := true } kp = true := by rfl) (s : State) (ps : List Nat)
    : (State.clearPages s ps).off kp = s.off kp :=
  State.off_mono hk (by
    unfold State.clearPages
    apply foldl_off
    intros
    simp [State.clearRange_off, Parts.le])

theorem State.takePlace_off {kp : Parts} (hk : Parts.le { ti := true, cw := true } kp = true := by rfl) (s : State) (tier : Nat) (loc : Nat)
    (n : Nat) : (State.takePlace s tier loc n).off kp = s.off kp :=
  State.off_mono hk (by
    unfold State.takePlace
    simp [State.setLot_off, State.off_with_cw_ti, State.off_ite])

theorem State.freePlace_off {kp : Parts} (hk : Parts.le { ti := true, cw := true } kp = true := by rfl) (s : State) (tier : Nat) (loc : Nat)
    : (State.freePlace s tier loc).off kp = s.off kp :=
  State.off_mono hk (by
    unfold State.freePlace
    simp [State.setLot_off, State.off_with_cw_ti, State.off_ite])

theorem State.cwSend_off {kp : Parts} (hk : Parts.le { cw := true } kp = true := by rfl) (s : State) (p : Nat) (vc : Nat) (m : List Byte)
    : (State.cwSend s p vc m).off kp = s.off kp :=
  State.off_mono hk (by
    unfold State.cwSend
    simp [State.setCw_off])

theorem State.cwRequest_off {kp : Parts} (hk : Parts.le { cw := true } kp = true := by rfl) (s : State) (l : LotRec) (chan : Nat) (type : Nat)
    (flags : Nat) (off : Nat) (pos : Nat) (len : Nat) (data : List Byte) : (State.cwRequest s l chan type flags off pos len data).off kp = s.off kp :=
  State.off_mono hk (by
    unfold State.cwRequest
    simp [State.cwSend_off, State.setCw_off, Parts.le])

theorem State.woadWrite_off {kp : Parts} (hk : Parts.le { cw := true } kp = true := by rfl) (s : State) (chan : Nat) (slot : Nat) (off : Nat)
    (b : List Byte) (bad : Nat → Nat → Bool) : (State.woadWrite s chan slot off b bad).off kp = s.off kp :=
  State.off_mono hk (by
    unfold State.woadWrite
    simp [State.cwRequest_off, Parts.le, foldl_off])

theorem State.writeFrame_off {kp : Parts} (hk : Parts.le { cw := true, ho := true } kp = true := by rfl) (s : State) (tier : Nat) (loc : Nat)
    (b : List Byte) : (State.writeFrame s tier loc b).off kp = s.off kp :=
  State.off_mono hk (by
    unfold State.writeFrame
    simp [State.woadWrite_off, State.hostWrite_off, State.off_ite, Parts.le])

theorem State.dropFrame_off {kp : Parts} (hk : Parts.le { ti := true, cw := true, sv := true } kp = true := by rfl) (s : State) (n : Nat) (u : Nat)
    : (State.dropFrame s n u).off kp = s.off kp :=
  State.off_mono hk (by
    unfold State.dropFrame
    simp [State.setObj_off, State.charge_off, State.discharge_off, State.freePlace_off, State.off_ite, Parts.le])

theorem State.storeUnit_off {kp : Parts}
    (hk : Parts.le { ti := true, cw := true, ho := true, sv := true } kp = true := by rfl) {s t : State} {n u : Nat} {img : List Byte}
    (h : s.storeUnit n u img = .ok t) : t.off kp = s.off kp :=
  State.off_mono hk (by
    unfold State.storeUnit at h
    dsimp only at h
    split at h
    · cases h
    · cases h
      split <;> simp [State.setObj_off, State.charge_off, State.discharge_off, State.freePlace_off, State.writeFrame_off, State.takePlace_off, Parts.le])

theorem State.tierLost_off {kp : Parts} (hk : Parts.le { fl := true } kp = true := by rfl) (s : State) (n : Nat) (u : Nat)
    : (State.tierLost s n u).off kp = s.off kp :=
  State.off_mono hk (by
    unfold State.tierLost
    simp [State.log_off])

theorem State.encodeUnits_off {kp : Parts}
    (hk : Parts.le { dr := true, tile := true, arr := true, fl := true, ti := true, cw := true, ho := true, sv := true } kp = true := by rfl)
    (s : State) (n : Nat) (l : List Nat) : (s.encodeUnits n l).1.off kp = s.off kp :=
  State.off_mono hk (by
    induction l generalizing s with
    | nil => rfl
    | cons u l ih =>
      have hg : ∀ (r : State) a b c, (r.getImage a b c).2.off { dr := true, tile := true, arr := true, fl := true, ti := true, cw := true, ho := true,
                                                                sv := true } = r.off { dr := true, tile := true, arr := true, fl := true, ti := true,
                                                                                       cw := true, ho := true, sv := true } :=
          fun r a b c => State.getImage_off rfl ..
      unfold State.encodeUnits
      dsimp only
      suffices h0 : ∀ x : List Piece × State, x.2.off { dr := true, tile := true, arr := true, fl := true, ti := true, cw := true, ho := true,
                                                        sv := true } = s.off { dr := true, tile := true, arr := true, fl := true, ti := true, cw := true,
                                                                               ho := true, sv := true } →
          (if (anyPoison x.1 || s.fl.damaged.contains (n32 n, n32 u)) = true then
            State.encodeUnits (((x.2.dropFrame n u).tierLost n u).setObj n
              { (((x.2.dropFrame n u).tierLost n u).objAt n).setUnit u { (((x.2.dropFrame n u).tierLost n u).objAt n).unit u with st := 3 } with
                lostData := true }) n l
          else match x.2.storeUnit n u (bytesOf x.1) with
            | .error _ => (x.2, false)
            | .ok s3 => State.encodeUnits s3 n l).1.off { dr := true, tile := true, arr := true, fl := true, ti := true, cw := true, ho := true,
                                                          sv := true } = s.off { dr := true, tile := true, arr := true, fl := true, ti := true,
                                                                                 cw := true, ho := true, sv := true } by
        exact h0 _ (by
          split
          · exact (hg ..).trans (hg ..)
          · exact hg ..)
      intro x hx
      split
      · exact (ih _).trans ((State.setObj_off _ _ _ rfl).trans ((State.tierLost_off rfl ..).trans ((State.dropFrame_off rfl ..).trans hx)))
      · cases hs : x.2.storeUnit n u (bytesOf x.1) with
        | error e => exact hx
        | ok s3 => exact (ih _).trans ((State.storeUnit_off rfl hs).trans hx))

theorem State.releasePages_off {kp : Parts} (hk : Parts.le { dr := true, tile := true, fl := true, ti := true, sv := true } kp = true := by rfl)
    (s : State) (n : Nat) : (State.releasePages s n).off kp = s.off kp :=
  State.off_mono hk (by
    unfold State.releasePages
    simp [State.givePages_off, State.clearPages_off, State.setObj_off, State.discharge_off, Parts.le])

theorem State.finishAll_off {kp : Parts} (hk : Parts.le { ho := true } kp = true := by rfl) (s : State) (l : List CmdHdr) (status : Nat)
    : (State.finishAll s l status).off kp = s.off kp :=
  State.off_mono hk (by
    unfold State.finishAll
    simp [State.finish_off, Parts.le, foldl_off])

theorem State.startPromotion_off {kp : Parts} (hk : Parts.le { ti := true, sv := true } kp = true := by rfl) {s t : State} {n : Nat}
    (h : s.startPromotion n = .ok t) : t.off kp = s.off kp :=
  State.off_mono hk (by
    unfold State.startPromotion at h
    dsimp only at h
    split at h
    · cases h
    · split at h
      · cases h
      · cases h
        simp [State.setObj_off, State.charge_off, State.off_with_ti, Parts.le])

theorem State.beginPromotion_off {kp : Parts} (hk : Parts.le { ti := true, ho := true, sv := true } kp = true := by rfl) (s : State) (n : Nat)
    (h : CmdHdr) (c : W32) : (s.beginPromotion n h c).off kp = s.off kp :=
  State.off_mono hk (by
    unfold State.beginPromotion
    split
    · exact State.finish_off rfl ..
    · next h1 => exact (State.setObj_off _ _ _ rfl).trans (State.startPromotion_off rfl h1))

theorem State.beginDemotion_off {kp : Parts} (hk : Parts.le { pages := true, ti := true } kp = true := by rfl) (s : State) (n : Nat)
    : (State.beginDemotion s n).off kp = s.off kp :=
  State.off_mono hk (by
    unfold State.beginDemotion
    simp [State.setObj_off])

theorem State.unmapCopy_off {kp : Parts} (hk : Parts.le { pages := true, ti := true } kp = true := by rfl) (s : State) (n : Nat)
    : (State.unmapCopy s n).off kp = s.off kp :=
  State.off_mono hk (by
    unfold State.unmapCopy
    simp [State.writeMaps_off, State.setObj_off, Parts.le])

theorem State.afterClaim_off {kp : Parts} (hk : Parts.le { pages := true, ti := true } kp = true := by rfl) (s : State) (n : Nat)
    : (State.afterClaim s n).off kp = s.off kp :=
  State.off_mono hk (by
    unfold State.afterClaim
    simp [State.beginDemotion_off, State.off_ite, Parts.le])

theorem State.modClaim_off {kp : Parts} (hk : Parts.le { ti := true, sv := true } kp = true := by rfl) (s : State) (n c : Nat)
    : (s.modClaim n c).off kp = s.off kp :=
  State.off_mono hk (by
    unfold State.modClaim
    dsimp only
    refine off_of_ite rfl (off_of_ite (State.setObj_off _ _ _ rfl) (off_of_ite ?_ (State.setObj_off _ _ _ rfl)))
    cases h1 : s.startPromotion n with
    | error e => rfl
    | ok s1 => exact (State.setObj_off _ _ _ rfl).trans (State.startPromotion_off rfl h1))

theorem State.modUnclaim_off {kp : Parts} (hk : Parts.le { pages := true, ti := true } kp = true := by rfl) (s : State) (n : Nat) (c : Nat)
    : (State.modUnclaim s n c).off kp = s.off kp :=
  State.off_mono hk (by
    unfold State.modUnclaim
    simp [State.afterClaim_off, State.setObj_off, Parts.le])

theorem State.frameGone_off {kp : Parts} (hk : Parts.le { fl := true, ti := true, cw := true, sv := true } kp = true := by rfl) (s : State)
    (n : Nat) (u : Nat) : (State.frameGone s n u).off kp = s.off kp :=
  State.off_mono hk (by
    unfold State.frameGone
    simp [State.dropFrame_off, State.tierLost_off, State.setObj_off, State.off_ite, Parts.le])

theorem State.frameLost_off {kp : Parts} (hk : Parts.le { fl := true, ti := true, cw := true, sv := true } kp = true := by rfl) (s : State)
    (n : Nat) (u : Nat) : (State.frameLost s n u).off kp = s.off kp :=
  State.off_mono hk (by
    unfold State.frameLost
    simp [State.frameGone_off, State.tierLost_off, State.off_ite, Parts.le])

theorem State.freeObject_off {kp : Parts}
    (hk : Parts.le { dr := true, tile := true, pages := true, fl := true, ti := true, cw := true, sv := true } kp = true := by rfl) (s : State)
    (n : Nat) : (s.freeObject n).off kp = s.off kp :=
  State.off_mono hk (by
    have h1 : ((s.dropMaps (s.objAt n)).releasePages n).off { dr := true, tile := true, pages := true, fl := true, ti := true, cw := true, sv := true } =
        s.off { dr := true, tile := true, pages := true, fl := true, ti := true, cw := true, sv := true } := (State.releasePages_off rfl ..).trans
        (State.dropMaps_off rfl ..)
    have h2 := (foldl_off (k := { dr := true, tile := true, pages := true, fl := true, ti := true, cw := true, sv := true })
        (fun s u => s.dropFrame n u) (List.range (s.objAt n).nUnits) _ fun s u => State.dropFrame_off rfl ..).trans h1
    exact (State.setObj_off _ _ _ rfl).trans (off_of_ite h2 ((State.dischargeUnits_off rfl ..).trans h2)))

theorem State.offers_off {kp : Parts} (hk : Parts.le { cw := true } kp = true := by rfl) (s : State) : (State.offers s).off kp = s.off kp :=
  State.off_mono hk (by
    unfold State.offers
    simp [State.cwSend_off, State.setCw_off, State.off_ite, Parts.le, foldl_off])

theorem State.recallLot_off {kp : Parts} (hk : Parts.le { cw := true } kp = true := by rfl) (s : State) (l : Lent)
    : (State.recallLot s l).off kp = s.off kp :=
  State.off_mono hk (by
    unfold State.recallLot
    simp [State.cwSend_off, State.off_with_cw, Parts.le])

theorem State.recallLast_off {kp : Parts} (hk : Parts.le { cw := true } kp = true := by rfl) (s : State) (n : Nat) (ls : List Lent)
    : (State.recallLast s n ls).off kp = s.off kp :=
  State.off_mono hk (by
    unfold State.recallLast
    simp [State.recallLot_off, Parts.le, foldl_off])

theorem State.recalls_off {kp : Parts} (hk : Parts.le { cw := true } kp = true := by rfl) (s : State) : (State.recalls s).off kp = s.off kp :=
  State.off_mono hk (by
    unfold State.recalls
    simp [State.recallLast_off, Parts.le, foldl_off])

theorem State.lendCheck_off {kp : Parts} (hk : Parts.le { cw := true } kp = true := by rfl) (s : State) : (State.lendCheck s).off kp = s.off kp :=
  State.off_mono hk (by
    unfold State.lendCheck
    simp [State.offers_off, State.recalls_off, State.off_ite, Parts.le])

theorem State.grantLot_off {kp : Parts} (hk : Parts.le { ti := true, cw := true } kp = true := by rfl) {s t : State} {p : Nat} {w : W32}
    (h : s.grantLot p = some (w, t)) : t.off kp = s.off kp :=
  State.off_mono hk (by
    unfold State.grantLot at h
    split at h
    · split at h
      · cases h
      · cases h
        simp [State.off]
    · cases h)

theorem State.takeBack_off {kp : Parts} (hk : Parts.le { dr := true, tile := true, fl := true, ti := true, cw := true } kp = true := by rfl)
    (s : State) (l : Lent) : (State.takeBack s l).off kp = s.off kp :=
  State.off_mono hk (by
    unfold State.takeBack
    simp [State.givePages_off, State.clearPages_off, State.off_with_cw_ti, Parts.le])

theorem State.returnLot_off {kp : Parts} (hk : Parts.le { dr := true, tile := true, fl := true, ti := true, cw := true } kp = true := by rfl)
    (s : State) (l : Lent) : (State.returnLot s l).off kp = s.off kp :=
  State.off_mono hk (by
    unfold State.returnLot
    simp [State.lendCheck_off, State.cwSend_off, State.takeBack_off, Parts.le])

theorem State.wantLot_off {kp : Parts} (hk : Parts.le { cw := true } kp = true := by rfl) (s : State) : (State.wantLot s).off kp = s.off kp :=
  State.off_mono hk (by
    unfold State.wantLot
    (repeat' split) <;> simp [State.cwSend_off, State.setCw_off, State.off_ite, Parts.le])

theorem State.sendMsg_off {kp : Parts} (hk : Parts.le { str := true } kp = true := by rfl) (s : State) (src : Nat) (dst : Nat) (vc : Nat)
    : (State.sendMsg s src dst vc).off kp = s.off kp :=
  State.off_mono hk (by
    simp [State.sendMsg, State.off])

theorem State.carryMsg_off {kp : Parts} (hk : Parts.le { str := true } kp = true := by rfl) (s : State) (id : Nat)
    : (State.carryMsg s id).off kp = s.off kp :=
  State.off_mono hk (by
    simp [State.carryMsg, State.off])

theorem State.travel_off {kp : Parts} (hk : Parts.le { str := true } kp = true := by rfl) (s : State) (src : Nat) (dst : Nat) (vc : Nat)
    : (State.travel s src dst vc).off kp = s.off kp :=
  State.off_mono hk (by
    simp only [State.travel]
    (repeat' split) <;> (try simp [State.carryMsg_off, State.sendMsg_off, Parts.le]))

theorem State.fewerWatches_off {kp : Parts} (hk : Parts.le { th := true } kp = true := by rfl) (s : State) : (State.fewerWatches s).off kp = s.off kp :=
  State.off_mono hk (by
    simp [State.fewerWatches, State.off])

theorem State.fire_off {kp : Parts} (hk : Parts.le { th := true, sy := true } kp = true := by rfl) (s : State) (w : WatchReq) (c : Ctr)
    : (State.fire s w c).off kp = s.off kp :=
  State.off_mono hk (by
    unfold State.fire
    dsimp only
    (repeat' split) <;> simp_all [State.fewerWatches_off, State.off_with_sy, Parts.le])

theorem State.fireObserve_off {kp : Parts} (hk : Parts.le { th := true, sy := true } kp = true := by rfl) (s : State) (c : Nat)
    : (State.fireObserve s c).off kp = s.off kp :=
  State.off_mono hk (by
    unfold State.fireObserve
    simp [State.fire_off, State.off_with_sy, Parts.le, foldl_off])

theorem State.fireConsume_off {kp : Parts} (hk : Parts.le { th := true, sy := true } kp = true := by rfl) (c n : Nat) (s : State)
    : (State.fireConsume c n s).off kp = s.off kp :=
  State.off_mono hk (by
    induction n generalizing s with
    | zero => rfl
    | succ n ih =>
      unfold State.fireConsume
      dsimp only
      split
      · rfl
      · split
        · refine (ih _).trans ((State.setCtr_off _ _ _ rfl).trans ((State.fire_off rfl ..).trans (State.off_with_sy _ rfl)))
        · rfl)

theorem State.evaluate_off {kp : Parts} (hk : Parts.le { th := true, sy := true } kp = true := by rfl) (s : State) (c : Nat)
    : (s.evaluate c).off kp = s.off kp :=
  State.off_mono hk (by
    exact (State.fireConsume_off rfl ..).trans (State.fireObserve_off rfl ..))

theorem State.opArrived_off {kp : Parts} (hk : Parts.le { sy := true } kp = true := by rfl) (s : State) (o : CtrOp)
    : (State.opArrived s o).off kp = s.off kp :=
  State.off_mono hk (by
    simp [State.opArrived, State.off])

theorem State.cancelTrigger_off {kp : Parts} (hk : Parts.le { sy := true } kp = true := by rfl) (s : State) (c : Nat) (x : Chan)
    : (s.cancelTrigger c x).off kp = s.off kp :=
  State.off_mono hk (by
    exact off_of_ite (off_elim fun w => State.sendOp_off _ _ rfl) rfl)

theorem State.chanSyncError_off {kp : Parts} (hk : Parts.le { th := true, tile := true, sy := true, arr := true, dm := true } kp = true := by rfl)
    (s : State) (c : ChanId) : (State.chanSyncError s c).off kp = s.off kp :=
  State.off_mono hk (by
    unfold State.chanSyncError
    dsimp only
    (repeat' first | simp only [State.wakeFor_off] | simp_all [State.weldWrite_off, State.setChan_off, State.cancelTrigger_off, Parts.le]))

theorem State.signalError_off {kp : Parts}
    (hk : Parts.le { th := true, tile := true, sy := true, arr := true, fl := true, dm := true } kp = true := by rfl) (s : State) (m : SignalMsg)
    (ovr : Bool) : (s.signalError m ovr).off kp = s.off kp :=
  State.off_mono hk (by
    unfold State.signalError
    dsimp only
    split
    · exact (State.off_with_sy _ rfl).trans (State.detect_off _ _ _ _ _ _ _ _ rfl)
    · exact (State.chanSyncError_off rfl ..).trans (State.detect_off _ _ _ _ _ _ _ _ rfl)
    · exact State.detect_off _ _ _ _ _ _ _ _ rfl)

theorem State.applySignal_off {kp : Parts}
    (hk : Parts.le { th := true, tile := true, sy := true, arr := true, fl := true, dm := true } kp = true := by rfl) (s : State) (m : SignalMsg)
    : (State.applySignal s m).off kp = s.off kp :=
  State.off_mono hk (by
    simp only [State.applySignal]
    (repeat' split) <;> (try simp [State.evaluate_off, State.setCtr_off, State.signalError_off, Parts.le]))

theorem State.takeSlot_off {kp : Parts} (hk : Parts.le { th := true, sy := true } kp = true := by rfl) (s : State) (r : WatchReq)
    : (State.takeSlot s r).off kp = s.off kp :=
  State.off_mono hk (by
    unfold State.takeSlot
    (repeat' split) <;> simp [State.evaluate_off, State.wakeFor_off, State.off_with_sy, Parts.le])

theorem State.thrFaultAt_off {kp : Parts} (hk : Parts.le { th := true, fl := true } kp = true := by rfl) (s : State) (t : Nat) (code : Nat)
    (pc : W64) (va : Nat) : (State.thrFaultAt s t code pc va).off kp = s.off kp :=
  State.off_mono hk (by
    unfold State.thrFaultAt
    simp [State.setThr_off, State.detect_off])

theorem State.thrFault_off {kp : Parts} (hk : Parts.le { th := true, fl := true } kp = true := by rfl) (s : State) (t : Nat) (code : Nat) (va : Nat)
    : (State.thrFault s t code va).off kp = s.off kp :=
  State.off_mono hk (by
    unfold State.thrFault
    simp [State.thrFaultAt_off, Parts.le])

theorem State.block_off {kp : Parts} (hk : Parts.le { th := true } kp = true := by rfl) (s : State) (t : Nat) (b : Blk)
    : (State.block s t b).off kp = s.off kp :=
  State.off_mono hk (by
    unfold State.block
    simp [State.setThr_off])

theorem State.onIssue_off {kp : Parts} (hk : Parts.le { th := true, fl := true } kp = true := by rfl) {s : State} {c : Instr} {t : ThrId} {regs : List Nat}
    {legal : Bool} {act : Thr → State} (h : ∀ x, (act x).off kp = s.off kp) : (s.onIssue c t regs legal act).off kp = s.off kp := by
  have h0 : ∀ r : State, r.off kp = s.off kp → (r.issued t.val).off kp = s.off kp := fun r e => (State.off_mono hk (State.issued_off r _ rfl)).trans e
  unfold State.onIssue
  dsimp only
  (repeat' split)
  · rfl
  · exact h0 _ (State.off_mono hk (State.thrFault_off rfl ..))
  · exact h0 _ (State.off_mono hk (State.thrFault_off rfl ..))
  · rfl
  · exact h0 _ (State.off_mono hk (State.thrFault_off rfl ..))
  · exact h0 _ (State.off_mono hk (State.block_off rfl ..))
  · exact h0 _ (h _)

theorem State.onRegs_off {kp : Parts} (hk : Parts.le { th := true, fl := true } kp = true := by rfl) (s : State) (c : Instr) (t : ThrId) (regs : List Nat)
    (legal : Bool) (act : Thr → Thr) : (s.onRegs c t regs legal act).off kp = s.off kp :=
  State.off_mono hk (State.onIssue_off rfl fun _ => State.setThr_off _ _ _ rfl)

theorem State.pushAcc_off {kp : Parts} (hk : Parts.le { th := true, str := true } kp = true := by rfl) (s : State) (t : Nat) (y2 : Thr) (a : Acc)
    : (State.pushAcc s t y2 a).off kp = s.off kp :=
  State.off_mono hk (by
    unfold State.pushAcc
    dsimp only
    (repeat' split) <;> simp_all [State.block_off, State.setThr_off, State.sendMsg_off, Parts.le])

theorem State.accWrite_off {kp : Parts} (hk : Parts.le { dr := true, tile := true, arr := true, fl := true } kp = true := by rfl) (s : State)
    (a : Acc) (b : List Byte) (errs : List ScrubErr) : (State.accWrite s a b errs).off kp = s.off kp :=
  State.off_mono hk (by
    simp only [State.accWrite]
    (repeat' split) <;> (try simp [State.weldWrite_off, State.rawPut_off, State.cohWrite_off, Parts.le]))

theorem State.issueAcc_off {kp : Parts} (hk : Parts.le { th := true, str := true, fl := true } kp = true := by rfl) (s : State) (t : Nat) (y2 : Thr)
    (k : Acs) (va : W64) (size : Nat) (kind : Bool → Bool) (order : Order) (op : AccOp)
    : (State.issueAcc s t y2 k va size kind order op).off kp = s.off kp :=
  State.off_mono hk (by
    simp only [State.issueAcc]
    (repeat' split) <;> (try simp [State.thrFault_off, State.pushAcc_off, Parts.le]))

theorem State.flushLine_off {kp : Parts} (hk : Parts.le { dr := true, tile := true, fl := true } kp = true := by rfl) (s : State) (keep : Bool)
    (p : Nat) : (State.flushLine s keep p).off kp = s.off kp :=
  State.off_mono hk (by
    simp only [State.flushLine]
    (repeat' split) <;> (try simp [State.plazaPut_off, State.lineBack_off, State.plazaDrop_off, Parts.le]))

theorem State.fence_off {kp : Parts} (hk : Parts.le { th := true, fl := true } kp = true := by rfl) (s : State) (c : Instr) (t : ThrId) (x : SysF)
    (imm : W16) (scope : Nat) (b : Blk) : (s.fence c t x imm scope b).off kp = s.off kp :=
  State.off_mono hk (State.onIssue_off rfl fun _ => by
    split
    · exact State.block_off rfl ..
    · exact State.setThr_off _ _ _ rfl)

theorem State.maintPause_off {kp : Parts} (hk : Parts.le { fl := true } kp = true := by rfl) (s : State) (c : Nat) (act : Nat) (cursor : Nat)
    (by_ : Nat) : (State.maintPause s c act cursor by_).off kp = s.off kp :=
  State.off_mono hk (by
    unfold State.maintPause
    simp [State.log_off])

theorem State.maintResume_off {kp : Parts} (hk : Parts.le { fl := true } kp = true := by rfl) (s : State) (c : Nat) (act : Nat) (cursor : Nat)
    : (State.maintResume s c act cursor).off kp = s.off kp :=
  State.off_mono hk (by
    unfold State.maintResume
    simp [State.log_off])

theorem State.askWindow_off {kp : Parts} (hk : Parts.le { unit := true } kp = true := by rfl) (s : State) (u : Nat)
    : (State.askWindow s u).off kp = s.off kp :=
  State.off_mono hk (by
    simp [State.askWindow, State.off])

theorem State.pushJob_off {kp : Parts} (hk : Parts.le { dr := true, unit := true } kp = true := by rfl) (s : State) (u : Nat) (j : BankJob)
    : (State.pushJob s u j).off kp = s.off kp :=
  State.off_mono hk (by
    unfold State.pushJob
    dsimp only
    (repeat' split) <;> simp_all [State.setSub_off, State.setUnit_off, State.askWindow_off, Parts.le])

theorem State.beginInit_off {kp : Parts} (hk : Parts.le { dr := true, unit := true } kp = true := by rfl) (s : State) (c : Nat)
    : (State.beginInit s c).off kp = s.off kp :=
  State.off_mono hk (by
    unfold State.beginInit
    dsimp only
    (repeat' first | split | (refine (foldl_off _ _ _ fun _ _ => ?_).trans ?_) | simp only [State.setSub_off] | simp_all [State.pushJob_off, Parts.le]))

theorem State.askSlot_off {kp : Parts} (hk : Parts.le { dr := true, unit := true } kp = true := by rfl) (s : State) (c : Nat) (act : Nat)
    : (State.askSlot s c act).off kp = s.off kp :=
  State.off_mono hk (by
    unfold State.askSlot
    dsimp only
    (repeat' split) <;> simp_all [State.beginInit_off, State.setSub_off, Parts.le])

theorem State.passSlot_off {kp : Parts} (hk : Parts.le { dr := true, unit := true, fl := true } kp = true := by rfl) (s : State) (c : Nat)
    : (State.passSlot s c).off kp = s.off kp :=
  State.off_mono hk (by
    unfold State.passSlot
    dsimp only
    (repeat' split) <;> simp_all [State.setSub_off, State.beginInit_off, State.maintResume_off, Parts.le])

theorem State.leaveSlot_off {kp : Parts} (hk : Parts.le { dr := true, unit := true, fl := true } kp = true := by rfl) (s : State) (c : Nat)
    (act : Nat) : (State.leaveSlot s c act).off kp = s.off kp :=
  State.off_mono hk (by
    unfold State.leaveSlot
    dsimp only
    (repeat' split) <;> simp_all [State.passSlot_off, State.setSub_off, Parts.le])

theorem State.flushRows_off {kp : Parts} (hk : Parts.le { dr := true, tile := true, fl := true } kp = true := by rfl) (s : State) (u : Nat)
    (r : Nat) (n : Nat) : (State.flushRows s u r n).off kp = s.off kp :=
  State.off_mono hk (by
    unfold State.flushRows
    dsimp only
    (repeat' first | split | (refine (foldl_off _ _ _ fun _ _ => ?_).trans ?_) | simp_all [State.plazaDrop_off, State.lineBack_off, Parts.le]))

theorem State.finishBank_off {kp : Parts} (hk : Parts.le { tile := true, sy := true, arr := true } kp = true := by rfl) (s : State) (u : Nat)
    (j : BankJob) (outcome : Nat) (code : Nat) (poison : Bool) : (State.finishBank s u j outcome code poison).off kp = s.off kp :=
  State.off_mono hk (by
    simp [State.finishBank, State.off])

theorem State.reportPoison_off {kp : Parts} (hk : Parts.le { dr := true, unit := true, fl := true } kp = true := by rfl) (s : State) (u : Nat)
    : (State.reportPoison s u).off kp = s.off kp :=
  State.off_mono hk (by
    unfold State.reportPoison
    dsimp only
    (repeat' split) <;> simp_all [State.setUnit_off, State.reportUe_off, Parts.le])

theorem State.takeLog_off {kp : Parts} (hk : Parts.le { dr := true, unit := true } kp = true := by rfl) (s : State) (u : Nat)
    : (State.takeLog s u).off kp = s.off kp :=
  State.off_mono hk (by
    unfold State.takeLog
    simp [State.setBank_off, State.setUnit_off, foldl_off])

theorem State.readStatus_off {kp : Parts} (hk : Parts.le { unit := true } kp = true := by rfl) (s : State) (u : Nat)
    : (State.readStatus s u).off kp = s.off kp :=
  State.off_mono hk (by
    simp [State.readStatus, State.off])

theorem State.endWindow_off {kp : Parts} (hk : Parts.le { dr := true, unit := true } kp = true := by rfl) (s : State) (u : Nat) (now : Nat)
    : (State.endWindow s u now).off kp = s.off kp :=
  State.off_mono hk (by
    unfold State.endWindow
    simp [State.setBank_off, State.setSub_off, State.setUnit_off])

theorem State.loadJob_off {kp : Parts} (hk : Parts.le { dr := true, tile := true, arr := true, unit := true, fl := true } kp = true := by rfl)
    (s : State) (u : Nat) (j : BankJob) : (State.loadJob s u j).off kp = s.off kp :=
  State.off_mono hk (by
    unfold State.loadJob
    dsimp only
    (repeat' split) <;> simp_all [State.flushRows_off, State.weldTouch_off, State.setUnit_off, Parts.le])

theorem State.command_off {kp : Parts} (hk : Parts.le { unit := true } kp = true := by rfl) (s : State) (u : Nat) (cmd : Nat) (now : Nat)
    : (State.command s u cmd now).off kp = s.off kp :=
  State.off_mono hk (by
    simp [State.command, State.off])

theorem State.startOne_off {kp : Parts} (hk : Parts.le { dr := true, tile := true, arr := true, unit := true, fl := true } kp = true := by rfl)
    (s : State) (u : Nat) (now : Nat) : (State.startOne s u now).off kp = s.off kp :=
  State.off_mono hk (by
    unfold State.startOne
    dsimp only
    (repeat' split) <;> simp_all [State.loadJob_off, State.command_off, State.setUnit_off, State.rowClose_off, State.setBank_off, Parts.le])

theorem State.startWindow_off {kp : Parts} (hk : Parts.le { dr := true, tile := true, arr := true, unit := true, fl := true } kp = true := by rfl)
    (s : State) (u : Nat) (now : Nat) : (State.startWindow s u now).off kp = s.off kp :=
  State.off_mono hk (by
    simp only [State.startWindow]
    (repeat' split) <;> (try simp [State.startOne_off, Parts.le]))

theorem State.abortUnit_off {kp : Parts} (hk : Parts.le { dr := true, unit := true } kp = true := by rfl) (s : State) (u : Nat) (tag : W32)
    : (State.abortUnit s u tag).off kp = s.off kp :=
  State.off_mono hk (by
    unfold State.abortUnit
    dsimp only
    (repeat' split) <;> simp_all [State.takeLog_off, State.endWindow_off, State.setUnit_off, Parts.le])

theorem State.dropReq_off {kp : Parts} (hk : Parts.le { dr := true } kp = true := by rfl) (s : State) (c : Nat) (id : Nat)
    : (State.dropReq s c id).off kp = s.off kp :=
  State.off_mono hk (by
    unfold State.dropReq
    simp [State.drain_off, State.setSub_off, Parts.le])

theorem State.addGo_off {kp : Parts} (hk : Parts.le { dr := true, unit := true, fl := true } kp = true := by rfl) (s : State) (q : QReq)
    (d : AddDesc) (now : Nat) (errs : List SymErr) : (State.addGo s q d now errs).off kp = s.off kp :=
  State.off_mono hk (by
    unfold State.addGo
    simp [State.addAt_off, State.reportPoison_off, State.setUnit_off, State.setBank_off, State.dropReq_off, State.setSub_off, Parts.le])

theorem State.passReq_off {kp : Parts} (hk : Parts.le { dr := true, unit := true, fl := true } kp = true := by rfl) (s : State) (now : Nat) (errs : List ScrubErr)
    (q : QReq) : (State.passReq s now errs q).off kp = s.off kp :=
  State.off_mono hk (by
    unfold State.passReq
    dsimp only
    (repeat' split) <;> simp_all [State.colGo_off, State.rowOpen_off, State.addGo_off, State.setBank_off, State.setSub_off, Parts.le])

theorem State.dueRefreshes_off {kp : Parts} (hk : Parts.le { dr := true } kp = true := by rfl) (s : State) (b : Nat) (now : Nat)
    : (State.dueRefreshes s b now).off kp = s.off kp :=
  State.off_mono hk (by
    unfold State.dueRefreshes
    apply foldl_off
    intros
    simp [State.refreshAt_off, Parts.le])

theorem State.urgentRefreshes_off {kp : Parts} (hk : Parts.le { dr := true } kp = true := by rfl) (s : State) (b : Nat) (now : Nat)
    : (State.urgentRefreshes s b now).off kp = s.off kp :=
  State.off_mono hk (by
    unfold State.urgentRefreshes
    apply foldl_off
    intros
    simp [State.refreshAt_off, Parts.le])

theorem State.reopenRows_off {kp : Parts} (hk : Parts.le { dr := true } kp = true := by rfl) (s : State) (u : Nat) (b : Nat) (now : Nat)
    : (State.reopenRows s u b now).2.off kp = s.off kp :=
  State.off_mono hk (by
    unfold State.reopenRows
    dsimp only
    (repeat' first | (refine (foldl_snd_off _ _ _ fun _ _ => ?_).trans ?_) | simp_all [State.rowClose_off, State.rowAct_off, Parts.le]))

theorem State.intervene_off {kp : Parts} (hk : Parts.le { dr := true, unit := true, fl := true } kp = true := by rfl) (s : State) (u now : Nat)
    (errs : List ScrubErr) : (s.intervene u now errs).2.off kp = s.off kp :=
  State.off_mono hk (by
    have h5 : ∀ (used : List Nat) (adm : List QReq) (s1 : State), s1.off { dr := true, unit := true, fl := true } = s.off
        { dr := true, unit := true, fl := true } →
        (used.foldl (fun (acc : Nat × State) b => let (t, s1) := acc.2.reopenRows u b now; (max acc.1 t, s1)) (now,
          adm.foldl (fun s q => s.passReq now errs q) (used.foldl (fun s b => s.urgentRefreshes b now) (used.foldl (fun s b => s.dueRefreshes b now)
          (used.foldl (fun s b =>
      if ((s.unitAt u).rowsIn (b % 2)).isEmpty then s
      else s.setBank b { s.bankAt b with tPre := some ((s.unitAt u).closeTime
          (b % 2) now) }) s1))))).2.off { dr := true, unit := true, fl := true } = s.off { dr := true, unit := true, fl := true } := by
      intro used adm s1 h
      refine (foldl_snd_off _ _ _ fun a b => ?_).trans ?_
      · exact State.reopenRows_off rfl _ _ _ _
      refine (foldl_off _ _ _ fun s q => State.passReq_off rfl _ _ _ _).trans ((foldl_off _ _ _ fun s b => State.urgentRefreshes_off rfl _ _ _).trans
        ((foldl_off _ _ _ fun s b => State.dueRefreshes_off rfl _ _ _).trans ((foldl_off _ _ _ fun s b => off_of_ite rfl
            (State.setBank_off _ _ _ rfl)).trans h)))
    unfold State.intervene
    extract_lets c held r src x s1 adm used s2 s3 s4 s5
    have h1 : s1.off { dr := true, unit := true, fl := true } = s.off { dr := true, unit := true, fl := true } :=
      (State.reportPoison_off rfl _ _).trans ((State.takeLog_off rfl _ _).trans ((State.readStatus_off rfl _ _).trans
          ((State.setUnit_off _ _ _ rfl).trans (State.off_with_dr _ rfl))))
    clear_value s1
    split
    · exact h1
    · exact h5 used adm s1 h1)

theorem State.moveInit_off {kp : Parts} (hk : Parts.le { dr := true } kp = true := by rfl) (s : State) (u : Nat) : (State.moveInit s u).off kp = s.off kp :=
  State.off_mono hk (by
    unfold State.moveInit
    dsimp only
    (repeat' split) <;> simp_all [State.setSub_off, Parts.le])

theorem State.endJob_off {kp : Parts} (hk : Parts.le { dr := true, tile := true, sy := true, arr := true } kp = true := by rfl) (s : State)
    (u : Nat) (j : BankJob) (done : Bool) (outcome : Nat) (code : Nat) (poison : Bool) : (State.endJob s u j done outcome code poison).off kp = s.off kp :=
  State.off_mono hk (by
    unfold State.endJob
    dsimp only
    (repeat' split) <;> simp_all [State.setSub_off, State.finishBank_off, Parts.le])

theorem State.unitGone_off {kp : Parts} (hk : Parts.le { dr := true, tile := true, sy := true, arr := true, unit := true } kp = true := by rfl)
    (s : State) (u : Nat) : (State.unitGone s u).off kp = s.off kp :=
  State.off_mono hk (by
    unfold State.unitGone
    dsimp only
    (repeat' first | split | (refine (foldl_off _ _ _ fun _ _ => ?_).trans ?_) | simp_all [State.endJob_off, Parts.le]))

theorem State.unitOut_off {kp : Parts}
    (hk : Parts.le { dr := true, tile := true, sy := true, arr := true, unit := true, fl := true } kp = true := by rfl) (s : State) (u : Nat)
    : (State.unitOut s u).off kp = s.off kp :=
  State.off_mono hk (by
    simp only [State.unitOut]
    (repeat' split) <;> (try simp [State.outOfService_off, State.unitGone_off, Parts.le]))

theorem State.unitFault_off {kp : Parts}
    (hk : Parts.le { dr := true, tile := true, sy := true, arr := true, unit := true, fl := true } kp = true := by rfl) (s : State) (u : Nat)
    : (State.unitFault s u).off kp = s.off kp :=
  State.off_mono hk (by
    unfold State.unitFault
    dsimp only
    (repeat' split) <;> simp_all [State.detect_off, State.setUnit_off, State.unitOut_off, Parts.le])

theorem State.discarded_off {kp : Parts}
    (hk : Parts.le { dr := true, tile := true, sy := true, arr := true, unit := true, fl := true } kp = true := by rfl) (s : State) (u : Nat)
    (now : Nat) : (State.discarded s u now).off kp = s.off kp :=
  State.off_mono hk (by
    simp only [State.discarded]
    (repeat' split) <;> (try simp [State.setUnit_off, State.unitFault_off, State.readStatus_off,
        Parts.le]) <;> (repeat' split) <;> simp_all [State.setSub_off, State.setBank_off, Parts.le])

theorem State.descTouch_off {kp : Parts} (hk : Parts.le { arr := true } kp = true := by rfl) (s : State) (t : Nat) (x : Thr) (va n : Nat)
    : (s.descTouch t x va n).off kp = s.off kp :=
  State.off_mono hk (by
    refine foldl_off _ _ _ fun s q => ?_
    split
    · rfl
    · exact State.weldTouch_off _ _ _ _ _ rfl)

theorem State.objectAlloc_off {kp : Parts} (hk : Parts.le { ti := true, ho := true, sv := true } kp = true := by rfl) (s : State) (h : CmdHdr)
    (bytes : Nat) (flags : W32) (mirror : W16) (page : Byte) : (State.objectAlloc s h bytes flags mirror page).off kp = s.off kp :=
  State.off_mono hk (by
    unfold State.objectAlloc
    dsimp only
    (repeat' split) <;> simp_all [State.finish_off, State.setObj_off, State.charge_off, State.off_with_ti, Parts.le])

theorem State.clearWeldPage_off {kp : Parts} (hk : Parts.le { tile := true, arr := true } kp = true := by rfl) (s : State) (e : W64)
    : (State.clearWeldPage s e).off kp = s.off kp :=
  State.off_mono hk (by
    unfold State.clearWeldPage
    dsimp only
    (repeat' split) <;> simp_all [State.weldWrite_off, Parts.le])

theorem State.objectFree_off {kp : Parts}
    (hk : Parts.le { dr := true, tile := true, pages := true, fl := true, ti := true, cw := true, ho := true, sv := true } kp = true := by rfl)
    (s : State) (h : CmdHdr) (n : W32) : (State.objectFree s h n).off kp = s.off kp :=
  State.off_mono hk (by
    unfold State.objectFree
    simp
    (repeat' split) <;> simp_all [State.finish_off, State.freeObject_off, Parts.le])

theorem State.unitMended_off {kp : Parts} (hk : Parts.le { fl := true } kp = true := by rfl) (s : State) (n : Nat) (u : Nat)
    : (State.unitMended s n u).off kp = s.off kp :=
  State.off_mono hk (by
    unfold State.unitMended
    simp [State.off_with_fl, State.off_ite])

theorem State.loadUnits_off {kp : Parts}
    (hk : Parts.le { dr := true, tile := true, arr := true, fl := true, ti := true, cw := true, ho := true, sv := true } kp = true := by rfl)
    (s : State) (n : Nat) (l : List UnitImage) (u k : Nat) : (s.loadUnits n l u k).1.off kp = s.off kp :=
  State.off_mono hk (by
    induction l generalizing s u k with
    | nil => rfl
    | cons i l ih =>
      have h0 : ∀ r : State, (if fPin (s.objAt n).flags then Except.ok s else s.storeUnit n u i.bytes) = .ok r → r.off
          { dr := true, tile := true, arr := true, fl := true, ti := true, cw := true, ho := true, sv := true } = s.off
          { dr := true, tile := true, arr := true, fl := true, ti := true, cw := true, ho := true, sv := true } := by
        intro r h
        split at h
        · cases h; rfl
        · exact State.storeUnit_off rfl h
      have h1 : ∀ (r : State) (c : Prop) [Decidable c] ps a b,
          (if c then r else r.putImage ps a b).off { dr := true, tile := true, arr := true, fl := true, ti := true, cw := true, ho := true, sv := true } =
              r.off { dr := true, tile := true, arr := true, fl := true, ti := true, cw := true, ho := true, sv := true } := by
        intro r c _ ps a b
        split
        · rfl
        · exact State.putImage_off rfl ..
      unfold State.loadUnits
      dsimp only
      split
      · rfl
      · split
        · rfl
        · split
          · rfl
          · next hs => exact (ih ..).trans ((State.unitMended_off rfl ..).trans ((h1 ..).trans ((h1 ..).trans (h0 _ hs)))))

theorem State.afterLoad_off {kp : Parts} (hk : Parts.le { pages := true, ti := true } kp = true := by rfl) (s : State) (n : Nat) (st : Nat)
    : (State.afterLoad s n st).off kp = s.off kp :=
  State.off_mono hk (by
    unfold State.afterLoad
    dsimp only
    (repeat' split) <;> simp_all [State.setObj_off, State.writeMaps_off, Parts.le])

theorem State.fixUnits_off {kp : Parts} (hk : Parts.le { ti := true } kp = true := by rfl) (s : State) (n : Nat) (units : List UnitImage)
    : (State.fixUnits s n units).off kp = s.off kp :=
  State.off_mono hk (by
    unfold State.fixUnits
    (repeat' split) <;> simp [State.setObj_off, State.off_ite])

theorem State.objectLoad_off {kp : Parts}
    (hk : Parts.le { dr := true, tile := true, pages := true, arr := true, fl := true, ti := true, cw := true, ho := true, sv := true } kp = true :=
        by rfl) (s : State) (h : CmdHdr) (n : W32) (first : Nat) (units : List UnitImage) (port : Byte) :
        (State.objectLoad s h n first units port).off kp = s.off kp :=
  State.off_mono hk (by
    simp only [State.objectLoad]
    (repeat' split) <;> (try simp [State.finish_off, State.fixUnits_off, State.loadUnits_off, State.afterLoad_off, Parts.le]))

theorem State.promoteAct_off {kp : Parts} (hk : Parts.le { ti := true, ho := true, sv := true } kp = true := by rfl) (s : State) (n : Nat)
    (h : CmdHdr) (c : W32) : (State.promoteAct s n h c).off kp = s.off kp :=
  State.off_mono hk (by
    unfold State.promoteAct
    dsimp only
    (repeat' split) <;> simp_all [State.finish_off, State.setObj_off, State.beginPromotion_off, Parts.le])

theorem State.evictAct_off {kp : Parts} (hk : Parts.le { pages := true, ti := true, ho := true } kp = true := by rfl) (s : State) (n : Nat)
    (h : CmdHdr) (c : W32) : (State.evictAct s n h c).off kp = s.off kp :=
  State.off_mono hk (by
    unfold State.evictAct
    simp [State.finish_off, State.setObj_off, State.finishAll_off, State.afterClaim_off, State.off_ite, Parts.le])

theorem State.fillCopies_off {kp : Parts}
    (hk : Parts.le { dr := true, tile := true, arr := true, fl := true } kp = true := by rfl) {s t : State} {n : Nat} {l : List Nat}
    (h : s.fillCopies n l = .ok t) : t.off kp = s.off kp :=
  State.off_mono hk (by
    induction l generalizing s with
    | nil => cases h; rfl
    | cons u l ih =>
      unfold State.fillCopies at h
      dsimp only at h
      split at h
      · cases h
      · refine (ih h).trans ?_
        split <;> simp [State.putImage_off, Parts.le])

theorem State.settleObj_off {kp : Parts}
    (hk : Parts.le { dr := true, tile := true, pages := true, fl := true, ti := true, cw := true, sv := true } kp = true := by rfl) (s : State)
    (n : Nat) : (State.settleObj s n).off kp = s.off kp :=
  State.off_mono hk (by
    unfold State.settleObj
    simp
    (repeat' split) <;> simp_all [State.freeObject_off, Parts.le])

theorem State.promotionDone_off {kp : Parts}
    (hk : Parts.le { dr := true, tile := true, pages := true, fl := true, ti := true, cw := true, ho := true, sv := true } kp = true := by rfl)
    (s : State) (n : Nat) : (State.promotionDone s n).off kp = s.off kp :=
  State.off_mono hk (by
    unfold State.promotionDone
    simp [State.writeMaps_off, State.setObj_off, State.finishAll_off, State.afterClaim_off, State.settleObj_off, Parts.le])

theorem State.promotionFailed_off {kp : Parts}
    (hk : Parts.le { dr := true, tile := true, pages := true, fl := true, ti := true, cw := true, ho := true, sv := true } kp = true := by rfl)
    (s : State) (n : Nat) (unreadable : Option Nat) : (State.promotionFailed s n unreadable).off kp = s.off kp :=
  State.off_mono hk (by
    unfold State.promotionFailed
    dsimp only
    (repeat' split) <;> simp_all [State.finishAll_off, State.setObj_off, State.releasePages_off, State.settleObj_off, State.tierLost_off,
        State.frameGone_off, Parts.le])

theorem State.claimQueued_off {kp : Parts} (hk : Parts.le { ti := true, ho := true, sv := true } kp = true := by rfl) (s : State) (n : Nat)
    (lost : Bool) (y3 : Claimer) : (State.claimQueued s n lost y3).off kp = s.off kp :=
  State.off_mono hk (by
    simp only [State.claimQueued]
    (repeat' split) <;> (try simp [State.finish_off, State.promoteAct_off, State.modClaim_off, Parts.le]))

theorem State.afterDemotion_off {kp : Parts}
    (hk : Parts.le { dr := true, tile := true, pages := true, fl := true, ti := true, cw := true, ho := true, sv := true } kp = true := by rfl)
    (s : State) (n : Nat) : (State.afterDemotion s n).off kp = s.off kp :=
  State.off_mono hk (by
    unfold State.afterDemotion
    dsimp only
    (repeat' first | (refine (foldl_off _ _ _ fun _ _ => ?_).trans ?_) | simp only [State.setObj_off] | simp_all [State.settleObj_off,
        State.claimQueued_off, Parts.le]))

theorem State.unmapEntries_off {kp : Parts} (hk : Parts.le { tile := true, pages := true, arr := true, ti := true } kp = true := by rfl) (s : State)
    (es : Tab W64) : (State.unmapEntries s es).off kp = s.off kp :=
  State.off_mono hk (by
    unfold State.unmapEntries
    apply foldl_off
    intros
    simp [State.clearWeldPage_off, Parts.le])

theorem State.mapAct_off {kp : Parts} (hk : Parts.le { tile := true, pages := true, arr := true, ti := true, ho := true } kp = true := by rfl)
    (s : State) (h : CmdHdr) (va : Nat) (n : W32) (first : Nat) (pages : Nat) (key : W16) (attrs : Byte)
    : (State.mapAct s h va n first pages key attrs).off kp = s.off kp :=
  State.off_mono hk (by
    unfold State.mapAct
    dsimp only
    (repeat' split) <;> simp_all [State.finish_off, State.unmapEntries_off, State.writeMaps_off, State.setObj_off, Parts.le])

theorem State.unmapAct_off {kp : Parts} (hk : Parts.le { tile := true, pages := true, arr := true, ti := true, ho := true } kp = true := by rfl)
    (s : State) (h : CmdHdr) (va : Nat) (pages : Nat) : (State.unmapAct s h va pages).off kp = s.off kp :=
  State.off_mono hk (by
    unfold State.unmapAct
    simp
    (repeat' split) <;> simp_all [State.finish_off, State.unmapEntries_off, Parts.le])

theorem State.weldMapAct_off {kp : Parts} (hk : Parts.le { tile := true, pages := true, arr := true, ti := true, ho := true } kp = true := by rfl)
    (s : State) (h : CmdHdr) (va : Nat) (off : Nat) (bytes : Nat) (tile : Nat) : (State.weldMapAct s h va off bytes tile).off kp = s.off kp :=
  State.off_mono hk (by
    unfold State.weldMapAct
    dsimp only
    (repeat' split) <;> simp_all [State.finish_off, State.unmapEntries_off, State.off_with_pages_ti, Parts.le])

theorem State.poolRegister_off {kp : Parts} (hk : Parts.le { ti := true, ho := true } kp = true := by rfl) (s : State) (h : CmdHdr) (addr : Nat)
    (bytes : Nat) (owner : W16) (mask : Byte) : (State.poolRegister s h addr bytes owner mask).off kp = s.off kp :=
  State.off_mono hk (by
    unfold State.poolRegister
    simp [State.finish_off, State.off_with_ti, State.off_ite, Parts.le])

theorem State.poolDeregister_off {kp : Parts} (hk : Parts.le { ti := true, ho := true } kp = true := by rfl) (s : State) (h : CmdHdr) (pool : Nat)
    : (State.poolDeregister s h pool).off kp = s.off kp :=
  State.off_mono hk (by
    unfold State.poolDeregister
    (repeat' split) <;> simp [State.finish_off, State.off_with_ti, Parts.le])

theorem State.moveFrame_off {kp : Parts} (hk : Parts.le { ti := true, cw := true, ho := true, sv := true } kp = true := by rfl) (s : State)
    (n : Nat) (u : Nat) : (State.moveFrame s n u).off kp = s.off kp :=
  State.off_mono hk (by
    unfold State.moveFrame
    dsimp only
    (repeat' split) <;> simp_all [State.writeFrame_off, State.takePlace_off, State.charge_off, State.discharge_off, State.freePlace_off,
        State.setObj_off, Parts.le])

theorem State.loseLot_off {kp : Parts} (hk : Parts.le { fl := true, ti := true, cw := true, sv := true } kp = true := by rfl) (s : State)
    (slot : Nat) : (State.loseLot s slot).off kp = s.off kp :=
  State.off_mono hk (by
    unfold State.loseLot
    simp [State.setLot_off, State.frameLost_off, Parts.le, foldl_off])

theorem State.settle_off {kp : Parts} (hk : Parts.le { dr := true, fl := true } kp = true := by rfl) (s : State) : (State.settle s).off kp = s.off kp :=
  State.off_mono hk (by
    unfold State.settle
    simp [State.setSub_off, State.off_with_fl, State.off_ite, foldl_off])

theorem State.holdSub_off {kp : Parts} (hk : Parts.le { dr := true } kp = true := by rfl) (s : State) (c : Nat) : (State.holdSub s c).off kp = s.off kp :=
  State.off_mono hk (by
    unfold State.holdSub
    simp [State.setSub_off, State.off_ite])

theorem State.claimAll_off {kp : Parts} (hk : Parts.le { ti := true, sv := true } kp = true := by rfl) (s : State) (ns : List Nat) (c : Nat)
    : (State.claimAll s ns c).off kp = s.off kp :=
  State.off_mono hk (by
    unfold State.claimAll
    simp [State.modClaim_off, Parts.le, foldl_off])

theorem State.unclaimAll_off {kp : Parts} (hk : Parts.le { pages := true, ti := true } kp = true := by rfl) (s : State) (ns : List Nat) (c : Nat)
    : (State.unclaimAll s ns c).off kp = s.off kp :=
  State.off_mono hk (by
    unfold State.unclaimAll
    simp [State.modUnclaim_off, Parts.le, foldl_off])

theorem State.freeObjects_off {kp : Parts}
    (hk : Parts.le { dr := true, tile := true, pages := true, fl := true, ti := true, cw := true, sv := true } kp = true := by rfl) (s : State)
    (owner : W16) (ns : List Nat) : (s.freeObjects owner ns).off kp = s.off kp :=
  State.off_mono hk (by
    refine foldl_off _ _ _ fun s n => ?_
    dsimp only
    exact off_of_ite (off_of_ite (State.setObj_off _ _ _ rfl) (State.freeObject_off rfl ..)) rfl)

theorem State.dropOvClaims_off {kp : Parts} (hk : Parts.le { pages := true, ti := true } kp = true := by rfl) (s : State) (v : Nat)
    : (s.dropOvClaims v).off kp = s.off kp :=
  State.off_mono hk (by
    exact foldl_off _ _ _ fun s q => State.unclaimAll_off rfl ..)

theorem State.tryFreeOverlay_off {kp : Parts}
    (hk : Parts.le { dr := true, tile := true, pages := true, fl := true, ti := true, cw := true, ho := true, sv := true } kp = true := by rfl)
    (s : State) (v : Nat) : (State.tryFreeOverlay s v).off kp = s.off kp :=
  State.off_mono hk (by
    unfold State.tryFreeOverlay
    dsimp only
    (repeat' split) <;> simp_all [State.freeObjects_off, State.setOv_off, State.dropOvClaims_off, State.finish_off, Parts.le])

theorem State.tryFreeModel_off {kp : Parts}
    (hk : Parts.le { dr := true, tile := true, pages := true, fl := true, ti := true, cw := true, sv := true } kp = true := by rfl) (s : State)
    (m : Nat) : (State.tryFreeModel s m).off kp = s.off kp :=
  State.off_mono hk (by
    unfold State.tryFreeModel
    dsimp only
    (repeat' split) <;> simp_all [State.unclaimAll_off, State.freeObjects_off, State.setModel_off, Parts.le])

theorem State.tryRebinds_off {kp : Parts} (hk : Parts.le { ho := true, sv := true } kp = true := by rfl) (s : State)
    : (State.tryRebinds s).off kp = s.off kp :=
  State.off_mono hk (by
    unfold State.tryRebinds
    simp [State.finish_off, State.off_with_sv, Parts.le, foldl_off])

theorem State.sweep_off {kp : Parts}
    (hk : Parts.le { dr := true, tile := true, pages := true, fl := true, ti := true, cw := true, ho := true, sv := true } kp = true := by rfl)
    (s : State) : (State.sweep s).off kp = s.off kp :=
  State.off_mono hk (by
    unfold State.sweep
    simp [State.tryFreeOverlay_off, State.settle_off, State.tryRebinds_off, State.tryFreeModel_off, Parts.le, foldl_off])

theorem State.putEntries_off {kp : Parts} (hk : Parts.le { ho := true, sv := true } kp = true := by rfl) (s : State) (k : Nat) (rel : List W32)
    (fin : Option (Nat × Nat)) (ov : Option W16) : (State.putEntries s k rel fin ov).off kp = s.off kp :=
  State.off_mono hk (by
    unfold State.putEntries
    simp [State.setSess_off, State.setRing_off])

theorem State.dropMember_off {kp : Parts} (hk : Parts.le { sv := true } kp = true := by rfl) (s : State) (k : Nat)
    : (State.dropMember s k).off kp = s.off kp :=
  State.off_mono hk (by
    unfold State.dropMember
    dsimp only
    (repeat' split) <;> simp_all [State.setSess_off, State.setTen_off, State.setModel_off, Parts.le])

theorem State.endSession_off {kp : Parts}
    (hk : Parts.le { dr := true, tile := true, pages := true, fl := true, ti := true, cw := true, ho := true, sv := true } kp = true := by rfl)
    (s : State) (k : Nat) (status : Nat) : (State.endSession s k status).off kp = s.off kp :=
  State.off_mono hk (by
    unfold State.endSession
    simp [State.dropMember_off, State.setSess_off, State.sweep_off, State.putEntries_off, State.off_ite, Parts.le])

theorem State.endAll_off {kp : Parts}
    (hk : Parts.le { dr := true, tile := true, pages := true, fl := true, ti := true, cw := true, ho := true, sv := true } kp = true := by rfl)
    (s : State) (ks : List Nat) (status : Nat) : (State.endAll s ks status).off kp = s.off kp :=
  State.off_mono hk (by
    unfold State.endAll
    simp [State.endSession_off, Parts.le, foldl_off])

theorem State.failMembers_off {kp : Parts} (hk : Parts.le { sv := true } kp = true := by rfl) (s : State) (m : Nat) (ov : Option W16)
    : (State.failMembers s m ov).off kp = s.off kp :=
  State.off_mono hk (by
    unfold State.failMembers
    dsimp only
    (repeat' split) <;> simp_all [State.setModel_off, Parts.le])

theorem State.dropDoomed_off {kp : Parts}
    (hk : Parts.le { dr := true, tile := true, pages := true, fl := true, ti := true, cw := true, ho := true, sv := true } kp = true := by rfl)
    (s : State) (m : Nat) : (State.dropDoomed s m).off kp = s.off kp :=
  State.off_mono hk (by
    simp only [State.dropDoomed]
    (repeat' split) <;> (try simp [State.endAll_off, Parts.le]))

theorem State.tierCheck_off {kp : Parts}
    (hk : Parts.le { dr := true, tile := true, pages := true, fl := true, ti := true, cw := true, ho := true, sv := true } kp = true := by rfl)
    (s : State) (m : Nat) : (State.tierCheck s m).off kp = s.off kp :=
  State.off_mono hk (by
    simp only [State.tierCheck]
    (repeat' split) <;> (try simp [State.dropDoomed_off, State.endAll_off, Parts.le]))

theorem State.takeExtents_off {kp : Parts}
    (hk : Parts.le { dr := true, tile := true, fl := true, ti := true, sv := true } kp = true := by rfl) {s t : State} {home n i : Nat}
        {acc ps : List Nat} (h : s.takeExtents home n i acc = some (t, ps)) : t.off kp = s.off kp :=
  State.off_mono hk (by
    induction n generalizing s i acc with
    | zero => cases h; rfl
    | succ n ih =>
      unfold State.takeExtents at h
      split at h
      · cases h
      · refine (ih h).trans ?_
        simp [State.setRefs_off, State.clearPages_off, State.off_with_ti, Parts.le])

theorem State.addBlock_off {kp : Parts}
    (hk : Parts.le { dr := true, tile := true, fl := true, ti := true, sv := true } kp = true := by rfl) {s t : State} {tn : Nat} {m : ModelD}
        {ps : List Nat} (h : s.addBlock tn m = .ok (t, ps)) : t.off kp = s.off kp :=
  State.off_mono hk (by
    unfold State.addBlock at h
    dsimp only at h
    split at h
    · cases h
    · split at h
      · cases h
      · next h1 =>
        cases h
        exact (State.charge_off rfl ..).trans (State.takeExtents_off rfl h1))

theorem State.dropExtent_off {kp : Parts} (hk : Parts.le { ti := true, sv := true } kp = true := by rfl) (s : State) (tenant : Nat) (p : Nat)
    : (State.dropExtent s tenant p).off kp = s.off kp :=
  State.off_mono hk (by
    unfold State.dropExtent
    simp [State.discharge_off, State.givePages_off, State.setRefs_off, State.off_ite, Parts.le])

theorem State.copyExtent_off {kp : Parts} (hk : Parts.le { dr := true, tile := true, arr := true, fl := true } kp = true := by rfl) (s : State)
    (src : Nat) (dst : Nat) (c : Nat) : (State.copyExtent s src dst c).off kp = s.off kp :=
  State.off_mono hk (by
    unfold State.copyExtent
    dsimp only
    (repeat' first | (refine (foldl_off _ _ _ fun _ _ => ?_).trans ?_) | simp_all [State.readChunks_off, State.writeChunks_off, Parts.le]))

theorem State.makeCurrent_off {kp : Parts} (hk : Parts.le { sy := true, arr := true, dm := true } kp = true := by rfl) (s : State) (c off : Nat)
    (x : Chan) : (s.makeCurrent c off x).off kp = s.off kp :=
  State.off_mono hk (by
    unfold State.makeCurrent
    dsimp only
    split
    · exact State.setChan_off _ _ _ rfl
    · split
      · split
        · exact (State.off_with_sy _ rfl).trans (State.setChan_off _ _ _ rfl)
        · exact State.setChan_off _ _ _ rfl
      · exact State.setChan_off _ _ _ rfl)

theorem State.trigger_off {kp : Parts} (hk : Parts.le { dm := true } kp = true := by rfl) (s : State) (c : Nat) : (State.trigger s c).off kp = s.off kp :=
  State.off_mono hk (by
    unfold State.trigger
    simp [State.setChan_off])

theorem State.chanRested_off {kp : Parts} (hk : Parts.le { th := true } kp = true := by rfl) (s : State) (c : Nat)
    : (State.chanRested s c).off kp = s.off kp :=
  State.off_mono hk (by
    unfold State.chanRested
    simp [State.wakeFor_off])

theorem State.blockRead_off {kp : Parts} (hk : Parts.le { cw := true } kp = true := by rfl) (s : State) (c : Nat) (d : List Byte)
    : (State.blockRead s c d).off kp = s.off kp :=
  State.off_mono hk (by
    unfold State.blockRead
    simp [State.cwRequest_off, Parts.le])

theorem State.burstRequest_off {kp : Parts} (hk : Parts.le { cw := true } kp = true := by rfl) (s : State) (c : Nat) (d : List Byte) (k : Nat)
    : (State.burstRequest s c d k).off kp = s.off kp :=
  State.off_mono hk (by
    unfold State.burstRequest
    simp [State.cwRequest_off, Parts.le])

theorem State.dropReqs_off {kp : Parts} (hk : Parts.le { cw := true } kp = true := by rfl) (s : State) (c : Nat) : (State.dropReqs s c).off kp = s.off kp :=
  State.off_mono hk (by
    unfold State.dropReqs
    simp [State.off_with_cw])

theorem State.dropReads_off {kp : Parts} (hk : Parts.le { cw := true } kp = true := by rfl) (s : State) (c : Nat) (pos : Nat) (n : Nat)
    : (State.dropReads s c pos n).off kp = s.off kp :=
  State.off_mono hk (by
    simp [State.dropReads, State.off])

theorem State.endXfer_off {kp : Parts} (hk : Parts.le { dm := true } kp = true := by rfl) (s : State) (c : Nat) (code : Nat)
    : (State.endXfer s c code).off kp = s.off kp :=
  State.off_mono hk (by
    simp [State.endXfer, State.off])

theorem State.linkFail_off {kp : Parts} (hk : Parts.le { dm := true } kp = true := by rfl) (s : State) (c : Nat) : (State.linkFail s c).off kp = s.off kp :=
  State.off_mono hk (by
    unfold State.linkFail
    dsimp only
    (repeat' split) <;> simp_all [State.setChan_off, State.endXfer_off, Parts.le])

theorem State.recordEnd_off {kp : Parts} (hk : Parts.le { tile := true, sy := true, arr := true, dm := true } kp = true := by rfl) (s : State)
    (c : Nat) (code : Nat) : (State.recordEnd s c code).off kp = s.off kp :=
  State.off_mono hk (by
    unfold State.recordEnd
    dsimp only
    (repeat' split) <;> simp_all [State.weldWrite_off, State.setChan_off, State.sendSignal_off, Parts.le])

theorem State.descEnd_off {kp : Parts}
    (hk : Parts.le { th := true, tile := true, sy := true, arr := true, dm := true, cw := true } kp = true := by rfl) (s : State) (c : Nat)
    (code : Nat) : (State.descEnd s c code).off kp = s.off kp :=
  State.off_mono hk (by
    unfold State.descEnd
    dsimp only
    (repeat' split) <;> simp_all [State.dropReqs_off, State.recordEnd_off, State.chanRested_off, State.setChan_off, State.makeCurrent_off, Parts.le])

theorem State.abortChan_off {kp : Parts}
    (hk : Parts.le { th := true, tile := true, sy := true, arr := true, dm := true, cw := true } kp = true := by rfl) (s : State) (c : Nat)
    : (State.abortChan s c).off kp = s.off kp :=
  State.off_mono hk (by
    unfold State.abortChan
    dsimp only
    (repeat' split) <;> simp_all [State.dropReqs_off, State.recordEnd_off, State.setChan_off, State.chanRested_off, State.cancelTrigger_off, Parts.le])

theorem State.grantBurst_off {kp : Parts} (hk : Parts.le { str := true, dm := true, cw := true } kp = true := by rfl) (s : State) (c : Nat)
    (k : Nat) : (State.grantBurst s c k).off kp = s.off kp :=
  State.off_mono hk (by
    unfold State.grantBurst
    dsimp only
    (repeat' split) <;> simp_all [State.sendMsg_off, State.travel_off, State.setChan_off, State.endXfer_off, State.burstRequest_off, Parts.le])

theorem State.shadowsAgain_off {kp : Parts} (hk : Parts.le { ho := true } kp = true := by rfl) (s : State) (old : State)
    : (State.shadowsAgain s old).off kp = s.off kp :=
  State.off_mono hk (by
    unfold State.shadowsAgain
    dsimp only
    (repeat' first | split | (refine (foldl_off _ _ _ fun _ _ => ?_).trans ?_) | simp_all [State.hostWrite_off, Parts.le]))

theorem State.carry_off {kp : Parts} (hk : Parts.le { ho := true } kp = true := by rfl) (s : State) (f : Nat → HPort) (g : Ring → HPort)
    : (State.carry s f g).off kp = s.off kp :=
  State.off_mono hk (by
    unfold State.carry
    simp [State.shadowsAgain_off, State.off_with_ho, Parts.le])

theorem State.moveCarriage_off {kp : Parts} (hk : Parts.le { ho := true } kp = true := by rfl) (s : State) (a : HPort) (b : HPort)
    : (State.moveCarriage s a b).off kp = s.off kp :=
  State.off_mono hk (by
    unfold State.moveCarriage
    simp [State.carry_off, Parts.le])

theorem State.hostPortFails_off {kp : Parts} (hk : Parts.le { fl := true, ho := true } kp = true := by rfl) (s : State) (p : HPort)
    : (State.hostPortFails s p).off kp = s.off kp :=
  State.off_mono hk (by
    unfold State.hostPortFails
    simp [State.setPort_off, State.moveCarriage_off, State.detect_off, State.off_ite, Parts.le])

theorem State.portUp_off {kp : Parts} (hk : Parts.le { ho := true } kp = true := by rfl) (s : State) (p : HPort) : (State.portUp s p).off kp = s.off kp :=
  State.off_mono hk (by
    unfold State.portUp
    simp [State.setPort_off, State.moveCarriage_off, State.off_ite, Parts.le])

theorem State.hostAddress_off {kp : Parts} (hk : Parts.le { fl := true } kp = true := by rfl) (s : State) (p : HPort) (off : Nat) (write : Nat)
    : (State.hostAddress s p off write).off kp = s.off kp :=
  State.off_mono hk (by
    unfold State.hostAddress
    simp [State.detect_off])

theorem State.ringIndexLog_off {kp : Parts} (hk : Parts.le { fl := true } kp = true := by rfl) (s : State) (ref : W32) (v : W32)
    : (State.ringIndexLog s ref v).off kp = s.off kp :=
  State.off_mono hk (by
    unfold State.ringIndexLog
    simp [State.logSerial_off, State.off_ite, Parts.le])

theorem State.coalesceEnd_off {kp : Parts} (hk : Parts.le { ho := true } kp = true := by rfl) (s : State) (p : HPort) (v : Nat) (us : Nat) (i : Irq)
    : (State.coalesceEnd s p v us i).1.off kp = s.off kp :=
  State.off_mono hk (by
    simp only [State.coalesceEnd]
    (repeat' split) <;> (try simp [State.msix_off, Parts.le]))

theorem State.serialLog_off {kp : Parts} (hk : Parts.le { fl := true } kp = true := by rfl) (s : State) (q : Nat) (ref : W32) (v : W32)
    : (State.serialLog s q ref v).off kp = s.off kp :=
  State.off_mono hk (by
    unfold State.serialLog
    simp [State.logSerial_off, State.off_ite, Parts.le])

theorem State.refill_off {kp : Parts} (hk : Parts.le { fl := true, ho := true, sv := true } kp = true := by rfl) (s : State) (h : CmdHdr) (n : W32)
    (items : List Refill) : (State.refill s h n items).off kp = s.off kp :=
  State.off_mono hk (by
    unfold State.refill
    dsimp only
    (repeat' split) <;> simp_all [State.finish_off, State.serialLog_off, State.setTen_off, State.off_with_fl_sv, Parts.le, foldl_off])

theorem State.modelLoad_off {kp : Parts} (hk : Parts.le { ho := true, sv := true } kp = true := by rfl) (s : State) (h : CmdHdr) (m : W16)
    (b : List Byte) : (State.modelLoad s h m b).off kp = s.off kp :=
  State.off_mono hk (by
    unfold State.modelLoad
    (repeat' split) <;> simp [State.finish_off, State.setModel_off, State.off_ite, Parts.le])

theorem State.modelPublish_off {kp : Parts} (hk : Parts.le { dr := true, fl := true, ti := true, ho := true, sv := true } kp = true := by rfl)
    (s : State) (h : CmdHdr) (m : W16) : (State.modelPublish s h m).off kp = s.off kp :=
  State.off_mono hk (by
    unfold State.modelPublish
    (repeat' split) <;> simp [State.finish_off, State.claimAll_off, State.setModel_off, Parts.le])

theorem State.overlayLoad_off {kp : Parts} (hk : Parts.le { ho := true, sv := true } kp = true := by rfl) (s : State) (h : CmdHdr) (v : W16)
    (m : W16) (series : W16) (gen : W32) (recs : List Byte) : (State.overlayLoad s h v m series gen recs).off kp = s.off kp :=
  State.off_mono hk (by
    unfold State.overlayLoad
    (repeat' split) <;> simp [State.finish_off, State.setOv_off, State.off_ite, Parts.le])

theorem State.overlayPublish_off {kp : Parts}
    (hk : Parts.le { dr := true, tile := true, pages := true, fl := true, ti := true, cw := true, ho := true, sv := true } kp = true := by rfl)
    (s : State) (h : CmdHdr) (v : W16) : (State.overlayPublish s h v).off kp = s.off kp :=
  State.off_mono hk (by
    unfold State.overlayPublish
    (repeat' split) <;> simp [State.finish_off, State.setOv_off, State.sweep_off, State.serialLog_off, State.off_ite, Parts.le])

theorem State.flagRebind_off {kp : Parts} (hk : Parts.le { sv := true } kp = true := by rfl) (s : State) (p : Sess → Bool)
    : (State.flagRebind s p).off kp = s.off kp :=
  State.off_mono hk (by
    unfold State.flagRebind
    simp [State.off_with_sv])

theorem State.sessionOpen_off {kp : Parts} (hk : Parts.le { ti := true, ho := true, sv := true } kp = true := by rfl) (s : State) (h : CmdHdr)
    (m : W16) (series : W16) (p : SessParams) : (State.sessionOpen s h m series p).off kp = s.off kp :=
  State.off_mono hk (by
    unfold State.sessionOpen
    (repeat' split) <;> simp [State.finish_off, State.setSess_off, State.claimAll_off, State.off_ite, Parts.le])

theorem State.sessionAppend_off {kp : Parts} (hk : Parts.le { ho := true, sv := true } kp = true := by rfl) (s : State) (h : CmdHdr) (hd : W32)
    (fin : Bool) (toks : List W32) : (State.sessionAppend s h hd fin toks).off kp = s.off kp :=
  State.off_mono hk (by
    unfold State.sessionAppend
    (repeat' split) <;> simp [State.finish_off, State.setSess_off, State.off_ite, Parts.le])

theorem State.atBoundary_off {kp : Parts} (hk : Parts.le { sv := true } kp = true := by rfl) (s : State) (b : Boundary)
    : (State.atBoundary s b).off kp = s.off kp :=
  State.off_mono hk (by
    unfold State.atBoundary
    simp [State.off_with_sv])

theorem State.dropPending_off {kp : Parts} (hk : Parts.le { pages := true, ti := true } kp = true := by rfl) (s : State) (k : Nat)
    : (State.dropPending s k).off kp = s.off kp :=
  State.off_mono hk (by
    unfold State.dropPending
    simp [State.unclaimAll_off, State.off_ite, Parts.le])

theorem State.cancelAt_off {kp : Parts}
    (hk : Parts.le { dr := true, tile := true, pages := true, fl := true, ti := true, cw := true, ho := true, sv := true } kp = true := by rfl)
    (s : State) (h : CmdHdr) (hd : W32) (done : List (W32 × Nat)) : (State.cancelAt s h hd done).1.off kp = s.off kp :=
  State.off_mono hk (by
    unfold State.cancelAt
    (repeat' split) <;> simp [State.finish_off, State.finishAfter_off, State.endSession_off, State.dropPending_off, Parts.le])

theorem State.closeAt_off {kp : Parts}
    (hk : Parts.le { dr := true, tile := true, pages := true, fl := true, ti := true, cw := true, ho := true, sv := true } kp = true := by rfl)
    (s : State) (h : CmdHdr) (hd : W32) : (State.closeAt s h hd).off kp = s.off kp :=
  State.off_mono hk (by
    unfold State.closeAt
    (repeat' split) <;> simp [State.finish_off, State.dropExtent_off, State.unclaimAll_off, State.sweep_off, State.setSess_off, Parts.le, foldl_off])

theorem State.forkCopy_off {kp : Parts}
    (hk : Parts.le { dr := true, tile := true, arr := true, fl := true, ti := true, sv := true } kp = true := by rfl) {s t : State} {x : Sess}
        {own : List (List Nat)} (h : s.forkCopy x = .ok (t, own)) : t.off kp = s.off kp :=
  State.off_mono hk (by
    unfold State.forkCopy at h
    split at h
    · cases h; rfl
    · cases hb : s.addBlock x.tenant.toNat (s.modelAt x.model.toNat) with
      | error e => rw [hb] at h; cases h
      | ok r =>
        rw [hb] at h
        cases h
        exact (foldl_off _ _ _ fun s q => State.copyExtent_off rfl ..).trans (State.addBlock_off rfl (ps := r.2) hb))

theorem State.forkAt_off {kp : Parts}
    (hk : Parts.le { dr := true, tile := true, arr := true, fl := true, ti := true, ho := true, sv := true } kp = true := by rfl) (s : State)
    (h : CmdHdr) (hd : W32) (p : SessParams) : (s.forkAt h hd p).off kp = s.off kp :=
  State.off_mono hk (by
    unfold State.forkAt
    cases s.sessOf h.tenant hd with
    | error e => exact State.finish_off rfl ..
    | ok x =>
      refine off_of_ite (State.finish_off rfl ..) (off_of_ite (State.finish_off rfl ..) ?_)
      cases hc : s.forkCopy x with
      | error e => exact State.finish_off rfl ..
      | ok r =>
        dsimp only
        refine Eq.trans (State.finish_off (kp := { dr := true, tile := true, arr := true, fl := true, ti := true, ho := true, sv := true }) rfl _ _ _ _) ?_
        refine Eq.trans (State.claimAll_off (kp := { dr := true, tile := true, arr := true, fl := true, ti := true, ho := true, sv := true }) rfl _ _ _) ?_
        refine Eq.trans (State.setSess_off (k := { dr := true, tile := true, arr := true, fl := true, ti := true, ho := true, sv := true }) _ _ _ rfl) ?_
        exact Eq.trans (foldl_off _ _ _ fun s e => State.setRefs_off
            (k := { dr := true, tile := true, arr := true, fl := true, ti := true, ho := true, sv := true }) _ _ _ rfl) (State.forkCopy_off
            (kp := { dr := true, tile := true, arr := true, fl := true, ti := true, ho := true, sv := true }) rfl (own := r.2) hc))

theorem State.sessionFault_off {kp : Parts}
    (hk : Parts.le { dr := true, tile := true, pages := true, fl := true, ti := true, cw := true, ho := true, sv := true } kp = true := by rfl)
    (s : State) (k : Nat) (cause : W32) : (State.sessionFault s k cause).off kp = s.off kp :=
  State.off_mono hk (by
    unfold State.sessionFault
    simp [State.endSession_off, State.log_off, State.off_ite, Parts.le])

theorem State.failAt_off {kp : Parts}
    (hk : Parts.le { dr := true, tile := true, pages := true, fl := true, ti := true, cw := true, ho := true, sv := true } kp = true := by rfl)
    (s : State) (hd : W32) (cause : W32) : (State.failAt s hd cause).off kp = s.off kp :=
  State.off_mono hk (by
    unfold State.failAt
    simp [State.sessionFault_off, State.off_ite, Parts.le])

theorem State.act_off {kp : Parts}
    (hk : Parts.le { dr := true, tile := true, pages := true, arr := true, fl := true, ti := true, cw := true, ho := true, sv := true } kp = true :=
        by rfl) (x : State × List (W32 × Nat)) (b : Boundary) : (State.act x b).1.off kp = x.1.off kp :=
  State.off_mono hk (by
    cases b with
    | cancel h hd => exact State.cancelAt_off rfl ..
    | close h hd => exact State.closeAt_off rfl ..
    | fork h hd p => exact State.forkAt_off rfl ..
    | fail hd c => exact State.failAt_off rfl ..)

theorem State.boundaries_off {kp : Parts}
    (hk : Parts.le { dr := true, tile := true, pages := true, arr := true, fl := true, ti := true, cw := true, ho := true, sv := true } kp = true :=
        by rfl) (s : State) (m : Nat) (tenant : Option W16) : (s.boundaries m tenant).off kp = s.off kp :=
  State.off_mono hk (by
    exact (foldl_fst_off _ _ _ fun s a => State.act_off rfl ..).trans (State.off_with_sv _ rfl))

theorem State.writeLayer_off {kp : Parts} (hk : Parts.le { tile := true, arr := true } kp = true := by rfl) (s : State) (m : Nat) (t : Nat)
    (layer : Nat) : (State.writeLayer s m t layer).off kp = s.off kp :=
  State.off_mono hk (by
    unfold State.writeLayer
    dsimp only
    (repeat' first | (refine (foldl_off _ _ _ fun _ _ => ?_).trans ?_) | split | simp only [State.weldWrite_off]))

theorem State.stageBlock_off {kp : Parts}
    (hk : Parts.le { dr := true, tile := true, arr := true, fl := true, ti := true, cw := true, sv := true } kp = true := by rfl) (s : State)
    (m : Nat) (t : Nat) (layer : Nat) (u : StageUnit) : (State.stageBlock s m t layer u).off kp = s.off kp :=
  State.off_mono hk (by
    unfold State.stageBlock
    dsimp only
    (repeat' first | split | simp_all [State.readChunks_off, State.agentWriteAs_off, State.frameGone_off, Parts.le]))

theorem State.signalStaged_off {kp : Parts} (hk : Parts.le { sy := true, sv := true } kp = true := by rfl) (s : State) (m : Nat) (t : Nat)
    (layer : Nat) : (State.signalStaged s m t layer).off kp = s.off kp :=
  State.off_mono hk (by
    unfold State.signalStaged
    simp [State.sendSignal_off, State.setModel_off])

theorem State.stageTile_off {kp : Parts}
    (hk : Parts.le { dr := true, tile := true, sy := true, arr := true, fl := true, dm := true, ti := true, cw := true, sv := true } kp = true := by rfl)
        (s : State) (m : Nat) (t : Nat) : (State.stageTile s m t).off kp = s.off kp :=
  State.off_mono hk (by
    unfold State.stageTile
    dsimp only
    (repeat' first | split | (refine (foldl_off _ _ _ fun _ _ => ?_).trans ?_) | simp only [State.weldWrite_off] | simp_all [State.stageBlock_off,
        State.makeCurrent_off, Parts.le]))

theorem State.stageStart_off {kp : Parts}
    (hk : Parts.le { dr := true, tile := true, sy := true, arr := true, fl := true, dm := true, ti := true, cw := true, sv := true } kp = true := by rfl)
        (s : State) (m : Nat) : (State.stageStart s m).off kp = s.off kp :=
  State.off_mono hk (by
    unfold State.stageStart
    apply foldl_off
    intros
    simp [State.stageTile_off, Parts.le])

theorem State.startLayer_off {kp : Parts} (hk : Parts.le { tile := true, sy := true, arr := true, sv := true } kp = true := by rfl) (s : State)
    (m : Nat) (layer : Nat) : (State.startLayer s m layer).off kp = s.off kp :=
  State.off_mono hk (by
    unfold State.startLayer
    dsimp only
    (repeat' first | (refine (foldl_off _ _ _ fun _ _ => ?_).trans ?_) | split | simp only [State.sendSignal_off, State.weldWrite_off]))

theorem State.park_off {kp : Parts} (hk : Parts.le { sv := true } kp = true := by rfl) (s : State) (k : Nat) (why : Nat)
    : (State.park s k why).off kp = s.off kp :=
  State.off_mono hk (by
    unfold State.park
    simp [State.setSess_off])

theorem State.giveBlock_off {kp : Parts} (hk : Parts.le { sv := true } kp = true := by rfl) (s : State) (k : Nat) (ps : List Nat)
    : (s.giveBlock k ps).off kp = s.off kp :=
  State.off_mono hk (by
    exact State.setSess_off _ _ _ rfl)

theorem State.growOne_off {kp : Parts}
    (hk : Parts.le { dr := true, tile := true, fl := true, ti := true, sv := true } kp = true := by rfl) {s t : State} {k : Nat}
    (h : s.growOne k = .ok t) : t.off kp = s.off kp :=
  State.off_mono hk (by
    unfold State.growOne at h
    split at h
    · cases h
    · next r h1 =>
      cases h
      exact (State.giveBlock_off rfl ..).trans (State.addBlock_off rfl (ps := r.2) h1))

theorem State.growTo_off {kp : Parts}
    (hk : Parts.le { dr := true, tile := true, fl := true, ti := true, sv := true } kp = true := by rfl) {s t : State} {k n : Nat}
    (h : s.growTo k n = .ok t) : t.off kp = s.off kp :=
  State.off_mono hk (by
    induction n generalizing s with
    | zero => cases h; rfl
    | succ n ih =>
      unfold State.growTo at h
      split at h
      · cases h
      · next h1 => exact (ih h).trans (State.growOne_off rfl h1))

theorem State.rebindNow_off {kp : Parts} (hk : Parts.le { pages := true, ti := true, sv := true } kp = true := by rfl) (s : State) (k : Nat)
    : (State.rebindNow s k).off kp = s.off kp :=
  State.off_mono hk (by
    unfold State.rebindNow
    dsimp only
    (repeat' split) <;> simp_all [State.unclaimAll_off, State.setSess_off, State.claimAll_off, Parts.le])

theorem State.consider_off {kp : Parts}
    (hk : Parts.le { dr := true, tile := true, pages := true, fl := true, ti := true, sv := true } kp = true := by rfl) (plan : Plan) (step : W32)
    (x : State × List Member × Nat) (k : Nat) : (State.consider plan step x k).1.off kp = x.1.off kp :=
  State.off_mono hk (by
    obtain ⟨s, g, rows⟩ := x
    have h4 : ∀ (c : Prop) [Decidable c] (x y : State × List Member × Nat), x.1.off { dr := true, tile := true, pages := true, fl := true, ti := true,
                                                                                      sv := true } = s.off
        { dr := true, tile := true, pages := true, fl := true, ti := true, sv := true } → y.1.off { dr := true, tile := true, pages := true, fl := true,
                                                                                                    ti := true, sv := true } = s.off
        { dr := true, tile := true, pages := true, fl := true, ti := true, sv := true } → (if c then x else y).1.off
        { dr := true, tile := true, pages := true, fl := true, ti := true, sv := true } = s.off { dr := true, tile := true, pages := true, fl := true,
                                                                                                  ti := true, sv := true } := by
      intro c _ x y hx hy; split <;> assumption
    have hp : ∀ n, (s.park k n).off { dr := true, tile := true, pages := true, fl := true, ti := true, sv := true } = s.off
        { dr := true, tile := true, pages := true, fl := true, ti := true, sv := true } := fun n => State.park_off rfl _ _ _
    unfold State.consider
    dsimp only
    refine h4 _ _ _ rfl (h4 _ _ _ rfl (h4 _ _ _ (hp 1) ?_))
    generalize hr : s.growTo k ((s.sessAt k).lacking (s.sessAt k).stepRows) = e
    cases e with
    | error e => exact hp 2
    | ok s1 =>
      refine h4 _ _ _ (hp 3) (h4 _ _ _ rfl ?_)
      exact (State.rebindNow_off rfl _ _).trans ((State.setSess_off _ _ _ rfl).trans ((State.setTen_off _ _ _ rfl).trans (State.growTo_off rfl hr))))

theorem State.formGroup_off {kp : Parts}
    (hk : Parts.le { dr := true, tile := true, sy := true, pages := true, arr := true, fl := true, ti := true, cw := true, ho := true, sv := true } kp =
        true := by rfl) (s : State) (m : Nat) (plan : Plan)
    (tenant : Option W16) : (s.formGroup m plan tenant).off kp = s.off kp :=
  State.off_mono hk (by
    have h0 := fun (l : List Nat) (x : State × List Member × Nat) => foldl_fst_off
        (k := { dr := true, tile := true, sy := true, pages := true, arr := true, fl := true, ti := true, cw := true, ho := true, sv := true })
        (State.consider plan ((s.modelAt m).stepNo + 1)) l x
      fun s a => State.consider_off rfl ..
    exact off_of_ite (h0 ..) ((State.startLayer_off rfl ..).trans ((State.sweep_off rfl ..).trans ((State.setModel_off _ _ _ rfl).trans (h0 ..)))))

theorem State.applyPlan_off {kp : Parts}
    (hk : Parts.le { dr := true, tile := true, sy := true, arr := true, fl := true, dm := true, ti := true, cw := true, sv := true } kp = true := by rfl)
        (s : State) (m : Nat) : (State.applyPlan s m).off kp = s.off kp :=
  State.off_mono hk (by
    unfold State.applyPlan
    dsimp only
    (repeat' split) <;> simp_all [State.setModel_off, State.stageStart_off, Parts.le])

theorem State.pass_off {kp : Parts}
    (hk : Parts.le { dr := true, tile := true, sy := true, pages := true, arr := true, fl := true, dm := true, ti := true, cw := true, ho := true,
                     sv := true } kp = true := by rfl) (s : State) (m : Nat) (tenant : Option W16) : (State.pass s m tenant).off kp = s.off kp :=
  State.off_mono hk (by
    unfold State.pass
    dsimp only
    (repeat' split) <;> simp_all [State.applyPlan_off, State.tierCheck_off, State.boundaries_off, State.formGroup_off, Parts.le])

theorem State.stagingFailed_off {kp : Parts} (hk : Parts.le { fl := true, ti := true, cw := true, sv := true } kp = true := by rfl) (s : State)
    (n u code : Nat) : (s.stagingFailed n u code).off kp = s.off kp :=
  State.off_mono hk (by
    have h0 : ∀ (l : List (Nat × ModelD)) (r : State), (l.foldl (fun s q =>
        if q.2.group.isNone then s
        else if q.2.objects.contains n then s.failMembers q.1 none
        else (s.sv.overlay.filter fun v => v.2.model.toNat = q.1 && v.2.objects.contains n).foldl
          (fun s v => s.failMembers q.1 (some (BitVec.ofNat 16 v.1))) s) r).off { fl := true, ti := true, cw := true, sv := true } = r.off
              { fl := true, ti := true, cw := true, sv := true } := by
      intro l r
      refine foldl_off _ _ _ fun s q => ?_
      split
      · rfl
      · split
        · exact State.failMembers_off rfl ..
        · exact foldl_off _ _ _ fun s v => State.failMembers_off rfl ..
    unfold State.stagingFailed
    dsimp only
    split
    · exact (State.frameGone_off rfl ..).trans (h0 ..)
    · exact h0 ..)

theorem State.stageEnd_off {kp : Parts} (hk : Parts.le { sy := true, arr := true, dm := true, sv := true } kp = true := by rfl) (s : State)
    (c : Nat) (code : Nat) (next : Nat) (y4 : Option (Nat × Nat × Nat × Bool)) : (State.stageEnd s c code next y4).off kp = s.off kp :=
  State.off_mono hk (by
    unfold State.stageEnd
    dsimp only
    (repeat' split) <;> simp_all [State.setModel_off, State.makeCurrent_off, Parts.le])

theorem State.drifts_off {kp : Parts} (hk : Parts.le { fl := true } kp = true := by rfl) (s : State) (m : Nat) (old : ModelD) (new : ModelD)
    : (State.drifts s m old new).off kp = s.off kp :=
  State.off_mono hk (by
    unfold State.drifts
    simp [State.log_off, State.off_ite, foldl_off])

theorem State.putKv_off {kp : Parts} (hk : Parts.le { dr := true, tile := true, arr := true, fl := true } kp = true := by rfl) (s : State)
    (y1 : Sess) (md : ModelD) (pos : Nat) (e : KvEntry) : (State.putKv s y1 md pos e).off kp = s.off kp :=
  State.off_mono hk (by
    unfold State.putKv
    dsimp only
    (repeat' split) <;> simp_all [State.agentWriteAs_off, Parts.le])

theorem State.putKvs_off {kp : Parts} (hk : Parts.le { dr := true, tile := true, arr := true, fl := true } kp = true := by rfl) (s : State)
    (m : Nat) (q : Member) (outs : List StepOut) : (State.putKvs s m q outs).off kp = s.off kp :=
  State.off_mono hk (by
    unfold State.putKvs
    dsimp only
    (repeat' first | split | (refine (foldl_off _ _ _ fun _ _ => ?_).trans ?_) | simp_all [State.putKv_off, Parts.le]))

theorem State.commitMember_off {kp : Parts} (hk : Parts.le { fl := true, sv := true } kp = true := by rfl) (s : State) (m : Nat)
    (outs : List StepOut) (q : Member) : (State.commitMember s m outs q).1.off kp = s.off kp :=
  State.off_mono hk (by
    unfold State.commitMember
    (repeat' split) <;> simp [State.setTen_off, State.setSess_off, State.log_off, State.off_ite])

theorem State.commitOut_off {kp : Parts} (hk : Parts.le { ho := true, sv := true } kp = true := by rfl) (s : State) (k : Nat) (ov : Option W16)
    (o : TokOut) : (State.commitOut s k ov o).off kp = s.off kp :=
  State.off_mono hk (by
    unfold State.commitOut
    (repeat' split) <;> simp [State.putEntries_off, State.setSess_off, Parts.le])

theorem State.commitGroup_off {kp : Parts}
    (hk : Parts.le { dr := true, tile := true, pages := true, arr := true, fl := true, ti := true, cw := true, ho := true, sv := true } kp = true :=
        by rfl) (s : State) (m : Nat) (g : Group) (outs : List StepOut) (counts : List CalCount) : (s.commitGroup m g outs counts).off kp = s.off kp :=
  State.off_mono hk (by
    refine (State.sweep_off rfl ..).trans ((foldl_off _ _ _ fun s r => State.commitOut_off rfl ..).trans ((State.drifts_off rfl ..).trans
      ((State.setModel_off _ _ _ rfl).trans ((foldl_fst_off _ _ _ fun x q => ?_).trans (foldl_off _ _ _ fun s q => State.putKvs_off rfl ..)))))
    exact State.commitMember_off rfl ..)

theorem State.commitNow_off {kp : Parts}
    (hk : Parts.le { dr := true, tile := true, pages := true, arr := true, fl := true, ti := true, cw := true, ho := true, sv := true } kp = true :=
        by rfl) (s : State) (m : Nat) (outs : List StepOut) (counts : List CalCount) : (State.commitNow s m outs counts).off kp = s.off kp :=
  State.off_mono hk (by
    unfold State.commitNow
    dsimp only
    (repeat' split) <;> simp_all [State.dropDoomed_off, State.commitGroup_off, Parts.le])

theorem State.slotPass_off {kp : Parts}
    (hk : Parts.le { dr := true, tile := true, sy := true, pages := true, arr := true, fl := true, dm := true, ti := true, cw := true, ho := true,
                     sv := true } kp = true := by rfl) (s : State) (m : Nat) : (State.slotPass s m).off kp = s.off kp :=
  State.off_mono hk (by
    unfold State.slotPass
    dsimp only
    (repeat' split) <;> simp_all [State.applyPlan_off, State.pass_off, State.setModel_off, Parts.le])

theorem State.answer_off {kp : Parts} (hk : Parts.le { dr := true } kp = true := by rfl) (s : State) (c : Nat) (r : ReadResp)
    : (State.answer s c r).off kp = s.off kp :=
  State.off_mono hk (by
    unfold State.answer
    simp [State.setSub_off])

theorem State.goesOut_off {kp : Parts} (hk : Parts.le { dr := true } kp = true := by rfl) (s : State) (c : Nat) (q : QReq) (m : Option Sample)
    : (State.goesOut s c q m).off kp = s.off kp :=
  State.off_mono hk (by
    unfold State.goesOut
    simp [State.setSub_off])

theorem State.issueCol_off {kp : Parts} (hk : Parts.le { dr := true, unit := true, fl := true } kp = true := by rfl) (s : State) (q : QReq)
    (now : Nat) : (State.issueCol s q now).off kp = s.off kp :=
  State.off_mono hk (by
    unfold State.issueCol
    dsimp only
    (repeat' split) <;> simp_all [State.colGo_off, State.goesOut_off, State.setBank_off, State.dropReq_off, State.answer_off,
        State.command_off, State.setUnit_off, State.off_with_dr, Parts.le])

theorem State.rowDo_off {kp : Parts} (hk : Parts.le { dr := true } kp = true := by rfl) (s : State) (b : Nat) (cmd : Cmd) (now : Nat)
    : (State.rowDo s b cmd now).off kp = s.off kp :=
  State.off_mono hk (by
    simp only [State.rowDo]
    (repeat' split) <;> (try simp [State.rowAct_off, State.rowClose_off, Parts.le]))

theorem State.issue_off {kp : Parts} (hk : Parts.le { dr := true, unit := true, fl := true } kp = true := by rfl) (s : State) (q : QReq) (cmd : Cmd)
    (now : Nat) : (State.issue s q cmd now).off kp = s.off kp :=
  State.off_mono hk (by
    simp only [State.issue]
    (repeat' split) <;> (try simp [State.issueCol_off, State.rowDo_off, Parts.le]))

theorem State.scrubCw_off {kp : Parts} (hk : Parts.le { dr := true, fl := true } kp = true := by rfl) (s : State) (c : Nat) (bank : Nat) (row : Nat)
    (col : Nat) (errs : List SymErr) : (State.scrubCw s c bank row col errs).2.off kp = s.off kp :=
  State.off_mono hk (by
    simp only [State.scrubCw]
    (repeat' split) <;> (try simp [State.laneDegraded_off, State.setSub_off, State.setStack_off, State.detect_off, State.off_with_dr, Parts.le]))

theorem State.scrubNext_off {kp : Parts} (hk : Parts.le { dr := true } kp = true := by rfl) (s : State) (c : Nat)
    : (State.scrubNext s c).off kp = s.off kp :=
  State.off_mono hk (by
    simp only [State.scrubNext]
    (repeat' split) <;> (try simp [State.setSub_off, State.setStack_off]))

theorem State.scrubDo_off {kp : Parts} (hk : Parts.le { dr := true, fl := true } kp = true := by rfl) (s : State) (c : Nat) (cmd : Cmd) (now : Nat)
    : (State.scrubDo s c cmd now).off kp = s.off kp :=
  State.off_mono hk (by
    simp only [State.scrubDo]
    (repeat' split) <;> (try simp [State.rowAct_off, State.scrubNext_off, State.rowClose_off, State.colGo_off, State.setBank_off, State.setSub_off,
        State.scrubCw_off, State.off_with_dr, Parts.le]))

theorem State.burstDo_off {kp : Parts} (hk : Parts.le { dr := true } kp = true := by rfl) (s : State) (c : Nat) (cmd : Cmd) (now : Nat)
    : (State.burstDo s c cmd now).off kp = s.off kp :=
  State.off_mono hk (by
    simp only [State.burstDo]
    (repeat' split) <;> (try simp [State.colGo_off, State.setSub_off, State.rowDo_off, State.off_with_dr, Parts.le]))

theorem State.initDone_off {kp : Parts} (hk : Parts.le { ho := true } kp = true := by rfl) (s : State) (h : CmdHdr)
    : (State.initDone s h).off kp = s.off kp :=
  State.off_mono hk (by
    unfold State.initDone
    simp [State.finish_off, State.off_ite, Parts.le])

theorem State.initAdvance_off {kp : Parts} (hk : Parts.le { dr := true, unit := true, ho := true } kp = true := by rfl) (s : State) (c : Nat)
    : (State.initAdvance s c).off kp = s.off kp :=
  State.off_mono hk (by
    simp only [State.initAdvance]
    (repeat' split) <;> (try simp [State.initDone_off, State.beginInit_off, State.setSub_off, Parts.le]))

theorem State.refreshDo_off {kp : Parts} (hk : Parts.le { dr := true } kp = true := by rfl) (s : State) (b : Nat) (now : Nat)
    : (State.refreshDo s b now).off kp = s.off kp :=
  State.off_mono hk (by
    simp only [State.refreshDo]
    (repeat' split) <;> (try simp [State.rowClose_off, State.refreshAt_off, Parts.le]))

theorem State.issuePick_off {kp : Parts}
    (hk : Parts.le { dr := true, tile := true, arr := true, unit := true, fl := true, ho := true } kp = true := by rfl) (s : State) (c : Nat)
    (now : Nat) (y3 : Pick) : (State.issuePick s c now y3).off kp = s.off kp :=
  State.off_mono hk (by
    simp only [State.issuePick]
    (repeat' split) <;> (try simp [State.refreshDo_off, State.issue_off, State.startWindow_off, State.scrubDo_off, State.initAdvance_off,
        State.burstDo_off, State.rowClose_off, Parts.le]))

theorem State.askRetrain_off {kp : Parts} (hk : Parts.le { dr := true, unit := true } kp = true := by rfl) (s : State) (c : Nat) (cause : Nat)
    : (State.askRetrain s c cause).off kp = s.off kp :=
  State.off_mono hk (by
    simp only [State.askRetrain]
    (repeat' split) <;> (try simp [State.askSlot_off, State.setSub_off, Parts.le]))

theorem State.reopen_off {kp : Parts} (hk : Parts.le { dr := true, unit := true, fl := true } kp = true := by rfl) (s : State) (c : Nat)
    : (State.reopen s c).off kp = s.off kp :=
  State.off_mono hk (by
    simp only [State.reopen]
    (repeat' split) <;> (try simp [State.passSlot_off, State.setSub_off, Parts.le]))

theorem State.subGone_off {kp : Parts} (hk : Parts.le { dr := true, unit := true, ho := true } kp = true := by rfl) (s : State) (c : Nat)
    : (State.subGone s c).off kp = s.off kp :=
  State.off_mono hk (by
    unfold State.subGone
    dsimp only
    (repeat' first | split | (refine (foldl_off _ _ _ fun _ _ => ?_).trans ?_) | simp only [State.setUnit_off] | simp_all [State.initDone_off, Parts.le]))

theorem State.mapOutSub_off {kp : Parts} (hk : Parts.le { dr := true, unit := true, fl := true, ho := true } kp = true := by rfl) (s : State)
    (c : Nat) : (State.mapOutSub s c).off kp = s.off kp :=
  State.off_mono hk (by
    unfold State.mapOutSub
    simp
    (repeat' split) <;> simp_all [State.outOfService_off, State.subGone_off, Parts.le])

theorem State.scrubRun_off {kp : Parts} (hk : Parts.le { dr := true, fl := true } kp = true := by rfl) (s : State) (c n now : Nat)
    : (s.scrubRun c n now).off kp = s.off kp :=
  State.off_mono hk (by
    induction n generalizing s now with
    | zero => rfl
    | succ n ih =>
      unfold State.scrubRun
      dsimp only
      split
      · exact (ih ..).trans (State.scrubDo_off rfl ..)
      · rfl)

theorem State.bankDrop_off {kp : Parts} (hk : Parts.le { dr := true } kp = true := by rfl) (s : State) (b : Nat) : (State.bankDrop s b).off kp = s.off kp :=
  State.off_mono hk (by
    simp only [State.bankDrop]
    (repeat' split) <;> (try simp [State.setBank_off, State.setSub_off]))

theorem State.pairStop_off {kp : Parts} (hk : Parts.le { dr := true, tile := true, sy := true, arr := true, unit := true } kp = true := by rfl)
    (s : State) (b : Nat) : (State.pairStop s b).off kp = s.off kp :=
  State.off_mono hk (by
    unfold State.pairStop
    apply foldl_off
    intros
    simp [State.endJob_off, Parts.le])

theorem State.bankOut_off {kp : Parts}
    (hk : Parts.le { dr := true, tile := true, sy := true, arr := true, unit := true, fl := true } kp = true := by rfl) (s : State) (b : Nat)
    : (State.bankOut s b).off kp = s.off kp :=
  State.off_mono hk (by
    simp only [State.bankOut]
    (repeat' split) <;> (try simp [State.outOfService_off, State.bankDrop_off, State.pairStop_off, State.setSub_off, Parts.le]))

theorem State.dieGone_off {kp : Parts}
    (hk : Parts.le { dr := true, tile := true, sy := true, arr := true, unit := true, ho := true } kp = true := by rfl) (s : State) (d : Nat)
    : (State.dieGone s d).off kp = s.off kp :=
  State.off_mono hk (by
    unfold State.dieGone
    dsimp only
    (repeat' first | (refine (foldl_off _ _ _ fun _ _ => ?_).trans ?_) | simp_all [State.subGone_off, State.unitGone_off, Parts.le]))

theorem State.dieOut_off {kp : Parts}
    (hk : Parts.le { dr := true, tile := true, sy := true, arr := true, unit := true, fl := true, ho := true } kp = true := by rfl) (s : State)
    (d : Nat) : (State.dieOut s d).off kp = s.off kp :=
  State.off_mono hk (by
    unfold State.dieOut
    simp
    (repeat' split) <;> simp_all [State.outOfService_off, State.dieGone_off, Parts.le])

theorem State.stackOut_off {kp : Parts}
    (hk : Parts.le { dr := true, tile := true, sy := true, arr := true, unit := true, fl := true, ho := true } kp = true := by rfl) (s : State)
    (k : Nat) : (s.stackOut k).off kp = s.off kp :=
  State.off_mono hk (by
    refine off_of_ite rfl ?_
    exact (State.outOfService_off _ _ _ rfl).trans ((State.setStack_off _ _ _ rfl).trans (foldl_off _ _ _ fun s i => State.dieGone_off rfl ..)))

theorem State.arrOut_off {kp : Parts} (hk : Parts.le { arr := true, fl := true } kp = true := by rfl) (s : State) (a : Nat)
    : (State.arrOut s a).off kp = s.off kp :=
  State.off_mono hk (by
    unfold State.arrOut
    simp [arrayOut_off, State.off_ite, Parts.le])

theorem State.setScrubHours_off {kp : Parts} (hk : Parts.le { dr := true } kp = true := by rfl) (s : State) (k : Nat) (hours : Nat)
    : (State.setScrubHours s k hours).off kp = s.off kp :=
  State.off_mono hk (by
    unfold State.setScrubHours
    simp [State.setStack_off])

theorem State.addInit_off {kp : Parts} (hk : Parts.le { dr := true, unit := true } kp = true := by rfl) (s : State) (c : Nat) (j : InitJob)
    : (State.addInit s c j).off kp = s.off kp :=
  State.off_mono hk (by
    simp only [State.addInit]
    (repeat' split) <;> (try simp [State.beginInit_off, State.askSlot_off, State.setSub_off, Parts.le]))

theorem State.initPart_off {kp : Parts} (hk : Parts.le { dr := true, unit := true } kp = true := by rfl) (s : State) (h : CmdHdr) (pat : List Byte)
    (q : Nat × Nat) : (State.initPart s h pat q).off kp = s.off kp :=
  State.off_mono hk (by
    unfold State.initPart
    dsimp only
    (repeat' first | split | (refine (foldl_off _ _ _ fun _ _ => ?_).trans ?_) | simp_all [State.addInit_off, Parts.le]))

theorem State.maintInit_off {kp : Parts} (hk : Parts.le { dr := true, unit := true, ho := true } kp = true := by rfl) (s : State) (h : CmdHdr)
    (a n : Nat) : (s.maintInit h a n).off kp = s.off kp :=
  State.off_mono hk (by
    exact off_of_ite (State.finish_off rfl ..) ((State.useFree_off ..).trans (foldl_off _ _ _ fun s q => State.initPart_off rfl ..)))

theorem State.zeroArrays_off {kp : Parts} (hk : Parts.le { arr := true } kp = true := by rfl) (s : State) (t : Nat)
    : (State.zeroArrays s t).off kp = s.off kp :=
  State.off_mono hk (by
    unfold State.zeroArrays
    simp [State.setArr_off])

theorem State.tgClear_off {kp : Parts} (hk : Parts.le { dr := true } kp = true := by rfl) (s : State) (c : Nat) (rows : List Nat)
    : (State.tgClear s c rows).off kp = s.off kp :=
  State.off_mono hk (by
    unfold State.tgClear
    simp [State.off_with_dr])

theorem State.freeThread_off {kp : Parts} (hk : Parts.le { th := true, sy := true } kp = true := by rfl) (s : State) (t : ThrId) :
    (s.freeThread t).off kp = s.off kp :=
  State.off_mono hk ((State.off_with_sy _ rfl).trans (State.setThr_off _ _ _ rfl))

theorem State.arrive_off {kp : Parts} (hk : Parts.le { str := true } kp = true := by rfl) (s : State) (a : Acc) : (s.arrive a).off kp = s.off kp :=
  State.off_mono hk (by
    exact off_elim fun id => State.carryMsg_off rfl ..)

theorem State.respond_off {kp : Parts} (hk : Parts.le { str := true } kp = true := by rfl) (s : State) (t : Nat) (a : Acc)
    : (State.respond s t a).off kp = s.off kp :=
  State.off_mono hk (by
    simp only [State.respond]
    (repeat' split) <;> (try simp [State.travel_off, Parts.le]))

theorem State.accDone_off {kp : Parts} (hk : Parts.le { th := true, str := true, fl := true } kp = true := by rfl) (s : State) (t : Nat) (k : Nat)
    (a : Acc) (data : List Byte) (poison : Bool) : (State.accDone s t k a data poison).off kp = s.off kp :=
  State.off_mono hk (by
    simp only [State.accDone]
    (repeat' split) <;> (try simp [State.respond_off, State.setThr_off, State.thrFaultAt_off, Parts.le]))

theorem State.faultAll_off {kp : Parts}
    (hk : Parts.le { dr := true, tile := true, pages := true, fl := true, ti := true, cw := true, ho := true, sv := true } kp = true := by rfl)
    (s : State) (ks : List Nat) (cause : W32) : (State.faultAll s ks cause).off kp = s.off kp :=
  State.off_mono hk (by
    unfold State.faultAll
    simp [State.sessionFault_off, Parts.le, foldl_off])

theorem State.stopChains_off {kp : Parts}
    (hk : Parts.le { th := true, tile := true, sy := true, arr := true, dm := true, cw := true } kp = true := by rfl) (s : State) (m : Nat)
    : (State.stopChains s m).off kp = s.off kp :=
  State.off_mono hk (by
    unfold State.stopChains
    apply foldl_off
    intros
    simp [State.abortChan_off, Parts.le])

theorem State.abortJobs_off {kp : Parts} (hk : Parts.le { dr := true, unit := true } kp = true := by rfl) (s : State) (m : Nat)
    : (State.abortJobs s m).off kp = s.off kp :=
  State.off_mono hk (by
    unfold State.abortJobs
    apply foldl_off
    intros
    simp
    try ((repeat' split) <;> simp_all [State.setUnit_off, State.abortUnit_off, Parts.le]))

theorem State.stopWork_off {kp : Parts}
    (hk : Parts.le { dr := true, th := true, tile := true, sy := true, arr := true, unit := true, dm := true, cw := true } kp = true := by rfl)
    (s : State) (m : Nat) : (s.stopWork m).off kp = s.off kp :=
  State.off_mono hk (by
    exact (foldl_off _ _ _ fun s q => State.freeThread_off rfl ..).trans ((State.abortJobs_off rfl ..).trans
      ((foldl_off _ _ _ fun s q => State.abortChan_off rfl ..).trans (State.stopChains_off rfl ..))))

theorem State.abortGroup_off {kp : Parts}
    (hk : Parts.le { dr := true, th := true, tile := true, sy := true, pages := true, arr := true, unit := true, fl := true, dm := true, ti := true,
                     cw := true, ho := true, sv := true } kp = true := by rfl) (s : State) (m : Nat) (cause : W32) : (State.abortGroup s m cause).off kp =
        s.off kp :=
  State.off_mono hk (by
    simp only [State.abortGroup]
    (repeat' split) <;> (try simp [State.setModel_off, State.faultAll_off, State.stopWork_off, Parts.le]))

theorem State.abortAll_off {kp : Parts}
    (hk : Parts.le { dr := true, th := true, tile := true, sy := true, pages := true, arr := true, unit := true, fl := true, dm := true, ti := true,
                     cw := true, ho := true, sv := true } kp = true := by rfl) (s : State) (ms : List Nat) (cause : W32) :
        (State.abortAll s ms cause).off kp = s.off kp :=
  State.off_mono hk (by
    unfold State.abortAll
    apply foldl_off
    intros
    simp [State.abortGroup_off, Parts.le])

theorem State.setStrict_off {kp : Parts} (hk : Parts.le { tile := true } kp = true := by rfl) (s : State) (cs : List Nat) (strict : Bool)
    : (State.setStrict s cs strict).off kp = s.off kp :=
  State.off_mono hk (by
    unfold State.setStrict
    apply foldl_off
    intros
    simp [State.setTile_off])

theorem State.cancelOn_off {kp : Parts} (hk : Parts.le { sy := true } kp = true := by rfl) (s : State) (cs : List Nat)
    : (State.cancelOn s cs).off kp = s.off kp :=
  State.off_mono hk (by
    simp only [State.cancelOn]
    (repeat' split) <;> (try simp [State.off_with_sy]))

theorem State.zeroCtr_off {kp : Parts} (hk : Parts.le { sy := true } kp = true := by rfl) (s : State) (c : Nat) : (State.zeroCtr s c).off kp = s.off kp :=
  State.off_mono hk (by
    simp only [State.zeroCtr]
    (repeat' split) <;> (try simp [State.setCtr_off]))

theorem State.restartArrays_off {kp : Parts} (hk : Parts.le { arr := true } kp = true := by rfl) (s : State) (m : Nat)
    : (State.restartArrays s m).off kp = s.off kp :=
  State.off_mono hk (by
    unfold State.restartArrays
    simp [State.setArr_off, State.off_ite, foldl_off])

theorem State.replayNow_off {kp : Parts}
    (hk : Parts.le { dr := true, tile := true, sy := true, arr := true, fl := true, dm := true, ti := true, cw := true, sv := true } kp = true := by rfl)
        (s : State) (m : Nat) (g : Group) : (State.replayNow s m g).off kp = s.off kp :=
  State.off_mono hk (by
    simp only [State.replayNow]
    (repeat' split) <;> (try simp [State.log_off, State.restartArrays_off, State.settle_off, State.startLayer_off, State.stageStart_off,
        State.setModel_off, Parts.le]))

theorem State.quarantine_off {kp : Parts} (hk : Parts.le { pages := true, fl := true, ti := true } kp = true := by rfl) (s : State) (n : Nat)
    (u : Nat) (mirror : Bool) : (State.quarantine s n u mirror).off kp = s.off kp :=
  State.off_mono hk (by
    unfold State.quarantine
    simp [State.writeMaps_off, State.setObj_off, State.off_with_fl_ti, Parts.le])

theorem State.rebuildDone_off {kp : Parts} (hk : Parts.le { pages := true, fl := true, ti := true } kp = true := by rfl) (s : State) (n : Nat)
    (u : Nat) (moved : Bool) : (State.rebuildDone s n u moved).off kp = s.off kp :=
  State.off_mono hk (by
    unfold State.rebuildDone
    simp [State.writeMaps_off, State.setObj_off, State.off_with_fl_ti, Parts.le])

theorem State.rebuildMove_off {kp : Parts}
    (hk : Parts.le { dr := true, tile := true, pages := true, arr := true, fl := true, ti := true } kp = true := by rfl) (s : State) (n u : Nat)
    (mirror : Bool) : (s.rebuildMove n u mirror).off kp = s.off kp :=
  State.off_mono hk (by
    unfold State.rebuildMove
    dsimp only
    split
    · exact State.off_with_fl _ rfl
    · refine (State.rebuildDone_off rfl ..).trans ((State.setObj_off _ _ _ rfl).trans ((foldl_off _ _ _ fun s q => ?_).trans
        ((State.clearPages_off rfl ..).trans (State.off_with_fl_ti _ _ rfl rfl))))
      exact (State.writeChunks_off rfl ..).trans (State.readChunks_off rfl ..))

theorem State.objectLost_off {kp : Parts} (hk : Parts.le { fl := true } kp = true := by rfl) (s : State) (n : Nat) (u : Nat)
    : (State.objectLost s n u).off kp = s.off kp :=
  State.off_mono hk (by
    unfold State.objectLost
    simp [State.log_off])

theorem State.markDamaged_off {kp : Parts} (hk : Parts.le { fl := true } kp = true := by rfl) (s : State) (n : Nat) (u : Nat)
    : (State.markDamaged s n u).off kp = s.off kp :=
  State.off_mono hk (by
    unfold State.markDamaged
    simp [State.off_with_fl, State.off_ite])

theorem State.unitGoneBad_off {kp : Parts}
    (hk : Parts.le { dr := true, tile := true, pages := true, fl := true, ti := true, cw := true, ho := true, sv := true } kp = true := by rfl)
    (s : State) (n : Nat) (u : Nat) (cause : W32) : (State.unitGoneBad s n u cause).off kp = s.off kp :=
  State.off_mono hk (by
    unfold State.unitGoneBad
    simp [State.faultAll_off, State.objectLost_off, State.markDamaged_off, State.endAll_off, State.dropMember_off, State.off_with_fl_ti, State.off_ite,
        Parts.le, foldl_off])

theorem State.unitDamaged_off {kp : Parts}
    (hk : Parts.le { dr := true, tile := true, pages := true, fl := true, ti := true, cw := true, ho := true, sv := true } kp = true := by rfl)
    (s : State) (n : Nat) (u : Nat) (mirror : Bool) (cause : W32) : (State.unitDamaged s n u mirror cause).off kp = s.off kp :=
  State.off_mono hk (by
    unfold State.unitDamaged
    (repeat' split) <;> simp [State.unitGoneBad_off, State.quarantine_off, State.setObj_off, State.off_with_fl_ti, State.off_ite, Parts.le])

theorem State.refetched_off {kp : Parts} (hk : Parts.le { dr := true, tile := true, arr := true, fl := true } kp = true := by rfl) (s : State)
    (n : Nat) (u : Nat) : (State.refetched s n u).off kp = s.off kp :=
  State.off_mono hk (by
    unfold State.refetched
    dsimp only
    (repeat' split) <;> simp_all [State.putImage_off, State.unitMended_off, Parts.le])

theorem State.historyLost_off {kp : Parts}
    (hk : Parts.le { dr := true, tile := true, pages := true, fl := true, ti := true, cw := true, ho := true, sv := true } kp = true := by rfl)
    (s : State) (p : Nat) (pos : Nat) (cause : W32) : (State.historyLost s p pos cause).off kp = s.off kp :=
  State.off_mono hk (by
    unfold State.historyLost
    simp [State.sessionFault_off, State.atBoundary_off, State.off_ite, Parts.le, foldl_off])

theorem State.damaged_off {kp : Parts}
    (hk : Parts.le { dr := true, tile := true, pages := true, fl := true, ti := true, cw := true, ho := true, sv := true } kp = true := by rfl)
    (s : State) (d : Damage) (cause : W32) : (State.damaged s d cause).off kp = s.off kp :=
  State.off_mono hk (by
    unfold State.damaged
    (repeat' split) <;> simp [State.unitDamaged_off, State.historyLost_off, Parts.le])

theorem State.dropLots_off {kp : Parts}
    (hk : Parts.le { dr := true, tile := true, fl := true, ti := true, cw := true, sv := true } kp = true := by rfl) (s : State) (p : Nat)
    : (State.dropLots s p).off kp = s.off kp :=
  State.off_mono hk (by
    unfold State.dropLots
    simp [State.loseLot_off, State.takeBack_off, Parts.le, foldl_off])

theorem State.portDown_off {kp : Parts}
    (hk : Parts.le { dr := true, tile := true, fl := true, ti := true, cw := true, sv := true } kp = true := by rfl) (s : State) (p : Nat)
    (state : Nat) : (State.portDown s p state).off kp = s.off kp :=
  State.off_mono hk (by
    unfold State.portDown
    simp [State.dropLots_off, State.log_off, State.lendCheck_off, State.setCw_off, Parts.le])

theorem State.takeAck_off {kp : Parts} (hk : Parts.le { fl := true, cw := true } kp = true := by rfl) (s : State) (p : Nat) (ack : W32)
    : (State.takeAck s p ack).off kp = s.off kp :=
  State.off_mono hk (by
    unfold State.takeAck
    dsimp only
    (repeat' split) <;> simp_all [State.logSerial_off, State.setCw_off, Parts.le])

theorem State.cwProtocol_off {kp : Parts} (hk : Parts.le { fl := true } kp = true := by rfl) (s : State) (p : Nat) (type : Nat) (tag : Option W32)
    (off : Nat) : (State.cwProtocol s p type tag off).off kp = s.off kp :=
  State.off_mono hk (by
    unfold State.cwProtocol
    simp [State.detect_off])

theorem State.deliver_off {kp : Parts} (hk : Parts.le { fl := true, cw := true } kp = true := by rfl) (s : State) (p : Nat) (m : List Byte)
    : (State.deliver s p m).off kp = s.off kp :=
  State.off_mono hk (by
    unfold State.deliver
    simp [State.setCw_off, State.cwProtocol_off, State.off_ite, Parts.le])

theorem State.takePayload_off {kp : Parts} (hk : Parts.le { fl := true, cw := true } kp = true := by rfl) (s : State) (p : Nat) (vc : Nat)
    (b : List Byte) : (State.takePayload s p vc b).off kp = s.off kp :=
  State.off_mono hk (by
    unfold State.takePayload
    simp [State.deliver_off, State.setCw_off, State.off_ite, Parts.le])

theorem State.discardData_off {kp : Parts} (hk : Parts.le { cw := true } kp = true := by rfl) (s : State) (p : Nat)
    : (State.discardData s p).off kp = s.off kp :=
  State.off_mono hk (by
    unfold State.discardData
    simp [State.setCw_off, State.off_ite])

theorem State.cwErr_off {kp : Parts} (hk : Parts.le { cw := true } kp = true := by rfl) (s : State) (p : Nat) (tag : W32) (code : Nat)
    : (State.cwErr s p tag code).off kp = s.off kp :=
  State.off_mono hk (by
    unfold State.cwErr
    simp [State.cwSend_off, Parts.le])

theorem State.onMsg_off {kp : Parts}
    (hk : Parts.le { fl := true, cw := true } kp = true := by rfl) {s : State} {p type : Nat} {m : CwMsg} {data : List Byte}
    {act : State → State} (ha : ∀ r, (act r).off kp = r.off kp) : (s.onMsg p type m data act).off kp = s.off kp := by
  have h0 : ∀ r, (s.setCw p r).off kp = s.off kp := fun r => State.off_mono hk (State.setCw_off s _ _ rfl)
  have h1 : ∀ (r : State) (a b : Nat) c d, (r.cwProtocol a b c d).off kp = r.off kp := fun r a b c d => State.off_mono hk (State.cwProtocol_off rfl ..)
  have h2 : ∀ (r : State) (a : Nat) c d, (r.cwErr a c d).off kp = r.off kp := fun r a c d => State.off_mono hk (State.cwErr_off rfl ..)
  unfold State.onMsg
  refine off_of_ite rfl ?_
  dsimp only
  cases cwBroken type m with
  | none => exact (ha _).trans (h0 _)
  | some o => exact off_of_ite ((h2 ..).trans ((h1 ..).trans (h0 _))) ((h1 ..).trans (h0 _))

theorem State.sendData_off {kp : Parts} (hk : Parts.le { cw := true } kp = true := by rfl) (s : State) (p : Nat) (tag : W32) (ps : List Piece)
    : (State.sendData s p tag ps).off kp = s.off kp :=
  State.off_mono hk (by
    unfold State.sendData
    simp [State.cwSend_off, Parts.le, foldl_off])

theorem State.serveRead_off {kp : Parts} (hk : Parts.le { dr := true, tile := true, arr := true, fl := true, cw := true } kp = true := by rfl)
    (s : State) (p : Nat) (m : CwMsg) (errs : List ScrubErr) : (State.serveRead s p m errs).off kp = s.off kp :=
  State.off_mono hk (by
    unfold State.serveRead
    dsimp only
    (repeat' split) <;> simp_all [State.cwErr_off, State.readChunks_off, State.sendData_off, Parts.le])

theorem State.reqFailed_off {kp : Parts} (hk : Parts.le { dm := true, cw := true } kp = true := by rfl) (s : State) (p : Nat) (tag : W32)
    (code : Nat) : (State.reqFailed s p tag code).off kp = s.off kp :=
  State.off_mono hk (by
    unfold State.reqFailed
    dsimp only
    (repeat' split) <;> simp_all [State.setCw_off, State.endXfer_off, State.dropReqs_off, Parts.le])

theorem State.abortCmds_off {kp : Parts} (hk : Parts.le { ho := true } kp = true := by rfl) (s : State) : (State.abortCmds s).off kp = s.off kp :=
  State.off_mono hk (by
    unfold State.abortCmds
    apply foldl_off
    intros
    simp [State.finish_off, Parts.le, foldl_off])

theorem State.moduleFail_off {kp : Parts}
    (hk : Parts.le { dr := true, tile := true, pages := true, fl := true, ti := true, cw := true, ho := true, sv := true, md := true } kp = true :=
        by rfl) (s : State) (reason : Nat) (cause : W32) : (State.moduleFail s reason cause).off kp = s.off kp :=
  State.off_mono hk (by
    unfold State.moduleFail
    simp [State.abortCmds_off, State.faultAll_off, State.off_with_md, State.off_ite, Parts.le])

theorem State.nameStandby_off {kp : Parts} (hk : Parts.le { md := true } kp = true := by rfl) (s : State) : (State.nameStandby s).off kp = s.off kp :=
  State.off_mono hk (by
    unfold State.nameStandby
    simp [State.off_with_md])

theorem State.rolesDown_off {kp : Parts}
    (hk : Parts.le { dr := true, tile := true, pages := true, fl := true, ti := true, cw := true, ho := true, sv := true, md := true } kp = true :=
        by rfl) (s : State) (t : Nat) (cause : W32) : (State.rolesDown s t cause).off kp = s.off kp :=
  State.off_mono hk (by
    unfold State.rolesDown
    simp [State.moduleFail_off, State.nameStandby_off, State.off_with_md, State.off_ite, Parts.le])

theorem State.releaseWaiters_off {kp : Parts} (hk : Parts.le { th := true, sy := true } kp = true := by rfl) (s : State) (t : Nat)
    : (State.releaseWaiters s t).off kp = s.off kp :=
  State.off_mono hk (by
    unfold State.releaseWaiters
    apply foldl_off
    intros
    simp [State.freeThread_off, Parts.le])

theorem State.tileCleared_off {kp : Parts} (hk : Parts.le { th := true, tile := true, sy := true, arr := true, dm := true } kp = true := by rfl)
    (s0 : State) (t : Nat) : (State.tileCleared s0 t).off kp = s0.off kp :=
  State.off_mono hk (by
    simp only [State.tileCleared]
    (repeat' split) <;> (try simp [State.releaseWaiters_off, State.off_with_sy_th_tile_arr_dm, Parts.le]))

theorem State.adopt_off {kp : Parts} (hk : Parts.le { dr := true } kp = true := by rfl) (s : State) (c : Nat) (heir : Nat)
    : (State.adopt s c heir).off kp = s.off kp :=
  State.off_mono hk (by
    unfold State.adopt
    simp [State.setSub_off, State.setBank_off, foldl_off])

theorem State.passSubs_off {kp : Parts}
    (hk : Parts.le { dr := true, tile := true, sy := true, arr := true, unit := true, fl := true, ho := true } kp = true := by rfl) (s : State)
    (up : Nat → Bool) (t : Nat) : (State.passSubs s up t).off kp = s.off kp :=
  State.off_mono hk (by
    unfold State.passSubs
    dsimp only
    (repeat' first | split | (refine (foldl_off _ _ _ fun _ _ => ?_).trans ?_) | simp only [State.setSub_off, State.setBank_off]
                   | simp_all [State.dieOut_off, Parts.le]))

theorem State.passSteward_off {kp : Parts} (hk : Parts.le { md := true } kp = true := by rfl) (s : State) (up : Nat → Bool) (t : Nat)
    : (State.passSteward s up t).off kp = s.off kp :=
  State.off_mono hk (by
    unfold State.passSteward
    dsimp only
    (repeat' split) <;> simp_all [State.off_with_md, Parts.le])

theorem State.tilePorts_off {kp : Parts}
    (hk : Parts.le { dr := true, tile := true, fl := true, ti := true, cw := true, ho := true, sv := true } kp = true := by rfl) (s : State)
    (t : Nat) : (State.tilePorts s t).off kp = s.off kp :=
  State.off_mono hk (by
    unfold State.tilePorts
    simp [State.hostPortFails_off, State.setPort_off, State.portDown_off, State.off_ite, Parts.le, foldl_off])

theorem State.squareSessions_off {kp : Parts}
    (hk : Parts.le { dr := true, tile := true, pages := true, fl := true, ti := true, cw := true, ho := true, sv := true } kp = true := by rfl)
    (s : State) (k : Nat) (cause : W32) : (State.squareSessions s k cause).off kp = s.off kp :=
  State.off_mono hk (by
    unfold State.squareSessions
    simp [State.faultAll_off, Parts.le])

theorem State.squareUnits_off {kp : Parts}
    (hk : Parts.le { dr := true, tile := true, pages := true, fl := true, ti := true, cw := true, ho := true, sv := true } kp = true := by rfl)
    (s : State) (k : Nat) (cause : W32) : (State.squareUnits s k cause).off kp = s.off kp :=
  State.off_mono hk (by
    unfold State.squareUnits
    apply foldl_off
    intros
    simp [State.unitDamaged_off, State.off_ite, Parts.le, foldl_off])

theorem State.moveChains_off {kp : Parts}
    (hk : Parts.le { dr := true, tile := true, sy := true, arr := true, fl := true, dm := true, ti := true, cw := true, sv := true } kp = true := by rfl)
        (s : State) (t : Nat) : (State.moveChains s t).off kp = s.off kp :=
  State.off_mono hk (by
    unfold State.moveChains
    apply foldl_off
    intros
    simp [State.stageTile_off, Parts.le])

theorem State.squareOut_off {kp : Parts}
    (hk : Parts.le { dr := true, th := true, tile := true, sy := true, pages := true, arr := true, unit := true, fl := true, dm := true, ti := true,
                     cw := true, ho := true, sv := true, md := true } kp = true := by rfl) (s : State) (k : Nat) (cause : W32) :
        (s.squareOut k cause).off kp = s.off kp :=
  State.off_mono hk (by
    refine off_of_ite rfl ?_
    refine (foldl_off _ _ _ fun s i => State.moveChains_off rfl ..).trans ((State.squareUnits_off rfl ..).trans ((State.squareSessions_off rfl ..).trans
      ((State.outOfService_off _ _ _ rfl).trans ((State.stackOut_off rfl ..).trans (foldl_off _ _ _ fun s i => ?_)))))
    dsimp only
    exact off_of_ite rfl ((State.rolesDown_off rfl ..).trans ((State.tilePorts_off rfl ..).trans ((State.setTile_off _ _ _ rfl).trans
        (State.tileCleared_off rfl ..)))))

theorem State.tileOut_off {kp : Parts}
    (hk : Parts.le { dr := true, th := true, tile := true, sy := true, pages := true, arr := true, unit := true, fl := true, dm := true, ti := true,
                     cw := true, ho := true, sv := true, md := true } kp = true := by rfl) (s : State) (t : Nat) (cause : W32) :
        (State.tileOut s t cause).off kp = s.off kp :=
  State.off_mono hk (by
    unfold State.tileOut
    simp
    (repeat' split) <;> simp_all [State.setTile_off, State.tileCleared_off, State.passSteward_off, State.passSubs_off, State.outOfService_off,
        State.moveChains_off, State.rolesDown_off, State.tilePorts_off, State.squareOut_off, Parts.le])

theorem State.retrainSubs_off {kp : Parts} (hk : Parts.le { dr := true, unit := true } kp = true := by rfl) (s : State) (cs : List Nat)
    : (s.retrainSubs cs).off kp = s.off kp :=
  State.off_mono hk (by
    exact foldl_off _ _ _ fun s c => off_of_ite rfl ((State.askRetrain_off rfl ..).trans (State.holdSub_off rfl ..)))

theorem State.tileDown_off {kp : Parts}
    (hk : Parts.le { dr := true, th := true, tile := true, sy := true, pages := true, arr := true, unit := true, fl := true, dm := true, ti := true,
                     cw := true, ho := true, sv := true, md := true } kp = true := by rfl) (s : State) (t : Nat) (cause : W32) :
        (State.tileDown s t cause).off kp = s.off kp :=
  State.off_mono hk (by
    unfold State.tileDown
    (repeat' split) <;> simp [State.abortAll_off, State.rolesDown_off, State.setTile_off, Parts.le])

theorem State.contain_off {kp : Parts}
    (hk : Parts.le { dr := true, th := true, tile := true, sy := true, pages := true, arr := true, unit := true, fl := true, dm := true, ti := true,
                     cw := true, ho := true, sv := true, md := true } kp = true := by rfl) (s : State) (d : Domain) (cause : W32) :
        (s.contain d cause).off kp = s.off kp :=
  State.off_mono hk (by
    unfold State.contain
    split
    · exact State.holdSub_off rfl ..
    · exact State.retrainSubs_off rfl ..
    · exact State.retrainSubs_off rfl ..
    · exact State.tileDown_off rfl ..
    · exact (State.retrainSubs_off rfl ..).trans ((foldl_off _ _ _ fun s t => State.tileDown_off rfl ..).trans (State.abortAll_off rfl ..))
    · exact State.abortAll_off rfl ..
    · rfl)

theorem State.domainOut_off {kp : Parts}
    (hk : Parts.le { dr := true, th := true, tile := true, sy := true, pages := true, arr := true, unit := true, fl := true, dm := true, ti := true,
                     cw := true, ho := true, sv := true, md := true } kp = true := by rfl) (s : State) (d : Domain) (cause : W32) :
        (State.domainOut s d cause).off kp = s.off kp :=
  State.off_mono hk (by
    unfold State.domainOut
    simp
    (repeat' split) <;> simp_all [State.mapOutSub_off, State.dieOut_off, State.squareUnits_off, State.squareSessions_off, State.stackOut_off,
        State.tileOut_off, State.squareOut_off, State.hostPortFails_off, State.outOfService_off, State.setPort_off, State.portDown_off,
            State.moduleFail_off, Parts.le])

theorem State.handleCode_off {kp : Parts}
    (hk : Parts.le { dr := true, th := true, tile := true, sy := true, pages := true, arr := true, unit := true, fl := true, dm := true, ti := true,
                     cw := true, ho := true, sv := true, md := true } kp = true := by rfl) (s : State) (code : Nat) (d : Domain) (cause : W32) :
        (State.handleCode s code d cause).off kp = s.off kp :=
  State.off_mono hk (by
    unfold State.handleCode
    (repeat' split) <;> simp [State.contain_off, State.askRetrain_off, Parts.le])

theorem State.activate_off {kp : Parts} (hk : Parts.le { fl := true, sv := true } kp = true := by rfl) (s : State) (d : Domain) (escalated : Bool)
    (seq : W32) : (State.activate s d escalated seq).off kp = s.off kp :=
  State.off_mono hk (by
    unfold State.activate
    simp [State.off_with_fl_sv])

theorem State.dropHandler_off {kp : Parts} (hk : Parts.le { fl := true } kp = true := by rfl) (s : State) (d : Domain)
    : (State.dropHandler s d).off kp = s.off kp :=
  State.off_mono hk (by
    unfold State.dropHandler
    simp [State.off_with_fl])

theorem State.second_off {kp : Parts}
    (hk : Parts.le { dr := true, th := true, tile := true, sy := true, pages := true, arr := true, unit := true, fl := true, dm := true, ti := true,
                     cw := true, ho := true, sv := true, md := true } kp = true := by rfl) (s : State) (h : Handler) (seq : W32) :
        (State.second s h seq).off kp = s.off kp :=
  State.off_mono hk (by
    unfold State.second
    (repeat' split) <;> simp [State.domainOut_off, State.dropHandler_off, State.contain_off, State.activate_off, Parts.le])

theorem State.recordOf_off {kp : Parts} (hk : Parts.le { fl := true } kp = true := by rfl) (s : State) (e : ErrRep)
    : (State.recordOf s e).1.off kp = s.off kp :=
  State.off_mono hk (by
    unfold State.recordOf
    (repeat' split) <;> simp [State.log_off, State.off_with_fl])

theorem State.weldUe_off {kp : Parts} (hk : Parts.le { tile := true } kp = true := by rfl) (s : State) (e : ErrRep)
    : (State.weldUe s e).off kp = s.off kp :=
  State.off_mono hk (by
    simp only [State.weldUe]
    (repeat' split) <;> (try simp [State.setTile_off]))

theorem State.swEnds_off {kp : Parts}
    (hk : Parts.le { dr := true, tile := true, pages := true, fl := true, ti := true, cw := true, ho := true, sv := true } kp = true := by rfl)
    (s : State) (e : ErrRep) (cause : W32) : (State.swEnds s e cause).off kp = s.off kp :=
  State.off_mono hk (by
    unfold State.swEnds
    simp [State.faultAll_off, State.off_ite, Parts.le])

theorem State.declareDown_off {kp : Parts}
    (hk : Parts.le { dr := true, th := true, tile := true, sy := true, pages := true, arr := true, unit := true, fl := true, dm := true, ti := true,
                     cw := true, ho := true, sv := true, md := true } kp = true := by rfl) (s : State) (t : Nat) (cause : Nat) :
        (State.declareDown s t cause).off kp = s.off kp :=
  State.off_mono hk (by
    unfold State.declareDown
    dsimp only
    (repeat' split) <;> simp_all [State.log_off, State.second_off, State.contain_off, State.activate_off, Parts.le])

theorem State.setHalts_off {kp : Parts} (hk : Parts.le { tile := true, arr := true } kp = true := by rfl) (s : State) (t : Nat) (a : Bool)
    (b : Bool) : (State.setHalts s t a b).off kp = s.off kp :=
  State.off_mono hk (by
    unfold State.setHalts
    simp [State.setTile_off, State.setArr_off, State.off_ite])

theorem State.writeReg_off {kp : Parts} (hk : Parts.le { fl := true, pw := true, ho := true } kp = true := by rfl) (s : State) (off : Nat)
    (size : Nat) (v : Nat) : (State.writeReg s off size v).off kp = s.off kp :=
  State.off_mono hk (by
    unfold State.writeReg
    simp [State.setPort_off, State.setMbox_off, State.setRing_off, State.setEventRing_off, State.off_with_fl, State.off_with_pw, State.off_with_ho,
        State.off_ite, Parts.le])

theorem State.writeMsix_off {kp : Parts} (hk : Parts.le { ho := true } kp = true := by rfl) (s : State) (p : HPort) (o : Nat) (size : Nat) (v : Nat)
    : (State.writeMsix s p o size v).off kp = s.off kp :=
  State.off_mono hk (by
    unfold State.writeMsix
    simp [State.setPort_off, State.msix_off, State.off_ite, Parts.le])

theorem State.writePhase_off {kp : Parts} (hk : Parts.le { tile := true } kp = true := by rfl) (s : State) (t : Nat) (o : Nat) (size : Nat)
    (v : Nat) : (State.writePhase s t o size v).off kp = s.off kp :=
  State.off_mono hk (by
    unfold State.writePhase
    simp [State.setTile_off, State.off_ite])

theorem State.setPowerCap_off {kp : Parts} (hk : Parts.le { pw := true } kp = true := by rfl) (s : State) (w : Nat)
    : (State.setPowerCap s w).off kp = s.off kp :=
  State.off_mono hk (by
    unfold State.setPowerCap
    simp [State.off_with_pw])

theorem State.hardReset_off {kp : Parts}
    (hk : Parts.le { time := true, dr := true, th := true, str := true, tile := true, sy := true, pages := true, arr := true, unit := true, fl := true,
                     pw := true, dm := true, ti := true, cw := true, ho := true, sv := true, bt := true, md := true } kp = true := by rfl)
        (s : State) : s.hardReset.off kp = s.off kp :=
  State.off_mono hk (by
    rfl)

theorem State.cutFlash_off {kp : Parts} (hk : Parts.le { pw := true } kp = true := by rfl) (s : State) : (State.cutFlash s).off kp = s.off kp :=
  State.off_mono hk (by
    unfold State.cutFlash
    (repeat' split) <;> simp [State.useFree_off, State.off_with_pw])

theorem State.powerDown_off {kp : Parts}
    (hk : Parts.le { time := true, dr := true, th := true, str := true, tile := true, sy := true, pages := true, arr := true, unit := true, fl := true,
                     pw := true, dm := true, ti := true, cw := true, ho := true, sv := true, bt := true, md := true } kp = true := by rfl)
        (s : State) : s.powerDown.off kp = s.off kp :=
  State.off_mono hk (by
    unfold State.powerDown State.cutFlash
    dsimp only
    (repeat' split) <;> rfl)

theorem State.powerOn_off {kp : Parts}
    (hk : Parts.le { time := true, dr := true, th := true, str := true, tile := true, sy := true, pages := true, arr := true, unit := true, fl := true,
                     pw := true, dm := true, ti := true, cw := true, ho := true, sv := true, bt := true, md := true } kp = true := by rfl) (s : State)
        (mv cond : Nat) : (s.powerOn mv cond).off kp = s.off kp :=
  State.off_mono hk (by
    rfl)

theorem State.logSupply_off {kp : Parts} (hk : Parts.le { fl := true } kp = true := by rfl) (s : State) : (State.logSupply s).off kp = s.off kp :=
  State.off_mono hk (by
    unfold State.logSupply
    simp [State.log_off, State.off_ite])

theorem State.supply_off {kp : Parts}
    (hk : Parts.le { time := true, dr := true, th := true, str := true, tile := true, sy := true, pages := true, arr := true, unit := true, fl := true,
                     pw := true, dm := true, ti := true, cw := true, ho := true, sv := true, bt := true, md := true } kp = true := by rfl) (s : State)
        (mv : Nat) : (s.supply mv).off kp = s.off kp :=
  State.off_mono hk (by
    unfold State.supply
    refine off_of_ite (off_of_ite (State.powerOn_off rfl ..) (State.off_with_pw _ rfl)) ?_
    dsimp only
    exact off_of_ite (State.off_with_pw _ rfl) ((State.logSupply_off rfl ..).trans (State.off_with_pw _ rfl)))

theorem State.throttle_off {kp : Parts} (hk : Parts.le { dr := true, tile := true } kp = true := by rfl) (s : State)
    : (State.throttle s).off kp = s.off kp :=
  State.off_mono hk (by
    unfold State.throttle
    simp [State.off_with_dr_tile])

theorem State.tick_off {kp : Parts} (hk : Parts.le { time := true } kp = true := by rfl) (s : State) : (State.tick s).off kp = s.off kp :=
  State.off_mono hk (by
    unfold State.tick
    simp [State.off_with_time, State.off_ite])

theorem State.markHealthy_off {kp : Parts} (hk : Parts.le { bt := true } kp = true := by rfl) (s : State) (d : Nat) (t : Nat)
    : (State.markHealthy s d t).off kp = s.off kp :=
  State.off_mono hk (by
    unfold State.markHealthy
    simp [State.off_with_bt])

theorem State.bootPortOut_off {kp : Parts} (hk : Parts.le { fl := true, ho := true } kp = true := by rfl) (s : State) (p : HPort)
    : (State.bootPortOut s p).off kp = s.off kp :=
  State.off_mono hk (by
    unfold State.bootPortOut
    simp [State.setPort_off, State.log_off, State.moveCarriage_off, Parts.le])

theorem State.bootTileOut_off {kp : Parts}
    (hk : Parts.le { dr := true, tile := true, sy := true, arr := true, unit := true, fl := true, ho := true, md := true } kp = true := by rfl)
    (s : State) (up : Nat → Bool) (t : Nat) : (State.bootTileOut s up t).off kp = s.off kp :=
  State.off_mono hk (by
    unfold State.bootTileOut
    dsimp only
    (repeat' first | split | simp_all [State.outOfService_off, State.setTile_off, State.passSteward_off, State.passSubs_off, State.bootPortOut_off,
        Parts.le]))

theorem State.electionEnd_off {kp : Parts}
    (hk : Parts.le { dr := true, tile := true, sy := true, arr := true, unit := true, fl := true, ho := true, bt := true, md := true } kp = true :=
        by rfl) (s : State) (v : W64) : (s.electionEnd v).off kp = s.off kp :=
  State.off_mono hk (by
    exact (State.off_with_bt _ rfl).trans ((foldl_off _ _ _ fun s k => (State.outOfService_off _ _ _ rfl).trans (State.stackOut_off rfl ..)).trans
      (foldl_off _ _ _ fun s t => State.bootTileOut_off rfl ..)))

theorem State.pickConfig_off {kp : Parts} (hk : Parts.le { fl := true } kp = true := by rfl) (s : State) (b0 : List Byte) (b1 : List Byte)
    : (State.pickConfig s b0 b1).2.off kp = s.off kp :=
  State.off_mono hk (by
    unfold State.pickConfig
    dsimp only
    (repeat' split) <;> simp_all [State.useFree_off, State.serialLog_off, Parts.le])

theorem State.configure_off {kp : Parts} (hk : Parts.le { dr := true, fl := true, pw := true, bt := true } kp = true := by rfl) (s : State)
    : (State.configure s).off kp = s.off kp :=
  State.off_mono hk (by
    unfold State.configure
    simp [State.pickConfig_off, State.setScrubHours_off, State.off_with_bt_pw, Parts.le, foldl_off])

theorem State.imageEnd_off {kp : Parts}
    (hk : Parts.le { dr := true, tile := true, pages := true, fl := true, pw := true, ti := true, cw := true, ho := true, sv := true, bt := true,
                     md := true } kp = true := by rfl) (s : State) (ra : SlotReport) (rb : SlotReport) : (State.imageEnd s ra rb).off kp = s.off kp :=
  State.off_mono hk (by
    unfold State.imageEnd
    simp [State.moduleFail_off, State.configure_off, State.off_with_bt_pw, State.off_ite, Parts.le])

theorem State.trainEnd_off {kp : Parts} (hk : Parts.le { dr := true, unit := true, fl := true, ho := true } kp = true := by rfl) (s : State)
    (r : PhaseReport) : (State.trainEnd s r).off kp = s.off kp :=
  State.off_mono hk (by
    unfold State.trainEnd
    dsimp only
    (repeat' first | (refine (foldl_off _ _ _ fun _ _ => ?_).trans ?_) | simp only [State.off_with_dr] | simp_all [State.mapOutSub_off, Parts.le]))

theorem State.tgBoot_off {kp : Parts} (hk : Parts.le { dr := true } kp = true := by rfl) (s : State) (pattern : Nat) (quick : Bool)
    (r : PhaseReport) : (State.tgBoot s pattern quick r).off kp = s.off kp :=
  State.off_mono hk (by
    unfold State.tgBoot
    simp [State.off_with_dr])

theorem State.mapResults_off {kp : Parts}
    (hk : Parts.le { dr := true, tile := true, sy := true, arr := true, unit := true, fl := true, ho := true } kp = true := by rfl) (s : State)
    (r : PhaseReport) : (State.mapResults s r).off kp = s.off kp :=
  State.off_mono hk (by
    unfold State.mapResults
    dsimp only
    (repeat' first | (refine (foldl_off _ _ _ fun _ _ => ?_).trans ?_) | simp_all [State.bankOut_off, State.mapOutSub_off, State.dieOut_off,
        State.stackOut_off, Parts.le]))

theorem State.linkEnd_off {kp : Parts}
    (hk : Parts.le { dr := true, tile := true, sy := true, arr := true, unit := true, fl := true, ho := true } kp = true := by rfl) (s : State)
    (r : PhaseReport) : (s.linkEnd r).off kp = s.off kp :=
  State.off_mono hk (by
    unfold State.linkEnd
    refine (State.mapResults_off rfl _ _).trans ((State.tgBoot_off rfl _ _ _ _).trans (foldl_off _ _ _ fun s q => ?_))
    exact (State.mapOutSub_off rfl _ _).trans (State.setSub_off s _ _ rfl))

theorem State.unitsEnd_off {kp : Parts}
    (hk : Parts.le { dr := true, tile := true, sy := true, arr := true, unit := true, fl := true } kp = true := by rfl) (s : State)
    (r : PhaseReport) : (State.unitsEnd s r).off kp = s.off kp :=
  State.off_mono hk (by
    unfold State.unitsEnd
    dsimp only
    (repeat' first | (refine (foldl_off _ _ _ fun _ _ => ?_).trans ?_) | simp only [State.setUnit_off] | simp_all [State.unitOut_off, Parts.le]))

theorem State.clearMadder_off {kp : Parts} (hk : Parts.le { dr := true } kp = true := by rfl) (s : State) : (State.clearMadder s).off kp = s.off kp :=
  State.off_mono hk (by
    unfold State.clearMadder
    simp [State.off_with_dr])

theorem State.writeEpoch_off {kp : Parts} (hk : Parts.le { pw := true, bt := true } kp = true := by rfl) (s : State)
    : (State.writeEpoch s).off kp = s.off kp :=
  State.off_mono hk (by
    unfold State.writeEpoch
    simp [State.off_with_bt_pw])

theorem State.readyReport_off {kp : Parts}
    (hk : Parts.le { dr := true, tile := true, unit := true, pw := true, bt := true, md := true } kp = true := by rfl) (s : State)
    : (State.readyReport s).off kp = s.off kp :=
  State.off_mono hk (by
    unfold State.readyReport
    simp [State.writeEpoch_off, State.off_with_bt_md, State.off_with_dr_tile_unit, Parts.le])

theorem stateOf_off {kp : Parts} {s : State} {o : Host.Outcome State Fault Refusal} (h : ∀ t, o = .next t → t.off kp = s.off kp) :
    (stateOf s o).off kp = s.off kp := by
  cases o with
  | next t => exact h t rfl
  | fault f => rfl
  | refused r => rfl

theorem State.writeMboxCtrl_off {kp : Parts} (hk : Parts.le { ho := true } kp = true := by rfl) (s : State) (n v : Nat) :
    (s.writeMboxCtrl n v).off kp = s.off kp :=
  State.off_mono hk (by
    have he : ∀ (r : State) m, (stateOf r (execMboxEnable m r)).off { ho := true } = r.off { ho := true } := fun r m => stateOf_off fun t h => by
      simp only [execMboxEnable] at h
      (repeat' split at h) <;> cases h <;> first | rfl | exact State.setMbox_off _ _ _ rfl
    have hd : ∀ (r : State) m, (stateOf r (execMboxDisable m r)).off { ho := true } = r.off { ho := true } := fun r m => stateOf_off fun t h => by
      simp only [execMboxDisable] at h
      (repeat' split at h) <;> cases h <;> first | rfl | exact State.setMbox_off _ _ _ rfl
    unfold State.writeMboxCtrl
    dsimp only
    (repeat' split) <;> simp only [he, hd])

theorem State.agentWriteReg_off {kp : Parts}
    (hk : Parts.le { dr := true, tile := true, fl := true, pw := true, ti := true, cw := true, ho := true, sv := true } kp = true := by rfl)
    (s : State) (o : Nat) (v : W64) : (s.agentWriteReg o v).off kp = s.off kp :=
  State.off_mono hk (by
    have hw : ∀ n x, (s.writeReg o n x).off { dr := true, tile := true, fl := true, pw := true, ti := true, cw := true, ho := true, sv := true } = s.off
        { dr := true, tile := true, fl := true, pw := true, ti := true, cw := true, ho := true, sv := true } := fun n x => State.writeReg_off rfl ..
    have hb : ∀ p, (stateOf s (execBar2BaseWrite p v s)).off { dr := true, tile := true, fl := true, pw := true, ti := true, cw := true, ho := true,
                                                               sv := true } = s.off { dr := true, tile := true, fl := true, pw := true, ti := true,
                                                                                      cw := true, ho := true, sv := true } := by
      intro p
      unfold execBar2BaseWrite
      dsimp only
      split
      · exact State.setPort_off rfl ..
      · rfl
    have hc : ∀ p, (stateOf s (execCwPortCtrlWrite p v s)).off { dr := true, tile := true, fl := true, pw := true, ti := true, cw := true, ho := true,
                                                                 sv := true } = s.off { dr := true, tile := true, fl := true, pw := true, ti := true,
                                                                                        cw := true, ho := true, sv := true } := by
      intro p
      unfold execCwPortCtrlWrite
      dsimp only
      (repeat' split) <;> simp [stateOf, State.lendCheck_off, State.setCw_off, State.portDown_off, State.wantLot_off, Parts.le]
    unfold State.agentWriteReg
    refine off_of_ite (hb _) (off_of_ite (off_of_ite ((stateOf_off fun t h => ?_).trans (hw ..)) (hw ..))
      (off_of_ite (State.setPowerCap_off rfl ..) (off_of_ite (stateOf_off fun t h => ?_) (off_of_ite (stateOf_off fun t h => ?_)
      (off_of_ite (stateOf_off fun t h => ?_) (off_of_ite (State.writeMboxCtrl_off rfl ..) (off_of_ite (hc _)
      (off_of_ite (stateOf_off fun t h => ?_) (off_of_ite (stateOf_off fun t h => ?_) (off_of_ite (stateOf_off fun t h => ?_) (hw ..)))))))))))
    · cases h
      exact State.off_with_ho _ rfl
    · cases h
      exact State.setStack_off _ _ _ rfl
    · cases h
      exact State.setStack_off _ _ _ rfl
    · cases h
      exact off_of_ite rfl (State.setScrubHours_off rfl ..)
    · cases h
      exact (State.lendCheck_off rfl ..).trans (State.off_with_cw _ rfl)
    · cases h
      exact State.setSub_off _ _ _ rfl
    · cases h
      exact State.off_with_dr _ rfl)

theorem State.ctrlWrite_off {kp : Parts}
    (hk : Parts.le { dr := true, tile := true, fl := true, pw := true, ti := true, cw := true, ho := true, sv := true } kp = true := by rfl)
    (s : State) (pa : Nat) (b : List Byte) : (s.ctrlWrite pa b).off kp = s.off kp :=
  State.off_mono hk (by
    exact off_of_ite (foldl_off _ _ _ fun s i => State.agentWriteReg_off rfl ..) rfl)

theorem State.dmRead_off {kp : Parts} (hk : Parts.le { dr := true, tile := true, arr := true, fl := true, cw := true } kp = true := by rfl)
    (s : State) (c : Nat) (d : List Byte) (cs : List (Nat × Nat)) (pos : Nat) (n : Nat) (host : HostData) (errs : List ScrubErr)
    : (State.dmRead s c d cs pos n host errs).2.off kp = s.off kp :=
  State.off_mono hk (by
    simp only [State.dmRead]
    (repeat' split) <;> (try simp [State.dropReads_off, State.readChunks_off, Parts.le]))

theorem State.dmWrite_off {kp : Parts}
    (hk : Parts.le { dr := true, tile := true, arr := true, fl := true, pw := true, ti := true, cw := true, ho := true, sv := true } kp = true := by rfl)
        (s : State) (c : Nat) (d : List Byte) (cs : List (Nat × Nat)) (pos : Nat) (ps : List Piece) : (State.dmWrite s c d cs pos ps).off kp = s.off kp :=
  State.off_mono hk (by
    unfold State.dmWrite
    (repeat' split) <;> simp [State.hostWrite_off, State.woadWrite_off, State.ctrlWrite_off, State.writeChunksAs_off, Parts.le])

theorem State.burstDone_off {kp : Parts} (hk : Parts.le { dm := true } kp = true := by rfl) (s : State) (c : Nat) (b : Burst)
    : (State.burstDone s c b).off kp = s.off kp :=
  State.off_mono hk (by
    unfold State.burstDone
    simp
    (repeat' split) <;> simp_all [State.setChan_off, State.endXfer_off, Parts.le])

theorem State.recordFrame_off {kp : Parts} (hk : Parts.le { ti := true, cw := true, sv := true } kp = true := by rfl) (s : State) (d : List Byte)
    (plain : List Byte) : (State.recordFrame s d plain).off kp = s.off kp :=
  State.off_mono hk (by
    unfold State.recordFrame
    simp
    (repeat' split) <;> simp_all [State.freePlace_off, State.charge_off, State.discharge_off, State.takePlace_off, State.setObj_off, Parts.le])

theorem State.loopRan_off {kp : Parts} (hk : Parts.le { md := true } kp = true := by rfl) (s : State) (k : Nat) : (State.loopRan s k).off kp = s.off kp :=
  State.off_mono hk (by
    unfold State.loopRan
    (repeat' split) <;> simp [State.off_with_md])

theorem onRunning_off {kp : Parts} {s : State} {u op : Nat} {m : Micro} {f : BUnit → State} (h : ∀ x, (f x).off kp = s.off kp) :
    (onRunning s u op m f).off kp = s.off kp := by
  unfold onRunning
  dsimp only
  split
  · exact h _
  · rfl

theorem laneOp_off {kp : Parts} (hk : Parts.le { unit := true } kp = true := by rfl) (s : State) (u op : Nat) (m : Micro) :
    (laneOp s u op m).off kp = s.off kp :=
  State.off_mono hk (onRunning_off fun _ => (State.setUnit_off _ _ _ rfl).trans (State.useFree_off ..))

theorem State.sideband_off {kp : Parts} (hk : Parts.le { pw := true } kp = true := by rfl) {s : State} {act : State → State}
    (h : (act s).off kp = s.off kp) : (s.sideband act).off kp = s.off kp := by
  unfold State.sideband
  split
  · exact h
  · exact State.off_mono hk (State.off_with_pw _ rfl)

theorem State.sbAnswer_off {kp : Parts} (hk : Parts.le { pw := true } kp = true := by rfl) (s : State) (r : SbResp)
    : (State.sbAnswer s r).off kp = s.off kp :=
  State.off_mono hk (by
    unfold State.sbAnswer
    simp [State.off_with_pw])

theorem State.regOp_off {kp : Parts} (hk : Parts.le { th := true, fl := true } kp = true := by rfl) (s : State) (c : Instr) (t : ThrId) (x : RegF)
    (legal : Bool) (op : W64 → W64 → W64) : (s.regOp c t x legal op).off kp = s.off kp :=
  State.onRegs_off hk ..

theorem State.immOp_off {kp : Parts} (hk : Parts.le { th := true, fl := true } kp = true := by rfl) (s : State) (c : Instr) (t : ThrId) (x : ImmF)
    (legal : Bool) (op : W64 → W64) : (s.immOp c t x legal op).off kp = s.off kp :=
  State.onRegs_off hk ..

theorem State.vecOp_off {kp : Parts} (hk : Parts.le { th := true, fl := true } kp = true := by rfl) (s : State) (c : Instr) (t : ThrId) (x : VecF)
    (legal : Bool) (op : W512 → W512 → W512 → W512) : (s.vecOp c t x legal op).off kp = s.off kp :=
  State.onRegs_off hk ..

end Sys2Proof.Machine
end

