-- ==== Sys2Proof/WellFormed.lean ====
section
/-! DEFINITION. Which operands of a command its event can bring (notes/assumptions/8.md): symbols of a codeword, codeword columns, access
sizes, flash addresses. The meanings are total without these checks. -/
namespace Sys2Proof

/-- A symbol error flips at least one bit of one of 36 symbols (02 R55). -/
def SymErr.wf (e : SymErr) : Bool := e.sym < 36 && e.flip ≠ 0

/-- Codeword columns of errors are in rising order, each with errors. -/
def scrubErrsWf : List ScrubErr → Bool
  | [] => true
  | [e] => !e.errs.isEmpty && e.errs.all SymErr.wf
  | e :: f :: r => !e.errs.isEmpty && e.errs.all SymErr.wf && e.col < f.col && scrubErrsWf (f :: r)

/-- A register access of 4 or 8 bytes, aligned (15 R405). -/
def accessWf (off size : Nat) : Bool := (size = 4 || size = 8) && off % size = 0

/-- The flash holds 128 MiB (14 R377); a write lies within one 256-byte page (16 R432). -/
def flashWf (addr len : Nat) : Bool := addr + len ≤ 134217728 && 1 ≤ len && addr / 256 = (addr + len - 1) / 256

/-- Whether a command's operands are such as its event can bring. -/
def Instr.wf : Instr → Bool
  | .registerWrite _ off size _ => accessWf off size
  | .tileWindowAccess _ off size _ => accessWf off size
  | .bar2Read _ _ len errs => 1 ≤ len && scrubErrsWf errs
  | .bar2Write _ _ d => !d.bytes.isEmpty && scrubErrsWf d.errs
  | .flashWrite addr data _ => flashWf addr data.length
  | .readReturn _ errs => errs.all SymErr.wf
  | .scrubRow _ x => scrubErrsWf x.errs
  | .yieldPoint _ y => scrubErrsWf y.errs
  | .unitAdd _ d => d.errs.all SymErr.wf
  | .mRd _ _ errs => scrubErrsWf errs
  | .memoryResponse _ _ a => scrubErrsWf a.errs
  | .commandFetch _ entry _ => entry.length = 64
  | .flitReceive _ flit => flit.length = 128
  | .burstGrant _ ready => ready.all (· < 32)
  | _ => true

end Sys2Proof
end

