-- ==== Sys2Proof/Tests/Slice0.lean ====
section
/-! SUPPORT. Tests: the checks of WellFormed refuse ill-formed terms; worked examples of the spec; for every statement with hypotheses, concrete
states and operands that meet the hypotheses of each clause (theorems wit_<statement>). -/
namespace Sys2Proof.Tests

open Sys2Proof Sys2Proof.Machine

set_option Elab.async false

/-! WellFormed: each check refuses an ill-formed term. -/

theorem test_wf_symbol : (SymErr.mk 35 0x80).wf = true ∧ (SymErr.mk 36 0x80).wf = false ∧ (SymErr.mk 35 0).wf = false := by decide
theorem test_wf_scrubErrs : scrubErrsWf [⟨3, [⟨0, 1⟩]⟩, ⟨7, [⟨5, 2⟩]⟩] = true ∧ scrubErrsWf [⟨7, [⟨0, 1⟩]⟩, ⟨7, [⟨5, 2⟩]⟩] = false ∧
    scrubErrsWf [⟨3, []⟩] = false := by decide
theorem test_wf_registerWrite : (Instr.registerWrite (.host .A) 0x40 8 0).wf = true ∧ (Instr.registerWrite (.host .A) 0x44 8 0).wf = false ∧
    (Instr.registerWrite (.host .A) 0x40 2 0).wf = false := by decide
theorem test_wf_tileWindow : (Instr.tileWindowAccess .B 0x504 4 .read).wf = true ∧ (Instr.tileWindowAccess .B 0x502 4 .read).wf = false := by decide
theorem test_wf_bar2Read : (Instr.bar2Read .A 0 1 []).wf = true ∧ (Instr.bar2Read .A 0 0 []).wf = false ∧
    (Instr.bar2Read .A 0 64 [⟨1, []⟩]).wf = false := by decide
theorem test_wf_bar2Write : (Instr.bar2Write .A 0 ⟨[1], []⟩).wf = true ∧ (Instr.bar2Write .A 0 ⟨[], []⟩).wf = false ∧
    (Instr.bar2Write .A 0 ⟨[1], [⟨0, []⟩]⟩).wf = false := by decide
theorem test_wf_flashWrite : (Instr.flashWrite 0x7FFFFFF [1] .good).wf = true ∧ (Instr.flashWrite 0x7FFFFFF [1, 2] .good).wf = false ∧
    (Instr.flashWrite 0xFF [1, 2] .good).wf = false ∧ (Instr.flashWrite 0 [] .good).wf = false := by decide
theorem test_wf_readReturn : (Instr.readReturn 0 [⟨0, 1⟩]).wf = true ∧ (Instr.readReturn 0 [⟨40, 1⟩]).wf = false := by decide
theorem test_wf_scrubRow : (Instr.scrubRow 0 ⟨0, []⟩).wf = true ∧ (Instr.scrubRow 0 ⟨0, [⟨2, [⟨0, 1⟩]⟩, ⟨1, [⟨0, 1⟩]⟩]⟩).wf = false := by decide
theorem test_wf_unitReads : (Instr.yieldPoint 0 ⟨0, [⟨2, []⟩], false⟩).wf = false ∧ (Instr.unitAdd 0 ⟨⟨0, 0, 0, 0, false, 0⟩, 0, [⟨36, 1⟩]⟩).wf = false ∧
    (Instr.memoryResponse 0 0 ⟨[⟨2, []⟩], none⟩).wf = false := by decide
theorem test_wf_commandFetch : (Instr.commandFetch 0 (List.replicate 64 0) []).wf = true ∧ (Instr.commandFetch 0 (List.replicate 63 0) []).wf = false := by
  decide +kernel
theorem test_wf_flitReceive : (Instr.flitReceive 0 (List.replicate 128 0)).wf = true ∧ (Instr.flitReceive 0 []).wf = false := by decide +kernel
theorem test_wf_burstGrant : (Instr.burstGrant 0 [0, 31]).wf = true ∧ (Instr.burstGrant 0 [32]).wf = false := by decide

/-! Worked examples of the spec. -/

/-- 02, the example under R51: physical address 0x0079_2345_6640 lies in s7.c32, d8, b0, row 37,282, column 50, byte 0. -/
theorem test_decode_example : placeInter (4 * 7 + 2) 0x123456640 = ⟨4 * (64 * 7 + 32), 37282, 50, 0⟩ ∧ (4 * (64 * 7 + 32)) / 16 = 16 * 7 + 8 := by decide

/-- 02 R52 by hand: half, pair and row segment of a BANK_LAYOUT address. -/
theorem test_decode_bank_layout : placeBank 1 (0x3 * 2 ^ 26 + 9 * 2 ^ 21 + 5 * 2 ^ 12 + 2 ^ 11 + 2 * 32 + 7) = ⟨64 + 19, 3 * 512 + 5, 2, 7⟩ := by decide

/-- 07, the example under R228. -/
theorem test_serial_example : serialCmp 0xFFFFFFFE 3 = .after ∧ serialCmp 0x80000003 3 = .unordered ∧ serialCmp 3 0xFFFFFFFE = .before := by decide

/-- The check value of CRC-32C over "123456789" (13 R359 names the polynomial). -/
theorem test_crc32c : crc32c [0x31, 0x32, 0x33, 0x34, 0x35, 0x36, 0x37, 0x38, 0x39] = 0xE3069283 := by decide +kernel

/-- 04, the example under R133: codes of 6.25, −1.5, 1.0 and 0.0 with scale 0x27C8 and zero point 49. -/
theorem test_quantise_example : (quantise1 0x40C80000 (f16ToF32 0x27C8) 49).1 = 255 ∧ (quantise1 0xBFC00000 (f16ToF32 0x27C8) 49).1 = 0 ∧
    (quantise1 0x3F800000 (f16ToF32 0x27C8) 49).1 = 82 ∧ (quantise1 0 (f16ToF32 0x27C8) 49).1 = 49 := by decide +kernel

/-- 03, TPROD at batch 2: group 1 of row 5 is 25.019…, the pair 13.519…, the result 0.84495…. -/
theorem test_tprod_example : e4m4ToF32 0x5A = 0x3ED00000 ∧ fmul (fmul (i2f 7883) (e4m4ToF32 0x5A)) (f16ToF32 0x2000) = 0x41C82780 ∧
    fmul (fadd 0xC1380000 0x41C82780) (bf16ToF32 0x3D80) = 0x3F584F00 := by decide +kernel

/-- 03, the example under R112: l = 2.0625, O[0] = 1.96875, out[0] = 21/22. -/
theorem test_combine_example : fadd (fadd 0x3EE00000 0x3FA00000) 0x3EC00000 = 0x40040000 ∧ fadd (fadd 0x3E000000 0x40000000) 0xBE200000 = 0x3FFC0000 ∧
    fdiv 0x3FFC0000 0x40040000 = 0x3F745D17 := by decide +kernel

/-- 05, the example under R153: −10,131 with the word 0.1875, −10,130 from 0.25, −5,065 at an exponent of −13. -/
theorem test_grid_example : gridY (-10622337024) (-34) (-14) 0x3000000000000000 = -10131 ∧ gridY (-10622337024) (-34) (-14) 0x4000000000000000 = -10130 ∧
    gridY (-10622337024) (-34) (-13) 0x3000000000000000 = -5065 := by decide +kernel

/-- 12, the example under R352: the handle of slot 5,000 with generation 3. -/
theorem test_handle_example : ({ sessInit with gen := 3 } : Sess).handle 5000 = 0x000C1388 := by decide

/-- 09, the example under R284: chunks of 512 and of 37 tokens at w = 1.5, the last of which samples. -/
theorem test_cost_example : cost 0x0180 { sessInit with state := 2, chunk := 512, prompt := List.replicate 549 1 } = 768 ∧
    cost 0x0180 { sessInit with state := 2, chunk := 512, h := 512, prompt := List.replicate 549 1 } = 56 ∧
    carryAfter 0x0180 { sessInit with state := 2, chunk := 512, h := 512, prompt := List.replicate 549 1 } = 128 := by decide +kernel

/-- 09 Table SERV-7. -/
theorem test_holdback_example :
    onToken [] [[512, 77, 9], [77, 301]] false [] 1 100 false 40 = ⟨[], [40], none⟩ ∧
    onToken [] [[512, 77, 9], [77, 301]] false [] 2 100 false 512 = ⟨[512], [], none⟩ ∧
    onToken [512] [[512, 77, 9], [77, 301]] false [] 3 100 false 77 = ⟨[512, 77], [], none⟩ ∧
    onToken [512, 77] [[512, 77, 9], [77, 301]] false [] 4 100 false 301 = ⟨[], [512], some (1, 1)⟩ := by decide +kernel

/-- 15, the example under R421: an accumulator entry as the debug window reads it, and where sub-channel 490 and unit 981 have their registers. -/
theorem test_debug_entry_example :
    ((State.reset.setArr 42 { State.reset.arrAt 42 with halted := true, slots := [(0, { slotD 0 with state := 3, col := 576, rows := 24, entries := [(483, ⟨1198406655, 1, false, false, false⟩)] })] }).readTileReg
      21 0x400F18) = 0x00000001476E3BFF := by decide +kernel
theorem test_register_places : (State.reset.setSub 490 { subInit 490 with state := 1 }).readReg 0x10F500 ≠ State.reset.readReg 0x10F500 ∧
    (State.reset.setUnit 981 { unitInit with shown := (4, 0, 9) }).readReg 0x131EA8 ≠ State.reset.readReg 0x131EA8 := by decide +kernel

/-- 03 Table BANK-10: entry 128 of the exponent table is 2^−0.5 in 2^15. -/
theorem test_exp_table : expEntry 128 = 23170 := by decide +kernel

def coreObs : WatchReq := ⟨86080, 2, false, .core 20, .core 20⟩
def q1 : WatchReq := ⟨86080, 1, true, .thread 40960, .thread 40960 0⟩
def q2 : WatchReq := ⟨86080, 1, true, .thread 45056, .thread 45056 0⟩

/-- 07 Table SYNC-4, step 8: at a count of 2 the OBSERVE watch and both CONSUME watches fire and the count becomes 0. -/
theorem test_sync_example :
    let s : State := { State.reset with sy := { Sync.reset with ctr := [(86080, { ctrInit with count := 2 })], armed := [q1, q2, coreObs] } }
    ((s.evaluate 86080).ctrAt 86080).count = 0 ∧ (s.evaluate 86080).sy.armed = [] ∧
    (s.evaluate 86080).sy.wakes = [⟨.thread 40960, .thread 40960 0, 86080, 1⟩, ⟨.thread 45056, .thread 45056 0, 86080, 1⟩] ∧ ((s.evaluate 86080).sy.fw.length) = 1 := by decide +kernel

/-! Witnesses: concrete states and operands that meet the hypotheses of the clauses of each statement, in the order of its clauses. -/

/-- Powered, out of reset, booting in phase 1. -/
def upS : State := { State.reset with pw := { Power.reset with perstLow := false, inReset := false } }
/-- READY. -/
def runS : State := { upS with md := { Module.reset with state := 1, running := true }, bt := { Boot.reset with phase := 15 } }
def offS : State := { State.reset with pw := { Power.reset with driven := false } }
def condS (c : Nat) : State := { runS with pw := { runS.pw with cond := c } }
def at_ (s : State) (t : W64) : State := { s with time := t }
def bootS (n : Nat) : State := { upS with bt := { Boot.reset with phase := n } }
def opS (f : FlashOp) : State := { State.reset with pw := { Power.reset with flashOp := some f } }

theorem wit_StepRunsFrontCommand : (runS.pending = [] ∧ runS.pw.inReset = false ∧ runS.md.state ≠ 2) ∧
    (State.reset.pending = [] ∧ State.reset.pw.inReset = true) := by decide

theorem wit_SupplyConditions : (offS.pw.driven = false ∧ 58000 < 58001 ∧ 80000 ≤ 80000) ∧
    (runS.pw.driven = true ∧ runS.pw.inReset = false ∧ runS.pw.cond = 0 ∧ (55000 ≤ 55000 ∧ 55000 < 60000 ∨ 78000 < 55000 ∧ 55000 ≤ 80000) ∧
      (55000 ≤ 80000 ∧ 80000 < 60000 ∨ 78000 < 80000 ∧ 80000 ≤ 80000)) ∧
    ((condS 1).pw.driven = true ∧ (condS 1).pw.cond = 1 ∧ 60000 ≤ 60000 ∧ 60000 ≤ 78000) ∧ (runS.pw.driven = true ∧ 54999 < 55000) ∧
    ((condS 2).pw.driven = true ∧ (condS 2).pw.inReset = false ∧ (condS 2).pw.cond = 2 ∧ 60000 ≤ 78000 ∧ 78000 ≤ 78000) ∧
    ((condS 3).pw.driven = true ∧ (condS 3).pw.inReset = false ∧ ((condS 3).pw.cond = 1 ∨ (condS 3).pw.cond = 3) ∧
      (condS 3).pw.condAt + 1000000000 ≤ (at_ (condS 3) 1000000000).now) ∧
    ((condS 2).pw.inReset = false ∧ (condS 2).now ≤ (condS 2).pw.condAt + 200000) ∧
    ((condS 2).pw.driven = true ∧ (condS 2).pw.cond = 2 ∧ (condS 2).pw.condAt + 200000 < (at_ (condS 2) 200001).now) ∧ (runS.pw.driven = true ∧ 80000 < 80001) := by decide

theorem wit_PerstStopsAndStarts : (runS.pw.perstLow = false ∧ runS.pw.driven = true) ∧
    (State.reset.pw.driven = true ∧ State.reset.pw.perstLow = true ∧ State.reset.pw.cond = 0 ∧ 100 ≤ 100 ∧ State.reset.pw.flashOp = none ∧
      (State.reset.pw.hot = true → 99 < 100)) ∧
    (99 < 100 ∧ (opS (.erase 0)).pw.flashOp ≠ none ∧ (condS 1).pw.cond ≠ 0) := by decide

theorem wit_ThrottleAndShutdowns : (runS.pw.inReset = false ∧ runS.md.state ≠ 2) ∧ (63 < 64 ∧ (runS.tileAt 63).state ≠ 0) ∧
    ((runS.setTile 63 { tileInit with state := 0 }).tileAt 63).state = 0 ∧ (runS.stackAt 15).loopEn = true := by decide

theorem wit_SidebandRegisters : (runS.pw.driven = true ∧ runS.pw.cond = 0) ∧ (runS.pw.perstLow = false ∧ Pec.absent ≠ .bad) ∧
    (State.reset.pw.perstLow = true ∨ Pec.good = .bad) := by decide

theorem wit_FlashCommands :
    (State.reset.pw.driven = true ∧ State.reset.pw.cond = 0 ∧ State.reset.pw.perstLow = true ∧ State.reset.pw.flashOp = none ∧ 1 ≤ 32 ∧ 32 ≤ 32 ∧
      (2 ^ 27 - 32) + 32 ≤ 2 ^ 27) ∧
    (([1] : List Byte) ≠ [] ∧ ([1] : List Byte).length ≤ 32 ∧ 255 % 256 + ([1] : List Byte).length ≤ 256 ∧ Pec.good ≠ .bad) ∧
    (flashTop < 0x6040000 + 1 ∧ ¬ flashTop < 0x603FFFF + 1 ∧ flashTop ≤ 0x6040000 ∧ ¬ flashTop ≤ 0x603FFFF) ∧
    (runS.pw.perstLow = false ∨ runS.pw.flashOp ≠ none) ∧ (opS (.write 0 [0])).pw.flashOp = some (.write 0 [0]) ∧
    (opS (.erase 65536)).pw.flashOp = some (.erase 65536) := by decide

theorem wit_BoundaryScan : (State.reset.pw.driven = true ∧ State.reset.pw.perstLow = true) ∧ runS.pw.perstLow = false := by decide

/-- Every tile has every tile's report. -/
def votedS : State := { upS with bt := { Boot.reset with health := (List.range 64).map fun i => (i, BitVec.allOnes 64) } }
def claimS : State := { upS with bt := { Boot.reset with phase := 2, frozen := true, claim := some (BitVec.allOnes 64), claimed := BitVec.allOnes 64, acks := 0x7FFFFFFFFFFFFFFF } }

theorem wit_ElectionOfPrimary : (upS.booting = true ∧ upS.bt.frozen = false) ∧
    ((at_ votedS 30000000).booting = true ∧ (at_ votedS 30000000).bt.frozen = false ∧ 30000000 ≤ (at_ votedS 30000000).now ∧ votedS.claimant = some 0 ∧ electStandby (votedS.health 0) 0 = some 6 ∧
      ((votedS.health 0).getLsbD 0 = true ∨ (votedS.health 0).getLsbD 3 = true)) ∧
    ((at_ upS 30000000).booting = true ∧ (at_ upS 30000000).bt.frozen = false ∧ 30000000 ≤ (at_ upS 30000000).now ∧ (at_ upS 30000000).claimant = none) ∧ (∀ i, i < 64 → votedS.health i = BitVec.allOnes 64) ∧
    (claimS.booting = true ∧ claimS.bt.claim = some (BitVec.allOnes 64)) ∧
    (claimS.bt.phase = 2 ∧ claimS.bt.claimed.getLsbD 5 = true ∧ BitVec.allOnes 64 &&& ~~~(claimS.bt.acks ||| (1#64 <<< 5)) ≠ 0) ∧
    (claimS.bt.claimed.getLsbD 63 = true ∧ claimS.bt.acks ||| (1#64 <<< 63) = BitVec.allOnes 64) := by decide +kernel

def noRep : PhaseReport := ⟨⟨true, true, true, true⟩, ⟨true, true, true, true⟩, [], [], [], [], [], []⟩
def zeroCells (a n : Nat) : List Host.Cell := (List.range n).map fun i => (a + i, 0)
def imageFlash : List Host.Cell := [(0, 0x4D), (1, 0x43), (2, 0x48), (3, 0x50), (4, 1), (5, 0), (6, 0), (7, 0)] ++ zeroCells 0xA1 3 ++ zeroCells 0x105 3 ++ zeroCells 0x1C8 56
/-- A flash whose slot A has a header with valid fields: magic, format 1, a security version not below that of slot B. -/
def imageS : State := { bootS 3 with pw := { upS.pw with flash := imageFlash } }

theorem wit_BootToReady : ((bootS 1).booting = true ∧ ((bootS 4).bt.phase = 1 ∨ (bootS 4).bt.phase = 4)) ∧
    ((bootS 3).booting = true ∧ slotCheck ((bootS 3).flashBytes 0 512) noRep.slotA (bootS 3).minSecver ≠ 0 ∧
      slotCheck ((bootS 3).flashBytes 0x3000000 512) noRep.slotB (bootS 3).minSecver ≠ 0) ∧
    (imageS.booting = true ∧ imageS.bt.phase = 3 ∧
      leAt (imageS.flashBytes 0x3000000 512) 8 4 ≤ leAt (imageS.flashBytes 0 512) 8 4) ∧
    ((bootS 5).booting = true ∧ (bootS 5).bt.phase = 5 ∧ noRep.trainFail = [] ∧ noRep.laneFail = [] ∧ 1023 < 1024 ∧ ((bootS 5).sub 1023).state = 0) ∧
    ((bootS 9).booting = true ∧ (bootS 9).bt.phase = 9) ∧ ((bootS 10).booting = true ∧ (bootS 10).bt.phase = 10 ∧ ((bootS 10).tileAt 63).state ≠ 0 ∧
      (bootS 10).epochCount = 0) ∧
    ((at_ (bootS 4) 2500000000).booting = true ∧ 2500000000 ≤ (at_ (bootS 4) 2500000000).now ∧ (bootS 4).bt.throttled = false ∧
      (bootS 4).pw.throttleLow = false) := by decide +kernel

/-- The image of `imageS` is valid whatever security version the fuses hold. -/
theorem slotCheck_ok (h : List Byte) (m : Nat) (h1 : (leAt h 0 4 = 0x5048434D ∧ leAt h 4 2 = 1 ∧ ((h.drop 0xA1).take 3).all (· = 0) ∧
    ((h.drop 0x105).take 3).all (· = 0) ∧ ((h.drop 0x1C8).take 56).all (· = 0))) (h2 : ¬ leAt h 8 4 < m) :
    slotCheck h ⟨true, true, true, true⟩ m = 0 := by
  unfold slotCheck
  simp only [h1.1, h1.2.1, h1.2.2.1, h1.2.2.2.1, h1.2.2.2.2, h2, and_self, decide_true, Bool.not_true, if_false, Bool.false_eq_true]

theorem minSecver_le (s : State) : s.minSecver ≤ 4294967295 := by
  have := Config.fusedSecver.isLt
  have := s.bt.minSecver.isLt
  unfold State.minSecver
  omega

theorem image_secver : leAt (imageS.flashBytes 0 512) 8 4 = 4294967295 := by decide +kernel

theorem wit_BootToReady_image : slotCheck (imageS.flashBytes 0 512) noRep.slotA imageS.minSecver = 0 :=
  slotCheck_ok _ _ (by decide +kernel) (Nat.not_lt.mpr (Nat.le_trans (minSecver_le _) (Nat.le_of_eq image_secver.symm)))

theorem wit_SpareLaneDecision : (∀ l ∈ [12], l = 12) ∧ (11 < 12 ∧ 11 ∈ [11] ∧ ∀ m ∈ [11], m = 11) ∧ (0 < 12 ∧ 0 ∈ [0, 12] ∧ 12 ∈ [0, 12]) ∧
    (3 < 12 ∧ 7 < 12 ∧ 3 ≠ 7 ∧ 3 ∈ [3, 7] ∧ 7 ∈ [3, 7]) := by decide

/-! #### Registers, loops and host ports -/

def tileS (x : Tile) : State := runS.setTile 5 x
def throttleS : State := { tileS { tileInit with freq := 128 } with pw := { runS.pw with throttleLow := true } }

theorem wit_FrequencyAndEyeMargin :
    (runS.pw.inReset = false ∧ runS.md.state ≠ 2 ∧ ((tileS { tileInit with freq := 64 }).tileAt 5).state ≠ 0 ∧
      64 ≤ ((tileS { tileInit with freq := 64 }).tileAt 5).freq ∧ ((tileS { tileInit with freq := 160 }).tileAt 5).freq ≤ 160 ∧
      ((tileS { tileInit with loopAt := some 0 }).tileAt 5).loopAt = some 0 ∧ 0 + 1000 ≤ (at_ runS 1000).now ∧ (at_ runS 999).now < 0 + 1000 ∧
      ((tileS { tileInit with stretched := true, droopAt := 900 }).tileAt 5).droopAt + 100 ≤ (at_ runS 1000).now) ∧
    (throttleS.pw.throttleLow = true ∧ (throttleS.tileAt 5).state ≠ 0 ∧ 64 < (throttleS.tileAt 5).freq) ∧
    ((runS.setSub 9 { subInit 9 with state := 1 }).pw.inReset = false ∧ ((runS.setSub 9 { subInit 9 with state := 1 }).sub 9).state = 1) ∧
    ((runS.setCw 3 { runS.cwAt 3 with state := 2 }).cwAt 3).state = 2 := by decide

def stackS (x : Stack) : State := runS.setStack 15 x

theorem wit_ScrubRate : runS.loopsRun = true ∧ (at_ (runS.loopRan 0) 3599999999999).loopDue 0 3600000000000 = false ∧ (at_ runS 3600000000000).loopDue 0 3600000000000 = true ∧
    (at_ runS 3600000000000).loopsRun = true ∧ 15 < 16 ∧ ((stackS { stackInit with hours := 7 }).stackAt 15).hours ≠ 0 ∧ ((stackS stackInit).stackAt 15).hours = 0 ∧
    1024 ≤ ((stackS { stackInit with corrected1h := 1024 }).stackAt 15).corrected1h.toNat ∧
    (64 ≤ ((stackS { stackInit with corrected1h := 1023, period := 25 }).stackAt 15).corrected1h.toNat ∧ 24 < ((stackS { stackInit with period := 25 }).stackAt 15).period) ∧
    (64 ≤ ((stackS { stackInit with corrected1h := 64 }).stackAt 15).corrected1h.toNat ∧ ((stackS stackInit).stackAt 15).period ≤ 24) ∧
    16 ≤ ((stackS { stackInit with corrected1h := 16 }).stackAt 15).corrected1h.toNat ∧
    (((stackS { stackInit with corrected1h := 15, quiet := 22 }).stackAt 15).corrected1h.toNat < 16 ∧ ((stackS { stackInit with quiet := 22 }).stackAt 15).quiet + 1 < 24) ∧
    24 ≤ ((stackS { stackInit with quiet := 23 }).stackAt 15).quiet + 1 := by decide

theorem wit_BankConcurrency : (at_ (runS.loopRan 1) 999999).loopDue 1 1000000 = false ∧ (at_ runS 1000000).loopDue 1 1000000 = true ∧ (at_ runS 1000000).loopsRun = true ∧ runS.pw.throttleLow = false ∧ 0 < 16 ∧ ([⟨89, 404⟩] : List StackSense)[0]? = some ⟨89, 404⟩ ∧
    (runS.stackAt 0).allot = 450 ∧ (runS.stackAt 0).loopEn = true ∧ ((runS.setStack 0 { stackInit with loopEn := false }).stackAt 0).loopEn = false ∧
    100 ≤ (StackSense.mk 100 0).temp ∧ ((StackSense.mk 99 0).temp < 100 ∧ 95 ≤ (StackSense.mk 99 0).temp) ∧
    (450 < (StackSense.mk 94 451).power) ∧ ((StackSense.mk 89 404).temp < 90 ∧ (StackSense.mk 89 404).power < 405) ∧
    ((StackSense.mk 94 450).temp < 95 ∧ (StackSense.mk 94 450).power ≤ 450 ∧ 90 ≤ (StackSense.mk 94 450).temp) ∧ ((0 : UnitId).val / 128 = 0) := by decide

theorem wit_BankConcurrency_window :
    (((runS.setSub 0 { subInit 0 with state := 1 }).setUnit 0 { unitInit with jobs := [⟨0, false, [], 0, false, 0, 2, 0, 1, 0, 1, false, none⟩] }).windowOk 0 0) = true := by
  decide +kernel

theorem wit_PowerCapping : (4095 < 4096 ∧ runS.pw.inReset = false ∧ runS.md.state ≠ 2 ∧ (at_ runS 1000).loopDue 2 1000 = true ∧ (at_ (runS.loopRan 2) 999).loopDue 2 1000 = false) ∧
    (runS.loopsRun = true ∧ (at_ runS 100000).loopDue 3 100000 = true ∧ (at_ (runS.loopRan 3) 99999).loopDue 3 100000 = false) ∧
    (63 < 64 ∧ (runS.tileAt 63).state ≠ 0) ∧ ((runS.setTile 0 { tileInit with state := 0 }).tileAt 0).state = 0 := by decide

theorem wit_ControlRegisterWrites : 168 < (169 : W64).toNat % 256 ∧ (168 : W64).toNat % 256 ≤ 168 := by decide

theorem wit_TimersAndHalts : (1 ≤ (999 : W64).toNat % 2 ^ 32 ∧ (999 : W64).toNat % 2 ^ 32 ≤ 999) ∧
    ((0 : W64).toNat % 2 ^ 32 = 0 ∨ 1000 ≤ (0 : W64).toNat % 2 ^ 32) ∧ 1000 ≤ (1000 : W64).toNat % 2 ^ 32 ∧
    ((tileS { tileInit with state := 3 }).tileAt 5).state = 3 ∧ ((tileS { tileInit with state := 2 }).tileAt 5).state ≠ 3 ∧
    ((2 : W64).getLsbD 0 = true ∨ (2 : W64).getLsbD 1 = true) := by decide

theorem wit_LayoutsAndDecode : 63 < 64 ∧ (0 : Nat) / 64 ≠ 4 * 63 + 3 ∧
    ((runS.dr.segs.contains (segOfPos 0)) = ({ runS.dr with segs := [1] } : Dram).segs.contains (segOfPos 0)) := by decide

def openDr : Dram := { Dram.reset with sub := [(0, { subInit 0 with state := 1 })] }
def portS (x : PortSt) : State := { runS with ho := { HostIf.reset with portA := x }, dr := openDr }

theorem wit_HalfReadsAndTileWindow : (latched 0x20 = true ∧ ((portS { PortSt.reset with half := some (0x20, 5) }).port .A).half = some (0x20, 5)) ∧
    (latched 0x38 = true ∧ (runS.port .A).half = none) ∧ (0x7FFFFC % 4 = 0 ∧ 0x7FFFFC < 0x800000 ∧ latched (0x7FFFFC / 8 * 8) = false) ∧
    (0x7FFFF8 % 8 = 0 ∧ 0x7FFFF8 < 0x800000) ∧ ((runS.setTile 0 { tileInit with state := 0 }).tileAt ((runS.port .A).tileWin)).state = 0 ∧ (0x508 ≠ 0x500) ∧
    ((runS.setTile 0 { tileInit with state := 3 }).tileAt ((runS.port .A).tileWin)).state = 3 := by decide

theorem wit_PlainRegisterWrites : (63 < 64 ∧ (runS.mbox 63).enabled = false) ∧ ((runS.setMbox 63 { mboxInit 63 with enabled := true }).mbox 63).enabled = true ∧
    0x18 ∈ [0x00, 0x08, 0x10, 0x18] ∧ (0x140000 % 8 = 0 ∧ 0x140000 ≤ 0x140000 ∧ 0x7FFFF8 < 0x800000) := by decide

def upPort : PortSt := { PortSt.reset with up := true, cfgReady := true, rate := 6, width := 16 }
def hostS : State := { runS with ho := { HostIf.reset with portA := upPort, portB := upPort, ring := [(4095, { Ring.reset with active := true })] } }

theorem wit_HostPorts : (hostS.pw.inReset = false ∧ (hostS.port .A).disabled = false ∧ ((hostS.port .A).cfgReady = true ∨ 100000000 ≤ hostS.time.toNat)) ∧
    (State.reset.pw.inReset = true ∨ ((State.reset.port .B).cfgReady = false ∧ State.reset.time.toNat < 100000000)) ∧
    ((runS.port .B).cfgReady = false ∧ ({ runS with time := 99999999 } : State).time.toNat < 100000000) ∧
    ((hostS.port .B).up = true ∧ (hostS.port (otherPort .B)).up = true ∧ (hostS.ringAt 4095).active = true) ∧
    (((portS upPort).port (otherPort .A)).up = false) ∧ ((runS.port .A).up = false) ∧
    (((portS upPort).port .B).up = false ∧ ((portS upPort).port .B).disabled = false ∧ ((portS upPort).port (otherPort .B)).up = true) := by decide

theorem wit_Bar2Windows : (portS upPort).bar2Addr .A 0 64 = some 0 ∧ (portS upPort).xferReady [(0, 64)] [] = true ∧ (portS upPort).xferReady [] [(0, 1)] = true ∧ (anyPoison ((portS upPort).agentRead .host 0 64 0 []).1 = false) ∧
    (anyPoison (({ portS upPort with dr := { openDr with mark := [0] } } : State).agentRead .host 0 64 0 []).1 = true) ∧
    (portS upPort).bar2Addr .A (2 ^ 34) 1 = none ∧ (({ portS upPort with ho := { (portS upPort).ho with bar2Write := true } } : State).ho.bar2Write = true) ∧
    ((portS upPort).ho.bar2Write = false ∨ (portS upPort).bar2Addr .A 0 (HostWrite.mk [1] []).bytes.length = none) ∧
    ((0x400000000 : W64).toNat % 2 ^ 46 / 2 ^ 30 * 2 ^ 30) % 2 ^ ((portS upPort).port .A).bar2Log = 0 ∧
    ((0x40000000 : W64).toNat % 2 ^ 46 / 2 ^ 30 * 2 ^ 30) % 2 ^ ((portS upPort).port .A).bar2Log ≠ 0 ∧ (30 ≤ 30 ∧ 40 ≤ 40) := by decide +kernel

def mboxS (x : MBox) : State := { hostS with ho := { hostS.ho with mbox := [(0, x)] } }
def onBox : MBox := { mboxInit 0 with enabled := true, m := 4, k := 4 }
def ringS (x : Ring) : State := { hostS with ho := { hostS.ho with ring := [(7, x)], event := x } }
def onRing : Ring := { Ring.reset with active := true, j := 4 }

theorem wit_MailboxesAndDoorbells :
    (hostS.md.state = 1 ∧ (hostS.mbox 63).enabled = false ∧ (hostS.mbox 63).draining = false ∧ (hostS.mbox 63).cfgOk = true) ∧
    (((mboxS { mboxInit 0 with m := 3 }).mbox 0).cfgOk = false) ∧ ((mboxS onBox).mbox 0).enabled = true ∧ ((mboxS onBox).mbox 0).port ≠ .B ∧
    ((16 : W32) - ((mboxS onBox).mbox 0).fetch).toNat ≤ 2 ^ ((mboxS onBox).mbox 0).m ∧
    (2 ^ ((mboxS onBox).mbox 0).m < ((17 : W32) - ((mboxS onBox).mbox 0).fetch).toNat) ∧ ((0x80000000 : W32) - ((mboxS onBox).mbox 0).fetch).toNat = 2 ^ 31 ∧
    (((mboxS onBox).mbox 0).prod - (0xFFFFFFF0 : W32)).toNat ≤ 2 ^ ((mboxS onBox).mbox 0).k ∧
    (2 ^ ((mboxS onBox).mbox 0).k < (((mboxS onBox).mbox 0).prod - (0xFFFFFFEF : W32)).toNat) ∧
    (((ringS onRing).ringAt 7).active = true ∧ (((ringS onRing).ringAt 7).prod - (0xFFFFFFF0 : W32)).toNat ≤ 2 ^ ((ringS onRing).ringAt 7).j) ∧
    (((ringS onRing).ringAt 7).port ≠ .B) ∧ (2 ^ ((ringS onRing).ringAt 7).j < (((ringS onRing).ringAt 7).prod - (5 : W32)).toNat ∧ ((ringS onRing).ringAt 7).head ≠ 5) ∧
    ((ringS onRing).ho.event.active = true ∧ ((ringS onRing).ho.event.prod - (0xFFFFFFF0 : W32)).toNat ≤ 2 ^ (ringS onRing).ho.event.j) := by decide

/-- A BUDGET_QUERY entry, and one with an opcode that Table HOST-9 does not list. -/
def queryEntry : List Byte := [7, 1, 0, 0, 9] ++ List.replicate 59 0
def badEntry : List Byte := [0xFF, 0xFF] ++ List.replicate 62 0
def cpl1 : Cpl := ⟨9, 0x0107, 0, 0, 0, none⟩
def cmd1 : CmdRec := ⟨⟨0, 0, 9, 0, false⟩, 0x0107, [], 0, 0, 0, true⟩
def fetchS : State := mboxS { onBox with tail := 1, rung := [(1, 0)] }
def bellS : State := { hostS with ho := { hostS.ho with bells := 2, mbox := [(0, { onBox with tail := 1, rung := [(1, 1)] }), (1, { onBox with tail := 1, rung := [(1, 0)] })] } }

theorem wit_CommandFlow : (fetchS.mayFetch 0 = true ∧ fetchS.bellTurn 0 = true ∧ fetchCheck 0 queryEntry [] = none) ∧
    ((0 : MboxId).val ≠ (1 : MboxId).val ∧ (bellS.mbox 1).port = (bellS.mbox 0).port ∧ bellS.mayFetch 1 = true ∧ (bellS.mbox 1).bell < (bellS.mbox 0).bell) ∧
    ((∀ r ∈ (fetchS.mbox 0).cmds, r.hdr.index ≠ (fetchS.mbox 0).fetch) ∧ fetchCheck 0 badEntry [] = some 0x13) ∧
    (opRow (leAt badEntry 0 2) badEntry = none) ∧
    ((opRow 0x0107 queryEntry).isSome = true ∧ 4 ≤ leAt ([7, 1, 4] ++ List.replicate 61 0 : List Byte) 2 1) ∧
    ((opRow 0x0002 ([2] ++ List.replicate 63 0)).map (·.ctl) = some true ∧ (1 : Nat) ≠ 0 ∧ (1 : Nat) ≠ 32) ∧
    (((mboxS { onBox with done := [cpl1] }).mbox 0).done = [cpl1] ∧ cpl1.wait = none ∧ ((mboxS { onBox with done := [cpl1] }).port .A).up = true) ∧
    (((mboxS { onBox with coalesce := 1, irq := ⟨true, true, 5⟩ }).mbox 0).irq = ⟨true, true, 5⟩ ∧ (at_ hostS 1004).now < 5 + 1000 * ((mboxS { onBox with coalesce := 1 }).mbox 0).coalesce) ∧
    (((mboxS { onBox with irq := ⟨true, false, 5⟩ }).mbox 0).irq = ⟨true, false, 5⟩ ∧ 5 + 1000 * ((mboxS onBox).mbox 0).coalesce ≤ (at_ (mboxS onBox) 5).now) ∧
    ((ringS { onRing with irq := ⟨true, true, 5⟩ }).ringAt 7).irq = ⟨true, true, 5⟩ ∧ (ringS { onRing with irq := ⟨true, true, 5⟩ }).ho.event.irq = ⟨true, true, 5⟩ ∧
    5 + 1000 * ((ringS onRing).ringAt 7).coalesce ≤ (at_ (ringS onRing) 5).now ∧ 5 + 1000 * (ringS onRing).ho.event.coalesce ≤ (at_ (ringS onRing) 5).now ∧
    (((mboxS { onBox with cmds := [cmd1] }).mbox 0).cmds.find? (fun r => r.hdr.index = 0) = some cmd1 ∧ (mboxS { onBox with cmds := [cmd1] }).cmdRec cmd1.hdr = some cmd1 ∧
      cmd1.hdr.mb = 0) ∧ runS.md.running = true ∧ runS.md.hbFirst = true ∧
    ({ runS with md := { runS.md with hbFirst := false }, time := 90000 } : State).md.hbTime.toNat + 90000 ≤ ({ runS with time := 90000 } : State).now := by
  decide +kernel

/-! #### Host commands -/

def hdr : CmdHdr := ⟨0, 0, 9, 0, false⟩
/-- READY, both ports up, a command with its opcode and operands fetched into mailbox 0. -/
def cmdS (op : Nat) (ops : List Nat := []) : State :=
  mboxS { onBox with tail := 1, fetch := 1, cmds := [⟨hdr, op, ops, 0, 0, 0, false⟩] }

/-- The request of every host command with this header stands ready in such a state. -/
theorem wit_Ready (c : Instr) (op : Nat) (ops : List Nat) (h : hostCmd c = some (hdr, op, ops)) : Ready c (cmdS op ops) := by
  have h1 : ((cmdS op ops).ten hdr.tenant.toNat).live = true := by
    show ((tget tenInit Service.reset.tenant 0).live = true)
    decide
  have h2 : (cmdS op ops).mbox hdr.mb = { onBox with tail := 1, fetch := 1, cmds := [⟨hdr, op, ops, 0, 0, 0, false⟩] } := rfl
  simp only [Ready, h, State.mayBegin, MBox.startable, State.fetchedAs, State.inTurn, State.cmdRec, h2, h1]
  refine ⟨?_, rfl, rfl, trivial⟩
  simp [cmdS, mboxS, hdr]

/-- Changes of the stacks, threads, units, tiers or service keep a request ready. -/
theorem wit_Ready_with (c : Instr) (s : State) (dr : Dram) (th : Threads) (tile : Tab Tile) (unit : Tab BUnit) (ti : Tiers) (sv : Service) (pages : Tab W64)
    (cw : Causeway) (h : Ready c s) (hl : ∀ x ∈ hostCmd c, (({ s with sv := sv } : State).ten x.1.tenant.toNat).live = true) :
    Ready c { s with dr := dr, th := th, tile := tile, unit := unit, ti := ti, sv := sv, pages := pages, cw := cw } := by
  unfold Ready at h ⊢
  split
  · rename_i h' op ops e
    rw [e] at h hl
    exact ⟨h.1, h.2.1, h.2.2.1, hl _ rfl⟩
  · rename_i e
    rw [e] at h
    exact h

theorem wit_HostCommandOrder :
    (hostCmd (.budgetQuery hdr) = some (hdr, 0x0107, []) ∧ (hostS.mayBegin hdr 0x0107 [] = false ∨ State.reset.md.running = false ∨ State.reset.md.state ≠ 1)) ∧
    ((cmdS 0x0107).mayBegin hdr 0x0107 [] = true ∧ (cmdS 0x0107).md.running = true ∧ (cmdS 0x0107).md.state = 1) ∧
    (({ cmdS 0x0107 with sv := { Service.reset with tenant := [(0, { tenInit 0 with live := false })] } } : State).ten hdr.tenant.toNat).live = false ∧
    ((cmdS 0x0107).mbox hdr.mb).startable hdr 0x0107 = true := by decide +kernel

/-- Of two MODEL_PUBLISHes of one model in two mailboxes, the one accepted second waits for the first to begin (R351). -/
theorem test_acceptance_order :
    let r : Nat → Nat → Bool → CmdRec := fun n k b => ⟨{ hdr with mb := ⟨n % 64, Nat.mod_lt n (by decide)⟩ }, 0x0302, [5], 0, 0, k, b⟩
    let s : Bool → State := fun b =>
      { hostS with ho := { hostS.ho with mbox := [(0, { onBox with cmds := [r 0 1 false] }), (1, { onBox with cmds := [r 1 0 b] })] } }
    (s false).mayBegin hdr 0x0302 [5] = false ∧ (s false).mayBegin { hdr with mb := 1 } 0x0302 [5] = true ∧ (s true).mayBegin hdr 0x0302 [5] = true := by
  decide +kernel

def tenS (t : Nat) : Service := { Service.reset with tenant := [(t, { tenInit t with live := true })] }
def sessS (x : Sess) : Service := { Service.reset with sess := [(0, x)] }

theorem wit_ModuleAndTenantCommands : ((cmdS 3).ho.portA.up = true ∧ (cmdS 3).ho.portB.up = true ∧ ((cmdS 3).port .B).up = true) ∧
    ((cmdS 3).ringAt 4095).active = true ∧ ((5 : W16).toNat < 16384 ∧ (({ cmdS 0x0102 with sv := tenS 5 } : State).ten 5).live = true ∧
      ({ cmdS 0x0102 with sv := tenS 5 } : State).tenantInUse 5 = false) ∧
    (({ cmdS 0x0102 with sv := { tenS 5 with sess := [(0, { sessInit with state := 1, tenant := 5 })] } } : State).tenantInUse 5 = true) := by decide +kernel

def refills : List Refill := [⟨0, 0, 5⟩]

theorem wit_TokenBudgets : (([] : List Refill) = []) ∧ (∃ r ∈ [(⟨16384, 0, 1⟩ : Refill)], 16384 ≤ r.tenant.toNat ∨ 1 < r.op.toNat) ∧
    (refills ≠ [] ∧ refills.length ≤ 4096 ∧ (∀ r ∈ refills, r.tenant.toNat < 16384 ∧ r.op.toNat ≤ 1 ∧ ((cmdS 0x0106).ten r.tenant.toNat).live = true)) ∧
    (1000 < ((1001 : W32) - (cmdS 0x0106).budgetTick).toNat ∧ ((1001 : W32) - (cmdS 0x0106).budgetTick).toNat < 2 ^ 31) ∧
    (¬ (1000 < ((1000 : W32) - (cmdS 0x0106).budgetTick).toNat ∧ ((1000 : W32) - (cmdS 0x0106).budgetTick).toNat < 2 ^ 31)) ∧
    (serialCmp (1000 : W32) 1000 ≠ .after ∧ serialCmp (999 : W32) 1000 = .after) ∧ (cmdS 0x0106).sv.refillTick = none ∧ (refills.map (·.tenant)).Nodup := by
  decide +kernel

def ringPrm : RingParams := ⟨4096, 8192, 6, 1, 0, 0⟩
def anEvent : Event := ⟨0, 0x0305, 0, false, false, false, false, false, 0, 0, 0, 0, 0, 0, 0, 0, 0, 0, 0⟩

theorem wit_RingsAndRecords : (ringParamsOk 4 { ringPrm with j := 3 } = false) ∧ (ringParamsOk 4 ringPrm = true ∧ ((cmdS 0x0607).ringAt 0).active = false ∧
      (∀ m, m < 0 → ((cmdS 0x0607).ringAt m).active = true) ∧ 0 ≤ (cmdS 0x0607).ho.ring.length) ∧ ringParamsOk 6 ringPrm = true ∧
    (({ ringS onRing with fl := { Faults.reset with backlog := [anEvent] } } : State).fl.backlog = [anEvent] ∧ (ringS onRing).ho.event.active = true ∧
      ((ringS onRing).ho.event.prod - (ringS onRing).ho.event.head).toNat < 2 ^ (ringS onRing).ho.event.j ∧ ((ringS onRing).port (ringS onRing).ho.event.port).up = true) ∧
    (runS.fl.backlog = [] ∨ runS.ho.event.active = false) := by decide +kernel

def bankSegS : State := { cmdS 0x0803 with dr := { Dram.reset with segs := [256 * 63 + 255] } }
def okTraffic : TrafficResult := ⟨[], []⟩

theorem wit_MaintenanceCommands : ((1023 : W16).toNat < 1024 ∧ ((cmdS 0x0801).sub 1023).state ≠ 3) ∧
    ((0 : W64) = 0 ∧ 0 < (131072 : W64).toNat ∧ (0 : W64).toNat + (131072 : W64).toNat ≤ 2 ^ 40 ∧ (0 : W64).toNat % 131072 = 0 ∧ (131072 : W64).toNat % 131072 = 0 ∧
      (0 : W64).toNat / 2 ^ 26 = ((0 : W64).toNat + (131072 : W64).toNat - 1) / 2 ^ 26 ∧ (cmdS 0x0803).segBank 0 0 = false ∧
      (∀ i, i < 16 → ((cmdS 0x0803).sub (16 * 0 + i)).state ≠ 3) ∧ ∀ q ∈ pieces 512 0 131072, (cmdS 0x0803).madderOk q.1 = true) ∧
    ((4096 : W64).toNat % 4096 = 0 ∧ (0xFFFFFFF000 : W64).toNat + (4096 : W64).toNat ≤ 2 ^ 40 ∧ (0xFFFFFFF000 : W64).toNat % 4096 = 0 ∧
      (0xFFFFFFF000 : W64).toNat / 2 ^ 21 = ((0xFFFFFFF000 : W64).toNat + (4096 : W64).toNat - 1) / 2 ^ 21 ∧
      bankSegS.segBank ((0xFFFFFFF000 : W64).toNat / 2 ^ 34) ((0xFFFFFFF000 : W64).toNat / 2 ^ 26 % 256) = true ∧
      (bankSegS.sub ((0xFFFFFFF000 : W64).toNat / 2 ^ 34 * 16 + (0xFFFFFFF000 : W64).toNat / 2 ^ 22 % 16)).state ≠ 3 ∧
      ∀ q ∈ pieces 512 (0xFFFFFFF000 : W64).toNat 4096, bankSegS.madderOk q.1 = true) ∧
    ((4095 : W16).toNat < 4096 ∧ 4096 ≤ (4096 : W16).toNat ∧ (255 : W16).toNat < 256 ∧ (cmdS 0x0804).fl.out.contains ⟨.die, 255⟩ = false ∧
      ((cmdS 0x0804).sub 1023).inits = [] ∧ (2047 : W16).toNat < 2048 ∧ (127 : W16).toNat < 128) ∧
    (64 ≤ (64 : Byte).toNat ∧ ((tileS { tileInit with state := 3 }).tileAt 5).state = 3 ∧ ((tileS { tileInit with state := 2 }).tileAt 5).state = 2 ∧
      ((tileS { tileInit with state := 0 }).tileAt 5).state ≠ 2) ∧
    (((tileS { tileInit with state := 2, diagReq := [hdr] }).tileAt 5).diagReq ≠ [] ∧ (runS.arrAt (2 * 5)).jobs = [] ∧ (runS.arrAt (2 * 5 + 1)).jobs = []) ∧
    ((1 : Byte).toNat < 2 ∧ 2 ≤ (2 : Byte).toNat ∧ (4 : Byte).toNat ≤ 4 ∧ ({ cmdS 0x0903 with pages := [(0, 1)], cw := { Causeway.reset with lent := [⟨0, 0, [0], false, 0⟩] } } : State).quadBusy 0 = true) ∧
    ((1 : Byte).toNat ≤ 1 ∧ ((cmdS 0x0A01).port (portOf 1)).up = true ∧ (cmdS 0x0A01).sv.kernels.length < 2 ^ 32) := by decide +kernel

/-- A micro-program of one END passes the loader, and no unit holds a job. -/
theorem wit_MaintenanceCommands_uprog : hdr.tenant = 0 ∧ 384 ≤ (384 : W16).toNat ∧ (511 : W16).toNat < 512 ∧ loaderOk 384 [0x0400000000000000] false = true ∧
    ((cmdS 0x0A03).unit.any fun u => !u.2.oos && u.2.holds) = false := by decide +kernel

/-! #### Objects, mappings, tiers -/

/-- A tenant 0 with quotas, an Indigo pool behind port A, object 1. -/
def richS (op : Nat) : State :=
  { cmdS op with sv := { Service.reset with tenant := [(0, { tenInit 0 with quota := [0x40000000, 0x40000000, 0x40000000] })] },
                 ti := { Tiers.reset with pools := [⟨1, 0, 0, 2 ^ 30, 1, []⟩] } }
def objS (op : Nat) (o : Obj) : State := { richS op with ti := { (richS op).ti with obj := [(1, o)] } }
/-- An Indigo object of one 64-KiB page in square 0. -/
def obj1 : Obj := { objInit with live := true, bytes := 65536, flags := 0x20001, units := [(0, { unitRecInit with st := 1, tier := 2 })] }
def pin1 : Obj := { obj1 with flags := 0x400001, state := 2, units := [], pages := [0] }
/-- Objects of one 32-byte unit, to keep what the kernel computes small. -/
def tiny (st : Nat) : Obj := { obj1 with bytes := 32, unitBytes := 32, state := st, pages := [0] }

theorem wit_ObjectCommands_alloc : ((0 : W64) = 0 ∨ 1 < (2 : Byte).toNat) ∧ ((1 : W64) ≠ 0 ∧ (1 : Byte).toNat ≤ 1 ∧ flagsOk 0 0x30001 0 = false) ∧
    (flagsOk hdr.tenant.toNat 0x20001 (0 : W16).toNat = true ∧ fPin 0x20001 = false ∧ (cmdS 0x0201).quotaOk 0 (fLower 0x20001) 65536 = false ∧
      (richS 0x0201).quotaOk 0 (fLower 0x20001) 65536 = true) ∧
    (flagsOk 0 0x400001 0 = true ∧ fPin 0x400001 = true ∧ (richS 0x0201).quotaOk pin1.payer 0 pin1.madderBytes = true ∧
      (richS 0x0201).takePages { pin1 with state := 0, pages := [] } = some ([0], [0], [])) := by decide +kernel

def boundSv : Service := { Service.reset with model := [(0, { modelInit with state := 2, pieces := [[1, 0, 0, 0]] })], sess := [(0, { sessInit with state := 1 })] }

theorem wit_ObjectCommands_free : (((objS 0x0202 (tiny 1)).objAt 1).live = true ∧ ((objS 0x0202 (tiny 1)).objAt 1).owner = hdr.tenant ∧ ((objS 0x0202 (tiny 1)).objAt 1).state = 1) ∧
    (((objS 0x0202 { tiny 2 with claims := [5] }).objAt 1).state ≠ 4 ∧ ((objS 0x0202 { tiny 2 with claims := [5] }).objAt 1).noClaims = false) ∧
    (((objS 0x0202 (tiny 2)).objAt 1).state ≠ 1 ∧ ((objS 0x0202 (tiny 2)).objAt 1).state ≠ 3 ∧ ((objS 0x0202 (tiny 2)).objAt 1).noClaims = true ∧
      (objS 0x0202 (tiny 2)).sessBound 1 = false ∧ (objS 0x0202 (tiny 2)).inFlight ((tiny 2).pages ++ (tiny 2).mirror) = false) := by decide +kernel

def zeroUnit : UnitImage := ⟨List.replicate 65536 0, true⟩
def loadS : State := objS 0x0203 { obj1 with units := [(0, { unitRecInit with st := 2 })] }

theorem wit_ObjectCommands_load : loadS.loadWaits 1 0 1 = false ∧ (loadS.objAt 1).live = true ∧ (loadS.objAt 1).owner = hdr.tenant ∧ fPin (loadS.objAt 1).flags = false ∧
    (loadS.objAt 1).state = 0 ∧ (loadS.objAt 1).pages = [] ∧ (loadS.objAt 1).mirror = [] ∧ (loadS.objAt 1).units ≠ [] ∧ (1 : Byte).toNat ≤ 1 ∧ 0 < (loadS.objAt 1).nUnits ∧
    zeroUnit.readOk = true ∧ ({ loadS with fl := { Faults.reset with rebuilds := [⟨1, 0, false, false⟩] }, ti := { loadS.ti with obj :=
      [(1, { obj1 with units := [(0, { unitRecInit with st := 1, quarantined := true })] })] } } : State).loadWaits 1 0 1 = true := by decide +kernel

theorem wit_ObjectCommands_image : zeroUnit.bytes.length = (loadS.objAt 1).unitBytes ∧ imageOk zeroUnit.bytes = true := by
  constructor
  · exact List.length_replicate
  · exact Bool.or_eq_true_iff.mpr (.inl (decide_eq_true List.length_replicate))

theorem length_toBytes (n v : Nat) : (toBytes n v).length = n := by
  induction n generalizing v with
  | zero => rfl
  | succ n ih => simp [toBytes, ih]

theorem encPage_zero (c : Bool) (n : Nat) : encPage c (List.replicate n 0) = (1, []) := by simp [encPage]

theorem pages_zero (c : Bool) : (pagesOf zeroUnit.bytes).map (encPage c) = List.replicate 16 (1, []) := by
  have h : (pagesOf zeroUnit.bytes).map (encPage c) = (List.range 16).map fun _ => (1, []) := by
    simp only [pagesOf, zeroUnit, List.length_replicate, List.map_map, List.drop_replicate, List.take_replicate, Function.comp_def, encPage_zero]
  rw [h]; rfl

theorem frame_zero (c : Bool) (k o u : Nat) : (buildFrame c k o u zeroUnit.bytes).length = 64 := by
  simp only [buildFrame, pages_zero, pad16, List.length_append, length_toBytes, List.length_flatMap]
  simp only [List.length_replicate, List.length_cons, List.length_nil, List.map_replicate]; decide

theorem wit_ObjectCommands_place : loadS.framePlace (loadS.objAt 1).keyTenant.toNat (fLower (loadS.objAt 1).flags)
    (buildFrame (fCompress (loadS.objAt 1).flags) (loadS.objAt 1).kind 1 0 zeroUnit.bytes).length = .ok (2, 0) := by
  have h : ∀ n, n ≤ 2 ^ 30 → loadS.framePlace (loadS.objAt 1).keyTenant.toNat (fLower (loadS.objAt 1).flags) n = .ok (2, 0) := by
    intro n hn
    simp [loadS, objS, richS, cmdS, mboxS, hostS, runS, upS, obj1, State.objAt, tget, Obj.keyTenant, fShared, fLower, bitsOf, State.framePlace, State.poolRoom,
      firstFit, State.maskUp, bitAt, upPort]
    simp [show n ≤ 1073741824 by omega, objInit, firstFit]
  exact h _ (by rw [frame_zero]; decide)

theorem wit_ObjectCommands_promote : ((objS 0x0204 pin1).objAt 1).claims.length < 65535 ∧ fPin ((objS 0x0204 pin1).objAt 1).flags = true ∧
    ((objS 0x0204 (tiny 2)).objAt 1).state = 2 ∧ fPin (tiny 0).flags = false ∧
    (match ({ cmdS 0x0204 with ti := { Tiers.reset with obj := [(1, obj1)] } } : State).startPromotion 1 with | .error e => e | .ok _ => 0) = 5 ∧
    ((objS 0x0204 { obj1 with units := [] }).startPromotion 1).isOk = true ∧ ((objS 0x0204 (tiny 1)).objAt 1).state = 1 ∧
    ((objS 0x0204 (tiny 3)).objAt 1).state = 3 ∧ ((objS 0x0204 (tiny 4)).objAt 1).state = 4 := by decide +kernel

theorem wit_ObjectCommands_evict : fPin pin1.flags = true ∧ (5 ∉ (tiny 2).claims) ∧
    (fPin { tiny 1 with claims := [5], promoter := some 5 }.flags = false ∧ (5 : W32) ∈ { tiny 1 with claims := [5], promoter := some 5 }.claims ∧
      { tiny 1 with claims := [5], promoter := some 5 }.promoter = some 5) ∧
    ((5 : W32) ∈ { tiny 2 with claims := [5] }.claims ∧ { tiny 2 with claims := [5] }.state = 2 ∧ { tiny 2 with claims := [5] }.waiters = []) := by decide

/-- An access in flight to page 0. -/
def flightTh : Threads := ⟨[(0, { thrInit with outs := [⟨0, 0, 0, 8, false, ⟨false, false⟩, .load 1 false, none, []⟩] })], [], [], []⟩
def mappedS (op : Nat) : State := { objS op pin1 with pages := [(16, mkPage true true false false false false false 0 0 0)] }

theorem wit_MappingsAndPools :
    (((objS 0x0207 pin1).objAt 1).live = true ∧ ((objS 0x0207 pin1).objAt 1).owner = hdr.tenant ∧ (1 : W32) ≠ 0 ∧ mapOk ((objS 0x0207 pin1).objAt 1) 0x100000 0 1 0 0 = true ∧
      (objS 0x0207 pin1).inFlight (ppnsOf ((objS 0x0207 pin1).entriesIn (0x100000 / 65536) 1)) = false ∧
      ∀ e ∈ (objS 0x0207 pin1).entriesIn (0x100000 / 65536) 1, peDomain e.2 = hdr.tenant.setWidth 14) ∧
    mapOk ((objS 0x0207 pin1).objAt 1) 0x100001 0 1 0 0 = false ∧
    ({ mappedS 0x0207 with th := flightTh } : State).inFlight (ppnsOf (({ mappedS 0x0207 with th := flightTh } : State).entriesIn (0x100000 / 65536) 1)) = true ∧
    ((0x100000 : W64).toNat % 65536 = 0 ∧ (mappedS 0x0208).inFlight (ppnsOf ((mappedS 0x0208).pagesFrom 1 (0x100000 / 65536))) = false ∧
      ∀ e ∈ (mappedS 0x0208).pagesFrom 1 (0x100000 / 65536), peDomain e.2 = hdr.tenant.setWidth 14) ∧
    ((0x100008 : W64).toNat % 65536 ≠ 0) ∧
    ((63 : Byte).toNat < 64 ∧ (65536 : W32) ≠ 0 ∧ (0 : W32).toNat + (65536 : W32).toNat ≤ ((cmdS 0x0209).tileAt 63).weldSize ∧ vaReserved 0x100000 = false ∧
      vaReserved (0x100000 + 65536 - 1) = false ∧ (∀ q ∈ (cmdS 0x0209).pages, peWeld q.2 = false) ∧ (cmdS 0x0209).entriesIn (0x100000 / 65536) 1 = []) ∧
    ((3 : Byte) ≠ 0 ∧ (3 : Byte).toNat ≤ 3 ∧ (4096 : W64) ≠ 0 ∧ (4096 : W64).toNat % 4096 = 0 ∧ ((cmdS 0x020A).ten 0).live = true) ∧
    ((richS 0x020B).ti.pools.find? (fun p => p.id = (1 : W32).toNat) = some ⟨1, 0, 0, 2 ^ 30, 1, []⟩) ∧ (∀ p ∈ (richS 0x020B).ti.pools, p.id ≠ (2 : W32).toNat) := by
  decide +kernel

def promS : State := objS 0 { tiny 1 with claims := [5], promoter := some 5, units := [] }
def demS : State := objS 0 { tiny 3 with units := [] }
def lotS : State := { objS 0 obj1 with cw := { Causeway.reset with slot := [(4095, ⟨2, 7, 0, 500, []⟩)] }, time := 500 }

theorem wit_TierTransitions : ((promS.objAt 1).live = true ∧ (promS.objAt 1).state = 1 ∧ (promS.fillCopies 1 (List.range (promS.objAt 1).nUnits)).isOk = true ∧
      (promS.objAt 1).noClaims = false) ∧ (PromoteResult.link = .link ∨ PromoteResult.link = .grace) ∧
    ((demS.objAt 1).live = true ∧ (demS.objAt 1).state = 3 ∧ (demS.encodeUnits 1 [0]).2 = true) ∧
    ((objS 0 (tiny 1)).objAt 1).state = 1 ∧ (((objS 0 (tiny 1)).objAt 1).unit 0).st = 1 ∧ ((objS 0 (tiny 1)).objAt 1).dying = false ∧ ((objS 0 (tiny 1)).objAt 1).live = true ∧
    ((demS.objAt 1).unit 0).st ≠ 1 ∧
    (((demS.encodeUnits 1 (demS.objAt 1).toEncode).1.unmapCopy 1).inFlight ((demS.objAt 1).pages ++ (demS.objAt 1).mirror) = false ∧ (demS.encodeUnits 1 (demS.objAt 1).toEncode).2 = true ∧
      ((demS.encodeUnits 1 (demS.objAt 1).toEncode).1.objAt 1).queued = [] ∧ ((demS.encodeUnits 1 (demS.objAt 1).toEncode).1.objAt 1).dying = false) ∧
    ((({ demS with th := flightTh } : State).encodeUnits 1 (demS.objAt 1).toEncode).1.unmapCopy 1).inFlight ((({ demS with th := flightTh } : State).objAt 1).pages ++ (({ demS with th := flightTh } : State).objAt 1).mirror) = true ∧
    ((lotS.lotAt 4095).state = 2 ∧ lotS.framesIn 4095 = [] ∧ (lotS.lotAt 4095).deadline ≤ lotS.time) ∧
    (({ lotS with time := 499 } : State).time < (({ lotS with time := 499 } : State).lotAt 4095).deadline) := by decide +kernel

def resS : State := objS 0 { tiny 2 with units := [(0, { unitRecInit with st := 2 })] }

theorem wit_TierTransitions_reencode : (resS.objAt 1).state = 2 ∧ ((resS.objAt 1).unit 0).st = 2 ∧
    anyPoison (resS.getImage (resS.objAt 1).pages 0 32).1 = false ∧
    (((resS.getImage (resS.objAt 1).pages 0 32).2).storeUnit 1 0 (bytesOf (resS.getImage (resS.objAt 1).pages 0 32).1)).isOk = true := by decide +kernel

/-! #### Models, overlays, sessions, steps -/

/-- A model image's header: one layer, one KV head, vocabulary 4, context 16, home square 0. -/
def hdr96 : List Byte := [0, 1, 1, 0, 4, 0, 0, 0, 16, 0, 0, 0, 1, 0, 0, 0] ++ List.replicate 16 0 ++ [1, 0, 0, 0, 1, 0, 1, 0, 100, 0, 0, 0, 255, 255, 255, 255] ++
    List.replicate 48 0
/-- A piece record of object 1 on tile 0. -/
def piece1 : List Byte := List.replicate 8 0 ++ [1, 0, 0, 0] ++ List.replicate 20 0
def sched1 : List Byte := List.replicate 4 0 ++ [1, 0, 0, 0] ++ List.replicate 4 0 ++ [1, 0, 0, 0]
def image1 : List Byte := hdr96 ++ piece1 ++ sched1
def mdl (st : Nat) : ModelD := { modelInit with state := st, hdr := hdr96, pieces := [piece1], sched := [sched1] }
def modS (op : Nat) (x : ModelD) : State := { cmdS op with sv := { Service.reset with model := [(4095, x)] } }
/-- The model with a small object 1 in Indigo of 65,536 bytes a unit (its blocks are not weight blocks). -/
def modObjS (op : Nat) (x : ModelD) : State := { objS op obj1 with sv := { (richS op).sv with model := [(4095, x)] } }

theorem wit_ModelCommands_load : headerOk image1 = true ∧ (∀ p ∈ imgPieces image1, pieceOk 1 p = true) ∧ (∀ e ∈ imgSched image1, schedOk 1 e = true) ∧
    imgPieces image1 = [piece1] ∧ (mdl 1).objects = [1] ∧ (4095 : W16).toNat < 4096 ∧
    ((modObjS 0x0301 modelInit).objAt 1).live = true ∧ (modObjS 0x0301 modelInit).mayName hdr.tenant 1 = true ∧
    ((modObjS 0x0301 modelInit).modelAt 4095).state = 0 ∧ ((modS 0x0301 (mdl 1)).modelAt 4095).state ≠ 0 ∧
    ((modS 0x0301 { mdl 1 with owner := 3 }).modelAt 4095).owner ≠ hdr.tenant := by decide +kernel

theorem ofBytes_zeros (n : Nat) : ofBytes (List.replicate n 0#8) = 0 := by
  induction n with
  | zero => rfl
  | succ n ih => simp [List.replicate_succ, ofBytes, ih]

theorem leAt_zeros (n a k : Nat) : leAt (List.replicate n 0#8) a k = 0 := by
  simp [leAt, List.drop_replicate, List.take_replicate, ofBytes_zeros]

theorem all_zeros (n : Nat) : (List.replicate n 0#8).all (· = 0) = true := by simp

/-- A block of zeros passes R130. -/
theorem zero_block (f g m : Nat) (hm : m = blkBytes f g) : blockOk f g (List.replicate m 0#8) = true := by
  have h : ∀ n, rowOk f g (List.replicate m 0#8) n = true := by
    intro n
    have h1 : recAt f g (List.replicate m 0#8) n = 0 := by
      simp only [recAt, bitString, List.drop_replicate, leAt_zeros, Nat.zero_div, Nat.zero_mod]
    simp only [rowOk, h1, rowCodes, List.drop_replicate, List.take_replicate, all_zeros]
    rfl
  simp only [blockOk, List.length_replicate, hm, List.all_eq_true.mpr fun n _ => (hm ▸ h n), List.drop_replicate, List.take_replicate, ofBytes_zeros, all_zeros,
    decide_true, Bool.and_true, Nat.two_pow_pos]

theorem zero_image (m : Nat) (hm : m = blkBytes 0 128) : blockImage (List.replicate m 0#8) = true := by
  simp only [blockImage, List.any_eq_true]
  exact ⟨0, by decide, 128, by decide, zero_block _ _ _ hm⟩

/-- An Indigo object of one W4 block of zeros, never written. -/
def blockObj : Obj := { objInit with live := true, bytes := 20480, unitBytes := 20480, flags := 0x20001 }
def withBlock (s : State) : State := { s with ti := { Tiers.reset with obj := [(1, blockObj)] } }

/-- Every block of records that name only that object passes. -/
theorem blocks_pass (s : State) (ps : List (List Byte)) (h : ((ps.filter fun p => leAt p 2 1 ≠ 2).map pieceObj).eraseDups = [1]) :
    (withBlock s).blocksOk ps = true := by
  have h1 : (withBlock s).objAt 1 = blockObj := rfl
  have h2 : (withBlock s).unitImage 1 0 = some (List.replicate blockObj.unitBytes 0#8) := by
    simp only [State.unitImage, h1]
    rfl
  have h3 : blockImage (List.replicate blockObj.unitBytes 0#8) = true := zero_image _ (by decide)
  have h4 : (List.range blockObj.nUnits) = [0] := by decide
  have h5 : ¬ (blockObj.state = 2 ∨ fPin blockObj.flags = true) := by decide
  simp only [State.blocksOk, h, List.all_cons, List.all_nil, Bool.and_true, h1, h4, if_neg h5, h2, h3]
  decide

theorem wit_ModelCommands_publish : layoutOk (mdl 1).home (mdl 1).pieces = true ∧ layoutOk (mdl 1).home [[0, 0, 0, 4]] = false ∧ (mdl 1).contentsOk = true ∧
    { mdl 1 with hdr := [] }.contentsOk = false ∧
    ((((mdl 1).pieces.filter fun p => leAt p 2 1 ≠ 2).map pieceObj).eraseDups = [1]) ∧
    (modObjS 0x0302 (mdl 1)).blocksOk (mdl 1).pieces = false ∧
    (((modObjS 0x0302 (mdl 1)).objAt 1).live = true ∧ ((({ modObjS 0x0302 (mdl 1) with ti := { Tiers.reset with obj := [(1, pin1)] } } : State).objAt 1).state ∈ [1, 2, 3])) := by
  decide +kernel

theorem wit_ModelCommands_publish_blocks : (withBlock (modS 0x0302 (mdl 1))).blocksOk (mdl 1).pieces = true ∧
    ((withBlock (modS 0x0302 (mdl 1))).objAt 1).live = true := ⟨blocks_pass _ _ (by decide +kernel), rfl⟩

theorem wit_ModelCommands_rest :
    (((modS 0x0303 (mdl 2)).modelAt 4095).state = 2 ∧ ((modS 0x0303 (mdl 2)).sv.sess.any fun q => q.2.state ≠ 0 && q.2.model.toNat = 4095) = false ∧
      ((modS 0x0303 (mdl 2)).sv.overlay.any fun v => v.2.state ≠ 0 && v.2.model.toNat = 4095) = false) ∧
    (({ modS 0x0303 (mdl 2) with sv := { (modS 0x0303 (mdl 2)).sv with sess := [(0, { sessInit with state := 1, model := 4095 })] } } : State).sv.sess.any
      fun q => q.2.state ≠ 0 && q.2.model.toNat = 4095) = true ∧ ((modS 0x0303 (mdl 3)).modelAt 4095).state ≠ 2 ∧
    (((modS 0x0304 (mdl 1)).modelAt 4095).calAt (modS 0x0304 (mdl 1)).now).state ≠ 0 ∧ 0 < 1 ∧
    (((modS 0x0305 (mdl 1)).modelAt 4095).owner = hdr.tenant) := by decide

def ov1 (st : Nat) (gen : W32) : Overlay := ⟨st, 0, 4095, 3, gen, [piece1], none⟩
def ovS (op : Nat) (l : Tab Overlay) (q : Tab Sess) : State :=
  { modObjS op (mdl 2) with sv := { (modObjS op (mdl 2)).sv with overlay := l, sess := q }, ti := { Tiers.reset with obj := [(1, pin1)] } }
def bindS : Sess := { sessInit with state := 1, model := 4095, series := 3, overlay := some 5 }
def plan1 : Plan := ⟨5, 1, 1, 16, 0, 0, 0, 0, 0, []⟩

theorem wit_OverlaysAndPlans :
    (recordsAt piece1 0 32 (piece1.length / 32) = [piece1] ∧ ((ovS 0x0401 [] []).modelAt 4095).state ≠ 0 ∧ ((ovS 0x0401 [] []).modelAt 4095).owner = hdr.tenant ∧
      ((ovS 0x0401 [] []).ovAt 65535).state = 0 ∧ (3 : W16) ≠ 0xFFFF ∧ piece1.length % 32 = 0 ∧ pieceOk (mdl 2).layers piece1 = true ∧
      ((ovS 0x0401 [] []).objAt (pieceObj piece1)).live = true ∧ (ovS 0x0401 [] []).mayName hdr.tenant (pieceObj piece1) = true ∧ layoutOk (mdl 2).home [piece1] = true) ∧
    (((ovS 0x0401 [(5, { ov1 1 0 with tenant := 9 })] []).ovAt 5).state ≠ 0 ∧ ((ovS 0x0401 [(5, { ov1 1 0 with tenant := 9 })] []).ovAt 5).tenant ≠ hdr.tenant) ∧
    ((ovS 0x0402 [(6, ov1 1 7)] []).ovAt 6 = ov1 1 7 ∧ ((ovS 0x0402 [(6, ov1 1 7)] []).modelAt 4095).state = 2 ∧ (ovS 0x0402 [(6, ov1 1 7)] []).current 0 3 = none) ∧
    ((ovS 0x0402 [(5, ov1 2 6), (6, ov1 1 7)] []).current 0 3 = some 5 ∧ serialCmp (6 : W32) 7 = .after ∧ serialCmp (7 : W32) 7 ≠ .after ∧
      serialCmp (7 : W32) 0x80000007 ≠ .after ∧ (ovS 0x0402 [(5, ov1 2 6)] []).ovUsed 5 = false ∧ (ovS 0x0402 [(5, ov1 2 6)] [(0, bindS)]).ovUsed 5 = true) ∧
    ((ovS 0x0403 [(5, ov1 3 6)] [(0, bindS)]).ovAt 5 = ov1 3 6 ∧ bindS.live = true ∧ (ovS 0x0403 [(5, ov1 3 6)] [(0, bindS)]).ovUsed 5 = true ∧
      (ovS 0x0403 [(5, ov1 3 6)] []).ovUsed 5 = false) ∧ ((ovS 0x0403 [(5, ov1 2 6)] []).ovAt 5).state = 2 ∧
    ((ovS 0x0404 [] []).current hdr.tenant 3 = none ∧ (ovS 0x0404 [(6, ov1 2 7)] [(0, bindS)]).current hdr.tenant 3 = some 6 ∧ bindS.overlay ≠ none ∧
      bindS.overlay ≠ some (BitVec.ofNat 16 6)) ∧
    (planOk plan1 = true ∧ planOk { plan1 with maxGroup := 0 } = false ∧ planOk { plan1 with maxGroup := 257 } = false ∧ serialCmp (4 : W32) plan1.version = .after ∧
      serialCmp (5 : W32) plan1.version ≠ .after ∧ { mdl 2 with plan := some { plan1 with version := 4 } }.nextPlan = none) := by decide +kernel

theorem wit_OverlaysAndPlans_blocks : (withBlock (ovS 0x0402 [(6, ov1 1 7)] [])).blocksOk (ov1 1 7).pieces = true := blocks_pass _ _ (by decide +kernel)

def prm0 : SessParams := ⟨7, false, [[3]], 0, 1, 0, 0x3F800000, 0⟩
def sessOp (op : Nat) (q : Tab Sess) : State :=
  { modObjS op (mdl 2) with sv := { (modObjS op (mdl 2)).sv with sess := q }, ho := { (cmdS op).ho with ring := [(7, onRing)] } }
def s1 (st : Nat) : Sess := { sessInit with state := st, model := 4095, ring := 7 }
/-- The handle of slot 0 of generation 1. -/
def hd1 : W32 := 0x40000

theorem wit_SessionCommands :
    (((sessOp 0x0601 []).modelAt 4095).state = 2 ∧ sessParamsOk (mdl 2).vocab prm0 = true ∧ (sessOp 0x0601 []).ringOk hdr.tenant prm0.ring = none ∧
      (sessOp 0x0601 []).freeSlot < 262144) ∧
    ((ovS 0x0601 [(6, ov1 2 7)] []).current 0 3 = some 6 ∧ ((ovS 0x0601 [(6, ov1 2 7)] []).ovAt 6).model = 4095) ∧
    ((3 : W16) ≠ 0xFFFF ∧ (ovS 0x0601 [(5, { ov1 2 7 with tenant := 9 })] []).foreignSeries hdr.tenant 3 = true ∧
      (ovS 0x0601 [(5, { ov1 2 7 with tenant := 9 }), (6, ov1 2 7)] []).foreignSeries hdr.tenant 3 = false) ∧
    (sessParamsOk (mdl 2).vocab { prm0 with stops := [[4]] } = false ∧ sessParamsOk (mdl 2).vocab { prm0 with topP := 0 } = false) ∧
    ((match (sessOp 0x0602 [(0, s1 1)]).sessOf hdr.tenant hd1 with | .ok x => x.state | .error _ => 9) = 1 ∧ hdSlot hd1 = 0 ∧
      (match (sessOp 0x0602 [(0, s1 2)]).sessOf hdr.tenant hd1 with | .ok x => x.state | .error _ => 9) ≠ 1) ∧
    ((sessOp 0x0602 [(0, s1 1)]).modelAt (s1 1).model.toNat).vocab ≤ (4 : W32).toNat ∧
    ((3 : W32).toNat < ((sessOp 0x0602 [(0, s1 1)]).modelAt (s1 1).model.toNat).vocab ∧ (s1 1).prompt ++ [(3 : W32)] ≠ [] ∧
      (List.replicate 16 (3 : W32)).length ≤ (mdl 2).maxCtx ∧ (mdl 2).maxCtx < (List.replicate 17 (3 : W32)).length) ∧
    ((match (sessOp 0x0603 [(0, s1 4)]).sessOf hdr.tenant hd1 with | .ok x => x.state | .error _ => 9) = 4 ∧ (sessOp 0x0603 [(0, s1 4)]).sv.bounds = []) ∧
    ((match (sessOp 0x0605 [(0, s1 3)]).sessOf hdr.tenant hd1 with | .ok x => x.state | .error _ => 9) = 3) ∧
    (((sessOp 0x0602 []).sessAt (hdSlot hd1)).state = 0 ∧ ((sessOp 0x0602 [(0, { s1 1 with gen := 2 })]).sessAt (hdSlot hd1)).gen.toNat ≠ hd1.toNat / 2 ^ 18) := by
  decide +kernel

def boundS (b : Boundary) (x : Sess) : State := { sessOp 0 [(0, x)] with sv := { (sessOp 0 [(0, x)]).sv with bounds := [b] } }

theorem wit_BoundaryActions :
    (((boundS (.cancel hdr hd1) (s1 3)).modelAt 4095).group = none ∧ ((boundS (.cancel hdr hd1) (s1 3)).modelAt 4095).plan = none ∧
      (boundS (.cancel hdr hd1) (s1 3)).md.running = true ∧ (boundS (.cancel hdr hd1) (s1 3)).sv.bounds = [.cancel hdr hd1] ∧
      (match (boundS (.cancel hdr hd1) (s1 3)).sessOf hdr.tenant hd1 with | .ok x => x | .error _ => sessInit) = s1 3 ∧ (s1 3).model.toNat = 4095 ∧ (s1 3).live = true) ∧
    ((match (boundS (.close hdr hd1) { s1 4 with gen := 1 }).sessOf hdr.tenant hd1 with | .ok x => x | .error _ => sessInit) = s1 4 ∧
      (match (boundS (.close hdr (0x40000 * 16383)) { s1 4 with gen := 16383 }).sessOf hdr.tenant (0x40000 * 16383) with | .ok x => x.gen | .error _ => 0) = 16383) ∧
    (match (boundS (.close hdr hd1) (s1 2)).sessOf hdr.tenant hd1 with | .ok x => x.state | .error _ => 9) ≠ 4 := by decide +kernel

def mem1 : Member := ⟨0, 0, 1, false, true, 1, 0, none⟩
def grp (l : Nat) : Group := ⟨[mem1], [], plan1, 0, l, 0, false, 0, 0xFFFFFFFF, [], none⟩
/-- READY and running: a published model with a plan, session 0 in a step of it. -/
def stepS (x : ModelD) : State := { sessOp 0 [(0, { s1 2 with prompt := [3, 3], inStep := true })] with sv := { (sessOp 0 [(0, { s1 2 with prompt := [3, 3], inStep := true })]).sv with
  model := [(4095, x)] } }
def planned : ModelD := { mdl 2 with plan := some plan1 }
def twoLayers : ModelD := { planned with hdr := 1 :: hdr96.tail, group := some (grp 0) }
def padPlan : Plan := { plan1 with padded := 1, slotNs := 10000, slots := [0] }

theorem wit_StepDispatcher :
    (((stepS planned).modelAt 4095).plan = some plan1 ∧ plan1.padded ≠ 1 ∧ (stepS planned).dispatches planned = true ∧ planned.group = none ∧
      planned.tLast.toNat + plan1.minInterval.toNat ≤ (stepS planned).time.toNat ∧ planned.nextPlan = none) ∧
    ({ planned with group := some (grp 0) }.group ≠ none ∧ ((stepS planned).time.toNat < planned.tLast.toNat + ({ plan1 with minInterval := 1 } : Plan).minInterval.toNat)) ∧
    (((stepS twoLayers).modelAt 4095).group = some (grp 0) ∧ (grp 0).replay = false ∧ (grp 0).doomed = [] ∧ (grp 0).layer + 1 < twoLayers.layers ∧
      (∀ q ∈ (stepS twoLayers).sv.sess, q.2.live = true → q.2.model.toNat = 4095 → (stepS twoLayers).sessLost q.2 = false)) ∧
    ((stepS { planned with group := some (grp 0) }).complete 4095 (grp 0) [] = true ∧ (grp 0).members = [mem1] ∧ (grp 0).plan.padded ≠ 1 ∧
      (stepS { planned with group := some { grp 0 with members := [{ mem1 with samples := true }] } }).complete 4095
        { grp 0 with members := [{ mem1 with samples := true }] } [⟨0, [0, 0, 0, 0], []⟩] = true) ∧
    (((ringS { onRing with queue := [[1]] }).ringAt 7).queue = [[1]] ∧ (((onRing.prod - onRing.head).toNat) < 2 ^ onRing.j) ∧
      ((ringS { onRing with queue := [[1]] }).port ((ringS { onRing with queue := [[1]] }).ringAt 7).port).up = true ∧
      ({ onRing with irq := ⟨true, false, 0⟩ } : Ring).irq.running = true) ∧
    (((stepS { mdl 2 with plan := some padPlan }).modelAt 4095).plan = some padPlan ∧ padPlan.padded = 1 ∧
      (stepS { mdl 2 with plan := some padPlan }).dispatches { mdl 2 with plan := some padPlan } = true ∧
      (mdl 2).slotBegins padPlan (at_ runS 20000).now = true ∧ (mdl 2).slotBegins padPlan (at_ runS 20001).now = false ∧
      { mdl 2 with slotAt := some 20000 }.slotBegins padPlan 20000 = false) ∧
    (twoLayers.layerAt.toNat + twoLayers.grace ≤ (at_ (stepS twoLayers) 100000).now ∧ (at_ (stepS twoLayers) 99999).now < twoLayers.layerAt.toNat + twoLayers.grace ∧
      (at_ (objS 0 obj1) 100000).stageLate twoLayers 0 none = true) ∧
    (0 ∈ { grp 0 with doomed := [0] }.doomed ∧ ((stepS { planned with group := some { grp 0 with doomed := [0] } }).sessAt 0).live = true) ∧
    (((stepS { planned with group := some (grp 0) }).sessAt mem1.slot).live = true) := by decide +kernel

/-- A group of one is formed from a runnable session. -/
theorem wit_GroupWithinPlan :
    let s := { stepS planned with sv := { (stepS planned).sv with sess := [(0, { s1 3 with blocks := [[0]] })], tenant := [(0, { tenInit 0 with level := 5 })] } }
    (s.modelAt 4095).group = none ∧ ((s.formGroup 4095 plan1 none).modelAt 4095).group.isSome = true := by decide +kernel

def okOf {α β : Type} (x : Except α β) : Option β := match x with | .ok b => some b | .error _ => none
def errOf {α β : Type} (x : Except α β) : Option α := match x with | .ok _ => none | .error a => some a

/-! Words of the formats, the opcode in bits [31:26] (06 Table TILE-4). -/
def wordR (op : Nat) (x : RegF) : W32 := BitVec.ofNat 32 (op * 2 ^ 26 + x.d.toNat * 2 ^ 21 + x.a.toNat * 2 ^ 16 + x.b.toNat * 2 ^ 11 + x.f.toNat)
def wordI (op : Nat) (x : ImmF) : W32 := BitVec.ofNat 32 (op * 2 ^ 26 + x.d.toNat * 2 ^ 21 + x.a.toNat * 2 ^ 16 + x.imm.toNat)
def wordM (op : Nat) (x : MemF) : W32 :=
  BitVec.ofNat 32 (op * 2 ^ 26 + x.t.toNat * 2 ^ 21 + x.a.toNat * 2 ^ 16 + x.sz.toNat * 2 ^ 13 + x.o.toNat * 2 ^ 11 + x.off.toNat)
def wordB (op : Nat) (x : BrF) : W32 := BitVec.ofNat 32 (op * 2 ^ 26 + x.a.toNat * 2 ^ 21 + b2n x.c * 2 ^ 20 + x.off.toNat)
def wordS (op : Nat) (x : SysF) : W32 := BitVec.ofNat 32 (op * 2 ^ 26 + x.a.toNat * 2 ^ 21 + x.b.toNat * 2 ^ 16 + x.imm.toNat)
def wordV (op : Nat) (x : VecF) : W32 :=
  BitVec.ofNat 32 (op * 2 ^ 26 + x.vd.toNat * 2 ^ 22 + x.va.toNat * 2 ^ 18 + x.vb.toNat * 2 ^ 14 + x.g.toNat * 2 ^ 9 + x.t.toNat * 2 ^ 6 + x.f.toNat)

theorem wordR_fields {op : Nat} (h : op < 64) (x : RegF) : fld (wordR op x) 31 26 = op ∧ regF (wordR op x) = x := by
  obtain ⟨d, a, b, f⟩ := x
  have := d.isLt; have := a.isLt; have := b.isLt; have := f.isLt
  simp only [fld, bitsOf, wordR, regF, BitVec.toNat_ofNat, RegF.mk.injEq]
  refine ⟨by omega, ?_, ?_, ?_, ?_⟩ <;> apply BitVec.eq_of_toNat_eq <;> simp only [BitVec.toNat_ofNat] <;> omega

theorem wordI_fields {op : Nat} (h : op < 64) (x : ImmF) : fld (wordI op x) 31 26 = op ∧ immF (wordI op x) = x := by
  obtain ⟨d, a, f⟩ := x
  have := d.isLt; have := a.isLt; have := f.isLt
  simp only [fld, bitsOf, wordI, immF, BitVec.toNat_ofNat, ImmF.mk.injEq]
  refine ⟨by omega, ?_, ?_, ?_⟩ <;> apply BitVec.eq_of_toNat_eq <;> simp only [BitVec.toNat_ofNat] <;> omega

theorem wordM_fields {op : Nat} (h : op < 64) (x : MemF) : fld (wordM op x) 31 26 = op ∧ memF (wordM op x) = x := by
  obtain ⟨d, a, b, c, f⟩ := x
  have := d.isLt; have := a.isLt; have := b.isLt; have := c.isLt; have := f.isLt
  simp only [fld, bitsOf, wordM, memF, BitVec.toNat_ofNat, MemF.mk.injEq]
  refine ⟨by omega, ?_, ?_, ?_, ?_, ?_⟩ <;> apply BitVec.eq_of_toNat_eq <;> simp only [BitVec.toNat_ofNat] <;> omega

theorem wordB_fields {op : Nat} (h : op < 64) (x : BrF) : fld (wordB op x) 31 26 = op ∧ brF (wordB op x) = x := by
  obtain ⟨a, c, f⟩ := x
  have := a.isLt; have := f.isLt
  have hc : b2n c < 2 := by cases c <;> decide
  have hb : (BitVec.ofNat 32 (op * 2 ^ 26 + a.toNat * 2 ^ 21 + b2n c * 2 ^ 20 + f.toNat)).getLsbD 20 = c := by
    rw [BitVec.getLsbD_ofNat, Nat.testBit_eq_decide_div_mod_eq]
    have : (op * 2 ^ 26 + a.toNat * 2 ^ 21 + b2n c * 2 ^ 20 + f.toNat) / 2 ^ 20 % 2 = b2n c := by omega
    rw [this]; cases c <;> decide
  simp only [fld, bitsOf, wordB, brF, BrF.mk.injEq, hb, true_and]
  simp only [BitVec.toNat_ofNat]
  refine ⟨by omega, ?_, ?_⟩ <;> apply BitVec.eq_of_toNat_eq <;> simp only [BitVec.toNat_ofNat] <;> omega

theorem wordS_fields {op : Nat} (h : op < 64) (x : SysF) : fld (wordS op x) 31 26 = op ∧ sysF (wordS op x) = x := by
  obtain ⟨d, a, f⟩ := x
  have := d.isLt; have := a.isLt; have := f.isLt
  simp only [fld, bitsOf, wordS, sysF, BitVec.toNat_ofNat, SysF.mk.injEq]
  refine ⟨by omega, ?_, ?_, ?_⟩ <;> apply BitVec.eq_of_toNat_eq <;> simp only [BitVec.toNat_ofNat] <;> omega

theorem wordV_fields {op : Nat} (h : op < 64) (x : VecF) : fld (wordV op x) 31 26 = op ∧ vecF (wordV op x) = x := by
  obtain ⟨d, a, b, g, t, f⟩ := x
  have := d.isLt; have := a.isLt; have := b.isLt; have := g.isLt; have := t.isLt; have := f.isLt
  simp only [fld, bitsOf, wordV, vecF, BitVec.toNat_ofNat, VecF.mk.injEq]
  refine ⟨by omega, ?_, ?_, ?_, ?_, ?_, ?_⟩ <;> apply BitVec.eq_of_toNat_eq <;> simp only [BitVec.toNat_ofNat] <;> omega

/-- Bit 0 of a FENCE tells its scope. -/
theorem wordS_bit0 (op : Nat) (x : SysF) : (wordS op x).getLsbD 0 = x.imm.getLsbD 0 := by
  have := x.imm.isLt
  rw [wordS, BitVec.getLsbD_ofNat, ← BitVec.testBit_toNat]
  simp only [Nat.testBit_zero]
  have : (op * 2 ^ 26 + x.a.toNat * 2 ^ 21 + x.b.toNat * 2 ^ 16 + x.imm.toNat) % 2 = x.imm.toNat % 2 := by omega
  rw [this]; simp

/-- The two FENCEs share an opcode; bit 0 of the scope field tells them apart. -/
def fenceBit : Instr → Bool
  | .fenceSq _ x => !x.imm.getLsbD 0
  | .fenceDev _ x => x.imm.getLsbD 0
  | _ => true

/-- Every thread instruction, with whatever operands, has a word. -/
theorem words (c : Instr) (t : ThrId) (h : thrOf c = some t) (hb : fenceBit c = true) : ∃ w, threadCode t w = some c := by
  cases c <;> simp only [thrOf, reduceCtorEq, Option.some.injEq] at h <;> subst h
  case add x => exact ⟨wordR 0x01 x, by simp only [threadCode, wordR_fields (show 0x01 < 64 by decide) x]⟩
  case sub x => exact ⟨wordR 0x02 x, by simp only [threadCode, wordR_fields (show 0x02 < 64 by decide) x]⟩
  case mul x => exact ⟨wordR 0x03 x, by simp only [threadCode, wordR_fields (show 0x03 < 64 by decide) x]⟩
  case mulh x => exact ⟨wordR 0x04 x, by simp only [threadCode, wordR_fields (show 0x04 < 64 by decide) x]⟩
  case div x => exact ⟨wordR 0x05 x, by simp only [threadCode, wordR_fields (show 0x05 < 64 by decide) x]⟩
  case and x => exact ⟨wordR 0x06 x, by simp only [threadCode, wordR_fields (show 0x06 < 64 by decide) x]⟩
  case or x => exact ⟨wordR 0x07 x, by simp only [threadCode, wordR_fields (show 0x07 < 64 by decide) x]⟩
  case xor x => exact ⟨wordR 0x08 x, by simp only [threadCode, wordR_fields (show 0x08 < 64 by decide) x]⟩
  case shift x => exact ⟨wordR 0x09 x, by simp only [threadCode, wordR_fields (show 0x09 < 64 by decide) x]⟩
  case cmp x => exact ⟨wordR 0x0A x, by simp only [threadCode, wordR_fields (show 0x0A < 64 by decide) x]⟩
  case minmax x => exact ⟨wordR 0x0B x, by simp only [threadCode, wordR_fields (show 0x0B < 64 by decide) x]⟩
  case addi x => exact ⟨wordI 0x0C x, by simp only [threadCode, wordI_fields (show 0x0C < 64 by decide) x]⟩
  case andi x => exact ⟨wordI 0x0D x, by simp only [threadCode, wordI_fields (show 0x0D < 64 by decide) x]⟩
  case ori x => exact ⟨wordI 0x0E x, by simp only [threadCode, wordI_fields (show 0x0E < 64 by decide) x]⟩
  case xori x => exact ⟨wordI 0x0F x, by simp only [threadCode, wordI_fields (show 0x0F < 64 by decide) x]⟩
  case movk x => exact ⟨wordI 0x10 x, by simp only [threadCode, wordI_fields (show 0x10 < 64 by decide) x]⟩
  case bits x => exact ⟨wordR 0x11 x, by simp only [threadCode, wordR_fields (show 0x11 < 64 by decide) x]⟩
  case fadd x => exact ⟨wordR 0x12 x, by simp only [threadCode, wordR_fields (show 0x12 < 64 by decide) x]⟩
  case fmul x => exact ⟨wordR 0x13 x, by simp only [threadCode, wordR_fields (show 0x13 < 64 by decide) x]⟩
  case ffma x => exact ⟨wordR 0x14 x, by simp only [threadCode, wordR_fields (show 0x14 < 64 by decide) x]⟩
  case fdiv x => exact ⟨wordR 0x15 x, by simp only [threadCode, wordR_fields (show 0x15 < 64 by decide) x]⟩
  case fcmp x => exact ⟨wordR 0x16 x, by simp only [threadCode, wordR_fields (show 0x16 < 64 by decide) x]⟩
  case fcvt x => exact ⟨wordR 0x17 x, by simp only [threadCode, wordR_fields (show 0x17 < 64 by decide) x]⟩
  case vadd x => exact ⟨wordV 0x18 x, by simp only [threadCode, wordV_fields (show 0x18 < 64 by decide) x]⟩
  case vsub x => exact ⟨wordV 0x19 x, by simp only [threadCode, wordV_fields (show 0x19 < 64 by decide) x]⟩
  case vmul x => exact ⟨wordV 0x1A x, by simp only [threadCode, wordV_fields (show 0x1A < 64 by decide) x]⟩
  case vfma x => exact ⟨wordV 0x1B x, by simp only [threadCode, wordV_fields (show 0x1B < 64 by decide) x]⟩
  case vminmax x => exact ⟨wordV 0x1C x, by simp only [threadCode, wordV_fields (show 0x1C < 64 by decide) x]⟩
  case vlogic x => exact ⟨wordV 0x1D x, by simp only [threadCode, wordV_fields (show 0x1D < 64 by decide) x]⟩
  case vshift x => exact ⟨wordV 0x1E x, by simp only [threadCode, wordV_fields (show 0x1E < 64 by decide) x]⟩
  case vred x => exact ⟨wordV 0x1F x, by simp only [threadCode, wordV_fields (show 0x1F < 64 by decide) x]⟩
  case vbcast x => exact ⟨wordV 0x20 x, by simp only [threadCode, wordV_fields (show 0x20 < 64 by decide) x]⟩
  case vget x => exact ⟨wordV 0x21 x, by simp only [threadCode, wordV_fields (show 0x21 < 64 by decide) x]⟩
  case vput x => exact ⟨wordV 0x22 x, by simp only [threadCode, wordV_fields (show 0x22 < 64 by decide) x]⟩
  case vcvt x => exact ⟨wordV 0x23 x, by simp only [threadCode, wordV_fields (show 0x23 < 64 by decide) x]⟩
  case vq8 x => exact ⟨wordV 0x24 x, by simp only [threadCode, wordV_fields (show 0x24 < 64 by decide) x]⟩
  case vfn x => exact ⟨wordV 0x25 x, by simp only [threadCode, wordV_fields (show 0x25 < 64 by decide) x]⟩
  case vcmp x => exact ⟨wordV 0x26 x, by simp only [threadCode, wordV_fields (show 0x26 < 64 by decide) x]⟩
  case vdot8 x => exact ⟨wordV 0x27 x, by simp only [threadCode, wordV_fields (show 0x27 < 64 by decide) x]⟩
  case ld x => exact ⟨wordM 0x28 x, by simp only [threadCode, wordM_fields (show 0x28 < 64 by decide) x]⟩
  case st x => exact ⟨wordM 0x29 x, by simp only [threadCode, wordM_fields (show 0x29 < 64 by decide) x]⟩
  case vld x => exact ⟨wordM 0x2A x, by simp only [threadCode, wordM_fields (show 0x2A < 64 by decide) x]⟩
  case vst x => exact ⟨wordM 0x2B x, by simp only [threadCode, wordM_fields (show 0x2B < 64 by decide) x]⟩
  case atom x => exact ⟨wordR 0x2C x, by simp only [threadCode, wordR_fields (show 0x2C < 64 by decide) x]⟩
  case cas x => exact ⟨wordR 0x2D x, by simp only [threadCode, wordR_fields (show 0x2D < 64 by decide) x]⟩
  case acopy x => exact ⟨wordR 0x2E x, by simp only [threadCode, wordR_fields (show 0x2E < 64 by decide) x]⟩
  case cflush x => exact ⟨wordR 0x2F x, by simp only [threadCode, wordR_fields (show 0x2F < 64 by decide) x]⟩
  case br x => exact ⟨wordB 0x31 x, by simp only [threadCode, wordB_fields (show 0x31 < 64 by decide) x]⟩
  case jal x => exact ⟨wordB 0x32 x, by simp only [threadCode, wordB_fields (show 0x32 < 64 by decide) x]⟩
  case jr x => exact ⟨wordR 0x33 x, by simp only [threadCode, wordR_fields (show 0x33 < 64 by decide) x]⟩
  case exit x => exact ⟨wordS 0x34 x, by simp only [threadCode, wordS_fields (show 0x34 < 64 by decide) x]⟩
  case sread x => exact ⟨wordS 0x35 x, by simp only [threadCode, wordS_fields (show 0x35 < 64 by decide) x]⟩
  case signal x => exact ⟨wordS 0x38 x, by simp only [threadCode, wordS_fields (show 0x38 < 64 by decide) x]⟩
  case watch x => exact ⟨wordS 0x39 x, by simp only [threadCode, wordS_fields (show 0x39 < 64 by decide) x]⟩
  case wait x => exact ⟨wordS 0x3A x, by simp only [threadCode, wordS_fields (show 0x3A < 64 by decide) x]⟩
  case dmaKick x => exact ⟨wordS 0x3C x, by simp only [threadCode, wordS_fields (show 0x3C < 64 by decide) x]⟩
  case arrayIssue x => exact ⟨wordS 0x3D x, by simp only [threadCode, wordS_fields (show 0x3D < 64 by decide) x]⟩
  case bankIssue x => exact ⟨wordS 0x3E x, by simp only [threadCode, wordS_fields (show 0x3E < 64 by decide) x]⟩
  case fenceSq x =>
    have hb' : x.imm.getLsbD 0 = false := by simpa [fenceBit] using hb
    exact ⟨wordS 0x30 x, by simp only [threadCode, wordS_fields (show 0x30 < 64 by decide) x, wordS_bit0, hb', Bool.false_eq_true, if_false]⟩
  case fenceDev x =>
    have hb' : x.imm.getLsbD 0 = true := by simpa [fenceBit] using hb
    exact ⟨wordS 0x30 x, by simp only [threadCode, wordS_fields (show 0x30 < 64 by decide) x, wordS_bit0, hb', if_true]⟩

/-- The instruction word w in the Madder word that physical address 0 is. -/
def withCode (s : State) (w : W32) : State := { s with dr := { s.dr with madder := mwrite s.dr.byteD s.dr.madder (s.place 0).pos (toBytes 4 w.toNat) } }

theorem withCode_word (s : State) (w : W32) (h : s.plazaGet 0 = none) : (withCode s w).codeWord 0 = w := by
  have hp : (withCode s w).plazaGet 0 = none := h
  have hr : (withCode s w).dr.readPos ((withCode s w).place 0).pos 4 = toBytes 4 w.toNat := by
    have := mread_mwrite s.dr.byteD s.dr.madder (s.place 0).pos (toBytes 4 w.toNat)
    rw [toBytes_length] at this
    exact this
  have hw : isWeld 0 = false := by decide
  have hl := w.isLt
  simp only [State.codeWord, hw, hp, hr, ofBytes_toBytes, Bool.false_eq_true, if_false]
  apply BitVec.eq_of_toNat_eq
  simp only [BitVec.toNat_ofNat]
  omega

/-- What `wit_Issues` asks of a state besides the instruction at the pc: all decidable on a concrete state. -/
abbrev ReadyTo (s : State) (t : Nat) (x : Thr) (regs : List Nat) : Prop :=
  s.thrAt t = x ∧ s.turn t = true ∧ x.pc.toNat % 4 = 0 ∧ (okOf (s.translate x (thrTile t) false .fetch x.pc.toNat)).map (·.1) = some 0 ∧
    s.plazaGet 0 = none ∧ ∀ r ∈ regs, r = 0 ∨ r ∉ x.awaited

/-- Whatever instruction a clause is about: it has a word, and with that word at its pc a thread that is ready to issue issues it. -/
theorem wit_Issues (s : State) (c : Instr) (t : ThrId) (x : Thr) (regs : List Nat) (h : ReadyTo s t x regs) (hc : thrOf c = some t) (hb : fenceBit c = true) :
    ∃ w, threadCode t w = some c ∧ Issues (withCode s w) c t x regs := by
  obtain ⟨w, hw⟩ := words c t hc hb
  obtain ⟨h1, h2, h3, h4, h5, h6⟩ := h
  refine ⟨w, hw, h1, h2, ?_, h6⟩
  have ht : (withCode s w).translate x (thrTile t) false .fetch x.pc.toNat = s.translate x (thrTile t) false .fetch x.pc.toNat := rfl
  have hx : (withCode s w).thrAt t = x := h1
  unfold State.instrAt
  rw [hx]
  unfold State.fetch
  rw [ht]
  cases h7 : s.translate x (thrTile t) false .fetch x.pc.toNat with
  | error e => simp [h7, okOf] at h4
  | ok p =>
    obtain ⟨pa, e⟩ := p
    simp only [h7, okOf, Option.map_some, Option.some.injEq] at h4
    subst h4
    simp only [h3, withCode_word s w h5, hw, ne_eq, not_true_eq_false, if_false]

/-! #### Threads -/

/-- Page 16: Madder, writable, executable; 17: the first page of tile 0's Weld; 18: uncached Madder; 19: Madder, read only. -/
def pgs : Tab W64 := [(16, mkPage true false true false false false true 0 0 0), (17, mkPage true false true false false true false 0 0 0x10000000),
  (18, mkPage true false true false true false false 0 0 1), (19, mkPage true false false false false false false 0 0 2)]
/-- READY at the start of page 16; g1 in Weld, g2 in uncached Madder, g3 a length, g4 a counter, g6 in Madder. -/
def th0 : Thr := { thrInit with st := .ready, pc := 0x100000, g := [(1, 0x110000), (2, 0x120000), (3, 64), (4, 5), (6, 0x100040), (7, 0xFFFFFFFFFFFFFFFF)] }
def thS (x : Thr) : State := { runS with pages := pgs, th := ⟨[(0, x)], [], [], []⟩, dr := openDr }
def accTo (pa : Nat) (op : AccOp) : Acc := ⟨0, 0, pa, 8, false, ⟨false, false⟩, op, none, []⟩

theorem wit_Issues_ready : ReadyTo (thS th0) 0 th0 (List.range 48) ∧
    ReadyTo (thS { th0 with outs := [accTo 0 (.load 9 false)] }) 0 { th0 with outs := [accTo 0 (.load 9 false)] } [0, 8, 32] := by
  decide +kernel

theorem wit_ThreadIssue : (thrOf (.add 0 ⟨1, 2, 3, 0⟩) = some 0 ∧ (thS { th0 with st := .waiting }).turn 0 = false) ∧
    ((thS th0).turn 0 = true ∧ (thS th0).lastIssued 0 < 64 ∧ ((thS th0).thrAt 0).st = .ready) ∧
    ((thS { th0 with pc := 0x100002 }).fetchFault 0 { th0 with pc := 0x100002 } = some 2 ∧ (thS { th0 with pc := 0x100002 }).turn 0 = true ∧
      (thS { th0 with pc := 0x110000 }).fetchFault 0 { th0 with pc := 0x110000 } = some 11) ∧
    (okOf ((thS th0).fetch 0 th0) = some 0 ∧ threadCode 0 0 = none) ∧
    ((withCode (thS th0) (wordR 0x01 ⟨1, 2, 3, 0⟩)).instrAt 0 = some (.add 0 ⟨1, 2, 3, 0⟩) ∧ (.add 0 ⟨1, 2, 3, 0⟩ : Instr) ≠ .sub 0 ⟨1, 2, 3, 0⟩) ∧
    (31 : BitVec 5) ≠ 0 := by decide +kernel

theorem wit_ScalarIntegers : ((⟨31, 1, 2, 1⟩ : RegF).f = 1 ∧ (3 : BitVec 11).toNat < 4 ∧ th0.rd 5 = 0 ∧ th0.rd 1 ≠ 0) ∧
    ((64 * 3 : BitVec 11).toNat = 64 * 3 ∧ 63 = (th0.rd 7).toNat % 64 ∧ (1024 + 64 * 3 + 63 : BitVec 11).toNat = 1024 + 64 * 3 + 63) ∧ (5 : BitVec 11).toNat < 6 ∧
    (((-1 : W64)).toInt = min (th0.rd 7).toInt (th0.rd 1).toInt ∧ (th0.rd 7).toNat = max (th0.rd 7).toNat (th0.rd 1).toNat) ∧
    ((47 ≤ 64) ∧ (∀ i, i < 64 → 64 - 47 ≤ i → (0x10000 : W64).getLsbD i = false) ∧ (0x10000 : W64).getLsbD (63 - 47) = true ∧
      (∀ i, i < 16 → (0x10000 : W64).getLsbD i = false) ∧ (0x10000 : W64).getLsbD 16 = true) ∧ (∀ i, i < 64 → (0 : W64).getLsbD i = false) ∧
    (3 : BitVec 5).toNat < 4 ∧ 4 ≤ (4 : BitVec 5).toNat ∧ 2 ≤ (2 : BitVec 11).toNat ∧ 6 ≤ (6 : BitVec 11).toNat := by decide +kernel

/-- The clauses that take n = 64 hold of a register that is 0, whatever i is. -/
theorem wit_ScalarIntegers_bits : (∀ i, 64 - 64 ≤ i → (th0.rd 5).getLsbD i = false) ∧ (∀ i, 64 - 47 ≤ i → (0x10000 : W64).getLsbD i = false) := by
  constructor
  · intro i _
    rw [show th0.rd 5 = 0 from by decide]
    exact BitVec.getLsbD_zero
  · intro i h
    by_cases hi : i < 64
    · exact (by decide +kernel : ∀ i, i < 64 → 64 - 47 ≤ i → (0x10000 : W64).getLsbD i = false) i hi h
    · exact BitVec.getLsbD_of_ge _ _ (Nat.le_of_not_lt hi)

theorem wit_ScalarFloats : (3 : BitVec 11).toNat < 4 ∧ (10 : BitVec 11).toNat < 11 ∧ 2 ≤ (2 : BitVec 11).toNat ∧ 4 ≤ (4 : BitVec 11).toNat ∧ 11 ≤ (11 : BitVec 11).toNat := by decide

def vec1 (t : BitVec 3) (f : BitVec 6) : VecF := ⟨15, 1, 2, 0, t, f⟩

theorem wit_VectorElements : (vty (vec1 7 0) ≠ 5 ∧ vty (vec1 4 0) ≤ 4 ∧ (1 : BitVec 6).toNat < 2 ∧ (3 : BitVec 6).toNat < 4) ∧
    (vcmpLegal (vec1 7 11) = true ∧ vcmpLegal (vec1 4 5) = true) ∧ ((3 : BitVec 5) = 0 ∨ r5 3 ∉ th0.awaited) ∧ (4 : BitVec 6).toNat < 5 ∧ vty (vec1 5 0) = 5 := by
  decide +kernel

theorem wit_VectorWhole : vredLegal ⟨0, 1, 0, 3, 4, 6⟩ = true ∧ vredLegal ⟨0, 1, 0, 3, 7, 4⟩ = true ∧ (63 : BitVec 6).toNat < elCount (vty (vec1 1 63)) ∧
    (7 : BitVec 6).toNat < elCount (vty (vec1 4 7)) ∧ (10 : BitVec 6).toNat < 11 ∧ (3 : BitVec 6).toNat < 4 ∧ (th0.rd 4).toNat < 2 ^ 56 ∧ 2 ^ 56 ≤ (th0.rd 7).toNat := by
  decide +kernel

def loads8 : List Acc := List.replicate 8 (accTo 0 (.load 9 false))
def stores16 : List Acc := List.replicate 16 (accTo 0 (.store []))
def m1 (a : BitVec 5) (sz : BitVec 3) (o : BitVec 2) : MemF := ⟨8, a, sz, o, 0x7FF⟩

theorem wit_MemoryIssue :
    ((thS th0).accHome 0 = 0 / 2048 ∧ (thS th0).accHome (2 ^ 34) ≠ 0 / 2048 ∧ (thS th0).accHome weldBase = 0 / 2048) ∧
    ((m1 1 3 1).sz ≠ 7 ∧ th0.rd 6 + (m1 6 3 1).off.signExtend 64 * 8 = 0x100038 ∧ (0x100038 : W64).toNat % 8 = 0 ∧
      ((okOf ((thS th0).translate th0 (thrTile 0) false .read 0x100038)).map (·.1)) = some 0x38 ∧ th0.outs.countP (fun a => !a.op.isStore) < 8 ∧
      8 ≤ loads8.countP (fun a => !a.op.isStore) ∧ 16 ≤ stores16.countP (fun a => a.op.isStore) ∧
      ((okOf ((thS th0).translate th0 (thrTile 0) false .write 0x100038)).map (·.1)) = some 0x38 ∧
      errOf ((thS th0).translate th0 (thrTile 0) false .write 0x130000) = some 6 ∧ errOf ((thS th0).translate th0 (thrTile 0) false .read 0x140000) = some 4) ∧
    ((memVa { th0 with g := [(1, 0x110001)] } (m1 1 2 0) (szBytes 2)).toNat % szBytes 2 ≠ 0) ∧
    (th0.rd 6 + (m1 6 0 0).off.signExtend 64 * 64 = 0x100000 ∧ (0x100000 : W64).toNat % 64 = 0 ∧ (8 : BitVec 5).toNat < 16) ∧
    (atomLegal ⟨8, 6, 0, 0x1E9⟩ = true ∧ atSz 0x1E9 = 2 ∧ atOp 0x1E9 = 9 ∧ atomLegal ⟨8, 6, 0, 0x01⟩ = true ∧ (th0.rd 6).toNat % 8 = 0 ∧ atOp 0x020 = 0 ∧
      ((okOf ((thS th0).translate th0 (thrTile 0) false .write (th0.rd 2).toNat)).map fun p => (p.1, peUncached p.2 && !isWeld p.1)) = some (65536, true) ∧
      ((okOf ((thS th0).translate th0 (thrTile 0) false .write (th0.rd 6).toNat)).map fun p => (p.1, peUncached p.2 && !isWeld p.1)) = some (64, false)) ∧
    (atOp 0xE0 = 0 ∧ atSz 0xE0 = 2 ∧ (0xE0 : BitVec 11).toNat < 256 ∧ atSz 0x10 = 1) := by decide +kernel

def weldAcc (op : AccOp) : Acc := accTo weldBase op
def outS (l : List Acc) : State := thS { th0 with outs := l }
def poisonS (l : List Acc) : State := { outS l with dr := { openDr with mark := [0] } }

/-- A vector load from Madder, some of its parts performed; an uncached store. -/
def vacc (p : List (Nat × List Byte)) : Acc := { accTo 0 (.load 33 false) with size := 64, parts := p }
def parts7 : List (Nat × List Byte) := (List.range 7).map fun i => (i, [])
def uacc : Acc := { accTo 0 (.store [1]) with uncached := true }

theorem wit_MemoryResponses :
    (((outS [weldAcc (.load 31 true)]).thrAt 0).outs[0]? = some (weldAcc (.load 31 true)) ∧ ((outS [weldAcc (.load 31 true)]).thrAt 0).mayPerform 0 = true ∧
      (outS [weldAcc (.load 31 true)]).accReady (weldAcc (.load 31 true)) = true ∧ ((outS [weldAcc (.load 31 true)]).perform (weldAcc (.load 31 true)) []).poison = false ∧
      isWeld weldBase = true ∧ ((outS []).tileAt (weldTile weldBase)).weldPoison (weldOff weldBase) 8 = false) ∧
    (((poisonS [accTo 0 (.load 9 true)]).perform (accTo 0 (.load 9 true)) []).poison = true ∧ (poisonS [accTo 0 (.load 9 true)]).accReady (accTo 0 (.load 9 true)) = true ∧
      ((poisonS [accTo 0 (.load 9 true)]).thrAt 0).mayPerform 0 = true ∧ ((poisonS []).thrAt 0).st ≠ .free ∧ ((poisonS []).thrAt 0).st ≠ .faulted) ∧
    (((outS []).thrAt 0).mayPerform 0 = false) ∧
    ([accTo 0 (.store []), accTo 4 (.store [])][1]? = some (accTo 4 (.store [])) ∧ (accTo 4 (.store [])).pa < (accTo 0 (.store [])).pa + (accTo 0 (.store [])).size ∧ 0 < 1) ∧
    (((outS [weldAcc (.store [1, 2, 3, 4, 5, 6, 7, 8])]).thrAt 0).mayPerform 0 = true) ∧ (255 < 2 ^ (8 * 4) ∧ 2 ^ 64 - 1 < 2 ^ (8 * 8)) ∧
    ((accTo 0 (.load 9 true)).size ≠ 64 ∧ (accTo 0 (.load 9 true)).parts = [] ∧ (vacc []).size = 64 ∧ (vacc []).parts.lookup 7 = none ∧ (vacc []).parts.length ≠ 7 ∧
      ((outS [vacc []]).thrAt 0).mayPerform 0 = true ∧ (outS [vacc []]).accReady (vacc []) = true ∧
      (((outS [vacc []]).arrive (vacc [])).perform ((vacc []).piece 7) []).poison = false) ∧
    ((vacc parts7).parts.lookup 7 = none ∧ (vacc parts7).parts.length = 7 ∧ (vacc parts7).parts.lookup 0 = some [] ∧ (outS [vacc parts7]).accReady (vacc parts7) = true ∧
      ((outS [vacc parts7]).thrAt 0).mayPerform 0 = true ∧ (((outS [vacc parts7]).arrive (vacc parts7)).perform ((vacc parts7).piece 7) []).poison = false) := by decide +kernel

def cp : Acopy := ⟨0, 5, 3, false, [], [(0, 64)], [(weldBase, 64)]⟩
def fl1 : Cflush := ⟨0, [(0, 64)], false⟩
def thC (x : Thr) (k : List Acopy) (f : List Cflush) : State := { thS x with th := ⟨[(0, x)], [], k, f⟩ }

theorem wit_CopiesAndFences :
    ((3 : BitVec 5) ≠ 31 ∧ (th0.rd 3).toNat % 64 = 0 ∧ (th0.rd 3).toNat ≤ 4096 ∧ (th0.rd (3 + 1)).toNat < 2 ^ 18 ∧ (th0.rd 6).toNat % 64 = 0 ∧ (th0.rd 1).toNat % 64 = 0 ∧
      okOf ((thS th0).rangeOf th0 (thrTile 0) true .read (th0.rd 6).toNat (th0.rd 3).toNat) = some [(64, 64)] ∧
      okOf ((thS th0).rangeOf th0 (thrTile 0) true .write (th0.rd 1).toNat (th0.rd 3).toNat) = some [(weldBase, 64)] ∧
      (thC th0 (List.replicate 15 cp) []).th.copies.countP (fun k => k.thr / 64 = 0 / 64) < 16 ∧ 16 ≤ (thC th0 (List.replicate 16 cp) []).th.copies.countP (fun k => k.thr / 64 = 0 / 64)) ∧
    ((65 : W64).toNat % 64 ≠ 0 ∧ 1048576 < (th0.rd 7).toNat ∧ 4096 < (4160 : W64).toNat ∧ 2 ^ 18 ≤ (th0.rd 7).toNat) ∧
    ((thC th0 [cp] []).th.copies[0]? = some cp ∧ (thC th0 [cp] []).copyReady cp = true ∧ cp.overlap = false) ∧
    ((thC { th0 with outs := [accTo 0 (.store [])] } [{ cp with after := [accTo 0 (.store [])] }] []).copyReady { cp with after := [accTo 0 (.store [])] } = false) ∧
    (okOf ((thS th0).rangeOf th0 (thrTile 0) false .read (th0.rd 6).toNat (th0.rd 3).toNat) = some [(64, 64)]) ∧
    ((thC th0 [] [fl1]).th.flushes[0]? = some fl1 ∧ fl1.keep = false ∧ (thC th0 [] [fl1]).flushReady fl1 = true ∧ isWeld 0 = false) ∧
    ([accTo 0 (.store [])].any (fun a => a.inSquare 0) = true ∧ [accTo (2 ^ 36) (.store [])].any (fun a => a.inSquare 0) = false) := by decide +kernel

def watchOf (n : W32) : WatchReq := ⟨0, n, false, .thread 0, .thread 0 0⟩
/-- An array descriptor of zeros with its status field at 0, a bank descriptor of class 2 that names no row. -/
def bankD : List Byte := List.replicate 27 0 ++ [2] ++ List.replicate 228 0
def bankThS : State := { (thS th0) with tile := [(0, { tileInit with weld := mwrite zeroByte [] 0 bankD })] }
def arr0Out : State := (thS th0).setArr 0 { runS.arrAt 0 with oos := true }
def jobs8 : ArrayU := { runS.arrAt 0 with jobs := List.replicate 8 jobInit }

def kickS (n : Nat) : State := { thS th0 with dm := { (thS th0).dm with chan := [(31, { (thS th0).chanAt 31 with state := n })] } }

theorem wit_ThreadControl :
    ((th0.rd 4).toNat < 2 ^ 18 ∧ 2 ^ 18 ≤ (th0.rd 7).toNat ∧ th0.pendingScope 0 2 = false ∧ ({ th0 with outs := [accTo 0 (.store [])] } : Thr).pendingScope 0 1 = true ∧
      (2 : W16).toNat < 3 ∧ (th0.rd 3).setWidth 32 ≠ (0 : W32)) ∧
    ((thS th0).watchesOf 0 < 4 ∧ 4 ≤ (({ thS th0 with sy := { Sync.reset with armed := List.replicate 4 (watchOf 1) } } : State).watchesOf 0)) ∧
    (({ th0 with fired := [5, 7] } : Thr).fired = 5 :: [7] ∧ th0.fired = [] ∧ ({ thS th0 with sy := { Sync.reset with armed := [watchOf 1] } } : State).hasWatch 0 = true ∧
      (thS th0).hasWatch 0 = false) ∧
    (okOf ((thS th0).weldDesc 0 th0 (th0.rd 1).toNat 64) = some (List.replicate 64 0) ∧ (thS th0).arrFault 0 th0 (List.replicate 64 0) = none ∧
      ((thS th0).arrAt (2 * 0 + 1)).oos = false ∧ (arr0Out.arrAt 0).oos = true ∧ arr0Out.arrFor (2 * 0 + 0) = 1 ∧ ((thS th0).arrAt 0).jobs.length < 8 ∧ 8 ≤ (((thS th0).setArr 0 jobs8).arrAt 0).jobs.length) ∧
    (okOf (bankThS.weldDesc 0 th0 (th0.rd 1).toNat 256) = some bankD ∧ bankThS.bankFault 0 th0 bankD = none ∧
      (bankThS.descTouch 0 th0 (th0.rd 1).toNat 256).bankPlace bankD = none ∧
      bankThS.th.flushes.any (fun f => f.thr = 0) = false) ∧
    (((thS th0).chanAt 31).state = 0 ∧ ((kickS 1).chanAt 31).state ≠ 0 ∧ ((kickS 1).chanAt 31).state ≠ 3 ∧ ((kickS 3).chanAt 31).state = 3) := by
  decide +kernel

/-- A pair-row in a BANK_LAYOUT segment: the job runs on unit 0. -/
def bankD1 : List Byte := [0, 0, 0x10, 0, 0, 0, 0, 0] ++ List.replicate 8 0 ++ [0, 0x10, 0, 0] ++ List.replicate 4 0 ++ [0x80, 1, 0, 2] ++ List.replicate 228 0
def bankThS1 : State := { thS th0 with dr := { openDr with segs := [0] }, tile := [(0, { tileInit with weld := mwrite zeroByte [] 0 bankD1 })] }
def bankJ1 : BankJob := bankThS1.bankJob 0 th0 bankD1 0 0 0
def fullS1 : State := { bankThS1 with unit := [(0, { unitInit with jobs := List.replicate 64 bankJ1 })] }
def outS1 : State := { bankThS1 with unit := [(0, { unitInit with oos := true })] }
def touched (s : State) : State := s.descTouch 0 th0 (th0.rd 1).toNat 256

theorem wit_ThreadControl_bank : okOf (bankThS1.weldDesc 0 th0 (th0.rd 1).toNat 256) = some bankD1 ∧ bankThS1.bankFault 0 th0 bankD1 = none ∧
    okOf (fullS1.weldDesc 0 th0 (th0.rd 1).toNat 256) = some bankD1 ∧ fullS1.bankFault 0 th0 bankD1 = none ∧
    okOf (outS1.weldDesc 0 th0 (th0.rd 1).toNat 256) = some bankD1 ∧ outS1.bankFault 0 th0 bankD1 = none ∧
    (touched bankThS1).bankPlace bankD1 = some (0, 0, 0) ∧ (touched bankThS1).class2Len (0 / 2) < 64 ∧
    (touched bankThS1).bankRefusal th0 bankD1 0 ((touched bankThS1).bankJob 0 th0 bankD1 0 0 0) = none ∧
    64 ≤ (touched fullS1).class2Len 0 ∧ (touched fullS1).bankPlace bankD1 = some (0, 0, 0) ∧
    (touched outS1).bankRefusal th0 bankD1 0 ((touched outS1).bankJob 0 th0 bankD1 0 0 0) = some 8 ∧ (touched outS1).class2Len 0 < 64 ∧
    (touched outS1).bankPlace bankD1 = some (0, 0, 0) := by decide +kernel

def rec1 : LaunchRec := ⟨0x100000, 0, false, [], [1, 2, 3, 4, 5, 6, 7, 8], 5, 0, none⟩

def wk (life : Nat) : WakeMsg := ⟨.thread 0, .thread 0 life, 5, 0⟩
def wakeS (m : WakeMsg) : State := { thS { th0 with st := .waiting } with sy := { Sync.reset with wakes := [⟨.chan 31, .thread 1 0, 9, 1⟩, m] } }
def msgErr (life : Nat) : SyncErr := ⟨0, life, 0x100000, true⟩

theorem wit_ThreadEvents :
    (((tileS { tileInit with state := 2 }).thrAt 12287).st = .free ∧ ((tileS { tileInit with state := 2 }).tileAt (12287 / 2048)).state = 2 ∧ ((tileS { tileInit with state := 3 }).tileAt (12287 / 2048)).state = 3 ∧ rec1.service = false ∧
      rec1.kernel ∈ ({ tileS { tileInit with state := 2 } with sv := { runS.sv with kernels := [0] } } : State).sv.kernels) ∧
    (((thS th0).thrAt 0).st ≠ .free ∧ ({ rec1 with service := true, domain := 1 } : LaunchRec).domain ≠ 0 ∧ rec1.kernel ∉ (thS th0).sv.kernels) ∧ ((thS { th0 with st := .faulted }).thrAt 0).st = .faulted ∧
    ((wakeS (wk 0)).sy.wakes.find? (fun q => q.target = .thread 0) = some (wk 0) ∧ ((wakeS (wk 0)).thrAt 0).st ≠ .free ∧ (wk 0).owner = .thread 0 ((wakeS (wk 0)).thrAt 0).life ∧
      (wk 1).owner ≠ .thread 0 ((wakeS (wk 1)).thrAt 0).life ∧ (wakeS (wk 1)).sy.wakes.find? (fun q => q.target = .thread 0) = some (wk 1) ∧
      (wakeS (wk 0)).sy.wakes.find? (fun q => q.target = .thread 0) ≠ some (wk 1)) ∧
    (((thS th0).thrAt (msgErr 0).thr).st ≠ .free ∧ ((thS th0).thrAt (msgErr 0).thr).st ≠ .faulted ∧ ((thS th0).thrAt (msgErr 0).thr).life = (msgErr 0).life ∧
      ((thS th0).thrAt (msgErr 1).thr).life ≠ (msgErr 1).life) ∧
    (((thS { th0 with st := .blocked, blk := .exit }).thrAt 0).st = .blocked ∧ ((thS { th0 with st := .blocked, blk := .exit }).thrAt 0).blk = .exit ∧
      ((thS { th0 with st := .blocked, blk := .exit }).thrAt 0).outs = []) ∧
    (((outS [accTo 0 (.store [])]).thrAt 0).outs ≠ []) := by decide +kernel

def outsThr (l : List Acc) : Thr := { th0 with outs := l }

/-- Every state above in which an instruction issues is one that `wit_Issues` takes. -/
theorem wit_Issues_threads : ReadyTo (outS loads8) 0 (outsThr loads8) [0] ∧ ReadyTo (outS stores16) 0 (outsThr stores16) (List.range 48) ∧
    ReadyTo (thS { th0 with g := [(1, 0x110001)] }) 0 { th0 with g := [(1, 0x110001)] } (List.range 48) ∧
    ReadyTo (thS { th0 with fired := [5, 7] }) 0 { th0 with fired := [5, 7] } (List.range 48) := by decide +kernel

theorem wit_Issues_states : ∀ s ∈ [thC th0 (List.replicate 16 cp) [], thC th0 (List.replicate 15 cp) [],
    { thS th0 with sy := { Sync.reset with armed := List.replicate 4 (watchOf 1) } }, (thS th0).setArr 0 jobs8, arr0Out, bankThS, bankThS1, fullS1, outS1, kickS 1, kickS 3],
    ReadyTo s 0 th0 (List.range 48) := by decide +kernel

/-! #### Counters, arrays, sub-channels -/

def ctrS (x : Ctr) (l : List WatchReq) : State := { runS with sy := { Sync.reset with ctr := [(0, x)], armed := l } }
def sig (n : W32) (src : SigSrc) : SignalMsg := ⟨0, n, src⟩

def ctrOps (x : Ctr) (l : List WatchReq) (o : List CtrOp) : State := { ctrS x l with sy := { (ctrS x l).sy with ops := o.map fun k => ⟨k, 0⟩ } }
def strictS (s : State) : State := { s with tile := [(0, { tileInit with strict := 1 })] }
def goneS (s : State) : State := { s with tile := [(0, { tileInit with state := 0 })] }
def okSig (n : W32) (x : Ctr) : Bool := (ctrOps x [] [.sig (sig n (.exit 0))]).sy.mayPerform (.sig (sig n (.exit 0)))
/-- Two signals of one thread to one counter, the second held back by the first; a watch that its thread cancels before it has arrived. -/
def orderS : State := ctrOps ctrInit [] [.sig (sig 1 (.thread 0 0 0)), .sig (sig 2 (.thread 0 0 0)), .reg (watchOf 5), .cancel (.thread 0 0)]

theorem wit_CounterCommands_order :
    orderS.sy.mayPerform (.sig (sig 2 (.thread 0 0 0))) = false ∧ orderS.sy.mayPerform (.reg (watchOf 5)) = false ∧
    orderS.sy.mayPerform (.cancel (.thread 0 0)) = false ∧ (orderS.sy.findOp (.cancel (.thread 0 0))).isSome = true ∧
    (orderS.sy.findOp (.sig (sig 2 (.thread 0 0 0))) = some 1 ∧ orderS.sy.ops[0]? = some ⟨.sig (sig 1 (.thread 0 0 0)), 0⟩ ∧
      (CtrOp.sig (sig 1 (.thread 0 0 0))).source = (CtrOp.sig (sig 2 (.thread 0 0 0))).source ∧ 0 ∈ orderS.sy.reaches (.sig (sig 1 (.thread 0 0 0))) ∧
      0 ∈ orderS.sy.reaches (.sig (sig 2 (.thread 0 0 0)))) ∧
    (orderS.sy.mayPerform (.sig (sig 1 (.thread 0 0 0))) = true ∧ (ctrS ctrInit []).sy.findOp (.cancel (.block 0 0)) = none) := by decide +kernel

theorem wit_CounterCommands :
    (okSig 0 ctrInit = true ∧ okSig 1 ctrInit = true) ∧
    (((ctrS { ctrInit with count := 0xFFFFFFFE } []).ctrAt 0).count.toNat + (sig 1 (.exit 0)).amount.toInt = (4294967295 : Int) ∧ (sig 1 (.exit 0)).amount ≠ 0 ∧
      ((ctrS { ctrInit with count := 0xFFFFFFFE } []).ctrAt 0).flag = false ∧ (4 : Nat) < threshold ctrInit (watchOf 5)) ∧
    (0 < (sig 1 (.exit 0)).amount.toInt ∧ okSig 1 { ctrInit with flag := true } = true ∧ ((ctrS { ctrInit with flag := true } []).ctrAt 0).flag = true) ∧
    (okSig 0xFFFFFFFF ctrInit = true ∧
      ((ctrS ctrInit []).ctrAt 0).count.toNat + (sig 0xFFFFFFFF (.exit 0)).amount.toInt < 0 ∧ (ctrS ctrInit []).strict 0 = false ∧ fromHost (.exit 0) = false ∧
      (4294967295 : Int) < ((ctrS { ctrInit with count := 0xFFFFFFFF } []).ctrAt 0).count.toNat + (sig 1 (.exit 0)).amount.toInt) ∧
    ((strictS (ctrOps ctrInit [] [.sig (sig 0xFFFFFFFF (.thread 0 4 0))])).sy.mayPerform (.sig (sig 0xFFFFFFFF (.thread 0 4 0))) = true ∧ (strictS (ctrS ctrInit [])).strict 0 = true ∧
      (strictS (ctrS ctrInit [])).ctrGone 0 = false ∧ (sig 0xFFFFFFFF (.thread 0 4 0)).src = .thread 0 4 0) ∧
    ((ctrS ctrInit [watchOf 5]).sy.armed = [watchOf 5] ∧ threshold ((ctrS ctrInit [watchOf 5]).ctrAt 0) (watchOf 5) ≤ (5 : W32).toNat ∧
      ¬ threshold ((ctrS ctrInit [watchOf 5]).ctrAt 0) (watchOf 5) ≤ (4 : W32).toNat) ∧
    ((ctrOps ctrInit [] [.reg (watchOf 1)]).sy.mayPerform (.reg (watchOf 1)) = true ∧ (ctrS ctrInit []).poolUsed 0 .thread < 7680 ∧
      (∀ w ∈ (ctrS ctrInit []).sy.armed ++ [watchOf 1], ((ctrS ctrInit []).ctrAt 0).count.toNat < threshold ((ctrS ctrInit []).ctrAt 0) w)) ∧
    (((thS { th0 with st := .blocked, blk := .watch 0 }).thrAt 0).st = .blocked ∧ ((thS { th0 with st := .blocked, blk := .watch 0 }).thrAt 0).blk = .watch 0 ∧
      (watchOf 1).owner = .thread 0 ((thS th0).thrAt 0).life) ∧
    (({ ctrS ctrInit [] with sy := { Sync.reset with queued := [watchOf 1] } } : State).sy.queued.find? fun r => r.ctr.val / 4096 = 0 && poolOf r.owner = .thread) =
      some (watchOf 1) ∧ (ctrS ctrInit []).ctrGone 0 = false ∧
    ((goneS (ctrS ctrInit [])).ctrGone 0 = true ∧ (goneS (ctrOps ctrInit [] [.sig (sig 1 (.exit 0))])).sy.mayPerform (.sig (sig 1 (.exit 0))) = true ∧
      (goneS (ctrOps ctrInit [] [.reg (watchOf 1)])).sy.mayPerform (.reg (watchOf 1)) = true) ∧ (ctrS ctrInit []).sy.queued = [] ∧
    (watchOf 5 ∈ (ctrS ctrInit [watchOf 5]).sy.armed ∧ watchOf 4 ∉ (ctrS ctrInit [watchOf 5]).sy.armed ∧
      (ctrS ctrInit [watchOf 5]).sy.findOp (.cancel (.one (watchOf 5))) = none ∧ (CancelSel.thread 0 0) ≠ .one (watchOf 5)) ∧
    (((thS { th0 with st := .blocked, blk := .watches }).thrAt 0).blk = .watches ∧ (thS { th0 with st := .blocked, blk := .watches }).watchesOf 0 < 4) := by decide +kernel

/-- The pool of the DMA channels is full. -/
def fullPool : State := ctrOps ctrInit (List.replicate 256 ⟨0, 1, false, .chan 0, .chan 0 0⟩) [.reg ⟨0, 2, false, .chan 0, .chan 0 0⟩]

theorem wit_CounterCommands_full : poolSize (poolOf (.chan 0 0)) ≤ fullPool.poolUsed 0 (poolOf (.chan 0 0)) ∧
    fullPool.sy.mayPerform (.reg ⟨0, 2, false, .chan 0, .chan 0 0⟩) = true ∧ fullPool.ctrGone 0 = false := by decide +kernel

/-- One row, 64 columns, codes of 8 bits in groups of 32, one slice of 128: its row record at 0x8000, its codes at 0x9000. -/
def arrD1 : List Byte := [0, 0, 0, 0] ++ [0, 0, 0, 0] ++ [0, 0, 0, 0] ++ [64, 0, 0, 0] ++ [1, 0, 0, 0] ++ [1, 0, 1, 0] ++ [128, 0, 0, 0] ++ [0, 0x80, 0, 0] ++
  [0, 0, 0, 0] ++ [0, 0, 1, 0] ++ [0, 1, 0, 0] ++ [0, 0, 2, 0] ++ [5, 0, 0, 0] ++ [0, 0, 0, 0] ++ List.replicate 8 0
def aj : ArrJob := { jobInit with desc := arrD1, service := true, started := true }
/-- The row's codes at 0x9000 and its segment scale 1 at 0x9000 + 128. -/
def arrWeld : List Host.Cell := mwrite zeroByte (mwrite zeroByte [] 0x800C [0, 0x90, 0, 0]) (0x9000 + 128) [0, 0, 0, 0x3C]
def arrS (x : ArrayU) : State := ({ runS with tile := [(0, { tileInit with weld := arrWeld })] } : State).setArr 0 x
def aU : ArrayU := { arrayInit with jobs := [aj] }
def fillSl (st : Nat) : Slot := { slotInit with state := st, taken := true, rows := 1 }
def wr1 : WReg := ⟨0, 0, List.replicate 8192 0, List.replicate 64 0, false⟩
def ovfE : Entry := { entryInit with ovf := true }
/-- A replay pass with a row to enter. -/
def replSl : Slot := { fillSl 2 with pass := 1, entries := [(0, { ovfE with o := 1 })] }


theorem wit_ArrayWork :
    (jAccept (runS.tileAt 0) arrD1 = true ∧ jAccept (runS.tileAt 0) (List.replicate 64 0) = false ∧
      ((arrS { aU with jobs := [{ aj with started := false }] }).arrAt 0).turn = some 0 ∧
      ((arrS { aU with jobs := [{ aj with started := false }], stopped := true }).arrAt 0).stopped = true) ∧
    (((arrS aU).arrAt 0).nextJob = some 0 ∧ (arrS aU).arrHeld 0 = false ∧ (arrS { aU with stopped := true }).arrHeld 0 = true ∧ (arrS { aU with halted := true }).arrHeld 0 = true ∧ (((arrS aU).arrAt 0).slot 0).state = 0 ∧ (((arrS aU).arrAt 0).slot 0).taken = false) ∧
    (({ aU with slots := [(0, { slotInit with taken := true, rows := 1 })] } : ArrayU).wanted = some (0, 0) ∧ aU.liveRegs.length < 2 ∧ aU.busy 1 = false) ∧
    (({ aU with slots := [(0, fillSl 1), (1, replSl)] } : ArrayU).wanted = some (1, 0) ∧
      (({ aU with slots := [(0, fillSl 1), (1, replSl)] } : ArrayU).slot 1).state = 2) ∧
    (({ aU with slots := [(0, fillSl 1)], wregs := [wr1] } : ArrayU).activeSlot = some 0 ∧ (slotRows aj (fillSl 1)).find? (fun r => (fillSl 1).next ≤ r) = some 0 ∧
      ({ aU with slots := [(0, fillSl 1)], wregs := [wr1] } : ArrayU).isFull 0 = false ∧ scaleOk (rowIn ((arrS aU).tileAt 0) arrD1 0 0).sa = true ∧
      scaleOk (rowIn (runS.tileAt 0) arrD1 0 0).sa = false) ∧
    (({ aU with slots := [(0, { fillSl 1 with full := true, entries := [(0, ovfE)] })] } : ArrayU).order.find? (fun k =>
        (({ aU with slots := [(0, { fillSl 1 with full := true, entries := [(0, ovfE)] })] } : ArrayU).slot k).state = 1 &&
        ({ aU with slots := [(0, { fillSl 1 with full := true, entries := [(0, ovfE)] })] } : ArrayU).isFull k) = some 0 ∧
      aj.active = [0] ∧ (fillSl 1).entries = [] ∧ (aU.slot 1).state ≠ 3 ∧ (({ aU with slots := [(1, fillSl 3)] } : ArrayU).slot 1).state = 3) ∧
    (({ fillSl 2 with full := true, pass := 2, entries := [(0, { ovfE with o := 2 })] } : Slot).pass < 3 ∧
      ({ aU with slots := [(0, { fillSl 2 with full := true, pass := 3 })] } : ArrayU).order.find? (fun k =>
        (({ aU with slots := [(0, { fillSl 2 with full := true, pass := 3 })] } : ArrayU).slot k).state = 2 &&
        ({ aU with slots := [(0, { fillSl 2 with full := true, pass := 3 })] } : ArrayU).isFull k) = some 0) ∧
    ([0, 1].find? (fun k => (({ aU with slots := [(1, fillSl 3)] } : ArrayU).slot k).state = 3) = some 1 ∧ (fillSl 3).job < aU.jobs.length) ∧
    (({ aj with drained := [0] } : ArrJob).drained.length = ({ aj with drained := [0] } : ArrJob).ntiles ∧ aj.drained.length ≠ aj.ntiles ∧ aj.started = true) ∧
    (aj.undef = false ∧ jOp aj.desc = 0 ∧ ({ aj with lastOut := some 3 } : ArrJob).lastOut = some 3 ∧
      (∀ i, i < 32 → meets (jStatus aj.desc + i) 1 aj.reads = false)) ∧
    (aj.refused = false ∧ aU.hwTimes = [] ∧ ({ aU with hwTimes := [0] } : ArrayU).hwTimes = [runS.time]) ∧
    ((({ runS with tile := [(0, { tileInit with state := 3, haltA := true })] } : State).tileAt 0).state = 3 ∧ ({ arrayInit with due := true } : ArrayU).due = true ∧ arrayInit.idle = true ∧
      ({ arrayInit with slots := [(0, fillSl 1)] } : ArrayU).idle = false ∧ ({ arrayInit with slots := [(0, fillSl 1)] } : ArrayU).due = false ∧
      (({ runS with tile := [(0, { tileInit with state := 3, haltA := true })] } : State).tileAt 0).haltA = true) ∧
    (entryInit.ovf = false ∧ -549755813888 ≤ (2147483647 : Int) ∧ (2147483647 : Int) ≤ 549755813887 ∧ -2147483648 ≤ entryInit.acc + sumInts [2147483647] ∧
      entryInit.acc + sumInts [2147483647] ≤ 2147483647 ∧ 2147483647 < entryInit.acc + sumInts [2147483648] ∧ entryInit.acc + sumInts [-2147483649] < -2147483648) ∧
    ((-34 : Int) < -14) := by decide +kernel

def subS (x : SubCh) : State := runS.setSub 0 x
def openSub : SubCh := { subInit 0 with state := 1 }
def rdReq : Req := ⟨0, .read, 0, .thread⟩
def q1r : QReq := ⟨0, rdReq, 1, [], false, none⟩

def colS (q : QReq) : State := (subS { openSub with queue := [q], nextId := 1 }).setBank 0 { bankInit with openRow := some 0, tAct := some 0 }
/-- A write of a whole codeword: its activation, then its column command. -/
def wrReq : Req := ⟨0, .write 0 (List.replicate 32 7) false, 0, .thread⟩
/-- An ADD of 5 to the first word of a codeword. -/
def addD5 : AddDesc := ⟨0, 0, 0, 0, true, 5⟩
def addReqR : Req := ⟨0, .add addD5, 0, .thread⟩
/-- An ADD where the bank's unit is out of service: read by the controller, done when the read has returned. -/
def addOut : State := ((colS { q1r with stage := 0, req := addReqR }).setUnit 0 { unitInit with oos := true }).issueCol { q1r with stage := 0, req := addReqR } 100000
def addBack (e : List SymErr) : State := match execReadReturn 0 e addOut with | .next t => t | _ => addOut

theorem test_add_by_controller : (addOut.sub 0).out = [0] ∧ (addOut.bankAt 0).hold = .codeword 0 ∧ addOut.dr.madder = [] ∧
    (addBack []).dr.readPos 0 4 = [5, 0, 0, 0] ∧ ((addBack []).sub 0).resp.map (·.poison) = some false ∧ ((addBack []).sub 0).queue = [] ∧
    (addBack [⟨0, 1⟩, ⟨1, 1⟩, ⟨2, 1⟩, ⟨3, 1⟩]).dr.madder = [] ∧
    ((addBack [⟨0, 1⟩, ⟨1, 1⟩, ⟨2, 1⟩, ⟨3, 1⟩]).sub 0).resp.map (·.poison) = some true := by decide +kernel
/-- A maintenance initialisation that writes one row by bursts, its row open. -/
def initJ (b u : List Nat) : InitJob := ⟨hdr, 5, 1, none, [7], true, u, b, 0, 0⟩
def burstS : State := (subS { openSub with holder := 5, inits := [initJ [0] []] }).setBank 0 { bankInit with openRow := some 5, tAct := some 0 }
/-- The scrub of row 0 of bank 0, its row open: a codeword to read, and one to write back. -/
def scrubX (f : Option (Nat × List Byte)) : SubCh := { openSub with holder := 4, scrub := some ⟨0, 0, 0, [], f, false⟩, nextId := 1 }
def scrubS (f : Option (Nat × List Byte)) : State := (subS (scrubX f)).setBank 0 { bankInit with openRow := some 0, tAct := some 0 }

theorem wit_SubChannelWork_requests :
    ((subS openSub).madderOk 0 = true ∧ subOfBank ((subS openSub).place 0).bank = 0 ∧ (subS openSub).classLen 0 0 < 64 ∧ (∀ q ∈ openSub.stalled, q.cls ≠ rdReq.cls) ∧
      64 ≤ (subS { openSub with queue := List.replicate 64 q1r }).classLen 0 0 ∧ (subS { openSub with state := 3 }).madderOk 0 = false) ∧
    ((subS openSub).bankAt 0 = bankInit ∧ openSub.banksOut.getLsbD 0 = false ∧ bankInit.hold = .none ∧ bankInit.tRef = none ∧ bankInit.tPre = none ∧
      ({ bankInit with debt := 8 } : Bank).urgent openSub.dieTemp.toNat = true) ∧ ((subS { openSub with state := 2 }).sub 0).state = 2 ∧
    ((subS { openSub with queue := [{ q1r with stage := 0 }] }).oldest 0 0 0 = some ({ q1r with stage := 0 }, .act 0) ∧
      (subS openSub).refreshPick 0 0 (fun b => (subS openSub).urgentAt b || ((subS openSub).bankAt b).dueRow.isSome) = none ∧
      (∀ n, n ∈ [1, 2, 3] → (subS openSub).owed 0 n 0 = false) ∧ (subS openSub).classWindows 0 0 0 = []) ∧
    ((subS { openSub with queue := [{ q1r with stage := 0, req := { rdReq with cls := 1 } }] }).owed 0 1 1000000 = true ∧
      ((subS { openSub with queue := [{ q1r with stage := 0, req := { rdReq with cls := 1 } }] }).classPick 0 1 1000000).isSome = true) ∧
    (burstS.pick 0 100000 = .burst .col ∧ (burstS.sub 0).burstAt = some (initJ [0] [], 0, 5, 0)) ∧
    ((scrubS none).pick 0 100000 = .scrub .col ∧ ((scrubS none).sub 0).scrub = some ⟨0, 0, 0, [], none, false⟩ ∧ curCol ((scrubS none).sub 0).scrubCur < 63) ∧
    ((scrubS (some (0, [7]))).pick 0 100000 = .scrub .col) ∧
    (({ openSub with queue := [{ q1r with sample := some ⟨[], false, false⟩ }], out := [0] } : SubCh).out = 0 :: [] ∧
      ({ openSub with queue := [{ q1r with sample := some ⟨[], false, false⟩ }], out := [0] } : SubCh).queue.find? (fun q => q.id = 0) = some { q1r with sample := some ⟨[], false, false⟩ } ∧
      q1r.req.kind = .read ∧ wrReq.kind = .write 0 (List.replicate 32 7) false ∧ addReqR.kind = .add addD5) := by decide +kernel

theorem wit_SubChannelWork :
    (5 < ({ subS openSub with bt := { Boot.reset with phase := 15 } } : State).bt.phase ∧ openSub.state ≠ 3 ∧ openSub.rateTo = none ∧
      ({ openSub with rateTo := some true, holder := 2 } : SubCh).rateTo = some true) ∧
    (85 < 86 ∧ openSub.x2 = false ∧ 82 ≤ 82 ∧ 82 < 83 ∧ 85 ≤ 85 ∧ ({ openSub with x2 := true } : SubCh).x2 = true) ∧ ((subS { openSub with holder := 1 }).windowRuns 0 = false ∧
      ((subS { openSub with holder := 1 }).setUnit 0 { unitInit with inWindow := true }).windowRuns 0 = true) ∧
    (({ openSub with state := 2, holder := 1, erased := some 3 } : SubCh).erased.isSome = true ∧ openSub.spareFailed = false ∧ openSub.trainFails = 0 ∧
      ({ openSub with state := 2, holder := 3, erased := some 3 } : SubCh).holder = 3 ∧ openSub.erased = none) ∧
    (({ openSub with holder := 4 } : SubCh).scrub = none ∧ openSub.isClean (bankOf 0 (curBank openSub.scrubCur)) (curRow openSub.scrubCur) = false ∧
      openSub.banksOut.getLsbD (curBank openSub.scrubCur) = false ∧ ({ openSub with banksOut := 1 } : SubCh).banksOut.getLsbD (curBank openSub.scrubCur) = true ∧
      ({ openSub with clean := [(0, 0, 2)] } : SubCh).isClean (bankOf 0 (curBank openSub.scrubCur)) (curRow openSub.scrubCur) = true) ∧
    (({ openSub with holder := 5 } : SubCh).holder ≠ 0 ∧ ({ openSub with holder := 5 } : SubCh).holder ≠ 4 ∧ openSub.waiting.contains 4 = false) ∧
    (({ openSub with waiting := [1], holder := 4 } : SubCh).waiting = 1 :: [] ∧ 1 < 4 ∧ (subS { openSub with waiting := [1], holder := 4 }).atCursor 0 = true) ∧ openSub.waiting = [] ∧
    ({ openSub with holder := 5, inits := [initJ [] []] } : SubCh).inits = [initJ [] []] ∧ (initJ [] []).begun = true ∧ (initJ [] []).units = [] ∧
    (initJ [] []).bursts = [] := by decide +kernel

/-! #### Bank units and DMA channels -/

def unitS (x : BUnit) : State := ({ runS with dr := openDr } : State).setUnit 0 x
/-- A queued job on pair-row 0 of unit 0, its completion record at 0x1000 of tile 0. -/
def bj : BankJob := ⟨0, false, List.replicate 48 0 ++ [5, 0, 0, 0, 0, 0x10, 0, 0] ++ List.replicate 200 0, 0, false, 0, 2, 0, 1, 0, 1, false, none⟩
def holdU (st : Nat) : BUnit := { unitInit with state := st, jobs := [bj], holds := true, desc := mwrite zeroByte [] 0 (descRow bj) }
def fpAdd : AddDesc := ⟨2, 1, 63, 28, true, 0x3F800000⟩
def addC : AddCmd := ⟨fpAdd, 9, []⟩
def addReq : Req := ⟨0, .write 0 [] false, 0, .thread⟩
/-- Unit 0 has an ADD in its command area: the request numbered 0 of its controller. -/
def addS : State := ({ runS with dr := { openDr with sub := [(0, { subInit 0 with state := 1, queue := [⟨0, addReq, 0, [], false, none⟩] })] } } : State).setUnit 0
  { unitInit with cmd := 5, addReq := some 0, addDesc := fpAdd }
def yr (p : Bool) : YieldRead := ⟨5, [], p⟩
def initB : BankJob := { bj with init := true }
def initOf (u : List Nat) : InitJob := ⟨hdr, 5, 1, none, [7], true, u, [], 0, 0⟩

theorem wit_BankUnitCommands_windows :
    ((unitS unitInit).pick (0 / 2) 0 ≠ .window 0 ∧ (unitS { unitInit with jobs := [bj] }).pick (0 / 2) 0 = .window 0 ∧
      ({ unitInit with jobs := [bj] } : BUnit).alleyPeer 0 = none) ∧
    (((unitS { holdU 0 with cmd := 1 }).unitAt 0).cmd = 1 ∧ ((unitS { holdU 0 with cmd := 1 }).unitAt 0).oos = false ∧ (5 : Nat) ∈ [0, 4, 5] ∧ (2 : Nat) ∈ [1, 2] ∧
      ((unitS { holdU 3 with cmd := 1 }).unitAt 0).state = 3) ∧
    (((unitS { holdU 2 with cmd := 2 }).unitAt 0).cmd = 2 ∧ ((unitS { holdU 2 with cmd := 2 }).unitAt 0).state = 2 ∧
      ((unitS { holdU 2 with cmd := 3 }).unitAt 0).cmd = 3 ∧ (unitS { holdU 2 with cmd := 3 }).unitDoomed 0 = false ∧ ((unitS (holdU 1)).unitAt 0).holds = true ∧
      ((unitS unitInit).unitAt 0).holds = false) := by decide +kernel

theorem wit_BankUnitCommands :
    ((addS.unitAt 0).addReq = some 0 ∧ (addS.sub (0 / 2)).queue.find? (fun q => q.id = 0) = some ⟨0, addReq, 0, [], false, none⟩ ∧
      unitOfBank (addS.place addReq.addr).bank = 0 ∧ (addS.unitAt 0).cmd = 5 ∧ (addS.unitAt 0).oos = false ∧ (addS.unitAt 0).addDesc = addC.desc ∧ fpAdd.bank.toNat < 2 ∧
      fpAdd.form.toNat < 4 ∧ fpAdd.col.toNat < 64 ∧ fpAdd.off.toNat + addSize fpAdd ≤ 32 ∧ fpAdd.off.toNat % addSize fpAdd = 0) ∧
    (((runS.dr.decode false none 0 []).1.poison = false) ∧ (({ runS.dr with mark := [0] } : Dram).decode false none 0 []).1.poison = true) ∧
    (((unitS { holdU 2 with cmd := 3 }).unitAt 0).decided < (yr false).now ∧ ((unitS { holdU 2 with cmd := 3 }).unitAt 0).rewrote = false ∧
      ((unitS { holdU 2 with cmd := 3, rewrote := true }).unitAt 0).rewrote = true ∧ ((unitS { holdU 2 with cmd := 5, rewrote := true }).unitAt 0).cmd = 5 ∧
      (yr false).now ≤ ((unitS { holdU 2 with cmd := 3, decided := 5 }).unitAt 0).decided) ∧
    (((unitS { holdU 2 with inWindow := true }).unitAt 0).inWindow = true ∧ ((unitS { holdU 2 with inWindow := true }).unitAt 0).cmd = 0 ∧ (2 : Nat) ∈ [1, 2] ∧
      (yr true).parity = true ∧ (unitS { holdU 1 with inWindow := true }).unitAt 0 ≠ holdU 2) ∧
    (((unitS { holdU 2 with inWindow := true }).unitAt 0).alleyPeer 0 = none ∧
      ((unitS { holdU 2 with inWindow := true }).intervene 0 (yr false).now (yr false).errs).2.unitDoomed 0 = false ∧
      (((unitS { holdU 2 with inWindow := true }).intervene 0 (yr false).now (yr false).errs).2.unitAt 0).state = 2) ∧
    ((unitS { holdU 2 with inWindow := true, pc := 384 }).goesOn 0 0 = true) ∧
    (((unitS (holdU 4)).unitAt 0).jobs = bj :: [] ∧ bj.init = false ∧ ((unitS (holdU 4)).sub 0).inits = [] ∧ ((unitS { holdU 5 with fault := 1 }).unitAt 0).fault ≠ 3 ∧
      ((unitS { holdU 5 with fault := 1 }).unitAt 0).fault ≠ 4 ∧ leAt bj.desc 40 4 + min (leAt bj.desc 44 4) 8192 ≤ leAt bj.desc 52 4 ∧ (3 : Nat) < 4) ∧
    ((unitS { holdU 4 with jobs := [initB] }).unitAt 0).jobs = initB :: [] ∧ initB.init = true ∧
    ((((unitS { holdU 4 with jobs := [initB] }).setSub 0 { subInit 0 with state := 1, inits := [initOf [0]] }).sub (0 / 2)).inits = [initOf [0]] ∧
      (initOf [0]).units = [(0 : UnitId).val]) := by decide +kernel

/-- An ALLEY_RECV of unit 0 whose peer is unit 1, at ARCV with no chunk. -/
def alleyJ (p : Byte) : BankJob := { bj with desc := List.replicate 24 0 ++ [0x78, 1, 2] ++ List.replicate 113 0 ++ [p, 0, 0, 0] ++ List.replicate 112 0 }
def arcvU : BUnit := { holdU 1 with jobs := [alleyJ 1], pc := 384, store := [(384, BitVec.ofNat 64 (0x13 * 2 ^ 58))] }

theorem wit_BankUnitCommands_alley : arcvU.holds = true ∧ (holdU 2).holds = true ∧ (0 : UnitId) ≠ 1 ∧ arcvU.alleyPeer 0 = some (0 / 128 * 128 + alleyUnit 1) ∧
    alleyUnit 1 ≠ 0 ∧ arcvU.awaits = true ∧ (holdU 1).alleyPeer 0 ≠ some 1 ∧ ({ arcvU with alleyIn := [⟨[], true⟩] } : BUnit).awaits = false := by decide +kernel

def mi (bk : BitVec 2) (xa xb : BitVec 4) (mode : BitVec 5) (imm : W32) : Micro := ⟨false, bk, xa, xb, 0, mode, 0, imm⟩
/-- The unit with the word of a micro-instruction at its pc, in its UPROG area. -/
def atMicro (x : BUnit) (op : Nat) (m : Micro) : BUnit := { x with pc := 384, store := [(384, BitVec.ofNat 64 (microBits op m))] }

/-- Every micro-instruction, with whatever fields, has a word, which can stand at a unit's pc. -/
theorem wit_microWord (x : BUnit) (op : Nat) (h : op < 64) (m : Micro) : ((atMicro x op m).word (atMicro x op m).pc).toNat = microBits op m := by
  have hb : b2n m.y < 2 := by cases m.y <;> decide
  have := m.bk.isLt; have := m.xa.isLt; have := m.xb.isLt; have := m.kc.isLt; have := m.mode.isLt; have := m.rep.isLt; have := m.imm.isLt
  have hw : (atMicro x op m).word (atMicro x op m).pc = BitVec.ofNat 64 (microBits op m) := by simp [atMicro, BUnit.word, tget]
  rw [hw, BitVec.toNat_ofNat, Nat.mod_eq_of_lt]
  unfold microBits
  omega

def openU : BUnit := { holdU 1 with openRows := [(0, some 0), (2, some 0)] }
def lateU : BUnit := { openU with times := [(0, ⟨some 100000, none, none, none⟩), (2, ⟨some 100000, none, none, none⟩)] }
def entryU (e p : List Byte) : BUnit := { holdU 1 with desc := mwrite zeroByte (mwrite zeroByte (holdU 1).desc 16 e) 128 p }

theorem wit_MicroInstructions :
    (microUnit (.mNop 0 (mi 0 0 0 0 0)) = some 0 ∧ ((unitS (holdU 2)).unitAt 0).state ≠ 1 ∧ ((unitS (holdU 1)).unitAt 0).state = 1) ∧
    (((holdU 1).word (holdU 1).pc).toNat ≠ microBits 0x0B (mi 0 0 0 0 0)) ∧
    ((mi 0 0 0 1 0).mode = 1 ∧ (mi 0 1 2 0 0).xa ≠ (mi 0 1 2 0 0).xb ∧ (mi 0 15 15 0 0).xa = (mi 0 15 15 0 0).xb) ∧
    ((Run.mk (unitS (holdU 1)).dr 0 (atMicro (entryU [0x80, 1] []) 1 (mi 0 0 0 0 0)) []).finish.x.fault = 0 ∧ (entryU [0x80, 1] []).entry ∉ [0x000, 0x040, 0x060, 0x0A0, 0x100] ∧
      (entryU [0x80, 1] []).fault = 0) ∧
    ((entryU [0x40, 0] [0, 0, 0, 0, 1, 0, 0, 0, 1, 0, 0, 0]).entry = 0x040 ∧ (entryU [0x40, 0] [0, 0, 0, 0, 1, 0, 0, 0, 1, 0, 0, 0]).wrote = false ∧
      (entryU [0x40, 0] [0, 0, 0, 0, 1, 0, 0, 0, 1, 0, 0, 0]).prog = 0 ∧ (entryU [0x40, 0] [0, 0, 0, 0, 1, 0, 0, 0, 1, 0, 0, 0]).param 1 = 1 ∧
      (entryU [0x40, 0] [0, 0, 0, 0, 1, 0, 0, 0, 1, 0, 0, 0]).param 2 = 1 ∧ (entryU [0x40, 0] [0, 0, 0, 0, 1, 0, 0, 0, 1, 0, 0, 0]).inWrite 0 = true ∧
      (entryU [0x40, 0] [9, 0, 0, 0, 1, 0, 0, 0, 1, 0, 0, 0]).inWrite 9 = false) ∧
    ((holdU 1).inRead 0 = true ∧ (holdU 1).inWrite 0 = true ∧ (holdU 1).inRead 1 = false ∧ (holdU 1).inWrite 1 = false) ∧
    (actReady (holdU 1) 0 0 = true ∧ gridUp ((unitS (holdU 1)).sub (0 / 2)).grid 0 0 = 0 ∧ actReady lateU 0 100001 = false ∧ gridUp ((unitS (holdU 1)).sub (0 / 2)).grid 0 1 ≠ 1 ∧
      (1 : BitVec 2).toNat < 2) ∧
    (preReady openU 0 200000 = true ∧ preReady lateU 0 100001 = false) ∧
    (tget rowD openU.openRows 0 = some 0 ∧ tget rowD (holdU 1).openRows 0 = none ∧ rdReady openU 0 0 = true ∧ rdReady lateU 0 100001 = false ∧ wrReady openU 0 0 = true ∧
      wrReady lateU 0 100001 = false ∧ tget rowD ({ openU with openRows := [(0, some 1)] } : BUnit).openRows 0 = some 1) ∧
    ((holdU 1).alleyIn.length ≤ (mi 0 0 0 0 0).rep.toNat ∧ ({ holdU 1 with alleyIn := [⟨[], true⟩] } : BUnit).alleyIn = ⟨[], true⟩ :: []) ∧
    ((0 / 128 * 128 + alleyUnit (({ holdU 1 with desc := mwrite zeroByte (holdU 1).desc 140 [5] } : BUnit).param 3 % 128)) / 32 = 0 / 32 ∧
      0 / 128 * 128 + alleyUnit (({ holdU 1 with desc := mwrite zeroByte (holdU 1).desc 140 [5] } : BUnit).param 3 % 128) ≠ 0 ∧
      (0 / 128 * 128 + alleyUnit (({ holdU 1 with desc := mwrite zeroByte (holdU 1).desc 140 [127] } : BUnit).param 3 % 128)) / 32 ≠ 0 / 32) := by decide +kernel

/-- A descriptor: op, trigger, its index, flags, source and destination kinds; addresses; length; frame length; next; status. -/
def dmD (op tr ti fl sk dk : Byte) (src dst len flen next : Nat) : List Byte :=
  [op, tr, ti, fl, 0, 3, sk, dk] ++ toBytes 8 src ++ toBytes 8 dst ++ toBytes 4 len ++ toBytes 4 7 ++ toBytes 4 9 ++ toBytes 4 1 ++ [0, 0, 1, 0] ++
    toBytes 4 0 ++ toBytes 4 0 ++ toBytes 4 flen ++ toBytes 4 next ++ toBytes 4 0x1000
def chn (st : Nat) (d : List Byte) : Chan := { chanInit with state := st, desc := d, service := true }
def copyD : List Byte := dmD 0 0 0 1 1 1 0 weldBase 64 0 0xFFFFFFFF
def dmS (x : Chan) : State := { thS th0 with dm := { Dma.reset with chan := [(31, x)] } }
def goes (x : Chan) : Chan := { x with started := true }
/-- The one burst of `copyD` in flight. -/
def b0 : Burst := ⟨0, [(0, 64)], [(weldBase, 64)], none⟩
def burstC : Chan := { goes (chn 2 copyD) with granted := 1, flight := [b0] }
def be0 : BurstErr := ⟨0, []⟩
def timerS (time : W64) : State := { dmS (chn 1 (dmD 0 1 15 0 1 1 0 0 64 0 0)) with
  time := time, tile := [(0, { tileInit with timers := [(15, ⟨1000, 1000, 0⟩)] })] }
def timer15 (s : State) : Timer := tget (fun _ => (⟨0, 0, 0⟩ : Timer)) (s.tileAt 0).timers 15
/-- A copy between the host ports; a frame of one page of Weld, written to the host. -/
def outD : List Byte := dmD 0 0 0 0 2 3 0 0 64 0 0
def encD : List Byte := dmD 1 0 0 0 1 2 weldBase 0 4096 0 0
def encC : Chan := { goes (chn 2 encD) with granted := 8 }

theorem wit_DmaChannels_start :
    ((dmS (chn 2 copyD)).chanAt 31 = chn 2 copyD ∧ (chn 2 copyD).started = false ∧ (chn 2 copyD).ended = none ∧ (dmS (chn 2 copyD)).dmCheck 31 (chn 2 copyD) = none ∧
      fromLot copyD = false ∧ (dmS (chn 2 copyD)).dmCheck 31 { chn 2 copyD with service := false } = some 2 ∧ dmFormatOk (4 :: copyD.tail) = false ∧
      dmFormatOk copyD = true ∧ (dmOp copyD = 0 ∧ dmSrcKind copyD ≠ 0)) ∧
    ((dmS { chn 2 (dmD 3 0 0 0 0 0 0 0 0 0 0) with service := true }).recordOk 31 { chn 2 copyD with service := false, domain := 5 } = false) ∧
    (burstC.doing 0 = true ∧ burstC.flight[be0.pos.val]? = some b0 ∧ dmSrcKind copyD < 2 ∧ dmDstKind copyD < 2 ∧ toLot copyD = false ∧ isCtrl 0 = false ∧
      isCtrl weldBase = false ∧ (dmS burstC).dmReady copyD b0.src b0.dst = true) ∧
    ((chn 2 copyD).doing 0 = false ∧ (goes (chn 2 copyD)).flight[0]? = none) ∧
    ((dmS { burstC with desc := outD }).linkBad { burstC with desc := outD } true = true ∧ { burstC with desc := outD }.doing 0 = true) ∧
    ((chn 2 copyD).moved = false ∧ (goes (chn 2 (3 :: copyD.tail))).doing 3 = true) := by decide +kernel

/-- A copy between host ranges that may go over to the other port. -/
def outD4 : List Byte := dmD 0 0 0 4 2 3 0 0 64 0 0
def bothPorts : State := { portS upPort with ho := { (portS upPort).ho with portB := upPort } }

theorem wit_DmaChannels_ports : (chn 2 outD4).other = false ∧ bitAt (dmFlags outD4) 2 = true ∧ dmOutside outD4 = true ∧ bothPorts.portsUp outD4 true = true ∧
    bothPorts.poolsOk outD4 true (dmDstLen outD4) = true ∧ (portS upPort).portsUp outD4 true = false ∧ bitAt (dmFlags outD) 2 = false := by decide +kernel

def encS : State := { portS upPort with dm := (dmS encC).dm, ti := { Tiers.reset with pools := [⟨1, 0, 0, 2 ^ 30, 1, []⟩] } }

theorem wit_DmaChannels_encode : encC.doing 1 = true ∧ encC.moved = true ∧ dmSrcKind encC.desc < 2 ∧ 2 ≤ dmDstKind encC.desc ∧ fromLot encC.desc = false ∧ isCtrl weldBase = false ∧
    encS.chanAt 31 = encC ∧
    okOf (encS.dmRange encC (dmSrcKind encC.desc) false (dmSrc encC.desc) (dmLen encC.desc)) = some [(weldBase, 4096)] ∧ encS.linkBad encC true = false ∧
    encS.dmReady encC.desc [(weldBase, 4096)] [] = true ∧ anyPoison (encS.readChunks .dma [(weldBase, 4096)] []).1 = false ∧
    (encS.readChunks .dma [(weldBase, 4096)] []).2.poolsOk encC.desc encC.other 64 = true ∧
    (cipherText (BitVec.ofNat 16 (dmTenant encC.desc)) (encS.ten (dmTenant encC.desc)).epoch (n32 (dmObject encC.desc)) (n32 (dmUnit encC.desc))
      (buildFrame (fCompress (encS.objAt (dmObject encC.desc)).flags) (dmUkind encC.desc) (dmObject encC.desc) (dmUnit encC.desc)
        (bytesOf (encS.readChunks .dma [(weldBase, 4096)] []).1))).length = 64 := by
  have h : (buildFrame (fCompress (encS.objAt (dmObject encC.desc)).flags) (dmUkind encC.desc) (dmObject encC.desc) (dmUnit encC.desc)
      (bytesOf (encS.readChunks .dma [(weldBase, 4096)] []).1)).length = 64 := by decide +kernel
  refine ⟨by decide +kernel, by decide +kernel, by decide +kernel, by decide +kernel, by decide +kernel, by decide +kernel, by decide +kernel, by decide +kernel, by decide +kernel,
    by decide +kernel, by decide +kernel, by decide +kernel, ?_⟩
  rw [cipherText_length _ _ _ _ _ (by rw [h]), h]

theorem wit_DmaChannels_poisoned : anyPoison (({ encS with tile := [(0, { tileInit with weldMark := [0] })] } : State).readChunks .dma [(weldBase, 4096)] []).1 = true := by
  decide +kernel

theorem wit_DmaChannels_triggers :
    ((timer15 (timerS 2000)).fires 2000 = true ∧ (timer15 (timerS 2001)).fires 2001 = false ∧ ((timerS 2000).chanAt 31).state = 1 ∧
      dmTrigger ((timerS 2000).chanAt 31).desc = 1 ∧ dmTindex ((timerS 2000).chanAt 31).desc = 15) ∧
    ((dmS (chn 1 (dmD 0 2 30 0 1 1 0 0 64 0 0))).chanRests (31 / 32 * 32 + 30) = true ∧ (dmS (chn 1 (dmD 0 2 31 0 1 1 0 0 64 0 0))).chanRests (31 / 32 * 32 + 31) = false ∧
      dmTrigger (dmD 0 2 31 0 1 1 0 0 64 0 0) = 2) ∧
    ((({ dmS (chn 1 (dmD 0 3 0 0 1 1 0 0 64 0 0)) with sy := { Sync.reset with wakes := [⟨.chan 31, .chan 31 0, 9, 1⟩] } } : State).sy.wakes.find? fun m => m.target = .chan 31) =
      some ⟨.chan 31, .chan 31 0, 9, 1⟩ ∧ 3 ≤ dmTrigger (dmD 0 3 0 0 1 1 0 0 64 0 0) ∧ (chn 1 (dmD 0 3 0 0 1 1 0 0 64 0 0)).life = 0) := by decide +kernel

theorem wit_DmaChannels_end :
    ((dmS { chn 2 copyD with ended := some 0 }).chanReqs 31 = [] ∧ (dmS { chn 2 copyD with ended := some 0 }).stageOf 31 = none ∧ dmOp copyD ≠ 2 ∧
      dmStatus copyD + 16 ≤ (runS.tileAt 0).weldSize ∧ (dmS (chn 2 copyD)).recordOk 31 (chn 2 copyD) = true ∧ bitAt (dmFlags copyD) 0 = true ∧
      dmNext copyD = 0xFFFFFFFF ∧ (dmS (chn 2 copyD)).descBad 31 64 (chn 2 copyD) = none ∧ (dmS (chn 2 copyD)).descBad 31 65 (chn 2 copyD) = some 7) ∧
    (((dmS (chn 1 (dmD 0 3 0 0 1 1 0 0 64 0 0))).chanAt 31).state = 1 ∧ (triggerWatch 31 0 (dmD 0 3 0 0 1 1 0 0 64 0 0)).isSome = true) ∧
    ((dmS (goes (chn 2 copyD))).readyAt 0 [31] 0 = [31] ∧ (dmS (goes (chn 2 copyD))).canBurst 0 31 = true ∧ tget natD (dmS (goes (chn 2 copyD))).dm.starve (4 * 0 + 3) < 64 ∧
      (dmS (chn 2 copyD)).canBurst 0 31 = false) ∧
    (errOf ((dmS (goes (chn 2 copyD))).dmRange (chn 2 copyD) 1 false (2 ^ 40) 64) = some 1) := by decide +kernel

/-- The cipher text, at the start of tile 0's Weld, of the shortest frame: no pages. -/
def frame0 : List Byte := [1, 0, 0, 0, 0, 0, 0, 0, 64] ++ List.replicate 55 0
def text0 : List Byte := cipherText 0 0 (n32 0) (n32 0) frame0
def decD : List Byte := dmD 2 0 0 0 1 1 weldBase weldBase 0 64 0xFFFFFFFF
def decC : Chan := { goes (chn 2 decD) with granted := 1 }
def decSt (text : List Byte) : State := { dmS decC with tile := [(0, { tileInit with weld := mwrite zeroByte [] 0 text })] }
def decS : State := decSt text0

theorem decSt_bytes (t : List Byte) : bytesOf ((decSt t).readChunks .dma [(weldBase, 64)] []).1 =
    mread zeroByte (mwrite zeroByte [] 0 t) 0 32 ++ mread zeroByte (mwrite zeroByte [] 0 t) 32 32 := by rfl

theorem mread_halves (t : List Byte) (h : t.length = 64) :
    mread zeroByte (mwrite zeroByte [] 0 t) 0 32 ++ mread zeroByte (mwrite zeroByte [] 0 t) 32 32 = t := by
  have g : ∀ a n, a + n ≤ 64 → mread zeroByte (mwrite zeroByte [] 0 t) a n = (t.drop a).take n := by
    intro a n hn
    apply List.ext_getElem
    · simp [mread]; omega
    · intro i h1 h2
      have hi : i < n := by simpa [mread] using h1
      have hx := tget_mwrite_in zeroByte [] 0 t (a + i) (by omega)
      simp only [Nat.zero_add] at hx
      simp [mread, hx]
  rw [g 0 32 (by omega), g 32 32 (by omega)]
  simp [List.take_of_length_le (show (t.drop 32).length ≤ 32 by simp [h])]

theorem wit_DmaChannels_decode : (decC.doing 2 = true ∧ decC.moved = true ∧ dmSrcKind decD < 2 ∧ dmDstKind decD < 2 ∧ fromLot decD = false ∧ isCtrl weldBase = false ∧
    okOf (decS.dmRange decC (dmSrcKind decD) false (dmSrc decD) (dmFlen decD)) = some [(weldBase, 64)] ∧
    okOf (decS.dmRange decC (dmDstKind decD) true (dmDst decD) (dmLen decD)) = some [(weldBase, 0)] ∧ decS.dmReady decD [(weldBase, 64)] [(weldBase, 0)] = true) ∧
    anyPoison (decS.readChunks .dma [(weldBase, 64)] []).1 = false ∧
    (decS.readChunks .dma [(weldBase, 64)] []).2.decipher decD (bytesOf (decS.readChunks .dma [(weldBase, 64)] []).1) = some [] := by
  have hl : frame0.length % 16 = 0 := by decide
  have h64 : text0.length = 64 := by rw [text0, cipherText_length _ _ _ _ _ hl]; rfl
  have he : (((decSt text0).readChunks .dma [(weldBase, 64)] []).2.ten 0).epoch = 0 := by rfl
  have hd : dmTenant decD = 0 ∧ dmObject decD = 0 ∧ dmUnit decD = 0 := by decide +kernel
  have hp : anyPoison (decS.readChunks .dma [(weldBase, 64)] []).1 = false := by decide +kernel
  refine ⟨by decide +kernel, hp, ?_⟩
  rw [decS, decSt_bytes, mread_halves _ h64]
  simp only [State.decipher, hd.1, hd.2.1, hd.2.2]
  rw [he]
  rw [show plainText (BitVec.ofNat 16 0) 0 (n32 0) (n32 0) text0 = frame0 from plainText_cipherText 0 0 (n32 0) (n32 0) frame0 hl]
  decide +kernel

/-- A frame read with poison fails its check, whatever the key. -/
theorem wit_DmaChannels_check : anyPoison (({ dmS decC with dr := { openDr with mark := [0] } } : State).readChunks .dma [(0, 64)] []).1 = true ∧ decC.reread = false ∧
    ({ decC with reread := true } : Chan).reread = true := by decide +kernel

/-! #### Errors and the Causeway -/

def rep (code : W16) (d : Domain) : ErrRep := ⟨code, d, 0, 0, 0, 0, [], []⟩
def handS (d : Domain) (esc : Bool) (x : SubCh) : State := { subS x with fl := { Faults.reset with handlers := [⟨d, esc, 5, 0⟩] } }
def tiles2 : State := { runS with tile := [(0, { tileInit with state := 2 }), (6, { tileInit with state := 2 })] }
/-- A mirrored object of one 64-KiB unit, damaged in one copy. -/
def mirObj : Obj := { obj1 with flags := 0x60001, state := 2, pages := [0], mirror := [262144], units := [(0, { unitRecInit with st := 1, quarantined := true })] }
def rebS (w : Bool) : State := { objS 0 { mirObj with flags := mirObj.flags ||| 0x80000 } with fl := { Faults.reset with rebuilds := [⟨1, 0, false, w⟩] } }

theorem wit_ErrorHandling :
    (({ runS with md := { runS.md with state := 2 } } : State).md.state = 2 ∧ runS.md.state ≠ 2 ∧ handled (0x0305 : W16).toNat = false ∧
      (runS.fl.detected.find? fun d => d.code = (rep 0x0305 domModule).code && d.dom = domModule && d.a0 = 0) = none) ∧
    ((rep 0x0306 domModule).code = 0x0306) ∧ ((rep 0x0103 ⟨.sub, 0⟩).dom = ⟨.sub, 0⟩ ∧ (subS openSub).handlerOf ⟨.sub, 0⟩ = none) ∧
    ((subS openSub).fl.detected.find? (fun d => d.code = (rep 0x0103 ⟨.sub, 0⟩).code && d.dom = ⟨.sub, 0⟩ && d.a0 = 0) = none) ∧
    ((grp 0).replay = false ∧ ((stepS { planned with group := some { grp 0 with replay := true } }).modelAt 4095).group = some { grp 0 with replay := true } ∧
      (stepS planned).md.running = true) ∧
    ((∀ h ∈ runS.fl.handlers, h.dom ≠ domModule) ∧ ((handS ⟨.sub, 0⟩ false openSub).fl.handlers.find? fun h => h.dom = ⟨.sub, 0⟩) = some ⟨⟨.sub, 0⟩, false, 5, 0⟩ ∧
      ((handS ⟨.sub, 0⟩ false openSub).sub 0).state = 1 ∧ ((handS ⟨.sub, 0⟩ true openSub).fl.handlers.find? fun h => h.dom = ⟨.sub, 0⟩) = some ⟨⟨.sub, 0⟩, true, 5, 0⟩ ∧
      (0 : W64).toNat + 110000 ≤ (110000 : W64).toNat ∧ (109999 : W64).toNat < (0 : W64).toNat + 110000) ∧
    (runS.time.toNat < runS.md.probeAt.toNat + 20000 ∧ runS.md.probeAt.toNat + 20000 ≤ (at_ tiles2 20000).time.toNat ∧ tiles2.md.running = true ∧ upS.md.running = false ∧ tiles2.tileUp 6 = true ∧ (tiles2.tileAt 6).missed = 0) ∧ ((tiles2.tileAt 6).state ≠ 1 ∧ (tiles2.tileAt 7).state = 1 ∧ tiles2.md.state = 1) ∧
    (((subS { subInit 0 with standbyPort := true }).sub 0).state = 0 ∧ ((subS { subInit 0 with standbyPort := true }).sub 0).standbyPort = true ∧
      ((subS openSub).sub 0).standbyPort = false) ∧
    (runS.md.takeover = false ∧ ({ runS with md := { runS.md with takeover := true } } : State).md.takeover = true) ∧
    (tiles2.tileUp tiles2.md.standby = true ∧ tiles2.md.standby ≠ tiles2.md.primary) ∧ (∀ r ∈ runS.fl.rebuilds, (r.obj, r.unit) ≠ (1, 0)) ∧
    (((rebS true).fl.rebuilds.find? fun r => (r.obj, r.unit) = (1, 0)) = some ⟨1, 0, false, true⟩ ∧ ((rebS true).objAt 1).live = true ∧
      (((rebS true).objAt 1).unit 0).quarantined = true ∧ fBank ((rebS true).objAt 1).flags = true ∧
      ((rebS false).fl.rebuilds.find? fun r => (r.obj, r.unit) = (1, 0)) = some ⟨1, 0, false, false⟩) ∧
    (rebS true).newPages (fBank ((rebS true).objAt 1).flags) ((((rebS true).objAt 1).unitPages 0).map fun i => (((rebS true).objAt 1).copyPages false).getD i 0) = none := by
  decide +kernel

/-- An aborted group whose layer counters are at rest, for 40 ns or not yet. -/
def abG : Group := { grp 0 with replay := true, calm := some 0 }
def abM : ModelD := { planned with group := some abG }
def restS (s : State) : State := (s.setStrict (s.groupCounters 4095) false).cancelOn (s.groupCounters 4095)

theorem wit_ErrorHandling_replay : ((stepS abM).modelAt 4095).group = some abG ∧ abG.replay = true ∧ (stepS abM).md.running = true ∧
    (restS (stepS abM)).signalsDue ((stepS abM).groupCounters 4095) = false ∧ (restS (stepS abM)).workLeft 4095 = false ∧
    (stepS abM).time.toNat < (abG.calm.getD (stepS abM).time).toNat + 40 ∧
    (abG.calm.getD (at_ (stepS abM) 40).time).toNat + 40 ≤ (at_ (stepS abM) 40).time.toNat ∧
    ({ stepS abM with th := ⟨[(0, { th0 with group := some 4095 })], [], [], []⟩ } : State).workLeft 4095 = true ∧ ({ abM with sched := [] } : ModelD).stageTiles = [] ∧
    4 ≤ ({ grp 0 with attempts := 4 } : Group).attempts ∧ (grp 0).attempts < 4 := by
  refine ⟨by decide +kernel, by decide, by decide +kernel, by rfl, by decide +kernel, by decide +kernel, by decide +kernel, by decide +kernel, by decide +kernel, by decide, by decide⟩

/-- A mirrored object with a page of its own for a new copy. -/
def newS : State := { objS 0 { mirObj with flags := 0x60001 } with fl := { Faults.reset with rebuilds := [⟨1, 0, false, true⟩] } }

theorem wit_ErrorHandling_pages : (newS.fl.rebuilds.find? fun r => (r.obj, r.unit) = (1, 0)) = some ⟨1, 0, false, true⟩ ∧
    (newS.newPages (fBank (newS.objAt 1).flags) (((newS.objAt 1).unitPages 0).map fun i => ((newS.objAt 1).copyPages false).getD i 0)).isSome = true := by
  decide +kernel

def cwp (x : CwPort) : State := { runS with cw := { Causeway.reset with port := [(7, x)] } }
def upCw : CwPort := { cwPortInit with enable := true, state := 2, lend := 1 }
def dataFlit (seq : W32) : List Byte := mkFlit 1 0 0 seq 0 [1]

theorem wit_CausewayLink :
    (((cwp cwPortInit).cwAt 7).state ≠ 2 ∧ ((cwp upCw).cwAt 7).state = 2 ∧ flitOk (dataFlit 0) = true ∧ flitOk (dataFlit 0).tail = false ∧ flitOk [0] = false ∧
      leAt [0] 0 1 ≠ 1 ∧ flitOk [1] = false ∧ leAt [1] 0 1 = 1 ∧ upCw.nakSeq ≠ some upCw.rxNext ∧ ({ upCw with nakSeq := some 0 } : CwPort).nakSeq = some upCw.rxNext ∧ (999 : W64).toNat < upCw.nakAt.toNat + 1000 ∧ upCw.nakAt.toNat + 1000 ≤ (1000 : W64).toNat ∧ leAt (dataFlit 0) 0 1 = 1 ∧ leAt (dataFlit 0) 1 1 % 4 < 3 ∧
      n32 (leAt (dataFlit 0) 4 4) = upCw.rxNext ∧ n32 (leAt (dataFlit 5) 4 4) ≠ upCw.rxNext) ∧
    (({ upCw with replay := [⟨5, 0, [], 0⟩, ⟨6, 0, [], 0⟩] } : CwPort).replay = ⟨5, 0, [], 0⟩ :: [⟨6, 0, [], 0⟩] ∧ (999 : W64).toNat < (⟨5, 0, [], 0⟩ : RFlit).since + 1000 ∧
      (⟨5, 0, [], 0⟩ : RFlit).since + 1000 ≤ (1000 : W64).toNat ∧ serialCmp (5 : W32) 4 = .before) ∧
    (({ upCw with nakDue := true } : CwPort).nakDue = true ∧ upCw.resend = 0 ∧ ({ upCw with out := [[], [List.replicate 24 0], []] } : CwPort).nextVc = some 1 ∧ upCw.nextVc = none) ∧
    ((2 : Nat) ≤ 2 ∧ 255 < 256 ∧ (List.replicate 112 (0 : Byte)).length ≤ 112) ∧ (upCw.failed < 8 ∧ 8 ≤ ({ upCw with failed := 8 } : CwPort).failed) ∧
    (({ upCw with state := 1 } : CwPort).state = 1 ∧ (8 : BitVec 4) ≠ 0 ∧ upCw.attempts < 2 ∧ 2 ≤ ({ upCw with attempts := 2 } : CwPort).attempts) ∧
    (({ upCw with state := 3 } : CwPort).state = 3 ∧ upCw.enable = true ∧ (cwp upCw).cwUsable 7 = true ∧ (0 : W64).toNat < upCw.downAt + 100000000 ∧ upCw.downAt + 100000000 ≤ (100000000 : W64).toNat) ∧
    (upCw.keepSent = none ∧ ({ upCw with keepSent := some 1 } : CwPort).keepSent = some 1 ∧ (0 : W64).toNat < 1 + 100000 ∧ 1 + 100000 ≤ (100001 : W64).toNat) ∧
    ((cwp upCw).time.toNat < upCw.keepAt.toNat + 500000 ∧ upCw.keepAt.toNat + 500000 ≤ ({ cwp upCw with time := 500000 } : State).time.toNat) := by decide +kernel

def msg (tag lot off len arg : W32) : CwMsg := ⟨0, 0, tag, lot, off, len, arg⟩
def lent1 : Lent := ⟨9, 7, List.range 4, true, 51⟩
def lendS : State := { cwp upCw with cw := { (cwp upCw).cw with lent := [lent1] } }
def rq (read : Bool) : CwReq := ⟨3, 31, read, 0, 512, [], 0, [], 0⟩
def chanS (read : Bool) : State := { cwp { upCw with reqs := [rq read] } with dm := { Dma.reset with chan := [(31, chn 2 copyD)] } }

theorem wit_CausewayMessages :
    (((cwp cwPortInit).cwAt 7).state ≠ 2 ∧ cwBroken 0x10 (msg 3 9 32 64 0) = some 12 ∧ cwBroken 0x10 { msg 3 9 0 64 0 with flags := 1 } = some 1) ∧
    (cwBroken 0x01 (msg 0 0 0 0 255) = none ∧ cwBroken 0x02 (msg 3 0 0 0 1) = none ∧ (lendS.cwAt 7).lend ≤ lendS.lentOn 7 ∧
      (cwp upCw).lentOn 7 < upCw.lend ∧ (cwp upCw).cw.reserve + 1 ≤ (cwp upCw).freeGiB) ∧
    (cwBroken 0x03 (msg 3 9 0 0 0) = none ∧ ({ upCw with lotReq := some 3 } : CwPort).lotReq = some (msg 3 9 0 0 0).tag ∧ ((cwp upCw).lotAt 0).state = 0 ∧
      upCw.lotReq ≠ some (msg 3 9 0 0 0).tag ∧ cwBroken 0x04 (msg 3 0 0 0 0) = none) ∧
    (cwBroken 0x05 (msg 0 7 0 0 50000) = none ∧ ({ cwp upCw with cw := { (cwp upCw).cw with slot := [(4095, ⟨1, 7, 7, 0, []⟩)] } } : State).slotOf 7 7 = some 4095 ∧
      (({ cwp upCw with cw := { (cwp upCw).cw with slot := [(4095, ⟨1, 7, 7, 0, []⟩)] } } : State).lotAt 4095).state = 1 ∧ cwBroken 0x07 (msg 0 7 0 0 0) = none) ∧
    (cwBroken 0x06 (msg 0 9 0 0 0) = none ∧ (lendS.cw.lent.find? fun l => l.lot = 9 && l.port = 7) = some lent1 ∧
      (lendS.cw.lent.find? fun l => l.lot = 9 && l.recalled) = some lent1 ∧ lendS.time < lent1.deadline ∧ lent1.deadline ≤ ({ lendS with time := 51 } : State).time) ∧
    (cwBroken 0x10 (msg 3 9 0x3FFFFFC0 64 0) = none ∧ (0x3FFFFFC0 : W32).toNat + (64 : W32).toNat ≤ 2 ^ 30 ∧ cwBroken 0x11 (msg 3 9 0 65600 0) = none ∧
      ({ lendS with dr := openDr } : State).xferReady (chunksOf lent1.pages 0 64) [] = true ∧ ({ lendS with dr := openDr } : State).xferReady [] (chunksOf lent1.pages 0 64) = true) ∧
    (cwBroken 0x12 (msg 3 9 0 16 0) = none ∧ (∀ l ∈ (cwp upCw).cw.lent, l.lot = 9 → l.port ≠ 7) ∧ 2 ^ 30 < (0x3FFFFFF0 : W32).toNat + (32 : W32).toNat ∧
      cwBroken 0x12 (msg 3 9 0x3FFFFFF0 32 0) = none) ∧
    (cwBroken 0x18 (msg 3 0 448 64 0) = none ∧ (rq true).tag = 3 ∧ (rq true).read = true ∧ (448 : W32).toNat + (64 : W32).toNat ≤ (rq true).len ∧
      ((chanS true).cwAt 7).reqs = [rq true]) ∧
    (cwBroken 0x19 (msg 3 0 0 0 0) = none ∧ cwBroken 0x1A (msg 3 0 0 0 3) = none ∧ (((chanS false).cwAt 7).reqs.find? fun r => r.tag = 3) = some (rq false) ∧
      (rq false).chan < 2048 ∧ (rq false).sent + 2000000 ≤ (2000000 : W64).toNat ∧ (1999999 : W64).toNat < (rq false).sent + 2000000 ∧ ((chanS false).chanAt 31).state = 2) ∧
    (cwBroken 0x20 (msg 0 0 0 0 3) = none ∧ upCw.known = false ∧ ({ upCw with known := true } : CwPort).known = true ∧ upCw.partnerEpoch ≠ (1 : W32)) ∧
    (upCw.turn (cwBytes 0x01 (msg 0 0 0 0 255) []) = true ∧ (0 : W64).toNat < upCw.lotReqAt + 2000000 ∧ upCw.lotReqAt + 2000000 ≤ (2000000 : W64).toNat ∧
      ({ upCw with inb := [cwBytes 0x01 (msg 0 0 0 0 254) [], cwBytes 0x01 (msg 0 0 0 0 255) []] } : CwPort).turn (cwBytes 0x01 (msg 0 0 0 0 255) []) = false) ∧
    ((2 : W64).getLsbD 0 = false ∧ (1 : W64).getLsbD 0 = true ∧ ((cwp cwPortInit).cwAt 7).state = 0) := by decide +kernel

theorem pageFree_reset (p : Nat) (h : p < 2 ^ 24) : (cwp upCw).pageFree (cwp upCw).ti.used false p = true := by
  simp only [State.pageFree, State.segBank, State.madderOk, State.sub, cwp, runS, upS, State.reset, Dram.reset, Faults.reset, Tiers.reset, tget,
    List.contains_nil]
  simp [subInit]
  omega

theorem freeIn_reset (q fuel i need : Nat) (acc : List Nat) (hq : q < 64) (hn : need ≤ fuel) (hi : i + fuel ≤ 262144) :
    ((cwp upCw).freeIn q fuel i need acc).2 = 0 := by
  induction fuel generalizing i need acc with
  | zero => simp [State.freeIn]; omega
  | succ n ih =>
    unfold State.freeIn
    have hp := pageFree_reset (q * quadPages + i) (by unfold quadPages; omega)
    split
    · rfl
    · exact ih _ _ _ (by omega) (by omega)

theorem foldl_freeIn_reset (n : Nat) (hn : n ≤ 262144) (l : List Nat) (acc : List Nat × Nat) (hq : ∀ q ∈ l, q < 64) (ha : acc.2 ≤ n)
    (h : acc.2 = 0 ∨ l ≠ []) : (l.foldl (fun acc q => (cwp upCw).freeIn q n 0 acc.2 acc.1) acc).2 = 0 := by
  induction l generalizing acc with
  | nil => simpa using h
  | cons q r ih =>
    have h0 := freeIn_reset q n 0 acc.2 acc.1 (hq q (by simp)) ha (by omega)
    exact ih _ (fun k hk => hq k (by simp [hk])) (by rw [h0]; omega) (.inl h0)

theorem lotPages_of (s : State) (p : Nat)
    (h : (((nearSquares (cwTile p / 4)).flatMap fun k => (List.range 4).map fun i => 4 * k + i).foldl
      (fun acc q => s.freeIn q quadPages 0 acc.2 acc.1) ([], 16384)).2 = 0) : ∃ ps, s.lotPages p = some ps := by
  unfold State.lotPages
  generalize List.foldl _ _ _ = r at h ⊢
  exact ⟨r.1, if_pos h⟩

/-- A module whose Madder is free has the pages for a lot. -/
theorem wit_CausewayMessages_pages : ∃ ps, (cwp upCw).lotPages 7 = some ps := by
  have hq : ∀ q ∈ (nearSquares (cwTile 7 / 4)).flatMap fun k => (List.range 4).map fun i => 4 * k + i, q < 64 := by decide +kernel
  have hl : ((nearSquares (cwTile 7 / 4)).flatMap fun k => (List.range 4).map fun i => 4 * k + i).isEmpty = false := by decide +kernel
  apply lotPages_of
  generalize ((nearSquares (cwTile 7 / 4)).flatMap fun k => (List.range 4).map fun i => 4 * k + i) = l at hq hl ⊢
  exact foldl_freeIn_reset quadPages (by unfold quadPages; omega) l ([], 16384) hq (by simp only [quadPages]; omega) (.inr (fun e => by simp [e] at hl))

/-! #### The queue and the cap -/

theorem wit_QueueKept : exec (.budgetQuery hdr) State.reset = .next State.reset := by rfl

theorem wit_PowerCapKept : CapLegal State.reset ∧ CapLegal { runS with pw := { runS.pw with cap := 1100 } } := by
  simp only [CapLegal]
  decide

/-- An object of two pages with a copy on page 70, and an extent that begins at page 100. -/
def damS : State := (({ runS with sv := { runS.sv with refs := [(100, 1)] }, pages := [(7, mkPage true false true false false true false 0 0 9)] } : State).setObj 3
  { objD 3 with live := true, unitBytes := 20480, pages := [5, 6], mirror := [70, 71] })

theorem test_damage_by_owner : damS.damageAt (65536 * 5 + 40000) = .unit 3 1 false ∧ damS.damageAt (65536 * 71) = .unit 3 3 true ∧
    damS.damageAt (65536 * 101 + 4096 * 2 + 2048 + 256) = .history 100 274 ∧ damS.damageAt (65536 * 101 + 4096 * 15 + 8) = .history 100 242 ∧
    damS.damageAt (65536 * 101 + 4096 * 15 + 960) = .none ∧ damS.damageAt 0 = .none ∧
    damS.damageOf ⟨0x0204, ⟨.tile, 0⟩, 7, 0, 0, 7 * 65536, [], []⟩ = .stepData ∧ damS.damageOf ⟨0x0204, ⟨.tile, 0⟩, 7, 0, 0, 8 * 65536, [], []⟩ = .none ∧
    damS.damageOf ⟨0x0101, ⟨.sub, 0⟩, 65536 * 6, 0, 0, 0, [], []⟩ = .unit 3 3 false := by decide +kernel

end Sys2Proof.Tests
end

section
/-! PROOFS. Register writes of 8 bytes (15 R402 to R412, R419): the value written reaches a field as it is, so each register's write is one field update.
A reserved offset keeps the state and reads 0 (R403). -/
namespace Sys2Proof.Machine

open Sys2Proof

/-! #### Words as numbers -/

theorem bitAt_eq_testBit (n i : Nat) : bitAt n i = n.testBit i := by
  rw [Nat.testBit_eq_decide_div_mod_eq]
  rfl

@[simp] theorem bitAt_toNat {w : Nat} (v : BitVec w) (i : Nat) : bitAt v.toNat i = v.getLsbD i := bitAt_eq_testBit v.toNat i

@[simp] theorem n64_toNat (v : W64) : n64 v.toNat = v := BitVec.ofNat_toNat 64 v

/-- A write of 8 bytes keeps nothing of the old value. -/
@[simp] theorem mergeWrite_eight (old off : Nat) (v : W64) : mergeWrite old 8 off v.toNat = v.toNat := by
  rw [mergeWrite, if_pos rfl]
  exact Nat.mod_eq_of_lt v.isLt

/-! #### The row REGISTER_WRITE with 8 bytes -/

theorem exec_registerWrite_host_eight (s : State) (p : HPort) {off : Nat} (v : W64) (ha : off % 8 = 0) (hl : off < 0x800000) :
    exec (.registerWrite (.host p) off 8 v) s = .next (s.writeReg off 8 v.toNat) :=
  if_pos ⟨⟨.inr rfl, ha⟩, hl⟩

theorem exec_registerWrite_core_eight (s : State) (i : TileId) {off : Nat} (v : W64) (ha : off % 8 = 0) :
    exec (.registerWrite (.core i) off 8 v) s = .next (s.writePhase i off 8 v.toNat) :=
  if_pos ⟨.inr rfl, ha⟩

/-! #### The registers of the module control block -/

/-- A tile window selector keeps bits [5:0] of the value (log 74). -/
theorem State.writeReg_tileWinA (s : State) (v : W64) :
    s.writeReg 0x40 8 v.toNat = { s with ho := { s.ho with portA := { s.ho.portA with tileWin := v.toNat % 64 } } } := by
  simp [State.writeReg, State.setPort, State.port]

theorem State.writeReg_tileWinB (s : State) (v : W64) :
    s.writeReg 0x48 8 v.toNat = { s with ho := { s.ho with portB := { s.ho.portB with tileWin := v.toNat % 64 } } } := by
  simp [State.writeReg, State.setPort, State.port]

theorem State.writeReg_bar2Ctrl (s : State) (v : W64) :
    s.writeReg 0x110 8 v.toNat = { s with ho := { s.ho with bar2Write := v.getLsbD 0 } } := by
  simp [State.writeReg]

/-- at_cap_seen and throttle_seen are RW1C (R16). -/
theorem State.writeReg_pwrStatus (s : State) (v : W64) : s.writeReg 0x208 8 v.toNat = { s with pw := { s.pw with
    atCapSeen := s.pw.atCapSeen && !v.getLsbD 26, throttleSeen := s.pw.throttleSeen && !v.getLsbD 27 } } := by
  simp [State.writeReg]

theorem State.writeReg_thermStatus (s : State) (v : W64) :
    s.writeReg 0x210 8 v.toNat = { s with pw := { s.pw with thermalTrip := v.getLsbD 32 } } := by
  simp [State.writeReg]

/-- The last register of the block ends at 0x13_4800 (Table REGS-1): what lies from 0x14_0000 on is reserved. -/
theorem State.readReg_reserved (s : State) {off : Nat} (h : 0x140000 ≤ off) : s.readReg off = 0 := by
  unfold State.readReg
  iterate 12 rw [if_neg (by omega)]

theorem State.writeReg_reserved (s : State) {off : Nat} (v : W64) (h : 0x140000 ≤ off) : s.writeReg off 8 v.toNat = s := by
  rw [State.writeReg]
  iterate 9 rw [if_neg (by omega)]

/-! #### Mailboxes (R410) -/

/-- Register `o` of mailbox `n` lies at 0x1_0000 + 0x40 n + o. -/
theorem State.writeReg_mbox (s : State) {n o : Nat} (v : W64) (hn : n < 64) (ho : o < 64) (ha : o % 8 = 0) :
    s.writeReg (0x10000 + 64 * n + o) 8 v.toNat = s.setMbox n ((s.mbox n).write o v.toNat v.toNat) := by
  have hoff : (0x10000 + 64 * n + o) / 8 * 8 = 0x10000 + 64 * n + o := by omega
  have hidx : (0x10000 + 64 * n + o - 0x10000) / 64 = n := by omega
  have hreg : (0x10000 + 64 * n + o) % 64 = o := by omega
  simp only [State.writeReg, hoff, mergeWrite_eight, hidx, hreg]
  iterate 5 rw [if_neg (by omega)]
  exact if_pos (by omega)

theorem MBox.write_of_enabled (x : MBox) {o : Nat} (w c : Nat) (ho : o ≠ 0x28) (he : x.enabled = true) : x.write o w c = x := by
  unfold MBox.write
  rw [if_neg ho, if_pos he]

theorem MBox.write_sqBase_of_disabled (x : MBox) (w c : Nat) (he : x.enabled = false) :
    x.write 0 w c = { x with sqBase := n64 (w / 4096 * 4096) } := by
  simp [MBox.write, he]

/-! #### Timers (R419) -/

/-- A tile whose timer `n` holds `v` in TIMER_PHASE. -/
def Tile.withPhase (x : Tile) (n : Nat) (v : W64) : Tile :=
  { x with timers := tput timerD x.timers n { tget timerD x.timers n with phaseReg := v } }

/-- TIMER_PHASE of timer `n` lies at 0x208 + 0x10 n of the tile's block. -/
theorem State.writePhase_timer (s : State) (t : Nat) {n : Nat} (v : W64) (hn : n < 16) :
    s.writePhase t (0x208 + 16 * n) 8 v.toNat = s.setTile t ((s.tileAt t).withPhase n v) := by
  have hidx : (0x208 + 16 * n - 0x200) / 16 = n := by omega
  rw [State.writePhase, if_pos (by omega)]
  simp only [hidx, mergeWrite_eight, n64_toNat, Tile.withPhase]

/-- Settles O19: a write of 8 bytes is one update of the register it names, register by register. -/
theorem plainRegisterWrites : Obligations.PlainRegisterWrites := by
  refine ⟨fun s p v => ?tileWinA, fun s p v => ?tileWinB, fun s p v => ?bar2Ctrl, fun s p v => ?pwrStatus, fun s p v => ?thermStatus,
    fun s p n v hn he => ?sqBase, fun s p n o v hn he ho => ?enabled, fun s p off v ha hlo hhi => ?reserved, fun s i n v => ?timerPhase⟩
  case tileWinA => rw [exec_registerWrite_host_eight s p v rfl (by decide), State.writeReg_tileWinA]
  case tileWinB => rw [exec_registerWrite_host_eight s p v rfl (by decide), State.writeReg_tileWinB]
  case bar2Ctrl => rw [exec_registerWrite_host_eight s p v rfl (by decide), State.writeReg_bar2Ctrl]
  case pwrStatus => rw [exec_registerWrite_host_eight s p v rfl (by decide), State.writeReg_pwrStatus]
  case thermStatus => rw [exec_registerWrite_host_eight s p v rfl (by decide), State.writeReg_thermStatus]
  case sqBase =>
    rw [exec_registerWrite_host_eight s p v (by omega) (by omega), ← Nat.add_zero (0x10000 + 64 * n), s.writeReg_mbox v hn (by decide) rfl,
      MBox.write_sqBase_of_disabled _ _ _ he]
  case enabled =>
    have hreg : o < 0x28 ∧ o % 8 = 0 := by
      simp only [List.mem_cons, List.not_mem_nil, or_false] at ho
      omega
    obtain ⟨hlt, ha⟩ := hreg
    rw [exec_registerWrite_host_eight s p v (by omega) (by omega), s.writeReg_mbox v hn (by omega) ha,
      MBox.write_of_enabled _ _ _ (by omega) he]
  case reserved =>
    rw [exec_registerWrite_host_eight s p v ha hhi, s.writeReg_reserved v hlo]
    exact ⟨s.readReg_reserved hlo, rfl⟩
  case timerPhase =>
    refine ⟨s.setTile i ((s.tileAt i).withPhase n v), ?next, ?phase, ?period, ?frame⟩
    case next => rw [exec_registerWrite_core_eight s i v (by omega), s.writePhase_timer i v n.isLt]
    case phase => simp [Tile.withPhase]
    case period => simp [Tile.withPhase]
    case frame => simp [Tile.withPhase]

end Sys2Proof.Machine
end

section
/-! PROOFS. Issue of memory instructions (06 R169, R171, R172, R181, R184, R193, Table TILE-10): what the issue of any instruction comes to, the four outcomes
of the issue of one access, then each instruction as one access. -/
namespace Sys2Proof.Machine

open Sys2Proof

/-! #### Issue of an instruction (R169, R171) -/

theorem State.instrAt_eq_some {s : State} {t : ThrId} {c : Instr} (h : s.instrAt t = some c) :
    ∃ w, s.fetch t (s.thrAt t) = .ok w ∧ threadCode t w = some c := by
  unfold State.instrAt at h
  split at h
  · contradiction
  next w hw => exact ⟨w, hw, h⟩

theorem any_awaited_eq_false_of_issues {s : State} {c : Instr} {t : ThrId} {x : Thr} {regs : List Nat} (h : Issues s c t x regs) :
    (regs.any fun r => r ≠ 0 && x.awaited.contains r) = false := by
  obtain ⟨-, -, -, hregs⟩ := h
  rw [List.any_eq_false]
  intro r hr hwait
  rw [Bool.and_eq_true, decide_eq_true_eq, List.contains_iff_mem] at hwait
  obtain ⟨hr0, hmem⟩ := hwait
  exact (hregs r hr).elim hr0 (fun hnot => hnot hmem)

/-- A legal instruction at the pc of the thread whose turn it is, its registers delivered, acts. -/
theorem State.onIssue_of_issues {s : State} {c : Instr} {t : ThrId} {x : Thr} {regs : List Nat} {legal : Bool} (h : Issues s c t x regs)
    (hlegal : legal = true) (act : Thr → State) : s.onIssue c t regs legal act = (act x).issued t := by
  have hregs := any_awaited_eq_false_of_issues h
  obtain ⟨rfl, hturn, hinstr, -⟩ := h
  obtain ⟨w, hfetch, hcode⟩ := State.instrAt_eq_some hinstr
  simp only [State.onIssue, hturn, hfetch, hcode, hlegal, hregs]
  simp only [Bool.not_true, Bool.false_eq_true, ne_eq, not_true_eq_false, ↓reduceIte]

/-! #### Issue of one access: misaligned, refused by its page, not performed by its location, outstanding (R172, R181, R184; order of the tests: log 40) -/

section
variable {s : State} {t : Nat} {x : Thr} {k : Acs} {va : W64} {size : Nat} {kind : Bool → Bool} {order : Order} {op : AccOp}

theorem State.issueAcc_of_misaligned (ha : va.toNat % size ≠ 0) : s.issueAcc t x k va size kind order op = s.thrFault t fAlign va.toNat :=
  if_pos ha

theorem State.issueAcc_of_translate_error (ha : va.toNat % size = 0) {c : Nat} (hx : s.translate x (thrTile t) false k va.toNat = .error c) :
    s.issueAcc t x k va size kind order op = s.thrFault t c va.toNat := by
  simp only [State.issueAcc, ha, hx, ne_eq, not_true_eq_false, ↓reduceIte]

variable {pa : Nat} {e : W64}

theorem State.issueAcc_of_kind_false (ha : va.toNat % size = 0) (hx : s.translate x (thrTile t) false k va.toNat = .ok (pa, e))
    (hk : kind (peUncached e && !isWeld pa) = false) : s.issueAcc t x k va size kind order op = s.thrFault t fAtomicKind va.toNat := by
  simp only [State.issueAcc, ha, hx, hk, ne_eq, not_true_eq_false, Bool.not_false, ↓reduceIte]

theorem State.issueAcc_of_kind_true (ha : va.toNat % size = 0) (hx : s.translate x (thrTile t) false k va.toNat = .ok (pa, e))
    (hk : kind (peUncached e && !isWeld pa) = true) :
    s.issueAcc t x k va size kind order op = s.pushAcc t x ⟨x.pc, va, pa, size, peUncached e && !isWeld pa, order, op, none, []⟩ := by
  simp only [State.issueAcc, ha, hx, hk, ne_eq, not_true_eq_false, Bool.not_true, Bool.false_eq_true, ↓reduceIte]

end

/-! #### The limits of outstanding accesses and the way to the home tile (R22, R172) -/

/-- Whether one more access of the kind of `a` would exceed the limits of R172. -/
def Thr.atLimit (x : Thr) (a : Acc) : Prop :=
  (a.op.isStore = true ∧ 16 ≤ x.outs.countP fun b => b.op.isStore) ∨ (a.op.isStore = false ∧ 8 ≤ x.outs.countP fun b => !b.op.isStore)

theorem Thr.atLimit_iff (x : Thr) (a : Acc) : x.atLimit a ↔
    if a.op.isStore then 16 ≤ x.outs.countP (fun b => b.op.isStore) else 8 ≤ x.outs.countP fun b => !b.op.isStore := by
  cases h : a.op.isStore <;> simp [Thr.atLimit, h]

section
variable {s : State} {t : Nat} {x : Thr} {a : Acc}

theorem State.pushAcc_of_atLimit (h : x.atLimit a) : s.pushAcc t x a = s.block t (.limit a.op.isStore) :=
  if_pos (x.atLimit_iff a |>.mp h)

theorem State.pushAcc_of_home (h : ¬ x.atLimit a) (hh : s.accHome a.pa = thrTile t) :
    s.pushAcc t x a = s.setThr t { x with pc := x.pc + 4, outs := x.outs ++ [a] } := by
  rw [Thr.atLimit_iff] at h
  exact (if_neg h).trans (if_pos hh)

theorem State.pushAcc_of_away (h : ¬ x.atLimit a) (hh : s.accHome a.pa ≠ thrTile t) :
    s.pushAcc t x a =
      (s.sendMsg (thrTile t) (s.accHome a.pa) 1).setThr t { x with pc := x.pc + 4, outs := x.outs ++ [{ a with msg := some s.str.nextId }] } := by
  rw [Thr.atLimit_iff] at h
  exact (if_neg h).trans (if_neg hh)

end

/-! #### Each memory instruction is one access (R176, R193) -/

theorem szBytes_eq {sz : BitVec 3} (h : sz ≠ 7) : szBytes sz = if sz.toNat % 4 = 3 then 8 else 2 ^ (sz.toNat % 4) := by
  revert sz
  decide

theorem vNum_vOfT {r : BitVec 5} (h : r.toNat < 16) : vNum (vOfT r) = 32 + r.toNat := by
  rw [vNum, vOfT, BitVec.toNat_setWidth, Nat.mod_eq_of_lt h]

section
variable {s : State} {t : ThrId} {th : Thr}

section
variable {x : MemF}

theorem exec_ld_of_issues (h : Issues s (.ld t x) t th [r5 x.a, r5 x.t]) (hsz : x.sz ≠ 7) (ho : x.o.toNat < 2) :
    exec (.ld t x) s = .next ((s.issueAcc t th .read (memVa th x (szBytes x.sz)) (szBytes x.sz) anyKind ⟨x.o == 1, false⟩
      (.load (r5 x.t) (4 ≤ x.sz.toNat))).issued t) :=
  congrArg Host.Outcome.next (State.onIssue_of_issues h (by simpa [ho] using hsz) _)

theorem exec_st_of_issues (h : Issues s (.st t x) t th [r5 x.a, r5 x.t]) (hsz : x.sz ≠ 7) (ho : x.o = 0 ∨ x.o = 2) :
    exec (.st t x) s = .next ((s.issueAcc t th .write (memVa th x (szBytes x.sz)) (szBytes x.sz) anyKind ⟨false, x.o == 2⟩
      (.store (toBytes (szBytes x.sz) (th.rd x.t).toNat))).issued t) :=
  congrArg Host.Outcome.next (State.onIssue_of_issues h (by simpa using And.intro hsz ho) _)

theorem exec_vld_of_issues (h : Issues s (.vld t x) t th [r5 x.a, vNum (vOfT x.t)]) (hsz : x.sz = 0) (hv : x.t.toNat < 16) (ho : x.o.toNat < 2) :
    exec (.vld t x) s = .next ((s.issueAcc t th .read (memVa th x 64) 64 anyKind ⟨x.o == 1, false⟩
      (.load (32 + x.t.toNat) false)).issued t) := by
  rw [← vNum_vOfT hv]
  exact congrArg Host.Outcome.next (State.onIssue_of_issues h (by simp [hsz, hv, ho]) _)

theorem exec_vst_of_issues (h : Issues s (.vst t x) t th [r5 x.a, vNum (vOfT x.t)]) (hsz : x.sz = 0) (hv : x.t.toNat < 16) (ho : x.o = 0 ∨ x.o = 2) :
    exec (.vst t x) s = .next ((s.issueAcc t th .write (memVa th x 64) 64 anyKind ⟨false, x.o == 2⟩
      (.store (toBytes 64 (th.rv (vOfT x.t)).toNat))).issued t) :=
  congrArg Host.Outcome.next (State.onIssue_of_issues h (by simpa [hsz, hv] using ho) _)

end

section
variable {x : RegF}

theorem exec_atom_of_issues (h : Issues s (.atom t x) t th [r5 x.a, r5 x.d]) (hl : atomLegal x = true) :
    exec (.atom t x) s = .next ((s.issueAcc t th .write (th.rd x.a) (2 ^ (atSz x.f + 1)) (fun near => !near || atOp x.f ≤ 1) (atOrder x.f)
      (.atom (atOp x.f) (th.rd x.d) (if x.f.getLsbD 8 then none else some (r5 x.d)))).issued t) :=
  congrArg Host.Outcome.next (State.onIssue_of_issues h hl _)

theorem exec_cas_of_issues (h : Issues s (.cas t x) t th [r5 x.a, r5 x.b, r5 x.d]) (hop : atOp x.f = 0) (hsz : atSz x.f = 1 ∨ atSz x.f = 2)
    (hf : x.f.toNat < 256) :
    exec (.cas t x) s = .next ((s.issueAcc t th .write (th.rd x.a) (2 ^ (atSz x.f + 1)) (fun near => !near) (atOrder x.f)
      (.cas (th.rd x.b) (th.rd x.d) (some (r5 x.d)))).issued t) := by
  have hrest : bitsOf x.f.toNat 10 8 = 0 := by
    rw [bitsOf]
    omega
  exact congrArg Host.Outcome.next (State.onIssue_of_issues h (by simp [hop, hsz, hrest]) _)

end

end

/-- Settles O44: each instruction is the issue of one access, and each clause one outcome of that issue. -/
theorem memoryIssue : Obligations.MemoryIssue := by
  refine ⟨fun s t x a full hfull => ?push, fun s t th x va size pa e hsz hsize hva ha => ?scalar, fun s t th x hsz ha => ?misaligned,
    fun s t th x va pa e hsz hv hva ha => ?vector, fun s t th x size pa e h hl hsize ha hx => ?atom,
    fun s t th x size pa e h hop hsz hf hsize ha hx => ?cas⟩
  case push =>
    have hlim : full ↔ x.atLimit a := hfull
    rw [hlim]
    exact ⟨State.pushAcc_of_atLimit, State.pushAcc_of_home, State.pushAcc_of_away⟩
  case scalar =>
    obtain rfl : size = szBytes x.sz := hsize.trans (szBytes_eq hsz).symm
    obtain rfl : va = memVa th x (szBytes x.sz) := hva
    refine ⟨fun h ho hx => ?ld, fun h ho hx => ?st, fun c h ho hx => ?ldRefused, fun c h ho hx => ?stRefused⟩
    case ld => rw [exec_ld_of_issues h hsz ho, State.issueAcc_of_kind_true ha hx rfl]
    case st => rw [exec_st_of_issues h hsz ho, State.issueAcc_of_kind_true ha hx rfl]
    case ldRefused => rw [exec_ld_of_issues h hsz ho, State.issueAcc_of_translate_error ha hx]
    case stRefused => rw [exec_st_of_issues h hsz ho, State.issueAcc_of_translate_error ha hx]
  case misaligned =>
    refine ⟨fun h ho => ?ld, fun h ho => ?st⟩
    case ld => rw [exec_ld_of_issues h hsz ho, State.issueAcc_of_misaligned ha, fAlign]
    case st => rw [exec_st_of_issues h hsz ho, State.issueAcc_of_misaligned ha, fAlign]
  case vector =>
    obtain rfl : va = memVa th x 64 := hva
    refine ⟨fun h ho hx => ?vld, fun h ho hx => ?vst⟩
    case vld => rw [exec_vld_of_issues h hsz hv ho, State.issueAcc_of_kind_true ha hx rfl]
    case vst => rw [exec_vst_of_issues h hsz hv ho, State.issueAcc_of_kind_true ha hx rfl, vOfT]
  case atom =>
    subst hsize
    refine ⟨fun hk => ?performed, fun hu hop => ?refused⟩
    case performed =>
      have hkind : (!(peUncached e && !isWeld pa) || atOp x.f ≤ 1) = true := by
        rcases hk with hu | hop
        · rw [hu]; rfl
        · simp [hop]
      rw [exec_atom_of_issues h hl, State.issueAcc_of_kind_true ha hx hkind, atOrder]
    case refused =>
      have hop1 : ¬ atOp x.f ≤ 1 := by omega
      rw [exec_atom_of_issues h hl, State.issueAcc_of_kind_false ha hx (by simp [hu, hop1]), fAtomicKind]
  case cas =>
    subst hsize
    refine ⟨fun hu => ?performed, fun hu => ?refused⟩
    case performed => rw [exec_cas_of_issues h hop hsz hf, State.issueAcc_of_kind_true ha hx (by simp [hu]), hu, atOrder]
    case refused => rw [exec_cas_of_issues h hop hsz hf, State.issueAcc_of_kind_false ha hx (by simp [hu]), fAtomicKind]

end Sys2Proof.Machine
end

section
/-! PROOFS. Segment layouts and the decode of addresses (02 R50 to R53; 15 R415): the fields of an address as bit ranges, the two decodes, and what the
64 layout changes of one SEG_LAYOUT write come to. -/
namespace Sys2Proof.Machine

open Sys2Proof

/-! #### The two decodes (R51, R52) -/

theorem toNat_append_eq_mul_add {m n : Nat} (x : BitVec m) (y : BitVec n) : (x ++ y).toNat = x.toNat * 2 ^ n + y.toNat := by
  rw [BitVec.toNat_append, ← Nat.shiftLeft_add_eq_or_of_lt y.isLt, Nat.shiftLeft_eq]

theorem placeInter_toNat (q : Nat) (a : BitVec 34) : placeInter q a.toNat =
    { bank := bankOf (16 * q + (a.extractLsb' 9 4 ^^^ a.extractLsb' 17 4 ^^^ a.extractLsb' 25 4).toNat) (a.extractLsb' 15 2 ^^^ a.extractLsb' 17 2).toNat
      row := (a.extractLsb' 17 17).toNat, col := (a.extractLsb' 13 2 ++ a.extractLsb' 5 4).toNat, byte := (a.extractLsb' 0 5).toNat } := by
  simp only [toNat_append_eq_mul_add, BitVec.toNat_xor, BitVec.extractLsb'_toNat, Nat.shiftRight_eq_div_pow]
  rfl

theorem placeBank_toNat (q : Nat) (a : BitVec 34) : placeBank q a.toNat =
    { bank := 64 * q + 2 * (a.extractLsb' 21 5).toNat + (a.extractLsb' 11 1).toNat
      row := (a.extractLsb' 26 8 ++ a.extractLsb' 12 9).toNat, col := (a.extractLsb' 5 6).toNat, byte := (a.extractLsb' 0 5).toNat } := by
  simp only [toNat_append_eq_mul_add, BitVec.extractLsb'_toNat, Nat.shiftRight_eq_div_pow]
  rfl

theorem State.place_quadrant (s : State) (q : Nat) (a : BitVec 34) :
    s.place (q * 2 ^ 34 + a.toNat) = if s.segBank q (a.extractLsb' 26 8).toNat then placeBank q a.toNat else placeInter q a.toNat := by
  have hquad : (q * 2 ^ 34 + a.toNat) / 2 ^ 34 = q := by omega
  have hrest : (q * 2 ^ 34 + a.toNat) % 2 ^ 34 = a.toNat := by omega
  have hseg : (a.extractLsb' 26 8).toNat = a.toNat / 2 ^ 26 := by
    rw [BitVec.extractLsb'_toNat, Nat.shiftRight_eq_div_pow]
    omega
  rw [State.place, hquad, hrest, hseg]

/-! #### One layout change -/

@[simp] theorem mem_setIns {i x : Nat} {l : List Nat} : x ∈ setIns i l ↔ x = i ∨ x ∈ l := by
  induction l with
  | nil => simp [setIns]
  | cons k r ih =>
    rw [setIns]
    split
    · simp
    · split
      next h => simp [h]
      next => simp [ih, or_left_comm]

/-- The entries kept by a condition on the index hold what they held. -/
theorem tget_filter {α : Type} (d : Nat → α) (t : Tab α) {p : Nat → Bool} {i : Nat} (h : p i = true) : tget d (t.filter fun c => p c.1) i = tget d t i := by
  induction t with
  | nil => rfl
  | cons c r ih =>
    obtain ⟨k, v⟩ := c
    by_cases hk : k = i
    · subst hk
      simp [h, tget]
    · by_cases hp : p k = true <;> simp [hp, tget, hk, ih]

/-- What a layout change does not touch. -/
def Dram.offLayout (d : Dram) : Dram := { d with segs := [], segEpoch := [], madder := [], mark := [], reported := [] }

theorem Dram.eq_of_offLayout_eq {d e : Dram} (h : d.offLayout = e.offLayout) :
    d = { e with segs := d.segs, segEpoch := d.segEpoch, madder := d.madder, mark := d.mark, reported := d.reported } := by
  cases d
  cases e
  simpa [Dram.offLayout] using h

theorem Dram.relayout_offLayout (d : Dram) (g : Nat) (v : Bool) : (d.relayout g v).offLayout = d.offLayout := by
  unfold Dram.relayout
  split <;> rfl

theorem Dram.contains_relayout (d : Dram) (g h : Nat) (v : Bool) :
    (d.relayout g v).segs.contains h = if h = g then v else d.segs.contains h := by
  unfold Dram.relayout
  split
  next hv =>
    split
    next hh => rw [hh, hv]
    next => rfl
  next hv =>
    cases v
    · by_cases hh : h = g <;> simp [hh]
    · by_cases hh : h = g <;> simp [hh]

theorem Dram.relayout_of_eq (d : Dram) {g : Nat} {v : Bool} (h : d.segs.contains g = v) : d.relayout g v = d := if_pos h

theorem tget_congr_default {α : Type} {d e : Nat → α} (t : Tab α) {i : Nat} (h : d i = e i) : tget d t i = tget e t i := by
  induction t with
  | nil => exact h
  | cons c r ih => rw [tget, tget, ih]

/-- The bytes of the other segments stay. -/
theorem Dram.readPos_relayout (d : Dram) {g pos : Nat} (v : Bool) (h : segOfPos pos ≠ g) : (d.relayout g v).readPos pos 1 = d.readPos pos 1 := by
  unfold Dram.relayout
  split
  next => rfl
  next =>
    simp only [Dram.readPos, mread, List.range_one, List.map_cons, List.map_nil, Nat.add_zero, List.cons.injEq, and_true]
    rw [tget_filter (p := fun k => segOfPos k ≠ g) (h := decide_eq_true h)]
    refine tget_congr_default _ ?_
    simp only [Dram.byteD, tget_tput_ne _ _ _ h]

/-! #### The 64 changes of one write (R415) -/

/-- The first `n` layout changes of a write of `v` to the register whose segments begin at `base`. -/
def Dram.relayouts (d : Dram) (base : Nat) (v : W64) (n : Nat) : Dram := (List.range n).foldl (fun d j => d.relayout (base + j) (v.getLsbD j)) d

section
variable (d : Dram) (base : Nat) (v : W64)

theorem Dram.relayouts_succ (n : Nat) : d.relayouts base v (n + 1) = (d.relayouts base v n).relayout (base + n) (v.getLsbD n) := by
  rw [Dram.relayouts, List.range_succ, List.foldl_append]
  rfl

theorem Dram.relayouts_offLayout (n : Nat) : (d.relayouts base v n).offLayout = d.offLayout :=
  foldl_keeps Dram.offLayout _ _ _ fun _ _ => Dram.relayout_offLayout _ _ _

theorem Dram.contains_relayouts (n g : Nat) :
    (d.relayouts base v n).segs.contains g = if base ≤ g ∧ g < base + n then v.getLsbD (g - base) else d.segs.contains g := by
  induction n with
  | zero => rw [if_neg (by omega)]; rfl
  | succ n ih =>
    rw [d.relayouts_succ, Dram.contains_relayout, ih]
    by_cases hg : g = base + n
    · subst hg
      simp
    · rw [if_neg hg]
      by_cases hin : base ≤ g ∧ g < base + n
      · rw [if_pos hin, if_pos (by omega)]
      · rw [if_neg hin, if_neg (by omega)]

/-- A segment whose layout does not change keeps its bytes: its one step of the fold does nothing. -/
theorem Dram.readPos_relayouts (n : Nat) {pos : Nat} (h : (d.relayouts base v n).segs.contains (segOfPos pos) = d.segs.contains (segOfPos pos)) :
    (d.relayouts base v n).readPos pos 1 = d.readPos pos 1 := by
  induction n with
  | zero => rfl
  | succ n ih =>
    by_cases hn : segOfPos pos = base + n
    · have hkept : (d.relayouts base v n).segs.contains (segOfPos pos) = d.segs.contains (segOfPos pos) := by
        rw [d.contains_relayouts, if_neg (by omega)]
      have hsame : (d.relayouts base v n).segs.contains (base + n) = v.getLsbD n := by
        rw [← hn, hkept, ← h, d.relayouts_succ, Dram.contains_relayout, if_pos hn]
      rw [d.relayouts_succ, Dram.relayout_of_eq _ hsame, ih hkept]
    · rw [d.relayouts_succ, Dram.readPos_relayout _ _ hn]
      refine ih ?_
      rw [← h, d.relayouts_succ, Dram.contains_relayout, if_neg hn]

end

/-- Settles O17: the decodes are the fields of the address, and a SEG_LAYOUT write is 64 layout changes, each of its own segment. -/
theorem layoutsAndDecode : Obligations.LayoutsAndDecode := by
  refine ⟨fun q a => ?inter, fun q a => ?bank, fun s q a => s.place_quadrant q a, fun s q w v => ?write⟩
  case inter =>
    intro i bsel c
    have hi : i.toNat < 16 := i.isLt
    have hbsel : bsel.toNat < 4 := bsel.isLt
    rw [placeInter_toNat]
    refine ⟨rfl, rfl, rfl, ?die, ?inDie⟩
    case die => show bankOf c bsel.toNat / 16 = c / 4; rw [bankOf]; omega
    case inDie => show bankOf c bsel.toNat % 16 = 4 * (c % 4) + bsel.toNat; rw [bankOf]; omega
  case bank =>
    intro pair
    have hpair : pair < 32 := (a.extractLsb' 21 5).isLt
    have hlow : (a.extractLsb' 11 1).toNat < 2 := (a.extractLsb' 11 1).isLt
    rw [placeBank_toNat]
    refine ⟨rfl, rfl, rfl, ?die, ?inDie⟩
    case die => show (64 * q.val + 2 * pair + _) / 16 = _; omega
    case inDie => show (64 * q.val + 2 * pair + _) % 16 = _; omega
  case write =>
    have hseg := s.dr.contains_relayouts (256 * q + 64 * w) v 64
    have hpos := fun pos => s.dr.readPos_relayouts (256 * q + 64 * w) v 64 (pos := pos)
    have hoff := Dram.eq_of_offLayout_eq (s.dr.relayouts_offLayout (256 * q + 64 * w) v 64)
    have hnext : exec (.segLayoutWrite q w v) s = .next { s with dr := s.dr.relayouts (256 * q + 64 * w) v 64 } := rfl
    generalize s.dr.relayouts (256 * q + 64 * w) v 64 = d at hseg hpos hoff hnext
    refine ⟨{ s with dr := d }, hnext, fun j hj => ?bits, fun g hg => ?others, hpos, congrArg (fun d => { s with dr := d }) hoff⟩
    case bits =>
      rw [State.segBank, ← Nat.add_assoc, hseg, if_pos (by omega), Nat.add_sub_cancel_left]
    case others =>
      rw [hseg, if_neg (by omega)]

end Sys2Proof.Machine
end

section
/-! PROOFS. MAINT_INIT where a sub-channel lists an initialise of a pair that is not its own (02 R75): no row leaves such a list, but the statement of the
maintenance commands is about every state. -/
namespace Sys2Proof.Machine

open Sys2Proof

/-- The header of the MAINT_INIT. -/
def strayHdr : CmdHdr := ⟨0, 0, 0, 0, false⟩

/-- READY, with a MAINT_INIT of the first pair-row of segment 0, of BANK_LAYOUT, in mailbox 0. Sub-channel 0, its slot free, lists an initialise, not begun, of
pair 2, which is one of sub-channel 1's. -/
def strayInitState : State :=
  { State.reset with
    md := { State.reset.md with running := true, state := 1 }
    ho := { HostIf.reset with mbox := [(0, { mboxInit 0 with cmds := [⟨strayHdr, 0x0803, [0, 4096], 0, 0, 0, false⟩] })] }
    dr := { Dram.reset with segs := [0], sub := [(0, { subInit 0 with inits := [⟨strayHdr, 0, 1, some 2, [], false, [], [], 0, 0⟩] })] } }

theorem ready_maintInit_strayInitState : Ready (.maintInit strayHdr 0 4096) strayInitState :=
  ⟨by decide +kernel, rfl, rfl, rfl⟩

theorem madderOk_strayInitState : ∀ q ∈ pieces 512 0 4096, strayInitState.madderOk q.1 = true := by decide +kernel

/-- The initialise of pair 2 begins with the slot: its INIT job takes a number of the controller of sub-channel 1. -/
theorem nextId_after_maintInit_strayInitState :
    ∃ t, exec (.maintInit strayHdr 0 4096) strayInitState = .next t ∧ (t.sub 1).nextId = 1 :=
  ⟨_, rfl, by decide +kernel⟩

/-- Refutes O28: the clause on a MAINT_INIT in a BANK_LAYOUT segment says that every sub-channel but its own stays as it was. In `strayInitState` the
initialise that begins is of another's pair, and its INIT job counts up `nextId` there. -/
theorem not_maintenanceCommands : ¬ Obligations.MaintenanceCommands := by
  rintro ⟨-, -, -, -, hbank, -⟩
  obtain ⟨t, ht, -, -, hothers⟩ := hbank strayHdr 0 4096 strayInitState ready_maintInit_strayInitState (by decide) (by decide) (by decide) (by decide)
    (by decide) (by decide) (by decide) madderOk_strayInitState
  obtain ⟨t', ht', hid⟩ := nextId_after_maintInit_strayInitState
  obtain rfl : t = t' := Host.Outcome.next.inj (ht.symm.trans ht')
  have hkept : t.sub 1 = strayInitState.sub 1 := hothers 1 (by decide)
  rw [hkept] at hid
  exact absurd hid (by decide)

end Sys2Proof.Machine
end

section
/-! PROOFS. The maintenance slot of a sub-channel (02 R71): what its operations change of a sub-channel's record, and what they leave of the state. -/
namespace Sys2Proof.Machine

open Sys2Proof

/-- The state with the records of the sub-channels, the bank units and the log forgotten. -/
def State.besideSub (s : State) : State := { s with dr := { s.dr with sub := [] }, unit := [], fl := Faults.reset }

theorem State.eq_of_besideSub_eq {s u : State} (h : u.besideSub = s.besideSub) :
    u = { s with dr := { s.dr with sub := u.dr.sub }, unit := u.unit, fl := u.fl } := by
  obtain ⟨⟩ := u
  obtain ⟨⟩ := s
  simp only [State.besideSub, State.mk.injEq, Dram.mk.injEq, true_and] at h
  simp only [State.mk.injEq, true_and]
  obtain ⟨h1, h2, h3, hdr, h⟩ := h
  refine ⟨h1, h2, h3, ?_, h⟩
  simp only [← hdr]

/-- As `eq_of_besideSub_eq`, where the units and the log are as they were too. -/
theorem State.eq_of_besideSub_eq_of_off {s u : State} (h : u.besideSub = s.besideSub) (ho : u.off { dr := true } = s.off { dr := true }) :
    u = { s with dr := { s.dr with sub := u.dr.sub } } := by
  have hu := State.eq_of_besideSub_eq h
  rw [State.unit_of_off ho, State.fl_of_off ho] at hu
  exact hu

section
variable (s : State) (c : Nat)

@[simp] theorem State.besideSub_setSub (x : SubCh) : (s.setSub c x).besideSub = s.besideSub := rfl
@[simp] theorem State.besideSub_setUnit (u : Nat) (x : BUnit) : (s.setUnit u x).besideSub = s.besideSub := rfl
@[simp] theorem State.besideSub_maintResume (a k : Nat) : (s.maintResume c a k).besideSub = s.besideSub := rfl

@[simp] theorem State.besideSub_pushJob (u : Nat) (j : BankJob) : (s.pushJob u j).besideSub = s.besideSub := by
  unfold State.pushJob
  dsimp only
  split
  · simp [State.askWindow]
  · simp

@[simp] theorem State.besideSub_beginInit : (s.beginInit c).besideSub = s.besideSub := by
  unfold State.beginInit
  dsimp only
  split
  · rfl
  · split
    · rfl
    · rw [foldl_keeps State.besideSub _ _ _ fun s u => s.besideSub_pushJob u _]
      simp

@[simp] theorem State.besideSub_passSlot : (s.passSlot c).besideSub = s.besideSub := by
  unfold State.passSlot
  dsimp only
  split
  · simp
  · split <;> simp

@[simp] theorem State.besideSub_leaveSlot (a : Nat) : (s.leaveSlot c a).besideSub = s.besideSub := by
  unfold State.leaveSlot
  dsimp only
  split <;> simp

/-! #### What becomes of a record -/

/-- A sub-channel's record with the slot, the initialises and the number of the next request forgotten. -/
def SubCh.besideSlot (x : SubCh) : SubCh :=
  { x with holder := 0, waiting := [], scrubPaused := false, initPaused := false, inits := [], initCur := 0, nextId := 0 }

/-- The record of a sub-channel after a write that changes nothing beside the slot. -/
theorem State.besideSlot_sub_setSub {x : SubCh} (h : x.besideSlot = (s.sub c).besideSlot) (d : Nat) :
    ((s.setSub c x).sub d).besideSlot = (s.sub d).besideSlot := by
  rw [State.sub_setSub_if]
  split
  next hd => rw [hd, h]
  next => rfl

@[simp] theorem State.besideSlot_pushJob (u : Nat) (j : BankJob) (d : Nat) : ((s.pushJob u j).sub d).besideSlot = (s.sub d).besideSlot := by
  unfold State.pushJob
  dsimp only
  split
  · exact (congrArg SubCh.besideSlot (State.sub_setUnit' ..)).trans (State.besideSlot_sub_setSub _ _ (by rfl) d)
  · exact State.besideSlot_sub_setSub _ _ (by rfl) d

@[simp] theorem State.besideSlot_beginInit (d : Nat) : ((s.beginInit c).sub d).besideSlot = (s.sub d).besideSlot := by
  unfold State.beginInit
  dsimp only
  split
  · rfl
  · split
    · rfl
    · rw [foldl_keeps (fun s : State => (s.sub d).besideSlot) _ _ _ fun s u => s.besideSlot_pushJob u _ d]
      exact State.besideSlot_sub_setSub _ _ (by rfl) d

@[simp] theorem State.besideSlot_passSlot (d : Nat) : ((s.passSlot c).sub d).besideSlot = (s.sub d).besideSlot := by
  unfold State.passSlot
  dsimp only
  split
  · exact State.besideSlot_sub_setSub _ _ (by rfl) d
  · rw [State.besideSlot_beginInit]
    split <;> exact State.besideSlot_sub_setSub _ _ (by rfl) d

@[simp] theorem State.besideSlot_leaveSlot (a d : Nat) : ((s.leaveSlot c a).sub d).besideSlot = (s.sub d).besideSlot := by
  unfold State.leaveSlot
  dsimp only
  split
  · exact s.besideSlot_passSlot c d
  · exact State.besideSlot_sub_setSub _ _ (by rfl) d

theorem State.beginInit_of_holder_ne (h : (s.sub c).holder ≠ 5) : s.beginInit c = s := by
  unfold State.beginInit
  dsimp only
  split
  · rfl
  · exact if_pos (.inl h)

theorem State.beginInit_of_inits_nil (h : (s.sub c).inits = []) : s.beginInit c = s := by
  unfold State.beginInit
  simp only [h]

theorem State.passSlot_of_waiting_nil (h : (s.sub c).waiting = []) : s.passSlot c = s.setSub c { s.sub c with holder := 0 } := by
  unfold State.passSlot
  simp only [h]

/-! #### Asking for the slot -/

variable {s c} {a : Nat}

theorem State.askSlot_of_asked (h : (s.sub c).holder = a ∨ a ∈ (s.sub c).waiting) : s.askSlot c a = s := by
  unfold State.askSlot
  exact if_pos (by simpa using h)

theorem State.askSlot_of_taken (h0 : (s.sub c).holder ≠ 0) (h : (s.sub c).holder ≠ a) (hw : a ∉ (s.sub c).waiting) :
    s.askSlot c a = s.setSub c { s.sub c with waiting := setIns a (s.sub c).waiting } := by
  unfold State.askSlot
  dsimp only
  rw [if_neg (by simp [h, hw]), if_neg h0]

/-- A free slot is taken; no initialise begins with it. -/
theorem State.askSlot_of_free (ha : a ≠ 5) (h0 : (s.sub c).holder = 0) (h : (s.sub c).holder ≠ a) (hw : a ∉ (s.sub c).waiting) :
    s.askSlot c a = s.setSub c { s.sub c with holder := a } := by
  unfold State.askSlot
  dsimp only
  rw [if_neg (by simp [h, hw]), if_pos h0, State.beginInit_of_holder_ne _ _ (by simpa using ha)]

/-- What asking for the slot comes to, but for initialise: the activity holds the slot or waits for it, and only the record of `c` has changed. -/
theorem State.askSlot_result (s : State) (c : Nat) (ha : a ≠ 5) : ∃ h w, (s.askSlot c a).sub c = { s.sub c with holder := h, waiting := w } ∧ (h = a ∨ a ∈ w) ∧
    s.askSlot c a = { s with dr := { s.dr with sub := (s.askSlot c a).dr.sub } } := by
  by_cases hasked : (s.sub c).holder = a ∨ a ∈ (s.sub c).waiting
  · rw [State.askSlot_of_asked hasked]
    exact ⟨_, _, rfl, hasked, rfl⟩
  · rw [not_or] at hasked
    obtain ⟨hh, hw⟩ := hasked
    by_cases h0 : (s.sub c).holder = 0
    · rw [State.askSlot_of_free ha h0 hh hw]
      exact ⟨a, _, State.sub_setSub .., .inl rfl, rfl⟩
    · rw [State.askSlot_of_taken h0 hh hw]
      exact ⟨_, setIns a (s.sub c).waiting, State.sub_setSub .., .inr (by simp), rfl⟩

end

end Sys2Proof.Machine
end

section
/-! PROOFS. Requests of a sub-channel (02 R46, R57 to R60): acceptance, what a finished request lets in, the return of a read. -/
namespace Sys2Proof.Machine

open Sys2Proof

/-! #### Acceptance (R46) -/

section
variable {s : State} {c : Nat} {r : Req}

theorem State.accept_of_room (hlen : s.classLen c r.cls < 64) (hstalled : ∀ q ∈ (s.sub c).stalled, q.cls ≠ r.cls) :
    s.accept c r = s.setSub c { s.sub c with
      queue := (s.sub c).queue ++ [⟨(s.sub c).nextId, r, 0, [], false, none⟩], nextId := (s.sub c).nextId + 1 } := by
  unfold State.accept
  exact if_pos ⟨hlen, by simpa using hstalled⟩

theorem State.accept_of_full (h : 64 ≤ s.classLen c r.cls ∨ ∃ q ∈ (s.sub c).stalled, q.cls = r.cls) :
    s.accept c r = s.setSub c { s.sub c with stalled := (s.sub c).stalled ++ [r] } := by
  unfold State.accept
  refine if_neg ?_
  rintro ⟨hlen, hall⟩
  rcases h with hfull | ⟨q, hq, hcls⟩
  · omega
  · rw [List.all_eq_true] at hall
    simpa [hcls] using hall q hq

end

/-! #### What a finished request lets in -/

/-- A sub-channel's record with its requests and the number of the next forgotten. -/
def SubCh.besideRequests (x : SubCh) : SubCh := { x with queue := [], stalled := [], nextId := 0 }

theorem SubCh.resp_of_besideRequests_eq {x y : SubCh} (h : x.besideRequests = y.besideRequests) : x.resp = y.resp :=
  (congrArg SubCh.resp h :)

theorem SubCh.out_of_besideRequests_eq {x y : SubCh} (h : x.besideRequests = y.besideRequests) : x.out = y.out :=
  (congrArg SubCh.out h :)

section
variable (s : State) (c : Nat)

@[simp] theorem State.besideSub_accept (r : Req) : (s.accept c r).besideSub = s.besideSub := by
  unfold State.accept
  dsimp only
  split <;> rfl

@[simp] theorem State.besideSub_dropReq (id : Nat) : (s.dropReq c id).besideSub = s.besideSub := by
  rw [State.dropReq, State.drain, foldl_keeps State.besideSub _ _ _ fun s r => s.besideSub_accept c r]
  simp

@[simp] theorem State.besideRequests_accept (r : Req) : ((s.accept c r).sub c).besideRequests = (s.sub c).besideRequests := by
  unfold State.accept
  dsimp only
  split <;> rw [State.sub_setSub] <;> rfl

@[simp] theorem State.besideRequests_dropReq (id : Nat) : ((s.dropReq c id).sub c).besideRequests = (s.sub c).besideRequests := by
  rw [State.dropReq, State.drain, foldl_keeps (fun s : State => (s.sub c).besideRequests) _ _ _ fun s r => s.besideRequests_accept c r]
  simp only [State.sub_setSub]
  rfl

/-- A read answered and dropped from its queue: only the record of its controller changes. -/
theorem State.answer_dropReq_eq (r : ReadResp) (id : Nat) :
    (s.answer c r).dropReq c id = { s with dr := { s.dr with sub := ((s.answer c r).dropReq c id).dr.sub } } := by
  refine State.eq_of_besideSub_eq_of_off ?_ ?_
  · rw [State.besideSub_dropReq, State.answer, State.besideSub_setSub]
  · rw [State.dropReq_off, State.answer, State.setSub_off _ _ _ rfl]

theorem State.resp_answer_dropReq (r : ReadResp) (id : Nat) : (((s.answer c r).dropReq c id).sub c).resp = some r := by
  rw [SubCh.resp_of_besideRequests_eq (State.besideRequests_dropReq _ c id), State.answer, State.sub_setSub]

theorem State.out_answer_dropReq (r : ReadResp) (id : Nat) : (((s.answer c r).dropReq c id).sub c).out = (s.sub c).out := by
  rw [SubCh.out_of_besideRequests_eq (State.besideRequests_dropReq _ c id), State.answer, State.sub_setSub]

/-! #### Reads through the code (R57 to R59) -/

/-- A sub-channel's record with what reads count, mark and report forgotten. -/
def SubCh.besideReads (x : SubCh) : SubCh :=
  { x with reads := 0, impl := [], readCe := 0, readUe := 0, scrubCe := 0, scrubUe := 0, erased := none, mapoutReported := false }

theorem State.besideReads_sub_setSub {x : SubCh} (h : x.besideReads = (s.sub c).besideReads) (d : Nat) :
    ((s.setSub c x).sub d).besideReads = (s.sub d).besideReads := by
  rw [State.sub_setSub_if]
  split
  next hd => rw [hd, h]
  next => rfl

@[simp] theorem SubCh.besideReads_countRead (x : SubCh) : x.countRead.besideReads = x.besideReads := by
  unfold SubCh.countRead
  split <;> rfl

@[simp] theorem State.besideReads_laneMark (l d : Nat) : ((s.laneMark c l).sub d).besideReads = (s.sub d).besideReads := by
  unfold State.laneMark
  dsimp only
  split <;> exact State.besideReads_sub_setSub _ _ (by rfl) d

@[simp] theorem State.besideReads_laneDegraded (l k : List Nat) (d : Nat) : ((s.laneDegraded c l k).sub d).besideReads = (s.sub d).besideReads :=
  foldl_keeps (fun s : State => (s.sub d).besideReads) _ _ _ fun s l => s.besideReads_laneMark c l d

@[simp] theorem State.sub_reportUe (cw : Nat) (a0 a1 : W64) (src : ReqSrc) (d : Nat) : (s.reportUe cw c a0 a1 src).sub d = s.sub d := by
  unfold State.reportUe
  split <;> rfl

@[simp] theorem State.besideReads_decodeRead (p : Nat) (src : ReqSrc) (m : Sample) (errs : List SymErr) (d : Nat) :
    (((s.decodeRead p src m errs).2).sub d).besideReads = (s.sub d).besideReads := by
  unfold State.decodeRead
  dsimp only
  split <;> simp only [State.sub_reportUe, State.besideReads_laneDegraded] <;>
    exact State.besideReads_sub_setSub _ _ (by exact SubCh.besideReads_countRead _) d

end

/-- The oldest read out returns, and the sample of its issue is decoded: what each kind of request then comes to. -/
theorem exec_readReturn_of_sample {s s1 : State} {c : SubId} {id : Nat} {rest : List Nat} {q : QReq} {m : Sample} {errs : List SymErr} {r : CwRead}
    (hout : (s.sub c).out = id :: rest) (hfind : (s.sub c).queue.find? (fun q => q.id = id) = some q) (hm : q.sample = some m)
    (hdec : (s.setSub c { s.sub c with out := rest }).decodeRead (q.req.addr / 32 * 32) q.req.src m errs = (r, s1)) :
    (q.req.kind = .read → exec (.readReturn c errs) s = .next ((s1.answer c ⟨q.req, r.data, r.poison⟩).dropReq c id)) ∧
    (∀ off d psn, q.req.kind = .write off d psn → exec (.readReturn c errs) s = .next (s1.setSub c { s1.sub c with queue := (s1.sub c).queue.map fun o =>
      if o.id = id then { o with stage := 2, merged := r.data.take off ++ d ++ r.data.drop (off + d.length), mPoison := psn || r.poison } else o })) ∧
    (∀ d, q.req.kind = .add d → exec (.readReturn c errs) s = .next ((s.setSub c { s.sub c with out := rest }).addGo q
      { d with bank := BitVec.ofNat 8 ((s.place q.req.addr).bank % 2), col := BitVec.ofNat 8 (s.place q.req.addr).col } (1000 * s.now) errs)) := by
  refine ⟨fun hk => ?_, fun off d psn hk => ?_, fun d hk => ?_⟩ <;> show execReadReturn c errs s = _ <;>
    simp only [execReadReturn, hout, hfind, hm, Option.getD_some, hdec, hk]

end Sys2Proof.Machine
end

section
/-! PROOFS. Arbitration of a sub-channel (02 R47, R63, R65, R67, R74, R75): what is picked, and what issuing it does. -/
namespace Sys2Proof.Machine

open Sys2Proof

/-! #### Picks (R63) -/

section
variable {s : State} {c now : Nat}

theorem State.pick_of_stopped (h : (s.sub c).state = 0 ∨ (s.sub c).state = 3) : s.pick c now = .idle := by
  unfold State.pick
  exact if_pos h

theorem State.pick_of_refreshPick {b : Nat} (h0 : (s.sub c).state ≠ 0) (h3 : (s.sub c).state ≠ 3)
    (h : s.refreshPick c now (fun b => s.urgentAt b || (s.bankAt b).dueRow.isSome) = some b) : s.pick c now = .refresh b := by
  unfold State.pick
  simp only [h0, h3, or_self, ↓reduceIte, h]

/-- A sub-channel in training issues refreshes and precharges only (R68). -/
theorem State.pick_of_training (h : (s.sub c).state = 2) :
    (∃ b, s.pick c now = .refresh b) ∨ (∃ b, s.pick c now = .close b) ∨ s.pick c now = .idle := by
  unfold State.pick
  simp only [h]
  cases s.refreshPick c now fun b => s.urgentAt b || (s.bankAt b).dueRow.isSome with
  | some b => exact .inl ⟨b, rfl⟩
  | none =>
    cases s.refreshPick c now fun b => decide (1 ≤ (s.bankAt b).debtI) with
    | some b => exact .inl ⟨b, rfl⟩
    | none =>
      cases s.closePick c now with
      | some b => exact .inr (.inl ⟨b, rfl⟩)
      | none => exact .inr (.inr rfl)

theorem State.pick_of_work {p : Pick} (h1 : (s.sub c).state = 1)
    (hr : s.refreshPick c now (fun b => s.urgentAt b || (s.bankAt b).dueRow.isSome) = none)
    (hp : ((([1, 2, 3].filter fun k => s.owed c k now) ++ [0, 1, 2, 3]).findSome? fun k => s.classPick c k now) = some p) : s.pick c now = p := by
  unfold State.pick
  simp only [h1, hr, hp, ↓reduceIte]
  rfl

/-- Class 1, where it is owed, comes first. -/
theorem State.pick_of_owed_one {p : Pick} (h1 : (s.sub c).state = 1)
    (hr : s.refreshPick c now (fun b => s.urgentAt b || (s.bankAt b).dueRow.isSome) = none)
    (ho : s.owed c 1 now = true) (hp : s.classPick c 1 now = some p) : s.pick c now = p := by
  refine State.pick_of_work h1 hr ?_
  rw [List.filter_cons_of_pos (p := fun k => s.owed c k now) ho, List.cons_append, List.findSome?_cons, hp]

/-- Class 0 comes first where no class is owed. -/
theorem State.pick_of_none_owed {p : Pick} (h1 : (s.sub c).state = 1)
    (hr : s.refreshPick c now (fun b => s.urgentAt b || (s.bankAt b).dueRow.isSome) = none)
    (ho : ∀ n, n ∈ [1, 2, 3] → s.owed c n now = false) (hp : s.classPick c 0 now = some p) : s.pick c now = p := by
  refine State.pick_of_work h1 hr ?_
  rw [List.filter_eq_nil_iff.mpr fun n hn => by simp [ho n hn], List.nil_append, List.findSome?_cons, hp]

/-- The oldest issuable request of class 0, where no window of the class may start. -/
theorem State.classPick_zero {q : QReq} {k : Cmd} (ho : s.oldest c 0 now = some (q, k)) (hw : s.classWindows c 0 now = []) :
    s.classPick c 0 now = some (.req q k) := by
  unfold State.classPick
  rw [ho, hw]
  rfl

theorem State.refreshPick_first {wanted : Nat → Bool} (hin : (s.sub c).banksOut.getLsbD 0 = false) (hhold : (s.bankAt (4 * c)).hold = .none)
    (href : (s.bankAt (4 * c)).tRef = none) (hpre : (s.bankAt (4 * c)).tPre = none) (hrow : (s.bankAt (4 * c)).openRow = none)
    (hw : wanted (4 * c) = true) : s.refreshPick c now wanted = some (4 * c) := by
  have hgone : s.bankGone (4 * c) = false := by
    rw [State.bankGone, subOfBank, Nat.mul_div_cancel_left c (by decide), Nat.mul_mod_right, hin]
  unfold State.refreshPick
  rw [List.map_cons, List.find?_cons_of_pos]
  · rfl
  · simp [bankOf, hgone, Bank.free, Bank.held, Bank.refTime, hhold, href, hpre, hrow, hw, since, afterEv]

end

/-! #### Refreshes and precharges (R65, R67) -/

section
variable (s : State) (b now : Nat)

theorem State.rowClose_eq : s.rowClose b now = { s with dr := { s.dr with bank := (s.rowClose b now).dr.bank } } := by
  unfold State.rowClose
  dsimp only
  split <;> rfl

theorem State.refreshAt_eq (r : Option Nat) : s.refreshAt b r now = { s with dr := { s.dr with bank := (s.refreshAt b r now).dr.bank } } := by
  have h := s.rowClose_eq b now
  generalize (s.rowClose b now).dr.bank = x at h
  unfold State.refreshAt
  rw [h]
  rfl

theorem State.refreshDo_eq : s.refreshDo b now = { s with dr := { s.dr with bank := (s.refreshDo b now).dr.bank } } := by
  unfold State.refreshDo
  split
  · exact s.rowClose_eq b now
  · exact s.refreshAt_eq b now _

variable {s b}

/-- The urgent refresh of a bank with nothing open and nothing in its way runs at once. -/
theorem State.refreshDo_of_urgent (hrow : (s.bankAt b).openRow = none) (href : (s.bankAt b).tRef = none) (hpre : (s.bankAt b).tPre = none)
    (hu : s.urgentAt b = true) : s.refreshDo b now = s.setBank b ((s.bankAt b).refresh now) := by
  have hclose : s.rowClose b now = s := by
    unfold State.rowClose
    simp [hrow]
  unfold State.refreshDo
  simp [hrow, hu, State.refreshAt, hclose, Bank.refTime, href, hpre, afterEv]

end

/-! #### Column commands and the bytes they write (R74, R75) -/

section
variable (s : State) (c b : Nat)

/-- A column command leaves the bytes, and what unlisted bytes read as. -/
@[simp] theorem State.writeCw_colGo_madder (isRead : Bool) (cls t cw : Nat) (d : List Byte) (psn : Bool) :
    ((s.colGo b isRead cls t).dr.writeCw cw d psn).madder = (s.dr.writeCw cw d psn).madder := rfl

@[simp] theorem State.colGo_madder (isRead : Bool) (cls t : Nat) : (s.colGo b isRead cls t).dr.madder = s.dr.madder := rfl

theorem State.dr_initDone (h : CmdHdr) : (s.initDone h).dr = s.dr := State.dr_of_off (k := { ho := true }) (State.initDone_off rfl s h)

theorem State.madder_of_besideSub_eq {s u : State} (h : u.besideSub = s.besideSub) : u.dr.madder = s.dr.madder :=
  (congrArg (fun t => t.dr.madder) h :)

theorem State.initAdvance_of_inits_nil {s : State} {c : Nat} (h : (s.sub c).inits = []) : s.initAdvance c = s := by
  unfold State.initAdvance
  simp only [h]

@[simp] theorem State.initAdvance_madder : (s.initAdvance c).dr.madder = s.dr.madder := by
  unfold State.initAdvance
  dsimp only
  split
  · rfl
  · split
    · rw [State.dr_initDone]
      exact State.madder_of_besideSub_eq (by simp)
    · rfl

theorem State.burstDo_col_madder {now row col : Nat} {j : InitJob} (h : (s.sub c).burstAt = some (j, b, row, col)) :
    (s.burstDo c .col now).dr.madder = (s.dr.writeCw (cwIdx b row col) j.pattern false).madder := by
  unfold State.burstDo
  simp only [h, State.setSub_dr_madder, State.writeCw_colGo_madder]

end

/-! #### Scrub's column commands (R74) -/

section
variable (s : State) (c : Nat)

@[simp] theorem State.besideSub_laneMark (l : Nat) : (s.laneMark c l).besideSub = s.besideSub := by
  unfold State.laneMark
  dsimp only
  split <;> rfl

@[simp] theorem State.besideSub_laneDegraded (l k : List Nat) : (s.laneDegraded c l k).besideSub = s.besideSub :=
  foldl_keeps State.besideSub _ _ _ fun s l => s.besideSub_laneMark c l

/-- The state with the records of the sub-channels and stacks, the reported codewords, the units and the log forgotten. -/
def State.besideScrubRead (s : State) : State := { s.besideSub with dr := { s.besideSub.dr with stack := [], reported := [] } }

theorem State.besideScrubRead_of_besideSub_eq {s u : State} (h : u.besideSub = s.besideSub) : u.besideScrubRead = s.besideScrubRead := by
  rw [State.besideScrubRead, h, State.besideScrubRead]

variable (bank row col : Nat) (errs : List SymErr)

/-- A read of scrub's counts, marks and reports: no byte, no bank, no cursor. -/
theorem State.scrubCw_keeps : (s.scrubCw c bank row col errs).2.besideScrubRead = s.besideScrubRead ∧
    ∀ d, ((s.scrubCw c bank row col errs).2.sub d).besideReads = (s.sub d).besideReads := by
  unfold State.scrubCw
  extract_lets cw sc k
  split
  extract_lets impl s1 stack s2 p dr s3
  obtain ⟨hrest1, hsub1⟩ : s1.besideScrubRead = s.besideScrubRead ∧ ∀ d, (s1.sub d).besideReads = (s.sub d).besideReads := by
    refine ⟨State.besideScrubRead_of_besideSub_eq (by simp [s1]), fun d => ?_⟩
    rw [State.besideReads_laneDegraded]
    exact State.besideReads_sub_setSub _ _ (by exact SubCh.besideReads_countRead _) d
  obtain ⟨hrest2, hsub2⟩ : s2.besideScrubRead = s1.besideScrubRead ∧ ∀ d, s2.sub d = s1.sub d := by
    simp only [s2]
    split <;> exact ⟨rfl, fun _ => rfl⟩
  obtain ⟨hrest3, hsub3⟩ : s3.besideScrubRead = s2.besideScrubRead ∧ ∀ d, s3.sub d = s2.sub d := by
    simp only [s3]
    split <;> exact ⟨rfl, fun _ => rfl⟩
  exact ⟨hrest3.trans (hrest2.trans hrest1), fun d => by rw [hsub3, hsub2, hsub1]⟩

theorem State.scrubCw_madder : (s.scrubCw c bank row col errs).2.dr.madder = s.dr.madder :=
  (congrArg (fun t => t.dr.madder) (s.scrubCw_keeps c bank row col errs).1 :)

theorem SubCh.scrubCur_of_besideReads_eq {x y : SubCh} (h : x.besideReads = y.besideReads) : x.scrubCur = y.scrubCur :=
  (congrArg SubCh.scrubCur h :)

theorem SubCh.out_of_besideReads_eq {x y : SubCh} (h : x.besideReads = y.besideReads) : x.out = y.out := (congrArg SubCh.out h :)

theorem SubCh.scrubCur_charge (x : SubCh) (cls : Nat) : (x.charge cls).scrubCur = x.scrubCur := by
  unfold SubCh.charge
  dsimp only
  split <;> rfl

theorem State.scrubCur_colGo (b : Nat) (isRead : Bool) (cls t d : Nat) : ((s.colGo b isRead cls t).sub d).scrubCur = (s.sub d).scrubCur := by
  rw [State.colGo, State.sub_setSub_if]
  split
  next h => rw [h]; exact SubCh.scrubCur_charge _ _
  next => rfl

end

section
variable {s : State} {c now : Nat} {r : ScrubRow}

/-- The write-back of a corrected codeword. -/
theorem State.scrubDo_col_of_fix (h : (s.sub c).scrub = some r) {col : Nat} {d : List Byte} (hfix : r.fix = some (col, d)) :
    (s.scrubDo c .col now).dr.madder = (s.dr.writeCw (cwIdx r.bank r.row col) d false).madder := by
  unfold State.scrubDo
  simp only [h, hfix, State.setSub_dr_madder, State.setBank_dr_madder, State.writeCw_colGo_madder]

/-- The read of a codeword before the row's last: the cursor moves on by a column, and no byte changes. -/
theorem State.scrubDo_col_of_read (h : (s.sub c).scrub = some r) (hfix : r.fix = none) (hcol : curCol (s.sub c).scrubCur < 63) :
    ((s.scrubDo c .col now).sub c).scrubCur =
      mkCur (curBank (s.sub c).scrubCur) (curRow (s.sub c).scrubCur) (curCol (s.sub c).scrubCur + 1) ∧
    (s.scrubDo c .col now).dr.madder = s.dr.madder := by
  have hlast : curCol (s.sub c).scrubCur ≠ 63 := Nat.ne_of_lt hcol
  have hcur := SubCh.scrubCur_of_besideReads_eq (((s.colGo r.bank true 3 now).scrubCw_keeps c r.bank r.row (curCol (s.sub c).scrubCur)
    (errsOf r.errs (curCol (s.sub c).scrubCur))).2 c)
  rw [State.scrubCur_colGo] at hcur
  have hmad := (s.colGo r.bank true 3 now).scrubCw_madder c r.bank r.row (curCol (s.sub c).scrubCur) (errsOf r.errs (curCol (s.sub c).scrubCur))
  unfold State.scrubDo
  simp only [h, hfix, hlast, ↓reduceIte]
  split <;> simp [hcur, hmad]

end

end Sys2Proof.Machine
end

section
/-! PROOFS. Retraining of a sub-channel and its end (02 R72, R73, R78; 11 R310): reopening, leaving service, and handlers whose action is complete. -/
namespace Sys2Proof.Machine

open Sys2Proof

/-! #### Reopening (R59, R72) -/

theorem SubCh.eq_fields_of_besideSlot_eq {x y : SubCh} (h : x.besideSlot = y.besideSlot) :
    x.state = y.state ∧ x.reads = y.reads ∧ x.spare = y.spare ∧ x.erased = y.erased ∧ x.dieTemp = y.dieTemp ∧ x.x2 = y.x2 ∧ x.rateTo = y.rateTo :=
  ⟨(congrArg SubCh.state h :), (congrArg SubCh.reads h :), (congrArg SubCh.spare h :), (congrArg SubCh.erased h :),
    (congrArg SubCh.dieTemp h :), (congrArg SubCh.x2 h :), (congrArg SubCh.rateTo h :)⟩

theorem State.sub_reopen (s : State) (c : Nat) : ((s.reopen c).sub c).state = 1 ∧ ((s.reopen c).sub c).reads = 0 ∧
    ((s.reopen c).sub c).spare = (s.sub c).spare ∧ ((s.reopen c).sub c).erased = (s.sub c).erased := by
  obtain ⟨hstate, hreads, hspare, herased, -⟩ := SubCh.eq_fields_of_besideSlot_eq (State.besideSlot_passSlot
    (s.setSub c { s.sub c with state := 1, reads := 0, impl := List.replicate 12 0, trainFails := 0, drifted := false, grid := 1000 * s.now }) c c)
  rw [State.sub_setSub] at hstate hreads hspare herased
  exact ⟨hstate, hreads, hspare, herased⟩

/-! #### Handlers whose action is complete (R310) -/

/-- The sub-channels of a list open. -/
def State.openSubs (s : State) (l : List (Nat × SubCh)) : State := l.foldl (fun s c => s.setSub c.1 { s.sub c.1 with state := 1 }) s

theorem State.settle_cases (s : State) : s.settle = s ∨ ∃ f l, s.settle = ({ s with fl := { s.fl with handlers := f } } : State).openSubs l ∧
    ∀ e ∈ l, e ∈ s.dr.sub ∧ e.2.state = 4 := by
  unfold State.settle
  dsimp only
  split
  · exact .inl rfl
  · refine .inr ⟨_, _, rfl, fun e he => ?_⟩
    rw [List.mem_filter] at he
    rw [Bool.and_eq_true, decide_eq_true_eq] at he
    obtain ⟨hmem, hheld, -⟩ := he
    exact ⟨hmem, hheld⟩

theorem State.sub_openSubs_of_state_one {s : State} {c : Nat} (l : List (Nat × SubCh)) (h : (s.sub c).state = 1) : (s.openSubs l).sub c = s.sub c := by
  induction l generalizing s with
  | nil => rfl
  | cons e r ih =>
    have hstep : (s.setSub e.1 { s.sub e.1 with state := 1 }).sub c = s.sub c := by
      rw [State.sub_setSub_if]
      split
      next he => subst he; rw [← h]
      next => rfl
    exact (ih (by rw [hstep, h])).trans hstep

theorem State.sub_openSubs_of_not_mem {s : State} {c : Nat} {l : List (Nat × SubCh)} (h : ∀ e ∈ l, e.1 ≠ c) : (s.openSubs l).sub c = s.sub c := by
  induction l generalizing s with
  | nil => rfl
  | cons e r ih =>
    rw [List.forall_mem_cons] at h
    obtain ⟨he, hr⟩ := h
    exact (ih hr).trans (State.sub_setSub_ne _ _ he.symm)

theorem State.fl_openSubs (s : State) (l : List (Nat × SubCh)) : (s.openSubs l).fl = s.fl := foldl_keeps State.fl _ _ _ fun _ _ => rfl

theorem State.sub_settle_of_state_one {s : State} {c : Nat} (h : (s.sub c).state = 1) : s.settle.sub c = s.sub c := by
  rcases s.settle_cases with he | ⟨f, l, he, -⟩
  · rw [he]
  · rw [he]
    exact State.sub_openSubs_of_state_one l h

/-- A sub-channel that no entry lists as held stays as it is. -/
theorem State.sub_settle_of_not_held {s : State} {c : Nat} (h : ∀ e ∈ s.dr.sub, e.1 = c → e.2.state ≠ 4) : s.settle.sub c = s.sub c := by
  rcases s.settle_cases with he | ⟨f, l, he, hl⟩
  · rw [he]
  · rw [he]
    refine State.sub_openSubs_of_not_mem fun e hmem hc => ?_
    obtain ⟨hsub, hheld⟩ := hl e hmem
    exact h e hsub hc hheld

theorem State.out_settle (s : State) : s.settle.fl.out = s.fl.out := by
  rcases s.settle_cases with he | ⟨f, l, he, -⟩
  · rw [he]
  · rw [he, State.fl_openSubs]

/-! #### Leaving service (R78) -/

theorem mem_tins {α : Type} {t : Tab α} {i : Nat} {v : α} {p : Nat × α} (h : p ∈ tins t i v) : p = (i, v) ∨ p ∈ t := by
  induction t with
  | nil => simpa [tins] using h
  | cons q r ih =>
    obtain ⟨k, w⟩ := q
    rw [tins] at h
    split at h
    · simpa using h
    · rcases List.mem_cons.mp h with rfl | h
      · exact .inr (List.mem_cons_self ..)
      · exact (ih h).imp_right (List.mem_cons_of_mem _)

/-- What a table lists under the index of its last write is what was written. -/
theorem snd_of_mem_tput {α : Type} [DecidableEq α] {d : Nat → α} {t : Tab α} {i : Nat} {v : α} {p : Nat × α} (h : p ∈ tput d t i v) (hi : p.1 = i) :
    p.2 = v := by
  unfold tput at h
  split at h
  · exact absurd hi (not_mem_tdel t i p h)
  · rcases mem_tins h with rfl | h
    · rfl
    · exact absurd hi (not_mem_tdel t i p h)

theorem State.mem_out_outOfService (s : State) (d : Domain) (x : EvExtra) : d ∈ (s.outOfService d x).fl.out := by
  unfold State.outOfService
  dsimp only
  split
  next h => simpa using h
  next => simp

/-- Of a sub-channel that is gone the records list its number once, out of service. -/
theorem State.dr_subGone {s : State} {c : Nat} (h : (s.sub c).state ≠ 3) :
    ∃ x : SubCh, x.state = 3 ∧ (s.subGone c).dr = (s.setSub c x).dr := by
  refine ⟨{ s.sub c with state := 3, queue := [], stalled := [], out := [], waiting := [], holder := 0, inits := [], scrub := none }, rfl, ?_⟩
  unfold State.subGone
  simp only [h, ↓reduceIte]
  rw [foldl_keeps State.dr _ _ _ fun s (j : InitJob) => s.dr_initDone j.cmd]
  simp only [List.foldl_cons, List.foldl_nil]
  split <;> split <;> rfl

theorem State.settle_mapOutSub {s : State} {c : Nat} (h : (s.sub c).state ≠ 3) :
    (((s.mapOutSub c).settle).sub c).state = 3 ∧ domOf .sub c ∈ (s.mapOutSub c).settle.fl.out := by
  obtain ⟨x, hx, hdr⟩ := State.dr_subGone h
  have hout : s.mapOutSub c = (s.subGone c).outOfService (domOf .sub c) := if_neg h
  rw [hout, State.out_settle]
  refine ⟨?_, State.mem_out_outOfService ..⟩
  have hlist : ((s.subGone c).outOfService (domOf .sub c)).dr = (s.setSub c x).dr := hdr
  have hsub : ((s.subGone c).outOfService (domOf .sub c)).sub c = x := by
    rw [State.sub, hlist]
    exact s.sub_setSub c x
  rw [State.sub_settle_of_not_held, hsub, hx]
  intro e he hc
  rw [hlist] at he
  rw [snd_of_mem_tput he hc, hx]
  decide

/-! #### The rows of retraining and of the spare switch (R72, R73) -/

section
variable {s : State} {c : SubId}

/-- A training that fails again maps the sub-channel out. -/
theorem exec_retrainingEnd_of_second_failure (h2 : (s.sub c).state = 2) (h1 : (s.sub c).holder = 1) (hf : (s.sub c).trainFails ≠ 0) :
    exec (.retrainingEnd c false) s = .next (s.mapOutSub c).settle := by
  show execRetrainingEnd c false s = _
  simp [execRetrainingEnd, h2, h1, hf]

theorem exec_retrainingEnd_of_first_failure (h2 : (s.sub c).state = 2) (h1 : (s.sub c).holder = 1) (hf : (s.sub c).trainFails = 0) :
    exec (.retrainingEnd c false) s = .next (s.setSub c { s.sub c with trainFails := 1 }) := by
  show execRetrainingEnd c false s = _
  simp [execRetrainingEnd, h2, h1, hf]

theorem exec_retrainingEnd_of_marked (h2 : (s.sub c).state = 2) (h1 : (s.sub c).holder = 1) (he : (s.sub c).erased.isSome = true)
    (hs : (s.sub c).spareFailed = false) : exec (.retrainingEnd c true) s = .next (s.setSub c { s.sub c with holder := 3 }) := by
  show execRetrainingEnd c true s = _
  simp [execRetrainingEnd, h2, h1, he, hs]

theorem exec_retrainingEnd_of_no_switch (h2 : (s.sub c).state = 2) (h1 : (s.sub c).holder = 1)
    (h : (s.sub c).erased = none ∨ (s.sub c).spareFailed = true) : exec (.retrainingEnd c true) s = .next (s.reopen c).settle := by
  have hno : ¬ ((s.sub c).erased.isSome = true ∧ (s.sub c).spareFailed = false) := by
    rintro ⟨he, hs⟩
    rcases h with h | h
    · simp [h] at he
    · simp [h] at hs
  show execRetrainingEnd c true s = _
  unfold execRetrainingEnd
  simp only [h2, h1, hno, ne_eq, not_true_eq_false, or_self, Bool.true_eq_false, ↓reduceIte]

theorem exec_spareVerifyEnd (h2 : (s.sub c).state = 2) (h3 : (s.sub c).holder = 3) :
    exec (.spareVerifyEnd c true) s = .next ((s.setSub c { s.sub c with spare := (s.sub c).erased, erased := none }).reopen c).settle ∧
    exec (.spareVerifyEnd c false) s = .next (s.reopen c).settle := by
  show execSpareVerifyEnd c true s = _ ∧ execSpareVerifyEnd c false s = _
  simp [execSpareVerifyEnd, h2, h3]

end

/-- After reopening, settling finds the sub-channel open. -/
theorem State.sub_settle_reopen (s : State) (c : Nat) : (s.reopen c).settle.sub c = (s.reopen c).sub c :=
  State.sub_settle_of_state_one (s.sub_reopen c).1

end Sys2Proof.Machine
end

section
/-! PROOFS. Rows of a sub-channel that ask for, hold or give up the maintenance slot (02 R65, R66, R71, R74, R75). -/
namespace Sys2Proof.Machine

open Sys2Proof

/-! #### Refresh and temperature (R65, R66) -/

section
variable {s u : State} {c : Nat}

theorem State.bankAt_of_besideSub_eq (h : u.besideSub = s.besideSub) (b : Nat) : u.bankAt b = s.bankAt b :=
  (congrArg (fun t => t.bankAt b) h :)

theorem State.besideSub_askSlot {a : Nat} (ha : a ≠ 5) : (s.askSlot c a).besideSub = s.besideSub := by
  obtain ⟨-, -, -, -, heq⟩ := s.askSlot_result c ha
  rw [heq]
  rfl

end

/-- A change of rate takes effect, and the slot passes on. -/
theorem exec_refreshBoundary_of_rate {s : State} {c : SubId} {j : Fin 4} {v : Bool} (hphase : 5 < s.bt.phase) (h3 : (s.sub c).state ≠ 3)
    (hin : (s.sub c).banksOut.getLsbD j = false) (hrate : (s.sub c).rateTo = some v) (h2 : (s.sub c).holder = 2) :
    ∃ u, exec (.refreshBoundary c j) s = .next u ∧ (u.sub c).x2 = v ∧ (u.sub c).rateTo = none ∧
      (u.bankAt (4 * c.val + j.val)).debt = (s.bankAt (4 * c.val + j.val)).debt + 1 := by
  let s1 := s.setBank (bankOf c j) { s.bankAt (bankOf c j) with debt := (s.bankAt (bankOf c j)).debt + 1 }
  let s2 := s1.setSub c { s.sub c with x2 := v, rateTo := none }
  have hnext : exec (.refreshBoundary c j) s = .next (s2.passSlot c) := by
    show execRefreshBoundary c j s = _
    unfold execRefreshBoundary
    rw [if_neg (by simp only [Nat.not_le.mpr hphase, h3, hin, Bool.false_eq_true, or_self, not_false_eq_true])]
    simp only [hrate]
    exact if_pos h2
  have hbank : (s2.passSlot c).bankAt (bankOf c j) = s1.bankAt (bankOf c j) := State.bankAt_of_besideSub_eq (by simp [s2]) _
  obtain ⟨-, -, -, -, -, hx2, hrateTo⟩ := SubCh.eq_fields_of_besideSlot_eq (s2.besideSlot_passSlot c c)
  rw [State.sub_setSub] at hx2 hrateTo
  refine ⟨_, hnext, hx2, hrateTo, ?_⟩
  show ((s2.passSlot c).bankAt (bankOf c j)).debt = _
  rw [hbank, State.bankAt_setBank]
  rfl

theorem exec_refreshBoundary_of_no_rate {s : State} {c : SubId} {j : Fin 4} (hphase : 5 < s.bt.phase) (h3 : (s.sub c).state ≠ 3)
    (hin : (s.sub c).banksOut.getLsbD j = false) (hrate : (s.sub c).rateTo = none) : exec (.refreshBoundary c j) s =
      .next (s.setBank (bankOf c j) { s.bankAt (bankOf c j) with debt := (s.bankAt (bankOf c j)).debt + 1 }) := by
  show execRefreshBoundary c j s = _
  unfold execRefreshBoundary
  simp only [Nat.not_le.mpr hphase, h3, hin, hrate, Bool.false_eq_true, or_self, ↓reduceIte]

theorem rateFor_of_hot {n : Nat} (h : 85 < n) (x2 : Bool) (p : Option Bool) : rateFor n x2 p = true := if_pos h

theorem rateFor_of_cool {n : Nat} (h : n ≤ 82) (x2 : Bool) (p : Option Bool) : rateFor n x2 p = false := by
  rw [rateFor, if_neg (by omega), if_pos h]

theorem rateFor_between {n : Nat} (h1 : 82 < n) (h2 : n ≤ 85) (x2 : Bool) : rateFor n x2 none = x2 := by
  rw [rateFor, if_neg (by omega), if_neg (by omega), Option.getD_none]

/-- A temperature read: the rate asked for is the one the temperature calls for, or none where that is in force. -/
theorem exec_temperatureRead_result {s : State} {c : SubId} (n : Nat) (h3 : (s.sub c).state ≠ 3) : ∃ u, exec (.temperatureRead c n) s = .next u ∧
    u.besideSub = s.besideSub ∧ (u.sub c).dieTemp = BitVec.ofNat 8 n ∧ (u.sub c).x2 = (s.sub c).x2 ∧
    (rateFor n (s.sub c).x2 (s.sub c).rateTo = (s.sub c).x2 → (u.sub c).rateTo = none) ∧
    (rateFor n (s.sub c).x2 (s.sub c).rateTo = (s.sub c).x2 → (s.sub c).rateTo = none → u = s.setSub c { s.sub c with dieTemp := BitVec.ofNat 8 n }) ∧
    (rateFor n (s.sub c).x2 (s.sub c).rateTo ≠ (s.sub c).x2 →
      (u.sub c).rateTo = some (rateFor n (s.sub c).x2 (s.sub c).rateTo) ∧ ((u.sub c).holder = 2 ∨ 2 ∈ (u.sub c).waiting)) := by
  let s1 := s.setSub c { s.sub c with dieTemp := BitVec.ofNat 8 n }
  by_cases hv : rateFor n (s.sub c).x2 (s.sub c).rateTo = (s.sub c).x2
  · by_cases hr : (s.sub c).rateTo = none
    · refine ⟨s1, ?_, rfl, by simp [s1], by simp [s1], fun _ => by simp [s1, hr], fun _ _ => rfl, fun h => absurd hv h⟩
      exact (if_neg h3).trans ((if_pos hv).trans (if_pos (by rw [hr]; rfl)))
    · let s2 := s1.setSub c { s1.sub c with rateTo := none }
      obtain ⟨-, -, -, -, htemp, hx2, hrate⟩ := SubCh.eq_fields_of_besideSlot_eq (s2.besideSlot_leaveSlot c 2 c)
      have hs2 : s2.sub c = { s.sub c with dieTemp := BitVec.ofNat 8 n, rateTo := none } := by simp [s2, s1]
      rw [hs2] at htemp hx2 hrate
      refine ⟨s2.leaveSlot c 2, ?_, by simp [s2, s1], htemp, hx2, fun _ => hrate, fun _ h => absurd h hr, fun h => absurd hv h⟩
      exact (if_neg h3).trans ((if_pos hv).trans (if_neg (by rwa [Option.isNone_iff_eq_none])))
  · let s2 := s1.setSub c { s1.sub c with rateTo := some (rateFor n (s.sub c).x2 (s.sub c).rateTo) }
    obtain ⟨_, _, hsub, hasked, -⟩ := s2.askSlot_result c (a := 2) (by decide)
    have hs2 : s2.sub c = { s.sub c with dieTemp := BitVec.ofNat 8 n, rateTo := some (rateFor n (s.sub c).x2 (s.sub c).rateTo) } := by simp [s2, s1]
    rw [hs2] at hsub
    refine ⟨s2.askSlot c 2, ?_, State.besideSub_askSlot (by decide), ?_⟩
    · exact (if_neg h3).trans (if_neg hv)
    · rw [hsub]
      exact ⟨rfl, rfl, fun h => absurd h hv, fun h => absurd h hv, fun _ => ⟨rfl, hasked⟩⟩

/-! #### Drift (R48, R72) -/

theorem exec_driftTracking_result {s : State} {c : SubId} (d : Bool) (h1 : (s.sub c).state = 1) : ∃ u, exec (.driftTracking c d) s = .next u ∧
    (u.sub c).drifted = d ∧ (d = true → (u.sub c).retrainCause = 0 ∧ ((u.sub c).holder = 1 ∨ 1 ∈ (u.sub c).waiting)) ∧
    u = { s with dr := { s.dr with sub := u.dr.sub } } := by
  have hnext : exec (.driftTracking c d) s = .next (if d then (s.setSub c { s.sub c with drifted := d }).askRetrain c 0
      else s.setSub c { s.sub c with drifted := d }) := by
    show execDriftTracking c d s = _
    simp [execDriftTracking, h1]
  cases d with
  | false => exact ⟨_, hnext, by simp, by simp, rfl⟩
  | true =>
    obtain ⟨_, _, hsub, hasked, heq⟩ := (s.setSub c { s.sub c with drifted := true }).askSlot_result c (a := 1) (by decide)
    rw [State.sub_setSub] at hsub
    refine ⟨_, hnext, ?_, fun _ => ?_, ?_⟩
    · simp [State.askRetrain, hsub]
    · simp [State.askRetrain, hsub, hasked]
    · generalize ((s.setSub c { s.sub c with drifted := true }).askSlot c 1).dr.sub = x at heq
      rw [if_pos rfl, State.askRetrain, heq]
      rfl

end Sys2Proof.Machine
end

section
/-! PROOFS. Scrub's row, preemption and release of the maintenance slot (02 R71, R74, R75). -/
namespace Sys2Proof.Machine

open Sys2Proof

/-! #### What scrub leaves of the state -/

/-- The state with the stacks' memory system beside its layouts, the units and the log forgotten. -/
def State.besideScrub (s : State) : State := { s with dr := { Dram.reset with segs := s.dr.segs }, unit := [], fl := Faults.reset }

theorem State.eq_of_besideScrub_eq {s u : State} (h : u.besideScrub = s.besideScrub) (hunit : u.unit = s.unit) :
    u = { s with dr := u.dr, fl := u.fl } ∧ u.dr.segs = s.dr.segs := by
  obtain ⟨⟩ := u
  obtain ⟨⟩ := s
  simp only [State.besideScrub, State.mk.injEq, Dram.mk.injEq, true_and, and_true] at h hunit ⊢
  obtain ⟨hpending, hfree, htime, hsegs, hth, hstr, htile, hsy, hpages, harr, hrest⟩ := h
  exact ⟨⟨hpending, hfree, htime, hth, hstr, htile, hsy, hpages, harr, hunit, hrest⟩, hsegs⟩

theorem State.besideScrub_of_besideSub_eq {s u : State} (h : u.besideSub = s.besideSub) : u.besideScrub = s.besideScrub :=
  (congrArg State.besideScrub h :)

theorem State.besideScrub_of_besideScrubRead_eq {s u : State} (h : u.besideScrubRead = s.besideScrubRead) : u.besideScrub = s.besideScrub :=
  (congrArg State.besideScrub h :)

section
variable (s : State) (c : Nat)

@[simp] theorem State.besideScrub_setSub (x : SubCh) : (s.setSub c x).besideScrub = s.besideScrub := rfl
@[simp] theorem State.besideScrub_setBank (b : Nat) (x : Bank) : (s.setBank b x).besideScrub = s.besideScrub := rfl
@[simp] theorem State.besideScrub_setStack (k : Nat) (x : Stack) : (s.setStack k x).besideScrub = s.besideScrub := rfl
@[simp] theorem State.besideScrub_rowAct (b row t : Nat) : (s.rowAct b row t).besideScrub = s.besideScrub := rfl
@[simp] theorem State.besideScrub_colGo (b : Nat) (isRead : Bool) (cls t : Nat) : (s.colGo b isRead cls t).besideScrub = s.besideScrub := rfl
@[simp] theorem State.besideScrub_scrubNext : (s.scrubNext c).besideScrub = s.besideScrub := rfl

@[simp] theorem State.besideScrub_rowClose (b t : Nat) : (s.rowClose b t).besideScrub = s.besideScrub := by
  unfold State.rowClose
  dsimp only
  split <;> rfl

@[simp] theorem State.besideScrub_scrubCw (bank row col : Nat) (errs : List SymErr) : (s.scrubCw c bank row col errs).2.besideScrub = s.besideScrub :=
  State.besideScrub_of_besideScrubRead_eq (s.scrubCw_keeps c bank row col errs).1

@[simp] theorem State.besideScrub_scrubDo (k : Cmd) (now : Nat) : (s.scrubDo c k now).besideScrub = s.besideScrub := by
  unfold State.scrubDo
  split
  · rfl
  next r _ =>
    cases k with
    | act row => rfl
    | pre =>
      dsimp only
      split
      · split <;> simp
      · simp
    | col =>
      dsimp only
      split
      · rfl
      · split <;> simp

@[simp] theorem State.besideScrub_scrubRun (n now : Nat) : (s.scrubRun c n now).besideScrub = s.besideScrub := by
  induction n generalizing s now with
  | zero => rfl
  | succ n ih =>
    rw [State.scrubRun]
    split
    · rw [ih, State.besideScrub_scrubDo]
    · rfl

theorem State.unit_scrubRun (n now : Nat) : (s.scrubRun c n now).unit = s.unit :=
  State.unit_of_off (k := { dr := true, fl := true }) (State.scrubRun_off rfl s c n now)

end

/-! #### Scrub takes its row (R71, R74) -/

section
variable {s : State} {c : SubId} {run : ScrubRun}

theorem exec_scrubRow_of_no_turn (h3 : (s.sub c).state ≠ 3) (h4 : ((s.askSlot c 4).sub c).holder ≠ 4) :
    exec (.scrubRow c run) s = .next (s.askSlot c 4) := by
  show execScrubRow c run s = _
  unfold execScrubRow
  rw [if_neg h3]
  exact if_pos (.inr h4)

section
variable (h1 : (s.sub c).state = 1) (h4 : (s.sub c).holder = 4) (hs : (s.sub c).scrub = none)
include h1 h4 hs

/-- Scrub, holding the slot and no row, comes to the row of its cursor. -/
theorem exec_scrubRow_of_turn : exec (.scrubRow c run) s =
    if (s.sub c).banksOut.getLsbD (curBank (s.sub c).scrubCur) = true ∨
      (s.sub c).isClean (bankOf c (curBank (s.sub c).scrubCur)) (curRow (s.sub c).scrubCur) = true then .next (s.scrubNext c)
    else .next ((s.setSub c { s.sub c with
        scrub := some ⟨(s.sub c).nextId, bankOf c (curBank (s.sub c).scrubCur), curRow (s.sub c).scrubCur, run.errs, none, false⟩
        nextId := (s.sub c).nextId + 1 }).scrubRun c 200 run.now) := by
  have h3 : (s.sub c).state ≠ 3 := by omega
  have hturn : ¬ ((s.sub c).state ≠ 1 ∨ (s.sub c).holder ≠ 4) := by simp [h1, h4]
  have hnone : ¬ (s.sub c).scrub.isSome = true := by simp [hs]
  show execScrubRow c run s = _
  unfold execScrubRow
  rw [if_neg h3, State.askSlot_of_asked (.inl h4)]
  exact (if_neg hturn).trans (if_neg hnone)

end

/-- Whatever scrub comes to, it changes the stacks' memory system, but no layout, and the log. -/
theorem exec_scrubRow_frame (run : ScrubRun) (h1 : (s.sub c).state = 1) : ∃ u, exec (.scrubRow c run) s = .next u ∧
    u = { s with dr := u.dr, fl := u.fl } ∧ u.dr.segs = s.dr.segs := by
  have h3 : (s.sub c).state ≠ 3 := by omega
  have hask : (s.askSlot c 4).besideScrub = s.besideScrub := State.besideScrub_of_besideSub_eq (State.besideSub_askSlot (by decide))
  have hunit : (s.askSlot c 4).unit = s.unit := by
    obtain ⟨-, -, -, -, heq⟩ := s.askSlot_result c (a := 4) (by decide)
    rw [heq]
  show ∃ u, execScrubRow c run s = .next u ∧ _
  unfold execScrubRow
  rw [if_neg h3]
  generalize s.askSlot c 4 = s0 at hask hunit
  dsimp only
  split
  · exact ⟨_, rfl, State.eq_of_besideScrub_eq hask hunit⟩
  · split
    · exact ⟨_, rfl, State.eq_of_besideScrub_eq (by rw [State.besideScrub_scrubRun, hask]) (by rw [State.unit_scrubRun, hunit])⟩
    · split
      · exact ⟨_, rfl, State.eq_of_besideScrub_eq (by rw [State.besideScrub_scrubNext, hask]) hunit⟩
      · exact ⟨_, rfl, State.eq_of_besideScrub_eq (by rw [State.besideScrub_scrubRun, State.besideScrub_setSub, hask])
          (by rw [State.unit_scrubRun]; exact hunit)⟩

end

/-! #### Preemption and release (R71) -/

section
variable {s : State} {c : SubId}

theorem exec_maintPreempt_result {a : Nat} {r : List Nat} (hw : (s.sub c).waiting = a :: r) (hcur : s.atCursor c = true) (ha : a < (s.sub c).holder) :
    ∃ u, exec (.maintPreempt c) s = .next u ∧ (u.sub c).holder = a ∧ (u.sub c).waiting = setIns (s.sub c).holder r ∧
      (u.sub c).scrubCur = (s.sub c).scrubCur ∧ (u.sub c).initCur = (s.sub c).initCur ∧
      ((s.sub c).scrubPaused = false → u.fl = (s.maintPause c (s.sub c).holder ((s.sub c).cursor (s.sub c).holder) a).fl) ∧
      u = { s with dr := { s.dr with sub := u.dr.sub }, fl := u.fl } := by
  have hgo : s.atCursor c = true ∧ a < (s.sub c).holder := ⟨hcur, ha⟩
  show ∃ u, execMaintPreempt c s = .next u ∧ _
  unfold execMaintPreempt
  simp only [hw]
  rw [if_pos hgo]
  refine ⟨_, rfl, ?_⟩
  split
  next hresumed =>
    obtain ⟨-, hpaused⟩ := hresumed
    refine ⟨?_, ?_, ?_, ?_, fun h => ?_, rfl⟩
    · simp [State.maintResume]
    · simp [State.maintResume]
    · simp [State.maintResume]
    · simp [State.maintResume]
    · rw [hpaused] at h
      contradiction
  next =>
    refine ⟨?_, ?_, ?_, ?_, fun _ => rfl, rfl⟩ <;> simp

theorem exec_maintSlotRelease_of_scrub (hw : (s.sub c).waiting = []) (h4 : (s.sub c).holder = 4) (hs : (s.sub c).scrub = none)
    (hi : (s.sub c).inits = []) : exec (.maintSlotRelease c) s = .next (s.setSub c { s.sub c with holder := 0 }) := by
  show execMaintSlotRelease c s = _
  unfold execMaintSlotRelease
  rw [State.initAdvance_of_inits_nil hi, ← State.passSlot_of_waiting_nil _ _ hw]
  exact if_pos ⟨h4, by rw [hs]; rfl⟩

/-- Initialise, with no part left, gives up the slot once its finished part is off the list. -/
theorem exec_maintSlotRelease_of_init {s1 : State} (hadv : s.initAdvance c = s1) (hw : (s1.sub c).waiting = []) (h5 : (s1.sub c).holder = 5)
    (hi : (s1.sub c).inits = []) : exec (.maintSlotRelease c) s = .next (s1.setSub c { s1.sub c with initCur := 0, holder := 0 }) := by
  have hno : ¬ ((s1.sub c).holder = 4 ∧ (s1.sub c).scrub.isNone = true) := by simp [h5]
  have hpass : (s1.setSub c { s1.sub c with initCur := 0 }).passSlot c = s1.setSub c { s1.sub c with initCur := 0, holder := 0 } := by
    rw [State.passSlot_of_waiting_nil _ _ (by rw [State.sub_setSub]; exact hw), State.sub_setSub, State.setSub_setSub]
  show execMaintSlotRelease c s = _
  unfold execMaintSlotRelease
  rw [hadv, ← hpass]
  exact (if_neg hno).trans (if_pos ⟨h5, hi⟩)

/-- The last part of an initialise goes off the list, and its rows are clean. -/
theorem State.sub_initAdvance_of_last {s : State} {c : Nat} {j : InitJob} (hi : (s.sub c).inits = [j]) (hb : j.begun = true) (hu : j.units = [])
    (hbursts : j.bursts = []) : (s.initAdvance c).sub c =
      { s.sub c with inits := [], clean := (s.sub c).clean ++ (initBanks c j).map fun b => (b, j.firstRow, j.rows) } := by
  unfold State.initAdvance
  simp only [hi]
  rw [if_pos ⟨hb, hu, hbursts⟩, State.beginInit_of_inits_nil _ _ (by rw [State.sub_setSub]), State.sub, State.dr_initDone]
  exact s.sub_setSub c _

end

end Sys2Proof.Machine
end

section
/-! PROOFS. The rows of a sub-channel controller (02 R46 to R75), each clause from the lemmas on its row. -/
namespace Sys2Proof.Machine

open Sys2Proof

/-- Settles O51: each row comes to the operation its lemmas name, and the rest of the state is what that operation leaves. -/
theorem subChannelWork : Obligations.SubChannelWork := by
  refine ⟨fun s c r hok hsub => ⟨fun hlen hst => ?accepted, fun hfull => ?stopped⟩, fun s c r hbad => ?refused,
    fun s c now b hb h0 h3 hin hhold href hpre hrow hu => ?urgent, fun s c now hstop => ?idle, fun s c now h2 => ?training,
    fun s c now h1 hr => ⟨fun p ho hp => ?owed, fun q k ho hq hw => ?classZero⟩, fun s c now b row col j hp hb => ?burst,
    fun s c now k r hp hr => ⟨?scrub, fun col d hfix => State.scrubDo_col_of_fix hr hfix, fun hfix hcol => State.scrubDo_col_of_read hr hfix hcol⟩,
    fun s s1 c id rest q m errs r hout hfind hm hdec => ?returned, fun s c j hphase h3 hin hrate => exec_refreshBoundary_of_no_rate hphase h3 hin hrate,
    fun s c j v hphase h3 hin hrate h2 => exec_refreshBoundary_of_rate hphase h3 hin hrate h2, fun s c n h3 => ?temperature, fun s c => rfl,
    fun s c d h1 => exec_driftTracking_result d h1, fun s c h1 hst hrun => if_pos ⟨h1, hst, hrun⟩, fun s c hrun => ?windowRuns,
    fun s c h2 h1 => ⟨exec_retrainingEnd_of_first_failure h2 h1, fun hf => ?secondFailure, exec_retrainingEnd_of_marked h2 h1, fun h => ?reopens⟩,
    fun s c h2 h3 => ?spare, fun s c run h1 h4 hs => ⟨fun hin hclean => ?scrubStarts, fun hskip => ?scrubSkips⟩, fun s c run h1 => ?scrubFrame,
    fun s c a r hw hcur ha => exec_maintPreempt_result hw hcur ha, fun s c hw h4 hs hi => exec_maintSlotRelease_of_scrub hw h4 hs hi,
    fun s c hw h5 hi => exec_maintSlotRelease_of_init (State.initAdvance_of_inits_nil hi) hw h5 hi, fun s c j hw h5 hi hb hu hbursts => ?initLast⟩
  case accepted =>
    show execScRequestArrival c r s = _
    rw [execScRequestArrival, if_pos ⟨hok, hsub⟩, State.accept_of_room hlen hst]
  case stopped =>
    show execScRequestArrival c r s = _
    rw [execScRequestArrival, if_pos ⟨hok, hsub⟩, State.accept_of_full hfull]
  case refused =>
    show execScRequestArrival c r s = _
    rw [execScRequestArrival, if_neg (by simp [hbad])]
  case urgent =>
    subst hb
    have hurgent : s.urgentAt (4 * c.val) = true := by
      rw [State.urgentAt, subOfBank, Nat.mul_div_cancel_left c.val (by decide), hu]
    have hpick := State.pick_of_refreshPick (now := now) h0 h3 (State.refreshPick_first hin hhold href hpre hrow (by simp [hurgent]))
    show execCommandIssue c now s = _
    rw [execCommandIssue, hpick, State.issuePick, State.refreshDo_of_urgent now hrow href hpre hurgent]
  case idle =>
    show execCommandIssue c now s = _
    rw [execCommandIssue, State.pick_of_stopped hstop, State.issuePick]
  case training =>
    refine ⟨_, rfl, ?_⟩
    rcases State.pick_of_training (now := now) h2 with ⟨b, hp⟩ | ⟨b, hp⟩ | hp
    · rw [hp]; exact s.refreshDo_eq b now
    · rw [hp]; exact s.rowClose_eq b now
    · rw [hp]; rfl
  case owed =>
    show execCommandIssue c now s = _
    rw [execCommandIssue, State.pick_of_owed_one h1 hr ho hp]
  case classZero =>
    show execCommandIssue c now s = _
    rw [execCommandIssue, State.pick_of_none_owed h1 hr ho (State.classPick_zero hq hw), State.issuePick]
  case burst =>
    refine ⟨_, rfl, ?_⟩
    rw [hp, State.issuePick, State.initAdvance_madder, State.burstDo_col_madder _ _ _ hb]
  case scrub =>
    show execCommandIssue c now s = _
    rw [execCommandIssue, hp, State.issuePick]
  case returned =>
    obtain ⟨hread, hwrite, hadd⟩ := exec_readReturn_of_sample hout hfind hm hdec
    refine ⟨fun hk => ⟨_, hread hk, s1.resp_answer_dropReq c _ id, ?_, s1.answer_dropReq_eq c _ id⟩, hwrite, hadd⟩
    have hkept := SubCh.out_of_besideReads_eq (State.besideReads_decodeRead (s.setSub c { s.sub c with out := rest }) (q.req.addr / 32 * 32) q.req.src m errs c)
    rw [hdec, State.sub_setSub] at hkept
    rw [State.out_answer_dropReq, hkept]
  case temperature =>
    obtain ⟨u, hnext, hbeside, htemp, hx2, hin, hsame, hchange⟩ := exec_temperatureRead_result n h3
    refine ⟨u, hnext, htemp, hx2, fun hn h => ?_, fun hn h => ?_, fun hn h => hin ?_, fun hn h => hin ?_, fun hlo hhi hr => hsame ?_ hr, ?_⟩
    · simpa [rateFor_of_hot hn, h] using hchange
    · simpa [rateFor_of_cool hn, h] using hchange
    · rw [rateFor_of_hot hn, h]
    · rw [rateFor_of_cool hn, h]
    · rw [hr, rateFor_between hlo hhi]
    · exact State.eq_of_besideSub_eq hbeside
  case windowRuns =>
    show execRetrainingStart c s = _
    rw [execRetrainingStart]
    exact if_neg fun ⟨_, _, hno⟩ => by simp [hrun] at hno
  case secondFailure =>
    obtain ⟨hstate, hout⟩ := State.settle_mapOutSub (s := s) (c := c) (by omega)
    exact ⟨_, exec_retrainingEnd_of_second_failure h2 h1 hf, hstate, hout⟩
  case reopens =>
    obtain ⟨hstate, hreads, -, -⟩ := s.sub_reopen c
    refine ⟨_, exec_retrainingEnd_of_no_switch h2 h1 h, ?_⟩
    rw [State.sub_settle_reopen]
    exact ⟨hstate, hreads⟩
  case spare =>
    obtain ⟨hverified, hfailed⟩ := exec_spareVerifyEnd h2 h3
    obtain ⟨hstate, -, hspare, herased⟩ := (s.setSub c { s.sub c with spare := (s.sub c).erased, erased := none }).sub_reopen c
    obtain ⟨hstate', -, hspare', herased'⟩ := s.sub_reopen c
    rw [State.sub_setSub] at hspare herased
    refine ⟨_, _, hverified, ?_, ?_, ?_, hfailed, ?_, ?_, ?_⟩ <;> rw [State.sub_settle_reopen] <;> assumption
  case scrubStarts =>
    rw [exec_scrubRow_of_turn h1 h4 hs, if_neg (by simp only [hin, hclean, Bool.false_eq_true, or_self, not_false_eq_true])]
  case scrubSkips =>
    refine ⟨s.scrubNext c, by rw [exec_scrubRow_of_turn h1 h4 hs, if_pos hskip], ?_, rfl⟩
    simp [State.scrubNext]
  case scrubFrame =>
    obtain ⟨u, hnext, hframe, hsegs⟩ := exec_scrubRow_frame run h1
    refine ⟨u, hnext, hframe, hsegs, fun h0 h4 hw => ?_⟩
    have hwaits : s.askSlot c 4 = s.setSub c { s.sub c with waiting := setIns 4 (s.sub c).waiting } :=
      State.askSlot_of_taken h0 h4 (by simpa using hw)
    have hnoTurn := exec_scrubRow_of_no_turn (run := run) (c := c) (s := s) (by omega) (by rw [hwaits, State.sub_setSub]; exact h4)
    rw [hwaits, hnext] at hnoTurn
    exact Host.Outcome.next.inj hnoTurn
  case initLast =>
    have hadv := State.sub_initAdvance_of_last hi hb hu hbursts
    refine ⟨_, exec_maintSlotRelease_of_init rfl (by rw [hadv]; exact hw) (by rw [hadv]; exact h5) (by rw [hadv]), ?_⟩
    rw [State.sub_setSub, hadv]
    exact ⟨rfl, rfl, rfl⟩

end Sys2Proof.Machine
end

section
/-! PROOFS. Scalar FP32 instructions (06 R177 to R179, Tables TILE-5 and TILE-6): each is a REG instruction, or FFMA, that either writes one register or, where its
f or gb is reserved, faults with ILLEGAL. -/
namespace Sys2Proof.Machine

open Sys2Proof

/-! #### Issue of an instruction on registers (R169, R176) -/

section
variable {s : State} {c : Instr} {t : ThrId} {th : Thr} {legal : Bool}

/-- An illegal instruction at the pc of the thread whose turn it is faults with ILLEGAL, whatever its registers wait for. -/
theorem State.onIssue_of_illegal {R : List Nat} (h : Issues s c t th R) (hlegal : legal = false) (regs : List Nat) (act : Thr → State) :
    s.onIssue c t regs legal act = (s.thrFault t 1 0).issued t := by
  obtain ⟨-, hturn, hinstr, -⟩ := h
  obtain ⟨w, hfetch, hcode⟩ := State.instrAt_eq_some hinstr
  simp only [State.onIssue, hturn, hfetch, hcode, hlegal]
  simp only [Bool.not_true, Bool.not_false, Bool.false_eq_true, ne_eq, not_true_eq_false, ↓reduceIte, fIllegal]

variable {x : RegF} (op : W64 → W64 → W64)

theorem State.regOp_of_issues (h : Issues s c t th [r5 x.a, r5 x.b, r5 x.d]) (hlegal : legal = true) :
    s.regOp c t x legal op = (s.setThr t (th.wr x.d (op (th.rd x.a) (th.rd x.b))).next).issued t := by
  rw [State.regOp, State.onRegs, State.onIssue_of_issues h hlegal]

theorem State.regOp_of_illegal {R : List Nat} (h : Issues s c t th R) (hlegal : legal = false) :
    s.regOp c t x legal op = (s.thrFault t 1 0).issued t := by
  rw [State.regOp, State.onRegs, State.onIssue_of_illegal h hlegal]

end

/-! #### Each instruction, legal (Table TILE-5) -/

section
variable {s : State} {t : ThrId} {th : Thr} {x : RegF}

theorem exec_fadd_of_add (h : Issues s (.fadd t x) t th [r5 x.a, r5 x.b, r5 x.d]) (hf : x.f = 0) :
    exec (.fadd t x) s = .next ((s.setThr t (th.wr x.d (up64 (fadd (lo32 (th.rd x.a)) (lo32 (th.rd x.b))))).next).issued t) := by
  show execFadd t x s = _
  rw [execFadd, State.regOp_of_issues _ h (by simp [hf]), hf]
  rfl

theorem exec_fadd_of_sub (h : Issues s (.fadd t x) t th [r5 x.a, r5 x.b, r5 x.d]) (hf : x.f = 1) :
    exec (.fadd t x) s = .next ((s.setThr t (th.wr x.d (up64 (fsub (lo32 (th.rd x.a)) (lo32 (th.rd x.b))))).next).issued t) := by
  show execFadd t x s = _
  rw [execFadd, State.regOp_of_issues _ h (by simp [hf]), hf]
  rfl

theorem exec_fmul_of_issues (h : Issues s (.fmul t x) t th [r5 x.a, r5 x.b, r5 x.d]) (hf : x.f = 0) :
    exec (.fmul t x) s = .next ((s.setThr t (th.wr x.d (up64 (fmul (lo32 (th.rd x.a)) (lo32 (th.rd x.b))))).next).issued t) :=
  congrArg Host.Outcome.next (State.regOp_of_issues _ h (beq_iff_eq.mpr hf))

theorem exec_fdiv_of_issues (h : Issues s (.fdiv t x) t th [r5 x.a, r5 x.b, r5 x.d]) (hf : x.f = 0) :
    exec (.fdiv t x) s = .next ((s.setThr t (th.wr x.d (up64 (fdiv (lo32 (th.rd x.a)) (lo32 (th.rd x.b))))).next).issued t) :=
  congrArg Host.Outcome.next (State.regOp_of_issues _ h (beq_iff_eq.mpr hf))

/-- FFMA reads its destination too. -/
theorem exec_ffma_of_issues (h : Issues s (.ffma t x) t th [r5 x.a, r5 x.b, r5 x.d]) (hf : x.f = 0) :
    exec (.ffma t x) s =
      .next ((s.setThr t (th.wr x.d (up64 (ffma (lo32 (th.rd x.a)) (lo32 (th.rd x.b)) (lo32 (th.rd x.d))))).next).issued t) :=
  congrArg Host.Outcome.next (State.onIssue_of_issues h (beq_iff_eq.mpr hf) _)

theorem exec_fcmp_of_issues (h : Issues s (.fcmp t x) t th [r5 x.a, r5 x.b, r5 x.d]) (hf : x.f.toNat < 4) :
    exec (.fcmp t x) s =
      .next ((s.setThr t (th.wr x.d (boolW (fcmpCond x.f.toNat (u32 (lo32 (th.rd x.a))) (u32 (lo32 (th.rd x.b)))))).next).issued t) :=
  congrArg Host.Outcome.next (State.regOp_of_issues _ h (decide_eq_true hf))

theorem exec_fcvt_of_issues (h : Issues s (.fcvt t x) t th [r5 x.a, r5 x.b, r5 x.d]) (hf : x.f.toNat < 11) (hb : x.b = 0) :
    exec (.fcvt t x) s = .next ((s.setThr t (th.wr x.d (convert x.f.toNat (th.rd x.a))).next).issued t) :=
  congrArg Host.Outcome.next (State.regOp_of_issues _ h (by simp [hf, hb]))

end

/-! #### Each instruction, illegal (R176) -/

section
variable {s : State} {t : ThrId} {th : Thr} {x : RegF} {R : List Nat}

theorem exec_fadd_of_illegal (h : Issues s (.fadd t x) t th R) (hf : 2 ≤ x.f.toNat) : exec (.fadd t x) s = .next ((s.thrFault t 1 0).issued t) :=
  congrArg Host.Outcome.next (State.regOp_of_illegal _ h (decide_eq_false (Nat.not_lt.mpr hf)))

theorem exec_fmul_of_illegal (h : Issues s (.fmul t x) t th R) (hf : x.f ≠ 0) : exec (.fmul t x) s = .next ((s.thrFault t 1 0).issued t) :=
  congrArg Host.Outcome.next (State.regOp_of_illegal _ h (beq_eq_false_iff_ne.mpr hf))

theorem exec_ffma_of_illegal (h : Issues s (.ffma t x) t th R) (hf : x.f ≠ 0) : exec (.ffma t x) s = .next ((s.thrFault t 1 0).issued t) :=
  congrArg Host.Outcome.next (State.onIssue_of_illegal h (beq_eq_false_iff_ne.mpr hf) _ _)

theorem exec_fdiv_of_illegal (h : Issues s (.fdiv t x) t th R) (hf : x.f ≠ 0) : exec (.fdiv t x) s = .next ((s.thrFault t 1 0).issued t) :=
  congrArg Host.Outcome.next (State.regOp_of_illegal _ h (beq_eq_false_iff_ne.mpr hf))

theorem exec_fcmp_of_illegal (h : Issues s (.fcmp t x) t th R) (hf : 4 ≤ x.f.toNat) : exec (.fcmp t x) s = .next ((s.thrFault t 1 0).issued t) :=
  congrArg Host.Outcome.next (State.regOp_of_illegal _ h (decide_eq_false (Nat.not_lt.mpr hf)))

theorem exec_fcvt_of_illegal (h : Issues s (.fcvt t x) t th R) (hf : 11 ≤ x.f.toNat ∨ x.b ≠ 0) :
    exec (.fcvt t x) s = .next ((s.thrFault t 1 0).issued t) := by
  refine congrArg Host.Outcome.next (State.regOp_of_illegal _ h ?_)
  rw [Bool.and_eq_false_iff]
  exact hf.imp (fun hf => decide_eq_false (Nat.not_lt.mpr hf)) beq_eq_false_iff_ne.mpr

end

/-- Settles O41: each clause is one instruction, legal or illegal. -/
theorem scalarFloats : Obligations.ScalarFloats := by
  rintro s t th x R rfl
  refine ⟨fun hf => ⟨(exec_fadd_of_add · hf), (exec_fmul_of_issues · hf), (exec_ffma_of_issues · hf), (exec_fdiv_of_issues · hf)⟩,
    fun hf => (exec_fadd_of_sub · hf), fun hf => (exec_fcmp_of_issues · hf), fun hf hb => (exec_fcvt_of_issues · hf hb), fun hf => (exec_fadd_of_illegal · hf),
    fun hf => ⟨(exec_fmul_of_illegal · hf), (exec_ffma_of_illegal · hf), (exec_fdiv_of_illegal · hf)⟩,
    fun hf => (exec_fcmp_of_illegal · hf), fun hf => (exec_fcvt_of_illegal · hf)⟩

end Sys2Proof.Machine
end

section
/-! PROOFS. Execution of a host command whose request stands ready (12 R347, R348, R351): its start, its completion, and what both leave. -/
namespace Sys2Proof.Machine

open Sys2Proof

/-! #### Completions -/

section
variable {s : State} {h : CmdHdr} {r : CmdRec}

theorem State.finish_of_cmdRec (hr : s.cmdRec h = some r) (status : Nat) (result : W64) : s.finish h status result = s.setMbox h.mb
    { s.mbox h.mb with cmds := (s.mbox h.mb).cmds.filter (fun c => c.hdr ≠ h)
                       done := (s.mbox h.mb).done ++ [⟨h.tag, r.opcode, status, h.index, result, none⟩] } := by
  rw [State.finish, State.finishAfter, hr]

theorem State.finish_of_cmdRec_none (hr : s.cmdRec h = none) (status : Nat) (result : W64) : s.finish h status result = s := by
  rw [State.finish, State.finishAfter, hr]

theorem finished_finish (hr : s.cmdRec h = some r) (status : Nat) (result : W64) : Finished h r.opcode status result (s.finish h status result) := by
  rw [State.finish_of_cmdRec hr, Finished, State.mbox_setMbox]
  simp

theorem completed_of_finished {op status : Nat} {result : W64} (hf : Finished h op status result s) : Completed h op status result s := by
  obtain ⟨hdone, hcmds⟩ := hf
  exact ⟨List.mem_of_getLast? hdone, hcmds⟩

/-- Completions of other commands leave a completed one completed. -/
theorem completed_finish {op status : Nat} {result : W64} (hc : Completed h op status result s) (g : CmdHdr) (st : Nat) (v : W64) :
    Completed h op status result (s.finish g st v) := by
  obtain ⟨hdone, hcmds⟩ := hc
  cases hr : s.cmdRec g with
  | none => rw [State.finish_of_cmdRec_none hr]; exact ⟨hdone, hcmds⟩
  | some r =>
    rw [State.finish_of_cmdRec hr, Completed, State.mbox_setMbox_if]
    split
    next hmb =>
      rw [← hmb]
      exact ⟨List.mem_append_left _ hdone, fun r hr => hcmds r ((List.mem_filter.mp hr).1)⟩
    next => exact ⟨hdone, hcmds⟩

theorem completed_of_ho_eq {t : State} {op status : Nat} {result : W64} (hc : Completed h op status result s) (he : t.ho = s.ho) :
    Completed h op status result t := by
  unfold Completed State.mbox
  rw [he]
  exact hc

theorem State.cmdRec_of_ho_eq {t : State} (he : t.ho = s.ho) : t.cmdRec h = s.cmdRec h := by
  rw [State.cmdRec, State.mbox, he]
  rfl

theorem State.objAt_finish (s : State) (h : CmdHdr) (status : Nat) (result : W64) (n : Nat) : (s.finish h status result).objAt n = s.objAt n := by
  rw [State.objAt, State.ti_of_off (k := { ho := true }) (State.finish_off rfl s h status result)]
  rfl

/-- The state with the mailboxes, the objects and the service's records forgotten. -/
def State.besideService (s : State) : State := { s with ti := Tiers.reset, ho := HostIf.reset, sv := Service.reset }

theorem State.eq_of_besideService_eq {s t : State} (h : t.besideService = s.besideService) : t = { s with ti := t.ti, ho := t.ho, sv := t.sv } := by
  obtain ⟨⟩ := t
  obtain ⟨⟩ := s
  simpa [State.besideService] using h

@[simp] theorem State.besideService_finish (s : State) (h : CmdHdr) (status : Nat) (result : W64) :
    (s.finish h status result).besideService = s.besideService := by
  cases hr : s.cmdRec h with
  | none => rw [State.finish_of_cmdRec_none hr]
  | some r => rw [State.finish_of_cmdRec hr]; rfl

end

/-! #### The start of a command -/

section
variable {s : State} {h : CmdHdr}

/-- A started command keeps its record but for the mark. -/
theorem cmdRec_begun : (Begun h s).cmdRec h = (s.cmdRec h).map fun r => { r with started := true } := by
  rw [State.cmdRec, Begun, State.mbox_setMbox, State.cmdRec]
  simp only [MBox.start]
  induction (s.mbox h.mb).cmds with
  | nil => rfl
  | cons r l ih => by_cases hr : r.hdr = h <;> simp [hr, ih]

theorem cmdRec_begun_of_cmdRec {r : CmdRec} (hr : s.cmdRec h = some r) : (Begun h s).cmdRec h = some { r with started := true } := by
  rw [cmdRec_begun, hr]
  rfl

theorem MBox.filter_cmds_start (x : MBox) (h : CmdHdr) : (x.start h).cmds.filter (fun c => c.hdr ≠ h) = x.cmds.filter fun c => c.hdr ≠ h := by
  simp only [MBox.start]
  induction x.cmds with
  | nil => rfl
  | cons r l ih => by_cases hr : r.hdr = h <;> simpa [hr] using ih

/-- The completion of a command that has just started does not tell that it started. -/
theorem finish_begun {r : CmdRec} (hr : s.cmdRec h = some r) (status : Nat) (result : W64) :
    (Begun h s).finish h status result = s.finish h status result := by
  have hrec := cmdRec_begun_of_cmdRec hr
  rw [State.finish_of_cmdRec hrec, State.finish_of_cmdRec hr, Begun, State.mbox_setMbox, State.setMbox_setMbox, MBox.filter_cmds_start]
  rfl

theorem finish_setModel_begun {r : CmdRec} (hr : s.cmdRec h = some r) (m : Nat) (y : ModelD) (status : Nat) (result : W64) :
    ((Begun h s).setModel m y).finish h status result = (s.setModel m y).finish h status result :=
  finish_begun (s := s.setModel m y) hr status result

theorem finishOut_begun {r : CmdRec} (hr : s.cmdRec h = some r) (out : List Byte) : (Begun h s).finishOut h out = s.finishOut h out := by
  have hrec := cmdRec_begun_of_cmdRec hr
  have hkept : (s.hostWrite r.ext (out.take (64 * r.extLen))).cmdRec h = some r := hr
  rw [State.finishOut, State.finishOut, hrec, hr]
  exact finish_begun hkept _ _

variable {c : Instr} {op : Nat} {ops : List Nat}

theorem State.mayBegin_of_ready (hs : Ready c s) (hc : hostCmd c = some (h, op, ops)) :
    s.mayBegin h op ops = true ∧ s.md.running = true ∧ s.md.state = 1 ∧ (s.ten h.tenant.toNat).live = true := by
  rw [Ready, hc] at hs
  exact hs

/-- A command that stands ready starts and acts. -/
theorem State.onCmd_of_ready (hs : Ready c s) (hc : hostCmd c = some (h, op, ops)) (act : State → State) : s.onCmd h op ops act = act (Begun h s) := by
  obtain ⟨hbegin, hrun, hstate, hlive⟩ := State.mayBegin_of_ready hs hc
  rw [State.onCmd, if_pos (by simp [hbegin, hrun, hstate]), if_pos hlive]
  rfl

theorem MBox.find_of_startable {x : MBox} (hx : x.startable h op = true) : ∃ r, x.cmds.find? (fun r => r.hdr = h) = some r ∧ r.opcode = op := by
  unfold MBox.startable at hx
  split at hx
  · contradiction
  next i hi =>
    simp only [Bool.and_eq_true, List.head?_drop, Option.any_eq_true] at hx
    obtain ⟨⟨⟨r, hget, hop, -⟩, -⟩, -⟩ := hx
    refine ⟨r, ?_, of_decide_eq_true hop⟩
    rw [List.find?_eq_bind_findIdx?_getElem?, hi, Option.bind_some, hget]

/-- The record of a command that stands ready, of its opcode. -/
theorem State.cmdRec_of_ready (hs : Ready c s) (hc : hostCmd c = some (h, op, ops)) : ∃ r, s.cmdRec h = some r ∧ r.opcode = op := by
  obtain ⟨hbegin, -⟩ := State.mayBegin_of_ready hs hc
  rw [State.mayBegin, Bool.and_eq_true, Bool.and_eq_true] at hbegin
  obtain ⟨⟨hstart, -⟩, -⟩ := hbegin
  exact MBox.find_of_startable hstart

end

end Sys2Proof.Machine
end

section
/-! PROOFS. Reads of Madder and Weld beside the host interface (06 R190; 02 R57 to R59): a read neither depends on the mailboxes nor touches them, so a command
that has just started reads what the state before it held. -/
namespace Sys2Proof.Machine

open Sys2Proof

/-- The state with another host interface. -/
def State.withHo (s : State) (y : HostIf) : State := { s with ho := y }

section
variable (s : State) (y : HostIf)

theorem State.withHo_ite {p : Prop} [Decidable p] (a b : State) :
    (if p then a else b).withHo y = if p then a.withHo y else b.withHo y := apply_ite (State.withHo · y) p a b

theorem begun_eq_withHo (h : CmdHdr) : Begun h s = s.withHo (Begun h s).ho := rfl

/-! #### The controller's commands -/

theorem State.rowClose_withHo (b t : Nat) : (s.withHo y).rowClose b t = (s.rowClose b t).withHo y := by
  unfold State.rowClose
  dsimp only
  rw [State.withHo_ite]
  rfl

theorem State.refreshAt_withHo (b : Nat) (r : Option Nat) (t : Nat) : (s.withHo y).refreshAt b r t = (s.refreshAt b r t).withHo y := by
  unfold State.refreshAt
  rw [State.rowClose_withHo]
  rfl

theorem State.rowAct_withHo (b row t : Nat) : (s.withHo y).rowAct b row t = (s.rowAct b row t).withHo y := rfl

theorem State.rowOpen_withHo (b row t : Nat) : (s.withHo y).rowOpen b row t = (s.rowOpen b row t).withHo y := by
  have hdue : (s.bankAt b).dueRow.elim (s.withHo y) (fun r => (s.withHo y).refreshAt b (some r) t) =
      ((s.bankAt b).dueRow.elim s fun r => s.refreshAt b (some r) t).withHo y := by
    cases (s.bankAt b).dueRow with
    | none => rfl
    | some r => exact s.refreshAt_withHo y b (some r) t
  have hurgent (u : State) : (if ((u.withHo y).bankAt b).urgent ((u.withHo y).sub (subOfBank b)).dieTemp.toNat
      then (u.withHo y).refreshAt b none t else u.withHo y) =
      (if (u.bankAt b).urgent (u.sub (subOfBank b)).dieTemp.toNat then u.refreshAt b none t else u).withHo y := by
    rw [State.refreshAt_withHo, State.withHo_ite]
    rfl
  have hbank : (s.withHo y).bankAt b = s.bankAt b := rfl
  unfold State.rowOpen
  dsimp only
  rw [hbank, hdue, hurgent, State.rowClose_withHo, State.rowAct_withHo,
    State.withHo_ite]

theorem State.colGo_withHo (b : Nat) (isRead : Bool) (cls t : Nat) : (s.withHo y).colGo b isRead cls t = (s.colGo b isRead cls t).withHo y := rfl

theorem State.serve_withHo (b row : Nat) (isRead : Bool) (cls : Nat) : (s.withHo y).serve b row isRead cls = (s.serve b row isRead cls).withHo y := by
  rw [State.serve, State.rowOpen_withHo, State.colGo_withHo]
  rfl

/-! #### A codeword -/

theorem State.laneMark_withHo (c l : Nat) : (s.withHo y).laneMark c l = (s.laneMark c l).withHo y := by
  have hsub : (s.withHo y).sub c = s.sub c := rfl
  unfold State.laneMark
  dsimp only
  rw [hsub]
  cases (s.sub c).erased <;> rfl

theorem State.laneDegraded_withHo (c : Nat) (before after : List Nat) :
    (s.withHo y).laneDegraded c before after = (s.laneDegraded c before after).withHo y :=
  List.foldl_hom (State.withHo · y) fun u l => u.laneMark_withHo y c l

theorem State.reportUe_withHo (cw c : Nat) (a0 a1 : W64) (src : ReqSrc) :
    (s.withHo y).reportUe cw c a0 a1 src = (s.reportUe cw c a0 a1 src).withHo y := by
  unfold State.reportUe
  dsimp only
  rw [State.withHo_ite]
  rfl

theorem State.decodeRead_withHo (p : Nat) (src : ReqSrc) (m : Sample) (errs : List SymErr) :
    (s.withHo y).decodeRead p src m errs = (s.decodeRead p src m errs).map id (State.withHo · y) := by
  have hplace : (s.withHo y).place p = s.place p := rfl
  have hsub (c : Nat) : (s.withHo y).sub c = s.sub c := rfl
  have hset (c : Nat) (x : SubCh) : (s.withHo y).setSub c x = (s.setSub c x).withHo y := rfl
  unfold State.decodeRead
  simp only [hplace, hsub, hset, State.laneDegraded_withHo, State.reportUe_withHo]
  dsimp only [Prod.map]
  rw [State.withHo_ite]
  rfl

theorem State.readCw_withHo (p : Nat) (src : ReqSrc) (errs : List SymErr) (cls : Nat) :
    (s.withHo y).readCw p src errs cls = (s.readCw p src errs cls).map id (State.withHo · y) := by
  have hplace : (s.withHo y).place p = s.place p := rfl
  unfold State.readCw
  dsimp only
  rw [hplace]
  rw [State.serve_withHo]
  exact State.decodeRead_withHo _ y p src _ errs

/-! #### Transfers -/

theorem State.plazaTouch_withHo (p : Nat) : (s.withHo y).plazaTouch p = (s.plazaTouch p).withHo y := by
  have hhome : (s.withHo y).homeTile p = s.homeTile p := rfl
  have htile (t : Nat) : (s.withHo y).tileAt t = s.tileAt t := rfl
  unfold State.plazaTouch
  simp only [hhome, htile]
  cases (s.tileAt (s.homeTile p)).plaza.lookup (p / 64) <;> rfl

theorem State.weldReadBy_withHo (t off n errs : Nat) : (s.withHo y).weldReadBy t off n errs = (s.weldReadBy t off n errs).withHo y := by
  unfold State.weldReadBy
  dsimp only
  rw [State.withHo_ite]
  rfl

theorem State.madderPiece_withHo (src : ReqSrc) (p n : Nat) (errs : List SymErr) (cls : Nat) :
    (s.withHo y).madderPiece src p n errs cls = (s.madderPiece src p n errs cls).map id (State.withHo · y) := by
  have hget : (s.withHo y).plazaGet p = s.plazaGet p := rfl
  unfold State.madderPiece
  rw [hget, State.plazaTouch_withHo, State.readCw_withHo]
  cases s.plazaGet p <;> rfl

theorem State.agentRead_withHo (src : ReqSrc) (p n k0 : Nat) (errs : List ScrubErr) (cls : Nat) :
    (s.withHo y).agentRead src p n k0 errs cls = (s.agentRead src p n k0 errs cls).map id (State.withHo · y) := by
  unfold State.agentRead
  refine List.foldl_hom (init := ([], s)) (Prod.map id (State.withHo · y)) fun acc q => ?_
  obtain ⟨ps, u⟩ := acc
  by_cases hw : isWeld q.1 = true
  · simp only [hw, Prod.map, ↓reduceIte, State.weldReadBy_withHo]
    rfl
  · simp only [hw, Prod.map, State.madderPiece_withHo]
    rfl

theorem State.readChunks_withHo (src : ReqSrc) (cs : List (Nat × Nat)) (errs : List ScrubErr) (cls : Nat) :
    (s.withHo y).readChunks src cs errs cls = (s.readChunks src cs errs cls).map id (State.withHo · y) := by
  unfold State.readChunks
  refine List.foldl_hom (init := ([], s)) (Prod.map id (State.withHo · y)) fun acc c => ?_
  obtain ⟨ps, u⟩ := acc
  simp only [Prod.map, id, State.agentRead_withHo]

theorem State.getImage_withHo (pages : List Nat) (a n : Nat) :
    (s.withHo y).getImage pages a n = (s.getImage pages a n).map id (State.withHo · y) :=
  s.readChunks_withHo y ..

/-- The blocks of weight objects (R130) as a started command finds them. -/
theorem blocksOk_begun (h : CmdHdr) (ps : List (List Byte)) : (Begun h s).blocksOk ps = s.blocksOk ps := by
  have hobj (n : Nat) : (s.withHo (Begun h s).ho).objAt n = s.objAt n := rfl
  have himage (n u : Nat) : (s.withHo (Begun h s).ho).unitImage n u = s.unitImage n u := rfl
  rw [begun_eq_withHo]
  simp only [State.blocksOk, hobj, himage, State.getImage_withHo, Prod.map, id]

end

end Sys2Proof.Machine
end

section
/-! PROOFS. Descriptors that become FREE (09 Tables SERV-1, SERV-2): what freeing objects, overlays and models changes of the service's records, what the sweep
over the descriptors comes to for one model, and that commands that have completed stay so. -/
namespace Sys2Proof.Machine

open Sys2Proof

/-! #### Tables -/

theorem mem_keys_of_tget_ne {α : Type} {d : Nat → α} {t : Tab α} {i : Nat} (h : tget d t i ≠ d i) : i ∈ t.map (·.1) := by
  induction t with
  | nil => contradiction
  | cons p r ih =>
    obtain ⟨k, v⟩ := p
    rw [tget] at h
    split at h
    next hk => simp [hk]
    next => exact List.mem_cons_of_mem _ (ih h)

theorem mem_of_mem_tdel {α : Type} {t : Tab α} {i : Nat} {p : Nat × α} (h : p ∈ tdel t i) : p ∈ t := by
  induction t with
  | nil => exact h
  | cons q r ih =>
    obtain ⟨k, v⟩ := q
    rw [tdel] at h
    split at h
    · exact List.mem_cons_of_mem _ (ih h)
    · exact (List.mem_cons.mp h).elim (fun h => h ▸ List.mem_cons_self) fun h => List.mem_cons_of_mem _ (ih h)

/-! #### The service's records beside the tenants' charges -/

/-- The service's records with the tenants forgotten. -/
def State.besideTenants (s : State) : Service := { s.sv with tenant := [] }

/-- What the operations on objects, completions and handlers may change; the service's records stay. -/
def outsideService : Parts := { dr := true, tile := true, pages := true, fl := true, ti := true, cw := true, ho := true }

theorem State.besideTenants_of_off {s t : State} (h : t.off outsideService = s.off outsideService) : t.besideTenants = s.besideTenants := by
  rw [State.besideTenants, State.sv_of_off h, State.besideTenants]

theorem State.modelAt_of_besideTenants_eq {s t : State} (h : t.besideTenants = s.besideTenants) (m : Nat) : t.modelAt m = s.modelAt m :=
  (congrArg (fun x : Service => tget modelD x.model m) h :)

theorem State.model_of_besideTenants_eq {s t : State} (h : t.besideTenants = s.besideTenants) : t.sv.model = s.sv.model :=
  (congrArg Service.model h :)

theorem State.sess_of_besideTenants_eq {s t : State} (h : t.besideTenants = s.besideTenants) : t.sv.sess = s.sv.sess :=
  (congrArg Service.sess h :)

theorem State.overlay_of_besideTenants_eq {s t : State} (h : t.besideTenants = s.besideTenants) : t.sv.overlay = s.sv.overlay :=
  (congrArg Service.overlay h :)

section
variable (s : State)

@[simp] theorem State.besideTenants_setObj (n : Nat) (o : Obj) : (s.setObj n o).besideTenants = s.besideTenants := rfl
@[simp] theorem State.besideTenants_charge (t tier n : Nat) : (s.charge t tier n).besideTenants = s.besideTenants := rfl
@[simp] theorem State.besideTenants_discharge (t tier n : Nat) : (s.discharge t tier n).besideTenants = s.besideTenants := rfl

@[simp] theorem State.besideTenants_dropFrame (n u : Nat) : (s.dropFrame n u).besideTenants = s.besideTenants := by
  have hplace (tier loc : Nat) : (s.freePlace tier loc).besideTenants = s.besideTenants :=
    State.besideTenants_of_off (State.freePlace_off rfl s tier loc)
  unfold State.dropFrame
  dsimp only
  split
  · rw [State.besideTenants_setObj, State.besideTenants_charge, State.besideTenants_discharge, hplace]
  · rfl

@[simp] theorem State.besideTenants_dischargeUnits (o : Obj) : (s.dischargeUnits o).besideTenants = s.besideTenants :=
  foldl_keeps State.besideTenants _ _ _ fun _ _ => rfl

@[simp] theorem State.besideTenants_releasePages (n : Nat) : (s.releasePages n).besideTenants = s.besideTenants :=
  (State.besideTenants_of_off (State.clearPages_off rfl s ((s.objAt n).pages ++ (s.objAt n).mirror)) :)

@[simp] theorem State.besideTenants_freeObject (n : Nat) : (s.freeObject n).besideTenants = s.besideTenants := by
  have hpages : ((s.dropMaps (s.objAt n)).releasePages n).besideTenants = s.besideTenants := State.besideTenants_releasePages _ n
  have hframes := (foldl_keeps State.besideTenants (fun s u => s.dropFrame n u) (List.range (s.objAt n).nUnits) _
    fun s u => s.besideTenants_dropFrame n u).trans hpages
  unfold State.freeObject
  dsimp only
  rw [State.besideTenants_setObj]
  split
  · exact hframes
  · rw [State.besideTenants_dischargeUnits, hframes]

@[simp] theorem State.besideTenants_freeObjects (owner : W16) (ns : List Nat) : (s.freeObjects owner ns).besideTenants = s.besideTenants := by
  refine foldl_keeps State.besideTenants _ _ _ fun s n => ?_
  dsimp only
  split
  · split
    · rfl
    · exact s.besideTenants_freeObject n
  · rfl

@[simp] theorem State.besideTenants_unclaimAll (ns : List Nat) (c : Nat) : (s.unclaimAll ns c).besideTenants = s.besideTenants :=
  State.besideTenants_of_off (State.unclaimAll_off rfl ..)

@[simp] theorem State.besideTenants_dropOvClaims (v : Nat) : (s.dropOvClaims v).besideTenants = s.besideTenants :=
  State.besideTenants_of_off (State.dropOvClaims_off rfl ..)

@[simp] theorem State.besideTenants_finish (h : CmdHdr) (status : Nat) (result : W64) :
    (s.finish h status result).besideTenants = s.besideTenants :=
  State.besideTenants_of_off (State.finish_off rfl ..)

@[simp] theorem State.besideTenants_settle : s.settle.besideTenants = s.besideTenants :=
  State.besideTenants_of_off (State.settle_off rfl ..)

end

/-! #### The sweep -/

/-- Whether a session slot in use is of model `m`. -/
def State.hasSession (s : State) (m : Nat) : Bool := s.sv.sess.any fun q => q.2.state ≠ 0 && q.2.model.toNat = m

/-- Whether an overlay in use is of model `m`. -/
def State.hasOverlay (s : State) (m : Nat) : Bool := s.sv.overlay.any fun v => v.2.state ≠ 0 && v.2.model.toNat = m

section
variable {s t : State} {m : Nat}

theorem State.hasSession_of_sess_eq (h : t.sv.sess = s.sv.sess) : t.hasSession m = s.hasSession m := by rw [State.hasSession, h, State.hasSession]

theorem State.hasOverlay_of_overlay_eq (h : t.sv.overlay = s.sv.overlay) : t.hasOverlay m = s.hasOverlay m := by
  rw [State.hasOverlay, h, State.hasOverlay]

theorem State.hasOverlay_setOv_ovInit (v : Nat) (h : s.hasOverlay m = false) : (s.setOv v ovInit).hasOverlay m = false := by
  have htable : (s.setOv v ovInit).sv.overlay = tdel s.sv.overlay v := by
    show tput ovD s.sv.overlay v ovInit = _
    exact if_pos rfl
  rw [State.hasOverlay, List.any_eq_false] at h ⊢
  rw [htable]
  exact fun q hq => h q (mem_of_mem_tdel hq)

end

section
variable (s : State)

theorem State.besideTenants_tryFreeOverlay (v : Nat) :
    (s.tryFreeOverlay v).besideTenants = s.besideTenants ∨ (s.tryFreeOverlay v).besideTenants = (s.setOv v ovInit).besideTenants := by
  have hov : ((s.dropOvClaims v).setOv v ovInit).besideTenants = (s.setOv v ovInit).besideTenants :=
    (congrArg (fun x : Service => { x with overlay := tput ovD x.overlay v ovInit }) (s.besideTenants_dropOvClaims v) :)
  unfold State.tryFreeOverlay
  dsimp only
  split
  · right
    split
    · rw [State.besideTenants_finish, State.besideTenants_freeObjects, hov]
    · rw [State.besideTenants_freeObjects, hov]
  · exact .inl rfl

theorem State.model_tryFreeOverlay (v : Nat) : (s.tryFreeOverlay v).sv.model = s.sv.model := by
  rcases s.besideTenants_tryFreeOverlay v with h | h
  · exact State.model_of_besideTenants_eq h
  · exact (State.model_of_besideTenants_eq h).trans rfl

theorem State.sess_tryFreeOverlay (v : Nat) : (s.tryFreeOverlay v).sv.sess = s.sv.sess := by
  rcases s.besideTenants_tryFreeOverlay v with h | h
  · exact State.sess_of_besideTenants_eq h
  · exact (State.sess_of_besideTenants_eq h).trans rfl

theorem State.hasOverlay_tryFreeOverlay {m : Nat} (v : Nat) (hm : s.hasOverlay m = false) : (s.tryFreeOverlay v).hasOverlay m = false := by
  rcases s.besideTenants_tryFreeOverlay v with h | h
  · rw [State.hasOverlay_of_overlay_eq (State.overlay_of_besideTenants_eq h), hm]
  · rw [State.hasOverlay_of_overlay_eq (State.overlay_of_besideTenants_eq h), State.hasOverlay_setOv_ovInit v hm]

theorem State.tryFreeModel_of_used {m : Nat} (h : s.hasSession m = true) : s.tryFreeModel m = s := by
  rw [State.hasSession] at h
  unfold State.tryFreeModel
  dsimp only
  rw [h]
  exact if_neg fun ⟨_, hno, _⟩ => nomatch hno

theorem State.besideTenants_tryFreeModel_of_unused {m : Nat} (h3 : (s.modelAt m).state = 3) (hs : s.hasSession m = false) (ho : s.hasOverlay m = false) :
    (s.tryFreeModel m).besideTenants = (s.setModel m modelInit).besideTenants := by
  rw [State.hasSession] at hs
  rw [State.hasOverlay] at ho
  unfold State.tryFreeModel
  dsimp only
  rw [hs, ho, if_pos ⟨h3, rfl, rfl⟩, State.besideTenants_unclaimAll, State.besideTenants_freeObjects]

theorem State.besideTenants_tryFreeModel (k : Nat) :
    (s.tryFreeModel k).besideTenants = s.besideTenants ∨ (s.tryFreeModel k).besideTenants = (s.setModel k modelInit).besideTenants := by
  unfold State.tryFreeModel
  dsimp only
  split
  · right
    rw [State.besideTenants_unclaimAll, State.besideTenants_freeObjects]
  · exact .inl rfl

/-- Freeing one model leaves the sessions, the overlays and the other models. -/
theorem State.tryFreeModel_keeps (k : Nat) : (s.tryFreeModel k).sv.sess = s.sv.sess ∧ (s.tryFreeModel k).sv.overlay = s.sv.overlay ∧
    ∀ m, m ≠ k → (s.tryFreeModel k).modelAt m = s.modelAt m := by
  rcases s.besideTenants_tryFreeModel k with h | h
  · exact ⟨State.sess_of_besideTenants_eq h, State.overlay_of_besideTenants_eq h, fun m _ => State.modelAt_of_besideTenants_eq h m⟩
  · exact ⟨(State.sess_of_besideTenants_eq h).trans rfl, (State.overlay_of_besideTenants_eq h).trans rfl,
      fun m hm => (State.modelAt_of_besideTenants_eq h m).trans (s.modelAt_setModel_ne _ hm)⟩

/-- The overlays' part of the sweep leaves the models and the sessions, and a model without overlays stays so. -/
theorem State.tryFreeOverlays_keep (vs : List Nat) : (vs.foldl State.tryFreeOverlay s).sv.model = s.sv.model ∧
    (vs.foldl State.tryFreeOverlay s).sv.sess = s.sv.sess ∧ ∀ m, s.hasOverlay m = false → (vs.foldl State.tryFreeOverlay s).hasOverlay m = false :=
  ⟨foldl_keeps (fun s : State => s.sv.model) _ _ _ State.model_tryFreeOverlay, foldl_keeps (fun s : State => s.sv.sess) _ _ _ State.sess_tryFreeOverlay,
    fun m hm => List.foldlRecOn (motive := fun s : State => s.hasOverlay m = false) vs _ hm fun s hs v _ => s.hasOverlay_tryFreeOverlay v hs⟩

theorem State.model_tryRebinds : s.tryRebinds.sv.model = s.sv.model :=
  foldl_keeps (fun s : State => s.sv.model) _ _ _ fun s _ => State.model_of_besideTenants_eq (s.besideTenants_finish ..)

/-- After the overlays' and the models' part of the sweep the models stay as they are. -/
theorem State.modelAt_sweep (m : Nat) : s.sweep.modelAt m =
    ((s.sv.model.map (·.1)).foldl State.tryFreeModel ((s.sv.overlay.map (·.1)).foldl State.tryFreeOverlay s)).modelAt m := by
  rw [State.sweep, State.modelAt_of_besideTenants_eq (State.besideTenants_settle _), State.modelAt, State.model_tryRebinds]
  rfl

theorem State.tryFreeModel_of_init {m : Nat} (k : Nat) (h : s.modelAt m = modelInit) : (s.tryFreeModel k).modelAt m = modelInit := by
  rcases s.besideTenants_tryFreeModel k with hk | hk
  · rw [State.modelAt_of_besideTenants_eq hk, h]
  · rw [State.modelAt_of_besideTenants_eq hk, State.modelAt_setModel_if, h, ite_self]

theorem State.modelAt_tryFreeModels_of_used {m : Nat} (ks : List Nat) (h : s.hasSession m = true) :
    (ks.foldl State.tryFreeModel s).modelAt m = s.modelAt m := by
  induction ks generalizing s with
  | nil => rfl
  | cons k r ih =>
    obtain ⟨hsess, -, hothers⟩ := s.tryFreeModel_keeps k
    rw [List.foldl_cons, ih _ (by rw [State.hasSession_of_sess_eq hsess, h])]
    by_cases hk : m = k
    · rw [← hk, s.tryFreeModel_of_used h]
    · exact hothers m hk

theorem State.modelAt_tryFreeModels_of_unused {m : Nat} {ks : List Nat} (hm : m ∈ ks) (h3 : (s.modelAt m).state = 3) (hs : s.hasSession m = false)
    (ho : s.hasOverlay m = false) : (ks.foldl State.tryFreeModel s).modelAt m = modelInit := by
  induction ks generalizing s with
  | nil => contradiction
  | cons k r ih =>
    rw [List.foldl_cons]
    by_cases hk : m = k
    · have hfreed : (s.tryFreeModel k).modelAt m = modelInit := by
        rw [← hk, State.modelAt_of_besideTenants_eq (s.besideTenants_tryFreeModel_of_unused h3 hs ho), State.modelAt_setModel]
      exact List.foldlRecOn (motive := fun s : State => s.modelAt m = modelInit) r _ hfreed fun s h k _ => s.tryFreeModel_of_init k h
    · obtain ⟨hsess, hov, hothers⟩ := s.tryFreeModel_keeps k
      exact ih _ ((List.mem_cons.mp hm).resolve_left hk) (by rw [hothers m hk, h3]) (by rw [State.hasSession_of_sess_eq hsess, hs])
        (by rw [State.hasOverlay_of_overlay_eq hov, ho])

/-- A model with a session stays as it is. -/
theorem State.modelAt_sweep_of_used {m : Nat} (h : s.hasSession m = true) : s.sweep.modelAt m = s.modelAt m := by
  obtain ⟨hmodel, hsess, -⟩ := s.tryFreeOverlays_keep (s.sv.overlay.map (·.1))
  rw [State.modelAt_sweep, State.modelAt_tryFreeModels_of_used _ _ (by rw [State.hasSession_of_sess_eq hsess, h]), State.modelAt, hmodel]
  rfl

/-- A RETIRING model without sessions and overlays becomes FREE. -/
theorem State.modelAt_sweep_of_unused {m : Nat} (h3 : (s.modelAt m).state = 3) (hs : s.hasSession m = false) (ho : s.hasOverlay m = false) :
    s.sweep.modelAt m = modelInit := by
  obtain ⟨hmodel, hsess, hov⟩ := s.tryFreeOverlays_keep (s.sv.overlay.map (·.1))
  have hlisted : m ∈ s.sv.model.map (·.1) := mem_keys_of_tget_ne (d := modelD) fun hinit => by
    rw [State.modelAt, hinit] at h3
    contradiction
  rw [State.modelAt_sweep, State.modelAt_tryFreeModels_of_unused _ hlisted _ (by rw [State.hasSession_of_sess_eq hsess, hs]) (hov m ho)]
  rw [State.modelAt, hmodel]
  exact h3

/-! #### Completions through the sweep -/

/-- What the operations on objects and models may change; the mailboxes stay. -/
def outsideHost : Parts := { dr := true, tile := true, pages := true, fl := true, ti := true, cw := true, sv := true }

section
variable {s : State} {h : CmdHdr} {op status : Nat} {result : W64}

theorem completed_tryFreeOverlay (hc : Completed h op status result s) (v : Nat) : Completed h op status result (s.tryFreeOverlay v) := by
  have hfreed : (((s.dropOvClaims v).setOv v ovInit).freeObjects (s.ovAt v).tenant (s.ovAt v).objects).ho = s.ho :=
    State.ho_of_off (k := outsideHost) ((State.freeObjects_off rfl ..).trans ((State.setOv_off _ _ _ rfl).trans (State.dropOvClaims_off rfl ..)))
  unfold State.tryFreeOverlay
  dsimp only
  split
  · split
    · exact completed_finish (completed_of_ho_eq hc hfreed) _ _ _
    · exact completed_of_ho_eq hc hfreed
  · exact hc

theorem completed_tryRebinds (hc : Completed h op status result s) : Completed h op status result s.tryRebinds :=
  List.foldlRecOn (motive := Completed h op status result) _ _ (completed_of_ho_eq hc rfl) fun _ hc r _ => completed_finish hc r.hdr stDone 0

/-- The sweep completes commands; those that have completed stay so. -/
theorem completed_sweep (hc : Completed h op status result s) : Completed h op status result s.sweep := by
  have hov : Completed h op status result ((s.sv.overlay.map (·.1)).foldl State.tryFreeOverlay s) :=
    List.foldlRecOn (motive := Completed h op status result) _ _ hc fun _ hc v _ => completed_tryFreeOverlay hc v
  have hmodels : Completed h op status result
      ((s.sv.model.map (·.1)).foldl State.tryFreeModel ((s.sv.overlay.map (·.1)).foldl State.tryFreeOverlay s)) :=
    completed_of_ho_eq hov (State.ho_of_off (k := outsideHost) (foldl_off _ _ _ fun s k => State.tryFreeModel_off rfl s k))
  exact completed_of_ho_eq (completed_tryRebinds hmodels) (State.ho_of_off (k := outsideHost) (State.settle_off rfl _))

end

end

end Sys2Proof.Machine
end

section
/-! PROOFS. Claims of modules (08 R246): what placing a claim changes, and where a claim on a list of objects then stands. -/
namespace Sys2Proof.Machine

open Sys2Proof

/-! #### Folds that reach a property -/

/-- A fold reaches a property that the step at `a` establishes under an invariant, and that the other steps keep. -/
theorem foldl_reaches {σ β : Type} {inv done : σ → Prop} {f : σ → β → σ} {a : β} {l : List β} {s : σ} (ha : a ∈ l) (hs : inv s)
    (hinv : ∀ s b, inv s → inv (f s b)) (hdo : ∀ s, inv s → done (f s a)) (hkeep : ∀ s b, inv s → done s → done (f s b)) :
    done (l.foldl f s) := by
  induction l generalizing s with
  | nil => contradiction
  | cons b r ih =>
    rw [List.foldl_cons]
    rcases List.mem_cons.mp ha with rfl | hr
    · have hboth : inv (f s a) ∧ done (f s a) := ⟨hinv s a hs, hdo s hs⟩
      exact (List.foldlRecOn (motive := fun s => inv s ∧ done s) r f hboth fun s ⟨hi, hd⟩ b _ => ⟨hinv s b hi, hkeep s b hi hd⟩).2
    · exact ih hr (hinv s b hs)

/-! #### Claims of modules (R246) -/

/-- A promotion that starts: pages taken, a charge, the object's new record. -/
theorem State.startPromotion_eq {s t : State} {n : Nat} (h : s.startPromotion n = .ok t) :
    ∃ used o, t = (({ s with ti := { s.ti with used := used } } : State).charge (s.objAt n).payer 0 (s.objAt n).madderBytes).setObj n o := by
  unfold State.startPromotion at h
  dsimp only at h
  split at h
  · contradiction
  · split at h
    · contradiction
    · exact ⟨_, _, (Except.ok.inj h).symm⟩

section
variable (s : State) (n c : Nat)

/-- What placing a claim comes to: nothing, a new record of the object, or that with a promotion's start. -/
theorem State.modClaim_cases : s.modClaim n c = s ∨ (∃ o, s.modClaim n c = s.setObj n o) ∨ ∃ used o, s.modClaim n c =
    (({ s with ti := { s.ti with used := used } } : State).charge (s.objAt n).payer 0 (s.objAt n).madderBytes).setObj n o := by
  unfold State.modClaim
  dsimp only
  split
  · exact .inl rfl
  · split
    · exact .inr (.inl ⟨_, rfl⟩)
    · split
      · split
        · exact .inl rfl
        next t ht =>
          obtain ⟨used, o, rfl⟩ := State.startPromotion_eq ht
          exact .inr (.inr ⟨used, _, State.setObj_setObj ..⟩)
      · exact .inr (.inl ⟨_, rfl⟩)

@[simp] theorem State.besideTenants_modClaim : (s.modClaim n c).besideTenants = s.besideTenants := by
  rcases s.modClaim_cases n c with h | ⟨o, h⟩ | ⟨used, o, h⟩ <;> rw [h] <;> rfl

@[simp] theorem State.besideService_modClaim : (s.modClaim n c).besideService = s.besideService := by
  rcases s.modClaim_cases n c with h | ⟨o, h⟩ | ⟨used, o, h⟩ <;> rw [h] <;> rfl

theorem State.objAt_modClaim_ne {k : Nat} (h : k ≠ n) : (s.modClaim n c).objAt k = s.objAt k := by
  rcases s.modClaim_cases n c with hc | ⟨o, hc⟩ | ⟨used, o, hc⟩ <;> rw [hc]
  · exact State.objAt_setObj_ne _ _ h
  · exact State.objAt_setObj_ne _ _ h

/-- Whether an object takes a module claim at once: PROMOTING or RESIDENT, or a PIN object. -/
def Obj.takesClaim (o : Obj) : Prop := o.live = true ∧ (o.state ∈ [1, 2] ∨ (fPin o.flags = true ∧ o.state = 0))

variable {s n}

theorem State.modClaim_of_takesClaim (h : (s.objAt n).takesClaim) :
    s.modClaim n c = s.setObj n { s.objAt n with modClaims := setIns c (s.objAt n).modClaims } := by
  obtain ⟨hlive, hstate⟩ := h
  have hnow : (s.objAt n).state ≠ 4 ∧ (s.objAt n).state ≠ 3 ∧ ((s.objAt n).state = 0 → fPin (s.objAt n).flags = true) := by
    rcases hstate with h12 | ⟨hpin, h0⟩
    · rw [List.mem_cons, List.mem_singleton] at h12
      omega
    · simp [hpin, h0]
  obtain ⟨h4, h3, hpin⟩ := hnow
  unfold State.modClaim
  dsimp only
  rw [if_neg (by simp [hlive, h4]), if_neg h3, if_neg fun ⟨h0, hno⟩ => by simp [hpin h0] at hno]

/-- A DEMOTING object queues the claim. -/
theorem State.modClaim_of_demoting (hlive : (s.objAt n).live = true) (h3 : (s.objAt n).state = 3) : s.modClaim n c =
    s.setObj n { s.objAt n with queued := (s.objAt n).queued.filter (· ≠ .module c) ++ [.module c] } := by
  unfold State.modClaim
  dsimp only
  rw [if_neg (by simp [hlive, h3]), if_pos h3]

end

section
variable (s : State) (ns : List Nat) (c : Nat)

theorem State.besideTenants_claimAll : (s.claimAll ns c).besideTenants = s.besideTenants :=
  foldl_keeps State.besideTenants _ _ _ fun s n => s.besideTenants_modClaim n c

theorem State.besideService_claimAll : (s.claimAll ns c).besideService = s.besideService :=
  foldl_keeps State.besideService _ _ _ fun s n => s.besideService_modClaim n c

variable {s ns} {n : Nat}

/-- What a claim on object `n` establishes of its record, the claims of a list that holds `n` establish. -/
theorem State.claimAll_establishes {inv done : Obj → Prop} (hn : n ∈ ns) (h : inv (s.objAt n))
    (hclaim : ∀ s : State, inv (s.objAt n) → inv ((s.modClaim n c).objAt n) ∧ done ((s.modClaim n c).objAt n)) : done ((s.claimAll ns c).objAt n) := by
  refine foldl_reaches (inv := fun s : State => inv (s.objAt n)) (done := fun s : State => done (s.objAt n)) hn h
    (fun s k hi => ?_) (fun s hi => (hclaim s hi).2) fun s k hi hd => ?_
  · by_cases hk : n = k
    · exact hk ▸ (hclaim s hi).1
    · rw [s.objAt_modClaim_ne k c hk]
      exact hi
  · by_cases hk : n = k
    · exact hk ▸ (hclaim s hi).2
    · rw [s.objAt_modClaim_ne k c hk]
      exact hd

theorem State.mem_modClaims_claimAll (hn : n ∈ ns) (h : (s.objAt n).takesClaim) : c ∈ ((s.claimAll ns c).objAt n).modClaims :=
  State.claimAll_establishes (done := fun o => c ∈ o.modClaims) c hn h fun s h => by
    rw [State.modClaim_of_takesClaim c h, State.objAt_setObj]
    exact ⟨h, mem_setIns.mpr (.inl rfl)⟩

theorem State.mem_queued_claimAll (hn : n ∈ ns) (h : (s.objAt n).live = true ∧ (s.objAt n).state = 3) :
    Claimer.module c ∈ ((s.claimAll ns c).objAt n).queued :=
  State.claimAll_establishes (inv := fun o => o.live = true ∧ o.state = 3) (done := fun o => Claimer.module c ∈ o.queued) c hn h fun s ⟨hlive, h3⟩ => by
    rw [State.modClaim_of_demoting c hlive h3, State.objAt_setObj]
    exact ⟨⟨hlive, h3⟩, List.mem_append_right _ (List.mem_singleton_self _)⟩

end

end Sys2Proof.Machine
end

section
/-! PROOFS. The model commands (09 R263 to R265, Table SERV-1; 04 R130, R140; 12 Table HOST-9 0x0301 to 0x0305), each from its start to its completion. -/
namespace Sys2Proof.Machine

open Sys2Proof

/-! #### The model a command names (12 R348) -/

section
variable {s : State} {h : CmdHdr} {m : W16}

theorem State.ownModel_of_free (hm : m.toNat < 4096) (h0 : (s.modelAt m.toNat).state = 0) : s.ownModel h m = .ok (s.modelAt m.toNat) := by
  unfold State.ownModel
  dsimp only
  rw [if_neg (Nat.not_le.mpr hm), if_neg fun ⟨hused, _⟩ => hused h0]

theorem State.ownModel_of_owner (hm : m.toNat < 4096) (ho : (s.modelAt m.toNat).owner = h.tenant) : s.ownModel h m = .ok (s.modelAt m.toNat) := by
  unfold State.ownModel
  dsimp only
  rw [if_neg (Nat.not_le.mpr hm), if_neg fun ⟨_, hother⟩ => hother ho]

theorem State.ownModel_of_other (hm : m.toNat < 4096) (hused : (s.modelAt m.toNat).state ≠ 0) (ho : (s.modelAt m.toNat).owner ≠ h.tenant) :
    s.ownModel h m = .error 3 := by
  unfold State.ownModel
  dsimp only
  rw [if_neg (Nat.not_le.mpr hm), if_pos ⟨hused, ho⟩, stDomain]

theorem State.useModel_of_owner {t : W16} (hm : m.toNat < 4096) (ho : (s.modelAt m.toNat).owner = t ∨ (s.modelAt m.toNat).owner = 0) :
    s.useModel t m = .ok (s.modelAt m.toNat) := by
  unfold State.useModel
  dsimp only
  rw [if_neg (Nat.not_le.mpr hm), if_neg fun ⟨_, hother, htrunk⟩ => ho.elim hother htrunk]

end

/-! #### MODEL_LOAD -/

/-- The descriptor that an image of a tenant makes. -/
def loadedModel (tenant : W16) (b : List Byte) : ModelD :=
  { modelInit with state := 1, owner := tenant, hdr := b.take 96, pieces := imgPieces b, sched := imgSched b }

section
variable {s : State} {h : CmdHdr} {m : W16} {b : List Byte} {x : ModelD} (hown : s.ownModel h m = .ok x)
  (hnamed : ∀ n ∈ (loadedModel h.tenant b).objects, (s.objAt n).live = true ∧ s.mayName h.tenant n = true)
  (hok : (loadedModel h.tenant b).contentsOk = true)
include hown hnamed hok

/-- An image within its ranges whose objects exist and may be named is taken where its descriptor is FREE. -/
theorem State.modelLoad_of_ok : s.modelLoad h m b =
    if x.state ≠ 0 then s.finish h 2 else (s.setModel m.toNat (loadedModel h.tenant b)).finish h 0 := by
  have hdomain : ((loadedModel h.tenant b).objects.any fun n => (s.objAt n).live && !s.mayName h.tenant n) = false :=
    List.any_eq_false.mpr fun n hn => by simp [hnamed n hn]
  have hgone : ((loadedModel h.tenant b).objects.any fun n => !(s.objAt n).live) = false :=
    List.any_eq_false.mpr fun n hn => by simp [hnamed n hn]
  have hread : s.modelLoad h m b =
      if (loadedModel h.tenant b).objects.any fun n => (s.objAt n).live && !s.mayName h.tenant n then s.finish h stDomain
      else if !(loadedModel h.tenant b).contentsOk then s.finish h stFormat
      else if x.state ≠ 0 then s.finish h stState
      else if (loadedModel h.tenant b).objects.any fun n => !(s.objAt n).live then s.finish h stLayout
      else (s.setModel m.toNat (loadedModel h.tenant b)).finish h stDone := by
    rw [State.modelLoad, hown]
    rfl
  simp [hread, hdomain, hgone, hok, stState, stDone]

end

theorem State.modelLoad_of_refused {s : State} {h : CmdHdr} {m : W16} {b : List Byte} {e : Nat} (hown : s.ownModel h m = .error e) :
    s.modelLoad h m b = s.finish h e := by
  rw [State.modelLoad, hown]

/-! #### MODEL_PUBLISH -/

section
variable {s : State} {h : CmdHdr} {m : W16} {x : ModelD} (hown : s.ownModel h m = .ok x) (h1 : x.state = 1)
include hown h1

theorem State.modelPublish_of_loaded : s.modelPublish h m =
    if layoutOk x.home x.pieces = false then s.finish h 7
    else if x.contentsOk = false ∨ s.blocksOk x.pieces = false then s.finish h 1
    else ((s.setModel m.toNat { x with state := 2 }).claimAll x.objects (claimModel m.toNat)).finish h 0 := by
  rw [State.modelPublish, hown]
  simp [h1, stLayout, stFormat, stDone]

end

/-- What the completion of a MODEL_PUBLISH that has just started leaves, its claims placed. -/
theorem publish_result {s : State} {h : CmdHdr} {r : CmdRec} {m : Nat} {x : ModelD} (hr : s.cmdRec h = some r) (objs : List Nat) (c : Nat) {t : State}
    (ht : t = (((Begun h s).setModel m x).claimAll objs c).finish h 0) : Finished h r.opcode 0 0 t ∧ t.modelAt m = x ∧
    (∀ n ∈ objs, (s.objAt n).live = true →
      (((s.objAt n).state ∈ [1, 2] ∨ (fPin (s.objAt n).flags = true ∧ (s.objAt n).state = 0)) → c ∈ (t.objAt n).modClaims) ∧
      ((s.objAt n).state = 3 → Claimer.module c ∈ (t.objAt n).queued)) ∧ t = { s with ti := t.ti, ho := t.ho, sv := t.sv } := by
  have hrec : (((Begun h s).setModel m x).claimAll objs c).cmdRec h = some { r with started := true } := by
    rw [State.cmdRec_of_ho_eq (State.ho_of_off (k := { ti := true, sv := true }) (State.claimAll_off rfl ..))]
    exact cmdRec_begun_of_cmdRec hr
  have hobj (n : Nat) : t.objAt n = (((Begun h s).setModel m x).claimAll objs c).objAt n := ht ▸ State.objAt_finish ..
  refine ⟨ht ▸ finished_finish hrec 0 0, ?model, fun n hn hlive => ⟨fun htakes => ?placed, fun h3 => ?queued⟩, State.eq_of_besideService_eq ?frame⟩
  case model =>
    have hkept : t.besideTenants = ((Begun h s).setModel m x).besideTenants := by rw [ht, State.besideTenants_finish, State.besideTenants_claimAll]
    rw [State.modelAt_of_besideTenants_eq hkept, State.modelAt_setModel]
  case placed =>
    rw [hobj]
    exact State.mem_modClaims_claimAll c hn ⟨hlive, htakes⟩
  case queued =>
    rw [hobj]
    exact State.mem_queued_claimAll c hn ⟨hlive, h3⟩
  case frame =>
    rw [ht, State.besideService_finish, State.besideService_claimAll]
    rfl

/-! #### MODEL_RETIRE -/

/-- What the retirement of a PUBLISHED model that has just started leaves: it is RETIRING while a session is of it, FREE where nothing is. -/
theorem retire_result {s : State} {h : CmdHdr} {r : CmdRec} {m : Nat} {x : ModelD} (hr : s.cmdRec h = some r) (h3 : x.state = 3) {t : State}
    (ht : t = (((Begun h s).setModel m x).finish h 0).sweep) : Completed h r.opcode 0 0 t ∧
    (s.hasSession m = true → t.modelAt m = x) ∧ (s.hasSession m = false → s.hasOverlay m = false → t.modelAt m = modelInit) := by
  have hkept : (((Begun h s).setModel m x).finish h 0).besideTenants = ((Begun h s).setModel m x).besideTenants := State.besideTenants_finish ..
  have hmodel : (((Begun h s).setModel m x).finish h 0).modelAt m = x := by
    rw [State.modelAt_of_besideTenants_eq hkept, State.modelAt_setModel]
  have hsess : (((Begun h s).setModel m x).finish h 0).hasSession m = s.hasSession m :=
    State.hasSession_of_sess_eq ((State.sess_of_besideTenants_eq hkept).trans rfl)
  have hov : (((Begun h s).setModel m x).finish h 0).hasOverlay m = s.hasOverlay m :=
    State.hasOverlay_of_overlay_eq ((State.overlay_of_besideTenants_eq hkept).trans rfl)
  have hrec : ((Begun h s).setModel m x).cmdRec h = some { r with started := true } := cmdRec_begun_of_cmdRec hr
  subst ht
  refine ⟨completed_sweep (completed_of_finished (finished_finish hrec 0 0)), fun hused => ?used, fun hnone hfree => ?unused⟩
  case used => rw [State.modelAt_sweep_of_used _ (hsess.trans hused), hmodel]
  case unused => exact State.modelAt_sweep_of_unused _ (by rw [hmodel, h3]) (hsess.trans hnone) (hov.trans hfree)

/-! #### Calibration windows (04 R138) -/

theorem lt_nextWindow {w : Nat} (now : Nat) (hw : 0 < w) : now < nextWindow w now := by
  have hdiv := Nat.lt_div_mul_add (a := now) (Nat.mul_pos hw (by decide : 0 < 1000000))
  rw [nextWindow, Nat.add_mul, Nat.one_mul]
  exact hdiv

theorem nextWindow_le (w now : Nat) : nextWindow w now ≤ now + w * 1000000 := by
  rw [nextWindow, Nat.add_mul, Nat.one_mul]
  exact Nat.add_le_add_right (Nat.div_mul_le_self ..) _

theorem nextWindow_mod (w now : Nat) : nextWindow w now % (w * 1000000) = 0 := Nat.mul_mod_left ..

/-! #### Each command that stands ready -/

section
variable {s : State} {h : CmdHdr} {m : W16}

theorem exec_modelLoad_of_ready {b : List Byte} (hs : Ready (.modelLoad h m b) s) :
    exec (.modelLoad h m b) s = .next ((Begun h s).modelLoad h m b) :=
  congrArg Host.Outcome.next (State.onCmd_of_ready hs rfl _)

variable (hm : m.toNat < 4096)
include hm

theorem exec_modelPublish_of_ready (hs : Ready (.modelPublish h m) s) (ho : (s.modelAt m.toNat).owner = h.tenant) (h1 : (s.modelAt m.toNat).state = 1) :
    exec (.modelPublish h m) s = .next (if layoutOk (s.modelAt m.toNat).home (s.modelAt m.toNat).pieces = false then (Begun h s).finish h 7
      else if (s.modelAt m.toNat).contentsOk = false ∨ s.blocksOk (s.modelAt m.toNat).pieces = false then (Begun h s).finish h 1
      else (((Begun h s).setModel m.toNat { s.modelAt m.toNat with state := 2 }).claimAll (s.modelAt m.toNat).objects (claimModel m.toNat)).finish h 0) := by
  have hown : (Begun h s).ownModel h m = .ok (s.modelAt m.toNat) := State.ownModel_of_owner hm ho
  show execModelPublish h m s = _
  rw [execModelPublish, State.onCmd_of_ready hs rfl, State.modelPublish_of_loaded hown h1, blocksOk_begun]

theorem exec_modelRetire_of_ready (hs : Ready (.modelRetire h m) s) (ho : (s.modelAt m.toNat).owner = h.tenant) :
    exec (.modelRetire h m) s = .next (if (s.modelAt m.toNat).state ≠ 2 then (Begun h s).finish h 2
      else (((Begun h s).setModel m.toNat { s.modelAt m.toNat with state := 3 }).finish h 0).sweep) := by
  have hown : (Begun h s).ownModel h m = .ok (s.modelAt m.toNat) := State.ownModel_of_owner hm ho
  show execModelRetire h m s = _
  rw [execModelRetire, State.onCmd_of_ready hs rfl, hown]
  rfl

theorem exec_modelCalib_of_ready {window : W16} {clamp ovf sat : W32} {x : ModelD} (hs : Ready (.modelCalib h m window clamp ovf sat) s)
    (ho : (s.modelAt m.toNat).owner = h.tenant) (hx : (s.modelAt m.toNat).calAt s.now = x) (hused : x.state ≠ 0) :
    exec (.modelCalib h m window clamp ovf sat) s = .next (if window = 0 then (Begun h s).finish h 1
      else ((Begun h s).setModel m.toNat { x with
        calNext := some (⟨window.toNat, clamp, ovf, sat⟩, nextWindow x.cal.window s.now) }).finish h 0) := by
  have hown : (Begun h s).ownModel h m = .ok (s.modelAt m.toNat) := State.ownModel_of_owner hm ho
  have hnow : (Begun h s).now = s.now := rfl
  show execModelCalib h m window clamp ovf sat s = _
  rw [execModelCalib, State.onCmd_of_ready hs rfl, hown]
  simp only [hnow, hx, hused, ↓reduceIte]
  rfl

theorem exec_modelQuery_of_ready {what : Byte} (hs : Ready (.modelQuery h m what) s)
    (ho : (s.modelAt m.toNat).owner = h.tenant ∨ (s.modelAt m.toNat).owner = 0) :
    exec (.modelQuery h m what) s = .next (if what = 0 then (Begun h s).finishOut h (s.modelAt m.toNat).stateBlock
      else if what = 1 then (Begun h s).finishOut h (s.modelAt m.toNat).countBlock else (Begun h s).finish h 1) := by
  have huse : (Begun h s).useModel h.tenant m = .ok (s.modelAt m.toNat) := State.useModel_of_owner hm ho
  show execModelQuery h m what s = _
  rw [execModelQuery, State.onCmd_of_ready hs rfl, huse]
  rfl

end

/-- Settles O32: each command, once it stands ready, acts as its lemmas say. -/
theorem modelCommands : Obligations.ModelCommands := by
  refine ⟨fun h m b s y hs hm hy hhdr hpieces hsched hnamed => ?load, fun h m s hs hm ho h1 => ?publish, fun h m s hs hm ho h2 => ?retire,
    fun h m s hs hm ho h2 => ?retireRefused, fun h m window clamp ovf sat s x hs hm ho hx hused => ?calib,
    fun w now hw => ⟨lt_nextWindow now hw, nextWindow_le w now, nextWindow_mod w now⟩, fun h m what s hs hm ho => ?query⟩
  all_goals obtain ⟨r, hr, hop⟩ := State.cmdRec_of_ready hs rfl
  case load =>
    obtain rfl : y = loadedModel h.tenant b := hy
    have hok : (loadedModel h.tenant b).contentsOk = true := by
      rw [ModelD.contentsOk, Bool.and_eq_true, Bool.and_eq_true, List.all_eq_true, List.all_eq_true]
      exact ⟨⟨hhdr, hpieces⟩, hsched⟩
    rw [exec_modelLoad_of_ready hs]
    refine ⟨fun h0 => ?free, fun hused ho => ?own, fun hused ho => ?other⟩
    case free =>
      have hown : (Begun h s).ownModel h m = .ok (s.modelAt m.toNat) := State.ownModel_of_free hm h0
      rw [State.modelLoad_of_ok hown hnamed hok, if_neg (not_not_intro h0), finish_setModel_begun hr]
    case own =>
      have hown : (Begun h s).ownModel h m = .ok (s.modelAt m.toNat) := State.ownModel_of_owner hm ho
      rw [State.modelLoad_of_ok hown hnamed hok, if_pos hused, finish_begun hr]
    case other =>
      have hother : (Begun h s).ownModel h m = .error 3 := State.ownModel_of_other hm hused ho
      rw [State.modelLoad_of_refused hother, finish_begun hr]
  case publish =>
    rw [exec_modelPublish_of_ready hm hs ho h1, finish_begun hr, finish_begun hr]
    refine ⟨fun hlayout => ?layout, fun hlayout hbad => ?contents, fun hlayout hcontents hblocks => ?published⟩
    case layout => rw [if_pos hlayout]
    case contents => rw [if_neg (by simp [hlayout]), if_pos hbad]
    case published =>
      rw [if_neg (by simp [hlayout]), if_neg (by simp [hcontents, hblocks])]
      obtain ⟨hdone, hmodel, hclaims, hframe⟩ := publish_result hr (x := { s.modelAt m.toNat with state := 2 }) (s.modelAt m.toNat).objects
        (claimModel m.toNat) rfl
      exact ⟨_, rfl, hop ▸ hdone, hmodel, hclaims, hframe⟩
  case retire =>
    rw [exec_modelRetire_of_ready hm hs ho, if_neg (not_not_intro h2)]
    obtain ⟨hdone, hused, hfree⟩ := retire_result hr (x := { s.modelAt m.toNat with state := 3 }) rfl rfl
    exact ⟨_, rfl, hop ▸ hdone, hused, hfree⟩
  case retireRefused => rw [exec_modelRetire_of_ready hm hs ho, if_pos h2, finish_begun hr]
  case calib => rw [exec_modelCalib_of_ready hm hs ho hx hused, finish_begun hr, finish_setModel_begun hr]
  case query => rw [exec_modelQuery_of_ready hm hs ho, finishOut_begun hr, finishOut_begun hr, finish_begun hr]

end Sys2Proof.Machine
end

section
/-! PROOFS. Dense arrays, the records of one array (05 R156, R157): slots and jobs after each update, promotion, the rows of a job that is in the queue. -/
namespace Sys2Proof.Machine

open Sys2Proof

section
variable (x : ArrayU)

/-! #### Slots and jobs read back -/

@[simp] theorem ArrayU.slot_setSlot (k : Nat) (v : Slot) : (x.setSlot k v).slot k = v := tget_tput_same ..
theorem ArrayU.slot_setSlot_ne {i k : Nat} (v : Slot) (h : i ≠ k) : (x.setSlot k v).slot i = x.slot i := tget_tput_ne _ _ _ h
theorem ArrayU.slot_setSlot_if (i k : Nat) (v : Slot) : (x.setSlot k v).slot i = if i = k then v else x.slot i := tget_tput ..
@[simp] theorem ArrayU.jobs_setSlot (k : Nat) (v : Slot) : (x.setSlot k v).jobs = x.jobs := rfl
@[simp] theorem ArrayU.job_setSlot (k : Nat) (v : Slot) (j : Nat) : (x.setSlot k v).job j = x.job j := rfl
@[simp] theorem ArrayU.slot_setJob (j : Nat) (v : ArrJob) (k : Nat) : (x.setJob j v).slot k = x.slot k := rfl

theorem ArrayU.job_setJob {j : Nat} (v : ArrJob) (h : j < x.jobs.length) : (x.setJob j v).job j = v := by
  simp [ArrayU.job, ArrayU.setJob, h]

theorem ArrayU.job_setJob_ne {i j : Nat} (v : ArrJob) (h : i ≠ j) : (x.setJob j v).job i = x.job i := by
  simp [ArrayU.job, ArrayU.setJob, List.getD_eq_getElem?_getD, List.getElem?_set_ne (Ne.symm h)]

theorem ArrayU.job_of_cons {j : ArrJob} {r : List ArrJob} (h : x.jobs = j :: r) : x.job 0 = j := by rw [ArrayU.job, h, List.getD_cons_zero]

/-! #### Promotion (R157) -/

/-- Promotion changes no job, and of a slot only that a FREE one may fill. -/
theorem ArrayU.promote_cases : x.promote.jobs = x.jobs ∧
    ∀ k, x.promote.slot k = x.slot k ∨ ((x.slot k).state = 0 ∧ x.promote.slot k = { x.slot k with state := 1 }) := by
  refine List.foldlRecOn (motive := fun y : ArrayU => y.jobs = x.jobs ∧
    ∀ k, y.slot k = x.slot k ∨ ((x.slot k).state = 0 ∧ y.slot k = { x.slot k with state := 1 })) _ _ ⟨rfl, fun _ => .inl rfl⟩ ?_
  intro y ⟨hjobs, hslots⟩ i _
  dsimp only
  split
  next hfree =>
    refine ⟨hjobs, fun k => ?_⟩
    rw [ArrayU.slot_setSlot_if]
    split
    next hk =>
      subst hk
      rcases hslots k with h | ⟨_, h⟩
      · exact .inr ⟨h ▸ hfree.1, by rw [h]⟩
      · exact absurd hfree.1 (by simp [h])
    next => exact hslots k
  next => exact ⟨hjobs, hslots⟩

@[simp] theorem ArrayU.jobs_promote : x.promote.jobs = x.jobs := x.promote_cases.1

@[simp] theorem ArrayU.job_promote (j : Nat) : x.promote.job j = x.job j := by rw [ArrayU.job, x.jobs_promote, ArrayU.job]

@[simp] theorem ArrayU.entries_slot_promote (k : Nat) : (x.promote.slot k).entries = (x.slot k).entries := by
  rcases x.promote_cases.2 k with h | ⟨_, h⟩ <;> rw [h]

theorem ArrayU.slot_promote_of_state_ne {k : Nat} (h : (x.slot k).state ≠ 0) : x.promote.slot k = x.slot k :=
  (x.promote_cases.2 k).resolve_right fun hc => h hc.1

/-! #### A slot whose job is not in the queue has no rows -/

theorem ArrayU.lt_length_of_mem_active {j i : Nat} (h : i ∈ (x.job j).active) : j < x.jobs.length := by
  rcases Nat.lt_or_ge j x.jobs.length with hj | hj
  · exact hj
  · have hinit : x.job j = jobInit := by rw [ArrayU.job, List.getD_eq_getElem?_getD, List.getElem?_eq_none hj, Option.getD_none]
    have hnil : jobInit.active = [] := by rfl
    rw [hinit, hnil] at h
    exact absurd h List.not_mem_nil

theorem mem_active_of_mem_slotRows {j : ArrJob} {sl : Slot} {i : Nat} (h : i ∈ slotRows j sl) : i ∈ j.active := by
  unfold slotRows at h
  split at h
  · exact (List.mem_filter.mp h).1
  · exact h

/-- Whether an entry of a row that enters the grid is flagged (R154). -/
def Slot.flagged (sl : Slot) (j : ArrJob) : Bool := sl.entries.any fun q => q.2.ovf && j.active.contains (q.1 / 64)

theorem ArrayU.lt_length_of_flagged {sl : Slot} {j : Nat} (h : sl.flagged (x.job j) = true) : j < x.jobs.length := by
  obtain ⟨q, _, hq⟩ := List.any_eq_true.mp h
  rw [Bool.and_eq_true, List.contains_iff_mem] at hq
  exact x.lt_length_of_mem_active hq.2

@[simp] theorem entries_slotAdvance (d : List Byte) (rows : List Nat) (sl : Slot) (i : Nat) : (slotAdvance d rows sl i).entries = sl.entries := by
  unfold slotAdvance
  split
  · rfl
  · split <;> rfl

/-! #### Which slot is served (R156) -/

theorem ArrayU.mem_order {k : Nat} : k ∈ x.order ↔ k < 2 := by
  unfold ArrayU.order
  dsimp only
  split <;> simp <;> omega

/-- While a slot replays, only a replaying slot is loaded with weights. -/
theorem ArrayU.state_of_wanted {i k sl : Nat} (h : x.wanted = some (k, sl)) (hi : i < 2) (hr : (x.slot i).state = 2) : (x.slot k).state = 2 := by
  have hmem : i ∈ x.order.filter fun k => (x.slot k).state = 2 := List.mem_filter.mpr ⟨x.mem_order.mpr hi, by simpa using hr⟩
  have hne : (!(x.order.filter fun k => (x.slot k).state = 2).isEmpty) = true := by
    rw [Bool.not_eq_true', List.isEmpty_eq_false_iff]
    exact List.ne_nil_of_mem hmem
  unfold ArrayU.wanted at h
  dsimp only at h
  rw [if_pos hne] at h
  rcases List.mem_append.mp (List.mem_of_find?_eq_some h) with hc | hc
  · obtain ⟨p, hp, he⟩ := List.mem_map.mp hc
    obtain rfl : p = k := congrArg Prod.fst he
    simpa using (List.mem_filter.mp (List.mem_filter.mp hp).1).2
  · obtain ⟨p, hp, he⟩ := List.mem_filterMap.mp hc
    obtain rfl : p = k := by
      split at he
      · exact congrArg Prod.fst (Option.some.inj he)
      · contradiction
    simpa using (List.mem_filter.mp (List.mem_filter.mp hp).1).2

/-! #### The end of a fill or a pass (R154) -/

section
variable {x} {k p : Nat} {sl : Slot} {j : ArrJob} (hsl : sl = x.slot k) (hj : j = x.job sl.job)
include hsl hj

theorem ArrayU.finish_of_flagged (hf : sl.flagged j = true) (hp : p ≤ 3) : x.finish k p =
    (({ x with wregs := [] }).setSlot k (beginPass j sl p).1).setJob sl.job
      { j with replays := satAdd (2 ^ 32 - 1) j.replays (sl.entries.countP fun q : Nat × Entry => q.2.ovf && j.active.contains (q.1 / 64)) } := by
  subst hj hsl
  rw [List.countP_eq_length_filter]
  exact if_pos ⟨hf, hp⟩

theorem ArrayU.slot_finish_of_flagged (hf : sl.flagged j = true) (hp : p ≤ 3) : (x.finish k p).slot k = (beginPass j sl p).1 := by
  rw [ArrayU.finish_of_flagged hsl hj hf hp, ArrayU.slot_setJob, ArrayU.slot_setSlot]

theorem ArrayU.job_finish_of_flagged (hf : sl.flagged j = true) (hp : p ≤ 3) : (x.finish k p).job sl.job =
    { j with replays := satAdd (2 ^ 32 - 1) j.replays (sl.entries.countP fun q : Nat × Entry => q.2.ovf && j.active.contains (q.1 / 64)) } := by
  rw [ArrayU.finish_of_flagged hsl hj hf hp]
  exact ArrayU.job_setJob _ _ (x.lt_length_of_flagged (hj ▸ hf))

theorem ArrayU.finish_of_other_drains (hf : ¬ (sl.flagged j = true ∧ p ≤ 3)) (ho : (x.slot (1 - k)).state = 3) : x.finish k p = x := by
  subst hj hsl
  exact (if_neg hf).trans (if_pos ho)

theorem ArrayU.finish_of_drain (hf : ¬ (sl.flagged j = true ∧ p ≤ 3)) (ho : (x.slot (1 - k)).state ≠ 3) : x.finish k p =
    (x.setSlot k { sl with state := 3, pass := 0, slice := jFirst j.desc + jCount j.desc - 1 }).promote := by
  subst hj hsl
  exact (if_neg hf).trans (if_neg ho)

theorem ArrayU.slot_finish_of_drain (hf : ¬ (sl.flagged j = true ∧ p ≤ 3)) (ho : (x.slot (1 - k)).state ≠ 3) :
    (x.finish k p).slot k = { sl with state := 3, pass := 0, slice := jFirst j.desc + jCount j.desc - 1 } := by
  rw [ArrayU.finish_of_drain hsl hj hf ho, ArrayU.slot_promote_of_state_ne _ (by simp), ArrayU.slot_setSlot]

end

end

/-! #### Updates of an accumulator (R153, R155) and the grid integer (R151) -/

/-- Grid integers in the range of an i40 are as the clamp of pass 3 leaves them. -/
theorem map_clampI_of_bounds {y : List Int} (h : ∀ v ∈ y, -549755813888 ≤ v ∧ v ≤ 549755813887) : y.map (clampI i40Min i40Max) = y := by
  refine (List.map_congr_left fun v hv => ?_).trans (List.map_id y)
  obtain ⟨hlo, hhi⟩ := h v hv
  rw [clampI, if_neg (by simpa [i40Min] using hlo), if_neg (by simpa [i40Max] using hhi), id]

/-- One update from grid integers in the range of an i40: only the sum can leave its range. -/
theorem accStep_of_bounds {e : Entry} {y : List Int} (he : e.ovf = false) (h : ∀ v ∈ y, -549755813888 ≤ v ∧ v ≤ 549755813887) (last : Bool) :
    accStep last e y = if last then { e with acc := clampI i32Min i32Max (e.acc + sumInts y),
                                             sat := e.sat || decide (e.acc + sumInts y < i32Min ∨ i32Max < e.acc + sumInts y) }
      else if e.acc + sumInts y < i32Min ∨ i32Max < e.acc + sumInts y then { e with ovf := true } else { e with acc := e.acc + sumInts y } := by
  cases last <;> simp [accStep, he, map_clampI_of_bounds h]

/-- The grid integer is the floor of t · 2^f in units of 2^e, with the random word added below the point. -/
theorem gridY_of_lt {f e : Int} (t : Int) (r : W64) (h : f < e) :
    gridY t f e r = (t * 2 ^ 64 + r.toNat * 2 ^ (e - f).toNat) / 2 ^ (64 + (e - f).toNat) := if_neg (by omega)

end Sys2Proof.Machine
end

section
/-! PROOFS. Dense arrays, the instructions of one array (05 R145, R157, R164 to R167): what each comes to where the array is not held. -/
namespace Sys2Proof.Machine

open Sys2Proof

/-! #### A job's start (R145) -/

/-- A job whose turn has come starts: as refused where the array does not run it. -/
theorem arrayJobStart_of_turn {s : State} {a k : Nat} (pageOf : Nat → Option (BitVec 14)) (ht : (s.arrAt a).turn = some k)
    (hs : (s.arrAt a).stopped = false) (ho : (s.arrAt a).oos = false) :
    ∃ j, arrayJobStart pageOf s a = s.setArr a ((s.arrAt a).setJob k j) ∧ j.started = true ∧
      j.refused = (((s.arrAt a).job k).refused || !jAccept (s.tileAt (a / 2)) ((s.arrAt a).job k).desc) := by
  unfold arrayJobStart
  simp only [ht, hs, ho, Bool.or_self, Bool.false_eq_true, if_false]
  refine ⟨_, rfl, ?_, ?_⟩
  · split
    · split <;> rfl
    · rfl
  · split
    next h => split <;> simp [startRows, h]
    next h => simp [h]

theorem arrayJobStart_of_held {s : State} {a k : Nat} (pageOf : Nat → Option (BitVec 14)) (ht : (s.arrAt a).turn = some k)
    (h : (s.arrAt a).stopped = true ∨ (s.arrAt a).oos = true) : arrayJobStart pageOf s a = s := by
  unfold arrayJobStart
  simp only [ht, Bool.or_eq_true, h, if_true]

theorem ArrayU.lt_length_of_turn {x : ArrayU} {k : Nat} (h : x.turn = some k) : k < x.jobs.length := by
  unfold ArrayU.turn at h
  split at h
  · contradiction
  next hi =>
    split at h
    · cases h
      exact (List.findIdx?_eq_some_iff_findIdx_eq.mp hi).1
    · contradiction

/-! #### The array after an event that may be a halt point (R167) -/

section
variable (s : State) (a : Nat) (x : ArrayU) (point : Bool)

@[simp] theorem State.slot_arrAt_setArrAt (k : Nat) : ((s.setArrAt a x point).arrAt a).slot k = x.slot k := by rw [State.setArrAt, State.arrAt_setArr]; rfl
@[simp] theorem State.jobs_arrAt_setArrAt : ((s.setArrAt a x point).arrAt a).jobs = x.jobs := by rw [State.setArrAt, State.arrAt_setArr]
@[simp] theorem State.job_arrAt_setArrAt (j : Nat) : ((s.setArrAt a x point).arrAt a).job j = x.job j := by rw [State.setArrAt, State.arrAt_setArr]; rfl
@[simp] theorem State.due_arrAt_setArrAt : ((s.setArrAt a x point).arrAt a).due = (point && s.haltAsked a) := by rw [State.setArrAt, State.arrAt_setArr]

end

section
variable {s : State} {a : ArrayId}

/-! #### An array that is held does nothing (R166, R167) -/

theorem exec_of_arrHeld (h : s.arrHeld a = true) : exec (.outputTileSlot a) s = .next s ∧ exec (.weightTileLoaded a) s = .next s ∧
    exec (.rowPass a) s = .next s ∧ exec (.fillEnd a) s = .next s ∧ exec (.replayPassEnd a) s = .next s ∧ exec (.drainEnd a) s = .next s := by
  refine ⟨?outputTileSlot, ?weightTileLoaded, ?rowPass, ?fillEnd, ?replayPassEnd, ?drainEnd⟩
  case rowPass =>
    show execRowPass a s = _
    simp only [execRowPass, h, Bool.true_or, if_true]
    split
    · rfl
    · split <;> rfl
  case outputTileSlot => show execOutputTileSlot a s = _; simp only [execOutputTileSlot, h, true_or, if_true]; split <;> rfl
  case weightTileLoaded => show execWeightTileLoaded a s = _; simp only [execWeightTileLoaded, h, true_or, if_true]; split <;> rfl
  case fillEnd => show execFillEnd a s = _; simp only [execFillEnd, h, if_true]; split <;> rfl
  case replayPassEnd => show execReplayPassEnd a s = _; simp only [execReplayPassEnd, h, if_true]; split <;> rfl
  case drainEnd => show execDrainEnd a s = _; simp only [execDrainEnd, h, if_true]; split <;> rfl

/-! #### What each does else -/

section
variable {x : ArrayU} {k : Nat} (hx : x = s.arrAt a) (h : s.arrHeld a = false)
include hx h

theorem exec_outputTileSlot_of_free {n : Nat} (hn : x.nextJob = some n) (hs : (x.slot 0).state = 0) (ht : (x.slot 0).taken = false) :
    exec (.outputTileSlot a) s = .next (s.setArr a ((x.setSlot 0 { slotInit with
      taken := true, job := n, tile := (x.job n).tiles, col := jN0 (x.job n).desc + 64 * (x.job n).tiles, rows := jB (x.job n).desc
      slice := jFirst (x.job n).desc, state := if jOp (x.job n).desc = 1 then 3 else 0 }).setJob n { x.job n with tiles := (x.job n).tiles + 1 })) := by
  subst hx
  show execOutputTileSlot a s = _
  simp [execOutputTileSlot, hn, h, hs, ht]

theorem exec_weightTileLoaded_of_wanted {sl : Nat} {slot : Slot} {y : ArrayU} (hslot : slot = x.slot k) (hw : x.wanted = some (k, sl))
    (hl : x.liveRegs.length < 2)
    (hy : y = { x with wregs := x.liveRegs ++ [loadTile (s.tileAt (a / 2)) (x.job slot.job).desc k sl slot.col] }) :
    exec (.weightTileLoaded a) s =
      .next (s.setArr a (if slot.state = 0 ∧ x.busy (1 - k) = false then y.setSlot k { slot with state := 1 } else y)) := by
  subst hx hslot hy
  show execWeightTileLoaded a s = _
  unfold execWeightTileLoaded
  simp only [hw, h, Nat.not_le.mpr hl, Bool.false_eq_true, or_self, if_false]

theorem exec_rowPass_of_active {i : Nat} {w : WReg} {sl sl1 : Slot} {j : ArrJob} {tl : Tile} {r : RowIn} (hsl : sl = x.slot k) (hj : j = x.job sl.job)
    (htl : tl = s.tileAt (a / 2)) (hk : x.activeSlot = some k) (hi : (slotRows j sl).find? (fun r => sl.next ≤ r) = some i)
    (hw : x.wregs.find? (fun w => w.slot = k && w.slice = sl.slice) = some w) (hfull : x.isFull k = false)
    (hr : r = rowIn tl j.desc i sl.slice) (hsl1 : sl1 = slotAdvance j.desc (slotRows j sl) sl i) :
    exec (.rowPass a) s = .next (s.setArrAt a (if scaleOk r.sa then
        (x.setSlot k { sl1 with entries := passRow j.desc sl w r i (w.poison || rowInPoison tl j.desc i sl.slice) }).promote
      else ((x.setSlot k sl1).setJob sl.job { j with rowsRefused := setIns i j.rowsRefused }).promote)
      (sl.state == 2 || sl1.slice != sl.slice)) := by
  subst hx hsl hj htl hr hsl1
  show execRowPass a s = _
  unfold execRowPass
  simp only [hk, hi, hw, h, hfull, Bool.or_self, Bool.false_eq_true, if_false]
  split <;> rfl

theorem exec_fillEnd_of_full (hk : x.order.find? (fun k => (x.slot k).state = 1 && x.isFull k) = some k) :
    exec (.fillEnd a) s = .next (s.setArrAt a (x.finish k 1) true) := by
  subst hx
  show execFillEnd a s = _
  simp [execFillEnd, hk, h]

theorem exec_replayPassEnd_of_full (hk : x.order.find? (fun k => (x.slot k).state = 2 && x.isFull k) = some k) :
    exec (.replayPassEnd a) s = .next (s.setArrAt a (x.finish k ((x.slot k).pass + 1)) true) := by
  subst hx
  show execReplayPassEnd a s = _
  simp [execReplayPassEnd, hk, h]

end

/-! #### Halts (R167) -/

theorem exec_arrayHalt_eq : exec (.arrayHalt a) s = if (s.haltAsked a && ((s.arrAt a).due || (s.arrAt a).idle)) = true then
    .next (s.setArr a { s.arrAt a with halted := true, due := false }) else .next s := rfl

theorem State.haltAsked_of_diagnostic (h : (s.tileAt (a / 2)).state = 3) :
    s.haltAsked a = if a.val % 2 = 0 then (s.tileAt (a / 2)).haltA else (s.tileAt (a / 2)).haltB := by
  simp [State.haltAsked, h]

theorem State.haltAsked_of_not_diagnostic (h : (s.tileAt (a / 2)).state ≠ 3) : s.haltAsked a = false := by
  simp [State.haltAsked, h]

end

end Sys2Proof.Machine
end

section
/-! PROOFS. Dense arrays, the ends of a job (05 R147, R148, R157, R166): what accesses to Weld do to queued jobs, what a drain, an end and a parity error leave. -/
namespace Sys2Proof.Machine

open Sys2Proof

/-! #### Accesses to Weld (R147) -/

theorem tget_map_of_default {α : Type} {d : Nat → α} {f : Nat → α → α} {i : Nat} (h : f i (d i) = d i) (t : Tab α) :
    tget d (t.map fun q => (q.1, f q.1 q.2)) i = f i (tget d t i) := by
  induction t with
  | nil => exact h.symm
  | cons q r ih =>
    rw [List.map_cons, tget, tget]
    split
    next hk => rw [hk]
    next => exact ih

/-- The array after an access to [off, off + n) of its tile's Weld. -/
def ArrayU.touched (off n : Nat) (write : Bool) (x : ArrayU) : ArrayU := { x with jobs := x.jobs.map (·.touched off n write) }

section
variable (s : State)

theorem State.arrAt_weldTouch (t off n : Nat) (write : Bool) (a : Nat) :
    (s.weldTouch t off n write).arrAt a = if a / 2 = t then (s.arrAt a).touched off n write else s.arrAt a := by
  refine tget_map_of_default (d := arrD) (f := fun k x => if k / 2 = t then x.touched off n write else x) ?_ s.arr
  exact ite_self _

@[simp] theorem State.slots_arrAt_weldTouch (t off n : Nat) (write : Bool) (a : Nat) :
    ((s.weldTouch t off n write).arrAt a).slots = (s.arrAt a).slots := by
  rw [State.arrAt_weldTouch]
  split <;> rfl

@[simp] theorem State.length_jobs_arrAt_weldTouch (t off n : Nat) (write : Bool) (a : Nat) :
    ((s.weldTouch t off n write).arrAt a).jobs.length = (s.arrAt a).jobs.length := by
  rw [State.arrAt_weldTouch]
  split
  · exact List.length_map ..
  · rfl

/-- Accesses to rows of outputs, one after the other. -/
def State.weldTouches (t n : Nat) (rows : List (Nat × List (List Byte × Bool × Bool))) : State := rows.foldl (fun s r => s.weldTouch t r.1 n true) s

section
variable (t n : Nat) (rows : List (Nat × List (List Byte × Bool × Bool)))

theorem State.weldTouches_eq : s.weldTouches t n rows = { s with arr := (s.weldTouches t n rows).arr } := by
  have h : ({ s.weldTouches t n rows with arr := [] } : State) = { s with arr := [] } :=
    foldl_keeps (fun s : State => ({ s with arr := [] } : State)) _ rows s fun _ _ => rfl
  exact congrArg (fun u : State => { u with arr := (s.weldTouches t n rows).arr }) h

theorem State.slot_arrAt_weldTouches (a k : Nat) : ((s.weldTouches t n rows).arrAt a).slot k = (s.arrAt a).slot k :=
  congrArg (tget slotD · k) (foldl_keeps (fun s : State => (s.arrAt a).slots) _ rows s fun s _ => s.slots_arrAt_weldTouch ..)

theorem State.length_jobs_arrAt_weldTouches (a : Nat) : ((s.weldTouches t n rows).arrAt a).jobs.length = (s.arrAt a).jobs.length :=
  foldl_keeps (fun s : State => (s.arrAt a).jobs.length) _ rows s fun s _ => s.length_jobs_arrAt_weldTouch ..

end

end

/-! #### The end of a drain (R157) -/

/-- The state once the rows of slot `k` are in Weld: the slot is FREE, and its job counts the tile. -/
def State.drained (s : State) (a k : Nat) (sl : Slot) (j : ArrJob) (rows : List (Nat × List (List Byte × Bool × Bool))) : State :=
  let s1 := (s.setTile (a / 2) (drainTo (s.tileAt (a / 2)) rows)).weldTouches (a / 2) (64 * jSize j.desc) rows
  (s1.setArrAt a (((s1.arrAt a).setSlot k slotInit).setJob sl.job (j.afterDrain sl.tile rows s.time)) true).useFree
    (if j.undef then 64 * jB j.desc else 0)

section
variable {s : State} {a : ArrayId} {k : Nat} {x : ArrayU} {sl : Slot} {j : ArrJob} {rows : List (Nat × List (List Byte × Bool × Bool))}

theorem exec_drainEnd_of_drains (hx : x = s.arrAt a) (hsl : sl = x.slot k) (hj : j = x.job sl.job)
    (hk : [0, 1].find? (fun k => (x.slot k).state = 3) = some k) (h : s.arrHeld a = false) :
    exec (.drainEnd a) s = .next (s.drained a k sl j (drainRows (s.tileAt (a / 2)) j sl s.freeCount)) := by
  subst hx hsl hj
  show execDrainEnd a s = _
  unfold execDrainEnd
  simp only [hk, h, Bool.false_eq_true, if_false]
  rfl

theorem slot_drained : ((s.drained a k sl j rows).arrAt a).slot k = slotInit := by
  rw [State.drained, State.arrAt_useFree', State.slot_arrAt_setArrAt, ArrayU.slot_setJob, ArrayU.slot_setSlot]

theorem slot_drained_ne {i : Nat} (h : i ≠ k) : ((s.drained a k sl j rows).arrAt a).slot i = (s.arrAt a).slot i := by
  rw [State.drained, State.arrAt_useFree', State.slot_arrAt_setArrAt, ArrayU.slot_setJob, ArrayU.slot_setSlot_ne _ _ h,
    State.slot_arrAt_weldTouches, State.arrAt_setTile']

theorem job_drained (h : sl.job < (s.arrAt a).jobs.length) :
    ((s.drained a k sl j rows).arrAt a).job sl.job = j.afterDrain sl.tile rows s.time := by
  rw [State.drained, State.arrAt_useFree', State.job_arrAt_setArrAt]
  refine ArrayU.job_setJob _ _ ?_
  rw [ArrayU.jobs_setSlot, State.length_jobs_arrAt_weldTouches]
  exact h

theorem drained_eq : s.drained a k sl j rows = { s.setTile (a / 2) (drainTo (s.tileAt (a / 2)) rows) with
    arr := (s.drained a k sl j rows).arr, freeCount := (s.drained a k sl j rows).freeCount } := by
  rw [State.drained, State.weldTouches_eq]
  rfl

theorem tileAt_drained (i : Nat) : (s.drained a k sl j rows).tileAt i = (s.setTile (a / 2) (drainTo (s.tileAt (a / 2)) rows)).tileAt i := by
  rw [drained_eq]
  rfl

/-- A GEMM job whose outputs are defined drains the rows in use, each element as `drainElem` gives it. -/
theorem drainRows_of_gemm (tl : Tile) (f : Nat) (hu : j.undef = false) (hop : jOp j.desc = 0) : drainRows tl j sl f =
    ((List.range (jB j.desc)).filter fun i => !j.rowsOff.contains i).map fun i =>
      (jObase j.desc + i * jOstride j.desc + jSize j.desc * (sl.col - jN0 j.desc), (List.range 64).map fun c => drainElem j sl i c) := by
  simp [drainRows, hu, hop]

end

/-! #### The end of a job (R148) -/

@[simp] theorem length_statusBytes (j : ArrJob) (hw : Bool) (n : Nat) : (statusBytes j hw n).length = 32 := by simp [statusBytes]

@[simp] theorem length_arrStatus (j : ArrJob) (hw : Bool) (t : W64) : (arrStatus j hw t).length = 32 := by simp [arrStatus]

/-- Where the job reads none of the record's bytes and has put out an output, the record is as Table ARRY-5 gives it. -/
theorem statusBytes_of_apart {j : ArrJob} {t : W64} (hw : Bool) (n : Nat) (ht : j.lastOut = some t)
    (h : ∀ i, i < 32 → meets (jStatus j.desc + i) 1 j.reads = false) : statusBytes j hw n = arrStatus j hw t := by
  refine List.ext_getElem (by simp) fun i hi hi' => ?_
  have hm := h i (by simpa using hi)
  simp [statusBytes, hm, ArrJob.endTime, ht, byteAt, List.getD_eq_getElem?_getD, List.getElem?_eq_getElem hi']

theorem arrayId_val (a : ArrayId) : arrayId a.val = a := Fin.ext (Nat.mod_eq_of_lt a.isLt)

@[simp] theorem Tile.weldRead_weldWrite (x : Tile) (off : Nat) (b : List Byte) (p : Bool) : (x.weldWrite off b p).weldRead off b.length = b :=
  mread_mwrite ..

@[simp] theorem State.tileAt_weldWrite (s : State) (t off : Nat) (b : List Byte) (p : Bool) :
    (s.weldWrite t off b p).tileAt t = (s.tileAt t).weldWrite off b p := s.tileAt_setTile t _

theorem State.tileAt_weldWrite_ne (s : State) {i t : Nat} (off : Nat) (b : List Byte) (p : Bool) (h : i ≠ t) :
    (s.weldWrite t off b p).tileAt i = s.tileAt i := s.tileAt_setTile_ne _ h

theorem State.arrAt_weldWrite (s : State) (a off : Nat) (b : List Byte) (p : Bool) :
    (s.weldWrite (a / 2) off b p).arrAt a = (s.arrAt a).touched off b.length true :=
  (State.arrAt_weldTouch _ _ _ _ _ a).trans (if_pos rfl)

section
variable {s : State} {a : ArrayId} {j : ArrJob} {r : List ArrJob} (hw : Bool) (hj : (s.arrAt a).jobs = j :: r)
include hj

theorem arrAt_endArrayJob : (endArrayJob s a hw).arrAt a = ((s.arrAt a).touched (jStatus j.desc) 32 true).popJob := by
  rw [← ArrayU.job_of_cons _ hj, ← length_statusBytes ((s.arrAt a).job 0) hw s.freeCount, ← State.arrAt_weldWrite s a _ _ false]
  simp [endArrayJob]

theorem jobs_popJob_touched (off n : Nat) : ((s.arrAt a).touched off n true).popJob.jobs = r.map (·.touched off n true) := by
  rw [ArrayU.popJob, ArrayU.touched, hj, List.map_cons, List.drop_one, List.tail_cons]

theorem tileAt_endArrayJob (i : Nat) : (endArrayJob s a hw).tileAt i =
    (s.weldWrite (a / 2) (jStatus j.desc) (statusBytes j hw s.freeCount) false).tileAt i := by
  rw [← ArrayU.job_of_cons _ hj]
  simp only [endArrayJob, State.tileAt_wakeFor', State.tileAt_setArr', State.tileAt_sendSignal', State.tileAt_useFree']

theorem weldRead_endArrayJob : ((endArrayJob s a hw).tileAt (a / 2)).weldRead (jStatus j.desc) 32 = statusBytes j hw s.freeCount := by
  rw [tileAt_endArrayJob hw hj, State.tileAt_weldWrite]
  simpa using Tile.weldRead_weldWrite (s.tileAt (a / 2)) (jStatus j.desc) (statusBytes j hw s.freeCount) false

theorem tileAt_endArrayJob_ne {i : Nat} (h : i ≠ a.val / 2) : (endArrayJob s a hw).tileAt i = s.tileAt i := by
  rw [tileAt_endArrayJob hw hj, State.tileAt_weldWrite_ne _ _ _ _ h]

theorem sy_endArrayJob : (endArrayJob s a hw).sy =
    { s.sy with ops := s.sy.ops ++ [⟨.sig ⟨ctrId (jCounter j.desc), 1, .array a⟩, s.time⟩] } := by
  rw [← ArrayU.job_of_cons _ hj]
  simp only [endArrayJob, arrayId_val]
  rfl

omit hj in
theorem eq_of_endArrayJob {u : State} (h : u = endArrayJob s a hw) :
    u = { s with th := u.th, tile := u.tile, sy := u.sy, arr := u.arr, freeCount := u.freeCount } := by
  subst h
  unfold endArrayJob
  generalize (s.arrAt a).job 0 = j
  dsimp only
  generalize hv : s.weldWrite (a / 2) (jStatus j.desc) (statusBytes j hw s.freeCount) false = v
  have hvs : v = { s with tile := v.tile, arr := v.arr } := by rw [← hv]; rfl
  rw [hvs]
  rfl

theorem exec_arrayJobComplete_of_started (hst : j.started = true) (hs : (s.arrAt a).stopped = false) : exec (.arrayJobComplete a) s =
    .next (if j.drained.length = j.ntiles then endArrayJob s a false else s) := by
  show execArrayJobComplete a s = _
  simp only [execArrayJobComplete, hj, hst, hs, Bool.not_false, Bool.and_self, Bool.true_and, decide_eq_true_eq]
  split <;> rfl

end

/-! #### A parity error (R166; 11 R325) -/

@[simp] theorem arrAt_freeWeld (s : State) (t : Nat) (offs : List Nat) (b : Nat) : (freeWeld s t offs).arrAt b = s.arrAt b := rfl
@[simp] theorem freeCount_freeWeld (s : State) (t : Nat) (offs : List Nat) : (freeWeld s t offs).freeCount = s.freeCount + offs.length := rfl
@[simp] theorem sy_freeWeld (s : State) (t : Nat) (offs : List Nat) : (freeWeld s t offs).sy = s.sy := rfl
@[simp] theorem time_freeWeld (s : State) (t : Nat) (offs : List Nat) : (freeWeld s t offs).time = s.time := rfl

/-- The instants of the array's parity errors that count towards its leaving service, the present one last. -/
def State.hwRecent (s : State) (a : Nat) : List W64 := ((s.arrAt a).hwTimes.filter fun t => s.time - t ≤ 1000000000) ++ [s.time]

/-- The state once a parity error has ended job `j`, the first of the queue: every later job runs from its start, and the array is stopped. -/
def State.parityEnd (s : State) (a : Nat) (j : ArrJob) : State :=
  let s2 := endArrayJob (freeWeld s (a / 2) (undrained j j.drained)) a true
  (s2.setArr a { s2.arrAt a with
    jobs := (s2.arrAt a).jobs.map ArrJob.restart, stopped := true, slots := [], wregs := [], hwTimes := s.hwRecent a }).detect 0x0203
      (domOf .tile (a / 2)) (n64 (a % 2)) 0 0 0 { tenant := j.domain.setWidth 16 }

theorem arrAt_arrayOut (s : State) (a : Nat) : (arrayOut s a).arrAt a = { s.arrAt a with jobs := [], slots := [], wregs := [], oos := true } := by
  simp [arrayOut, moveQueue]

@[simp] theorem tileAt_arrayOut (s : State) (a i : Nat) : (arrayOut s a).tileAt i = s.tileAt i := by
  simp [arrayOut, moveQueue]

@[simp] theorem sy_arrayOut (s : State) (a : Nat) : (arrayOut s a).sy = s.sy := by
  simp [arrayOut, moveQueue]

theorem mem_out_arrayOut (s : State) (a : Nat) : domOf .array a ∈ (arrayOut s a).fl.out := State.mem_out_outOfService ..

section
variable {s : State} {a : ArrayId} {j : ArrJob} {r : List ArrJob} (hj : (s.arrAt a).jobs = j :: r)
include hj

theorem exec_arrayHw_of_started (hst : j.started = true) (hr : j.refused = false) : exec (.arrayHw a) s =
    .next (if 2 ≤ (s.hwRecent a).length then arrayOut (s.parityEnd a j) a else s.parityEnd a j) := by
  show execArrayHw a s = _
  simp only [execArrayHw, hj, hst, hr, Bool.not_true, Bool.or_self, Bool.false_eq_true, if_false]
  rfl

theorem jobs_arrAt_freeWeld : ((freeWeld s (a / 2) (undrained j j.drained)).arrAt a).jobs = j :: r := by rw [arrAt_freeWeld, hj]

theorem arrAt_parityEnd : (s.parityEnd a j).arrAt a = { s.arrAt a with
    jobs := (r.map (·.touched (jStatus j.desc) 32 true)).map ArrJob.restart, stopped := true, slots := [], wregs := [], hwTimes := s.hwRecent a } := by
  have hj' := jobs_arrAt_freeWeld hj
  simp only [State.parityEnd, State.arrAt_detect', State.arrAt_setArr, arrAt_endArrayJob true hj', jobs_popJob_touched hj']
  rw [arrAt_freeWeld, ArrayU.popJob, ArrayU.touched]

theorem weldRead_parityEnd : ((s.parityEnd a j).tileAt (a / 2)).weldRead (jStatus j.desc) 32 =
    statusBytes j true (s.freeCount + (undrained j j.drained).length) := by
  have hj' := jobs_arrAt_freeWeld hj
  simp only [State.parityEnd, State.tileAt_detect', State.tileAt_setArr', weldRead_endArrayJob true hj', freeCount_freeWeld]

theorem sy_parityEnd : (s.parityEnd a j).sy =
    { s.sy with ops := s.sy.ops ++ [⟨.sig ⟨ctrId (jCounter j.desc), 1, .array a⟩, s.time⟩] } := by
  have hj' := jobs_arrAt_freeWeld hj
  simp only [State.parityEnd, State.detect_sy, State.setArr_sy, sy_endArrayJob true hj', sy_freeWeld, time_freeWeld]

end

end Sys2Proof.Machine
end

section
/-! PROOFS. Dense arrays (05 R142 to R148, R151 to R157, R164 to R167): the work of an array, row by row. -/
namespace Sys2Proof.Machine

open Sys2Proof

/-- Settles O50: each row comes to what its lemma names; a slot that had rows or a flagged entry has its job in the queue. -/
theorem arrayWork : Obligations.ArrayWork := by
  refine ⟨fun s a k ht => ⟨fun hheld => ?held, fun hs ho => ?start⟩, fun s a n hn h hs ht => exec_outputTileSlot_of_free rfl h hn hs ht,
    fun s a k sl hw h hl => ?load, fun x i k sl hw hi hr => x.state_of_wanted hw hi hr,
    fun s a k i w x sl d tl hx hsl hd htl hk hi hw h hfull => ?row, fun s a k x sl hx hsl h hk => ?fillEnd, fun s a k x sl hx hsl h hk => ?passEnd,
    fun s a k x sl j hx hsl hj hk h hlt => ?drainEnd, fun x j sl f hu hop => drainRows_of_gemm x f hu hop, fun s a j r hj hst hs => ?complete,
    fun s a j r hj hst hr => ?parity, fun s a h3 hdue hask => ?halt, fun s a h => ?noHalt, fun s a h => exec_of_arrHeld h,
    fun e y he hy => ?update, fun t f e r hfe => ?grid⟩
  case held => exact congrArg Host.Outcome.next (arrayJobStart_of_held _ ht hheld)
  case start =>
    obtain ⟨j, hu, hstarted, hrefused⟩ := arrayJobStart_of_turn s.weldPageDomain ht hs ho
    have hjob := (s.arrAt a).job_setJob j (ArrayU.lt_length_of_turn ht)
    refine ⟨_, rfl, ?_⟩
    rw [hu, State.arrAt_setArr, hjob]
    exact ⟨hstarted, fun hn => by simp [hrefused, hn], fun ha => by simp [hrefused, ha], fun i hi => ArrayU.job_setJob_ne _ _ hi,
      fun b hb => State.arrAt_setArr_ne _ _ hb, rfl⟩
  case load =>
    refine ⟨_, exec_weightTileLoaded_of_wanted rfl h rfl hw hl rfl, ?_⟩
    rw [State.arrAt_setArr]
    refine ⟨?_, fun h0 hb => ?_, ?_, fun b hb => State.arrAt_setArr_ne _ _ hb, rfl⟩
    · split <;> rfl
    · rw [if_pos ⟨h0, hb⟩, ArrayU.slot_setSlot]
    · split <;> rfl
  case row =>
    subst hd
    rw [exec_rowPass_of_active hx h hsl rfl htl hk hi hw hfull rfl rfl]
    refine ⟨fun hok => ⟨_, rfl, rfl, ?_⟩, fun hbad => ⟨_, rfl, rfl, ?_⟩⟩
    · rw [if_pos hok]
      exact ⟨by simp, by simp, fun h2 => by simp [h2]⟩
    · have hlt := x.lt_length_of_mem_active (mem_active_of_mem_slotRows (List.mem_of_find?_eq_some hi))
      rw [if_neg (by simp [hbad])]
      refine ⟨?_, by simp⟩
      rw [State.job_arrAt_setArrAt, ArrayU.job_promote, ArrayU.job_setJob _ _ (by exact hlt)]
  case fillEnd =>
    rw [exec_fillEnd_of_full hx h hk]
    refine ⟨fun hf => ⟨_, rfl, ?_⟩, fun hf ho => ⟨_, rfl, ?_⟩, fun hf ho => ?_⟩
    · rw [State.slot_arrAt_setArrAt, State.job_arrAt_setArrAt, ArrayU.slot_finish_of_flagged hsl rfl hf (by decide),
        ArrayU.job_finish_of_flagged hsl rfl hf (by decide)]
      exact ⟨rfl, rfl, rfl, rfl, rfl, rfl⟩
    · rw [State.slot_arrAt_setArrAt, ArrayU.slot_finish_of_drain hsl rfl (fun hc => Bool.eq_false_iff.mp hf hc.1) ho]
      exact ⟨rfl, rfl, by simp, rfl⟩
    · rw [ArrayU.finish_of_other_drains hsl rfl (fun hc => Bool.eq_false_iff.mp hf hc.1) ho, State.setArrAt, Bool.true_and]
  case passEnd =>
    rw [exec_replayPassEnd_of_full hx h hk, ← hsl]
    refine ⟨fun hf hp => ⟨_, rfl, ?_⟩, fun hf ho => ⟨_, rfl, ?_⟩⟩
    · rw [State.slot_arrAt_setArrAt, ArrayU.slot_finish_of_flagged hsl rfl hf hp]
      exact ⟨rfl, rfl, rfl⟩
    · have hn : ¬ (sl.flagged (x.job sl.job) = true ∧ sl.pass + 1 ≤ 3) := fun ⟨h1, h3⟩ =>
        hf.elim (fun hc => Bool.eq_false_iff.mp hc h1) (fun hc => by omega)
      rw [State.slot_arrAt_setArrAt, ArrayU.slot_finish_of_drain hsl rfl hn ho]
      exact ⟨rfl, rfl, rfl⟩
  case drainEnd =>
    refine ⟨_, exec_drainEnd_of_drains hx hsl hj hk h, slot_drained, ?_⟩
    rw [job_drained (hx ▸ hlt), tileAt_drained, hx]
    refine ⟨rfl, rfl, fun i hi => slot_drained_ne hi, s.tileAt_setTile .., fun i hi => ?_, ?_⟩
    · rw [tileAt_drained, s.tileAt_setTile_ne _ hi]
    · rw [drained_eq]; rfl
  case complete =>
    rw [exec_arrayJobComplete_of_started hj hst hs]
    refine ⟨fun hn => congrArg Host.Outcome.next (if_neg hn), fun hd => ⟨_, congrArg Host.Outcome.next (if_pos hd), ?_⟩⟩
    rw [arrAt_endArrayJob false hj]
    exact ⟨jobs_popJob_touched hj _ _, weldRead_endArrayJob false hj, fun t ht hm => statusBytes_of_apart false _ ht hm, sy_endArrayJob false hj,
      fun i hi => tileAt_endArrayJob_ne false hj hi, eq_of_endArrayJob false rfl⟩
  case parity =>
    rw [exec_arrayHw_of_started hj hst hr]
    refine ⟨_, rfl, ?_, ?_, ?_, fun hnil => ?_, fun hlast => ?_⟩
    · split
      · rw [tileAt_arrayOut, weldRead_parityEnd hj]
      · rw [weldRead_parityEnd hj]
    · split
      · rw [sy_arrayOut, sy_parityEnd hj]
      · rw [sy_parityEnd hj]
    · split
      · rw [arrAt_arrayOut, arrAt_parityEnd hj]
      · rw [arrAt_parityEnd hj]
    · rw [if_neg (by simp [State.hwRecent, hnil]), arrAt_parityEnd hj]
      exact ⟨rfl, rfl⟩
    · rw [if_pos (by simp [State.hwRecent, hlast]), arrAt_arrayOut]
      exact ⟨rfl, rfl, mem_out_arrayOut _ _⟩
  case halt =>
    rw [exec_arrayHalt_eq, State.haltAsked_of_diagnostic h3, hask, Bool.true_and, if_pos (by simpa using hdue)]
  case noHalt =>
    rw [exec_arrayHalt_eq, if_neg]
    rcases h with h3 | ⟨hd, hi⟩
    · simp [State.haltAsked_of_not_diagnostic h3]
    · simp [hd, hi]
  case update =>
    simp only [accStep_of_bounds he hy]
    generalize e.acc + sumInts y = v
    simp only [clampI, i32Min, i32Max]
    refine ⟨fun hlo hhi => ?_, fun hhi => ?_, fun hlo => ?_⟩
    · simp [Int.not_lt.mpr hlo, Int.not_lt.mpr hhi]
    · simp [hhi, show ¬ v < -2147483648 by omega]
    · simp [hlo]
  case grid =>
    rw [gridY_of_lt t r hfe]
    have hpos : (0 : Int) < 2 ^ (64 + (e - f).toNat) := Int.pow_pos (by decide)
    exact ⟨Int.ediv_mul_le _ (Int.ne_of_gt hpos), Int.lt_ediv_add_one_mul_self _ hpos⟩

end Sys2Proof.Machine
end

section
/-! PROOFS. Serial numbers (07 R228): the four answers of a comparison, by the distance from a to b. -/
namespace Sys2Proof.Machine

open Sys2Proof

/-- The distance from a to b, modulo 2^32. -/
def serialDistance (a b : W32) : Nat := (b.toNat + 2 ^ 32 - a.toNat) % 2 ^ 32

theorem toNat_sub_eq_serialDistance (a b : W32) : (b - a).toNat = serialDistance a b := by
  rw [BitVec.toNat_sub, serialDistance]
  congr 1
  omega

theorem serialDistance_swap (a b : W32) : serialDistance b a = (2 ^ 32 - serialDistance a b) % 2 ^ 32 := by
  unfold serialDistance
  omega

theorem serialDistance_lt (a b : W32) : serialDistance a b < 2 ^ 32 := Nat.mod_lt _ (by decide)

/-- The distances for which a comparison gives an answer (R228). -/
def Serial.InRange (d : Nat) : Serial → Prop
  | .equal => d = 0
  | .after => 1 ≤ d ∧ d ≤ 0x7FFFFFFF
  | .unordered => d = 0x80000000
  | .before => 0x80000001 ≤ d

theorem Serial.eq_of_inRange {d : Nat} {x y : Serial} (hx : x.InRange d) (hy : y.InRange d) : x = y := by
  cases x <;> cases y <;> simp only [Serial.InRange, reduceCtorEq] at hx hy ⊢ <;> omega

section
variable (a b : W32)

theorem serialCmp_inRange : (serialCmp a b).InRange (serialDistance a b) := by
  simp only [serialCmp, toNat_sub_eq_serialDistance]
  generalize serialDistance a b = d
  split
  next h => exact h
  next h0 =>
    split
    next h => exact ⟨Nat.pos_of_ne_zero h0, h⟩
    next h1 =>
      split
      next h => exact h
      next h2 => exact Nat.le_antisymm (by omega) (by omega)

theorem serialCmp_eq_iff (x : Serial) : serialCmp a b = x ↔ x.InRange (serialDistance a b) :=
  ⟨fun h => h ▸ serialCmp_inRange a b, Serial.eq_of_inRange (serialCmp_inRange a b)⟩

/-- `after` and `before` are each other's mirror: the distance back is 2^32 less the distance there. -/
theorem serialCmp_after_iff_swap_before : serialCmp a b = .after ↔ serialCmp b a = .before := by
  have hlt := serialDistance_lt a b
  rw [serialCmp_eq_iff, serialCmp_eq_iff, serialDistance_swap a b, Serial.InRange, Serial.InRange]
  omega

theorem serialCmp_unordered_iff_swap : serialCmp a b = .unordered ↔ serialCmp b a = .unordered := by
  have hlt := serialDistance_lt a b
  rw [serialCmp_eq_iff, serialCmp_eq_iff, serialDistance_swap a b, Serial.InRange, Serial.InRange]
  omega

end

/-- Settles O38: each answer is its range of distances, and swapping the numbers mirrors the distance. -/
theorem serialNumbers : Obligations.SerialNumbers :=
  ⟨fun a b => serialCmp_eq_iff a b .equal, fun a b => serialCmp_eq_iff a b .after, fun a b => serialCmp_eq_iff a b .unordered,
    fun a b => serialCmp_eq_iff a b .before, serialCmp_after_iff_swap_before, serialCmp_unordered_iff_swap⟩

end Sys2Proof.Machine
end

section
/-! PROOFS. Operations on counters (07 R210, R215 to R218): which go first, when an evaluation fires nothing and what one watch's fire leaves, what a signal,
a slot and a cancellation change. -/
namespace Sys2Proof.Machine

open Sys2Proof

/-! #### Order (R210) -/

theorem Sync.op_of_findOp {y : Sync} {o : CtrOp} {k : Nat} {b : SentOp} (hk : y.findOp o = some k) (hb : y.ops[k]? = some b) : b.op = o := by
  obtain ⟨hlt, hfound, -⟩ := List.findIdx?_eq_some_iff_getElem.mp hk
  obtain ⟨-, rfl⟩ := List.getElem?_eq_some_iff.mp hb
  exact of_decide_eq_true hfound

/-- An operation that the same source sent earlier to one of the same counters goes first. -/
theorem Sync.mayPerform_of_earlier {y : Sync} {a b : SentOp} {i k n : Nat} {o : CtrOp} (hk : y.findOp o = some k) (ha : y.ops[i]? = some a)
    (hb : y.ops[k]? = some b) (hlt : i < k) (hsrc : a.op.source = o.source) (hna : n ∈ y.reaches a.op) (hno : n ∈ y.reaches o) :
    y.mayPerform o = false := by
  have hfirst : precedes a b (decide (i < k)) n = true := by simp [precedes, hlt, hsrc, Sync.op_of_findOp hk hb]
  have hi : i < y.ops.length := (List.getElem?_eq_some_iff.mp ha).1
  refine Bool.eq_false_iff.mpr fun h => ?_
  simp only [Sync.mayPerform, hk, List.getD, hb, Option.getD_some, List.all_eq_true] at h
  have hfree := h n hno i (List.mem_range.mpr hi)
  simp only [ha, Option.getD_some, hfirst, List.contains_iff_mem.mpr hna] at hfree
  simp [Nat.ne_of_lt hlt] at hfree

/-! #### Arrival changes only the list of operations on their way -/

section
variable (s : State) (o : CtrOp)

@[simp] theorem State.thrAt_opArrived (t : Nat) : (s.opArrived o).thrAt t = s.thrAt t := rfl
@[simp] theorem State.poolUsed_opArrived (t : Nat) (p : WatchPool) : (s.opArrived o).poolUsed t p = s.poolUsed t p := rfl
@[simp] theorem State.opArrived_sy_queued : (s.opArrived o).sy.queued = s.sy.queued := rfl

end

/-! #### Threads that go on (06 Table TILE-2) -/

/-- The thread, READY if it was BLOCKED for something that `p` names. -/
def Thr.woken (p : Blk → Bool) (x : Thr) : Thr := if x.st = .blocked ∧ p x.blk then { x with st := .ready, blk := .none } else x

@[simp] theorem Thr.life_woken (p : Blk → Bool) (x : Thr) : (x.woken p).life = x.life := by unfold Thr.woken; split <;> rfl
@[simp] theorem Thr.fired_woken (p : Blk → Bool) (x : Thr) : (x.woken p).fired = x.fired := by unfold Thr.woken; split <;> rfl

theorem Thr.st_woken {p : Blk → Bool} {x : Thr} (hst : x.st = .blocked) (hp : p x.blk = true) : (x.woken p).st = .ready := by
  rw [Thr.woken, if_pos ⟨hst, hp⟩]

section
variable (s : State)

theorem State.thrAt_wakeFor (p : Nat → Blk → Bool) (t : Nat) : (s.wakeFor p).thrAt t = (s.thrAt t).woken (p t) :=
  tget_map_of_default (d := thrD) (f := fun i x => x.woken (p i)) rfl s.th.thr

/-- Waking threads changes neither a thread's program nor what it has been sent. -/
@[simp] theorem State.watchesOf_wakeFor (p : Nat → Blk → Bool) (t : Nat) : (s.wakeFor p).watchesOf t = s.watchesOf t := by
  have hown : ∀ w, (s.wakeFor p).ownWatch t w = s.ownWatch t w := fun w => by simp only [State.ownWatch, State.thrAt_wakeFor, Thr.life_woken]
  simp only [State.watchesOf, State.ownWakes, State.wakeFor_sy, State.thrAt_wakeFor, Thr.life_woken, Thr.fired_woken, funext hown]

@[simp] theorem State.watchesOf_fewerWatches (t : Nat) : s.fewerWatches.watchesOf t = s.watchesOf t := State.watchesOf_wakeFor ..

end

/-! #### Watch evaluation (R218) -/

/-- No armed watch of counter c has a threshold that its count reaches. -/
def State.NoneDue (s : State) (c : Nat) : Prop := ∀ w ∈ s.sy.armed, w.ctr.val = c → (s.ctrAt c).count.toNat < threshold (s.ctrAt c) w

section
variable {s : State} {c : Nat}

theorem State.fireObserve_of_noneDue (h : s.NoneDue c) : s.fireObserve c = s := by
  have hnone : s.sy.armed.filter (fun w => w.ctr.val = c && !w.consume && threshold (s.ctrAt c) w ≤ (s.ctrAt c).count.toNat) = [] := by
    refine List.filter_eq_nil_iff.mpr fun w hw hdue => ?_
    simp only [Bool.and_eq_true, decide_eq_true_eq] at hdue
    exact absurd hdue.2 (Nat.not_le.mpr (h w hw hdue.1.1))
  simp only [State.fireObserve, hnone, List.foldl_nil]

theorem State.fireConsume_of_noneDue (h : s.NoneDue c) (n : Nat) : State.fireConsume c n s = s := by
  cases n with
  | zero => rfl
  | succ n =>
    rw [State.fireConsume]
    split
    next => rfl
    next w hw =>
      have hctr := List.find?_some hw
      simp only [Bool.and_eq_true, decide_eq_true_eq] at hctr
      exact if_neg (Nat.not_le.mpr (h w (List.mem_of_find?_eq_some hw) hctr.1))

theorem State.evaluate_of_noneDue (h : s.NoneDue c) : s.evaluate c = s := by
  simp only [State.evaluate, State.fireObserve_of_noneDue h, State.fireConsume_of_noneDue h]

/-- A counter whose watches the new count does not reach. -/
theorem State.evaluate_setCtr_of_below {x : Ctr} (h : ∀ w ∈ s.sy.armed, w.ctr.val = c → x.count.toNat < threshold x w) :
    (s.setCtr c x).evaluate c = s.setCtr c x := by
  refine State.evaluate_of_noneDue fun w hw hc => ?_
  rw [State.ctrAt_setCtr]
  exact h w hw hc

/-- The amount that the fire of a watch subtracts from its counter. -/
def consumed (x : Ctr) (w : WatchReq) : W32 := if w.consume then n32 (threshold x w) else 0

theorem sub_consumed (v : W32) (x : Ctr) (w : WatchReq) : v - consumed x w = if w.consume then v - n32 (threshold x w) else v := by
  unfold consumed
  split
  · rfl
  · exact BitVec.sub_zero v

theorem State.fire_thread {w : WatchReq} {t : ThrId} (ht : w.target = .thread t) (x : Ctr) :
    s.fire w x = { s with sy := { s.sy with wakes := s.sy.wakes ++ [⟨.thread t, w.owner, w.ctr, consumed x w⟩] } } := by
  simp only [State.fire, ht]
  rfl

/-- The only armed watch fires: an OBSERVE watch leaves the count, a CONSUME watch takes its threshold from it. -/
theorem State.evaluate_of_single {w : WatchReq} {t : ThrId} (ha : s.sy.armed = [w]) (hc : w.ctr.val = c) (ht : w.target = .thread t)
    (hdue : threshold (s.ctrAt c) w ≤ (s.ctrAt c).count.toNat) : ∃ u, s.evaluate c = u ∧ u.sy.armed = [] ∧
      u.sy.wakes = s.sy.wakes ++ [⟨.thread t, w.owner, w.ctr, consumed (s.ctrAt c) w⟩] ∧
      u.ctrAt c = { s.ctrAt c with count := (s.ctrAt c).count - consumed (s.ctrAt c) w } ∧ (∀ d, d ≠ c → u.ctrAt d = s.ctrAt d) ∧
      u = { s with sy := { s.sy with ctr := u.sy.ctr, armed := [], wakes := u.sy.wakes } } := by
  cases hw : w.consume with
  | false =>
    have hu : s.evaluate c = ({ s with sy := { s.sy with armed := [] } } : State).fire w (s.ctrAt c) := by
      simp [State.evaluate, State.fireObserve, ha, hc, hw, hdue, disarm, State.fire_thread ht, State.fireConsume]
    rw [hu, State.fire_thread ht]
    exact ⟨_, rfl, rfl, rfl, by rw [sub_consumed, hw]; rfl, fun d _ => rfl, rfl⟩
  | true =>
    have hu : s.evaluate c = (({ s with sy := { s.sy with armed := [] } } : State).fire w (s.ctrAt c)).setCtr c
        { s.ctrAt c with count := (s.ctrAt c).count - consumed (s.ctrAt c) w } := by
      simp [State.evaluate, State.fireObserve, ha, hc, hw, hdue, disarm, State.fireConsume, consumed, n32]
    rw [hu, State.fire_thread ht]
    exact ⟨_, rfl, rfl, rfl, State.ctrAt_setCtr .., fun d hd => State.ctrAt_setCtr_ne _ _ hd, rfl⟩

end

/-! #### Signals (R211 to R214) -/

section
variable {x : Ctr} {strict : Bool} {amount : W32} {n : Int}

theorem signalEffect_zero (h : amount = 0) : signalEffect x strict amount = .nothing := by
  subst h
  rfl

theorem toInt_ne_zero_of_ne (h : amount ≠ 0) : amount.toInt ≠ 0 := fun hz => h (BitVec.eq_of_toInt_eq hz)

theorem signalEffect_of_flag (hpos : 0 < amount.toInt) (hf : x.flag = true) : signalEffect x strict amount =
    .set { x with count := 1, coalesced := x.coalesced || decide (1 < (x.count.toNat : Int) + amount.toInt) } := by
  simp [signalEffect, hf, hpos, Int.ne_of_gt hpos]

section
variable (hn : n = (x.count.toNat : Int) + amount.toInt) (hf : x.flag = false ∨ amount.toInt < 0)
include hn hf

theorem signalEffect_of_range (ha : amount ≠ 0) (hlo : 0 ≤ n) (hhi : n ≤ 4294967295) :
    signalEffect x strict amount = .set { x with count := BitVec.ofInt 32 n } := by
  have hflag : ¬ (x.flag = true ∧ 0 < amount.toInt) := fun ⟨h, hp⟩ => hf.elim (fun h' => by simp [h] at h') (fun h' => by omega)
  simp only [signalEffect, ← hn, if_neg (toInt_ne_zero_of_ne ha), if_neg hflag, if_pos (And.intro hlo hhi)]

/-- A signal that would leave the range of a counter. -/
theorem signalEffect_of_out (hout : n < 0 ∨ 4294967295 < n) : signalEffect x strict amount = if strict then .error (0 < n) else
    if n < 0 then .set { x with count := 0, under := true } else .set { x with count := 0xFFFFFFFF, ovr := true } := by
  have ha : amount.toInt ≠ 0 := fun hz => by have := x.count.isLt; omega
  have hflag : ¬ (x.flag = true ∧ 0 < amount.toInt) := fun ⟨h, hp⟩ => hf.elim (fun h' => by simp [h] at h') (fun h' => by omega)
  have hrange : ¬ (0 ≤ n ∧ n ≤ 4294967295) := fun ⟨h0, h1⟩ => by omega
  simp only [signalEffect, ← hn, if_neg ha, if_neg hflag, if_neg hrange]

end
end

section
variable {s : State} {m : SignalMsg}

theorem State.applySignal_of_gone (h : s.ctrGone m.ctr = true) : s.applySignal m = s := by
  rw [State.applySignal, if_pos h]

theorem State.applySignal_of_nothing (h : signalEffect (s.ctrAt m.ctr) (s.strict m.ctr || fromHost m.src) m.amount = .nothing) : s.applySignal m = s := by
  simp only [State.applySignal, h, ite_self]

theorem State.applySignal_of_set {x : Ctr} (hg : s.ctrGone m.ctr = false)
    (h : signalEffect (s.ctrAt m.ctr) (s.strict m.ctr || fromHost m.src) m.amount = .set x)
    (hbelow : ∀ w ∈ s.sy.armed, w.ctr = m.ctr → x.count.toNat < threshold x w) : s.applySignal m = s.setCtr m.ctr x := by
  simp only [State.applySignal, h, hg, Bool.false_eq_true, if_false]
  exact State.evaluate_setCtr_of_below fun w hw hc => hbelow w hw (Fin.ext hc)

theorem State.signalError_of_thread {t : ThrId} {pc : W64} {life : Nat} (ovr : Bool) (h : m.src = .thread t pc life) :
    ∃ u, s.signalError m ovr = u ∧ u.sy = { s.sy with errs := s.sy.errs ++ [⟨t, life, pc, ovr⟩] } ∧ u = { s with sy := u.sy, fl := u.fl } ∧
      u.fl = (s.detect (if ovr then 0x0206 else 0x0205) (domOf .tile (m.ctr.val / 4096)) (n64 m.ctr.val) (m.amount.signExtend 64)
        ((s.ctrAt m.ctr).count.setWidth 64) (n64 t.val)).fl := by
  simp only [State.signalError, h]
  exact ⟨_, rfl, rfl, rfl, rfl⟩

theorem State.applySignal_of_error {ovr : Bool} (hg : s.ctrGone m.ctr = false)
    (h : signalEffect (s.ctrAt m.ctr) (s.strict m.ctr || fromHost m.src) m.amount = .error ovr) : s.applySignal m = s.signalError m ovr := by
  simp only [State.applySignal, h, hg, Bool.false_eq_true, if_false]

end

/-! #### What each instruction comes to -/

section
variable {s : State}

theorem exec_counterSignal_of_mayPerform {m : SignalMsg} (h : s.sy.mayPerform (.sig m) = true) :
    exec (.counterSignal m) s = .next ((s.opArrived (.sig m)).applySignal m) := if_pos h

theorem exec_counterSignal_of_set {m : SignalMsg} {x : Ctr} (h : s.sy.mayPerform (.sig m) = true) (hg : s.ctrGone m.ctr = false)
    (he : signalEffect (s.ctrAt m.ctr) (s.strict m.ctr || fromHost m.src) m.amount = .set x)
    (hbelow : ∀ w ∈ s.sy.armed, w.ctr = m.ctr → x.count.toNat < threshold x w) :
    exec (.counterSignal m) s = .next ((s.opArrived (.sig m)).setCtr m.ctr x) := by
  rw [exec_counterSignal_of_mayPerform h, State.applySignal_of_set (s := s.opArrived (.sig m)) hg he hbelow]

theorem exec_counterWrite_of_present {c : CtrId} (v : W32) (hg : s.ctrGone c = false) :
    exec (.counterWrite c v) s = .next ((s.setCtr c { s.ctrAt c with count := v }).evaluate c) := if_neg (by simp [hg])

/-! #### Slots (R216) -/

/-- The counter's watches all stay armed, the new one among them: only the thread that registered it goes on. -/
theorem State.takeSlot_of_below {r : WatchReq}
    (h : ∀ w ∈ s.sy.armed ++ [r], w.ctr = r.ctr → (s.ctrAt r.ctr).count.toNat < threshold (s.ctrAt r.ctr) w) :
    s.takeSlot r = ({ s with sy := { s.sy with armed := s.sy.armed ++ [r] } } : State).wakeFor fun i b => s.ownWatch i r && b == .watch r.ctr := by
  have hnone : ({ s with sy := { s.sy with armed := s.sy.armed ++ [r] } } : State).NoneDue r.ctr := fun w hw hc => h w hw (Fin.ext hc)
  rw [State.takeSlot, State.evaluate_of_noneDue hnone]
  rfl

section
variable {r : WatchReq} (h : s.sy.mayPerform (.reg r) = true)
include h

theorem exec_watchRegistration_of_gone (hg : s.ctrGone r.ctr = true) : exec (.watchRegistration r) s = .next (s.opArrived (.reg r)) := by
  show execWatchRegistration r s = _
  simp [execWatchRegistration, h, hg]

variable (hg : s.ctrGone r.ctr = false)
include hg

theorem exec_watchRegistration_of_slot (hslot : s.poolUsed (r.ctr.val / 4096) (poolOf r.owner) < poolSize (poolOf r.owner))
    (hq : ∀ q ∈ s.sy.queued, q.ctr.val / 4096 = r.ctr.val / 4096 → poolOf q.owner ≠ poolOf r.owner) :
    exec (.watchRegistration r) s = .next ((s.opArrived (.reg r)).takeSlot r) := by
  show execWatchRegistration r s = _
  have hany : s.sy.queued.any (fun q => q.ctr.val / 4096 = r.ctr.val / 4096 && poolOf q.owner = poolOf r.owner) = false := by simpa using hq
  simp only [execWatchRegistration, h, Bool.not_true, Bool.false_eq_true, if_false, hg, State.poolUsed_opArrived,
    State.opArrived_sy_queued, hany, Bool.not_false, and_true, if_pos hslot]

theorem exec_watchRegistration_of_full (hfull : poolSize (poolOf r.owner) ≤ s.poolUsed (r.ctr.val / 4096) (poolOf r.owner) ∨
      ∃ q ∈ s.sy.queued, q.ctr.val / 4096 = r.ctr.val / 4096 ∧ poolOf q.owner = poolOf r.owner) :
    exec (.watchRegistration r) s = .next { s.opArrived (.reg r) with sy := { (s.opArrived (.reg r)).sy with queued := s.sy.queued ++ [r] } } := by
  show execWatchRegistration r s = _
  have hno : ¬ (s.poolUsed (r.ctr.val / 4096) (poolOf r.owner) < poolSize (poolOf r.owner) ∧
      (!s.sy.queued.any fun q => q.ctr.val / 4096 = r.ctr.val / 4096 && poolOf q.owner = poolOf r.owner) = true) := by
    rintro ⟨hlt, hany⟩
    rcases hfull with hle | ⟨q, hq, hc, ho⟩
    · omega
    · simp only [Bool.not_eq_true', List.any_eq_false] at hany
      exact hany q hq (by simp [hc, ho])
  simp only [execWatchRegistration, h, Bool.not_true, Bool.false_eq_true, if_false, hg, State.poolUsed_opArrived,
    State.opArrived_sy_queued]
  exact if_neg hno

end

section
variable {t : TileId} {p : WatchPool} {r : WatchReq} (hq : (s.sy.queued.find? fun r => r.ctr.val / 4096 = t.val && poolOf r.owner = p) = some r)
include hq

theorem exec_watchSlotGrant_of_full (hfull : poolSize p ≤ s.poolUsed t p) : exec (.watchSlotGrant t p) s = .next s := by
  show execWatchSlotGrant t p s = _
  simp only [execWatchSlotGrant, hq, if_neg (Nat.not_lt.mpr hfull)]

theorem exec_watchSlotGrant_of_slot (hslot : s.poolUsed t p < poolSize p) : exec (.watchSlotGrant t p) s =
    .next (({ s with sy := { s.sy with queued := s.sy.queued.erase r } } : State).takeSlot r) := by
  show execWatchSlotGrant t p s = _
  simp only [execWatchSlotGrant, hq, if_pos hslot]

end

/-! #### Cancellations (R222) -/

/-- The state in which a cancellation has reached its counters, and no thread has gone on yet. -/
def State.cancelled (s : State) (sel : CancelSel) : State :=
  { s.opArrived (.cancel sel) with sy := { (s.opArrived (.cancel sel)).sy with armed := (s.sy.without sel).1, queued := (s.sy.without sel).2 } }

theorem State.without_opArrived (o : CtrOp) (sel : CancelSel) : (s.opArrived o).sy.without sel = s.sy.without sel := by
  cases sel <;> rfl

theorem exec_watchCancel_of_arrived {sel : CancelSel}
    (h : (s.sy.findOp (.cancel sel)).isSome = false ∨ s.sy.mayPerform (.cancel sel) = true) :
    exec (.watchCancel sel) s = .next (s.cancelled sel).fewerWatches := by
  have hgo : ((s.sy.findOp (.cancel sel)).isSome && !s.sy.mayPerform (.cancel sel)) = false := by rcases h with h | h <;> simp [h]
  show execWatchCancel sel s = _
  simp only [execWatchCancel, hgo, Bool.false_eq_true, if_false, State.without_opArrived]
  rfl

theorem Sync.without_one_of_mem {y : Sync} {w : WatchReq} (h : w ∈ y.armed) : y.without (.one w) = (y.armed.erase w, y.queued) :=
  if_pos (List.contains_iff_mem.mpr h)

theorem Sync.without_one_of_not_mem {y : Sync} {w : WatchReq} (h : w ∉ y.armed) : y.without (.one w) = (y.armed, y.queued.erase w) :=
  if_neg (mt List.contains_iff_mem.mp h)

theorem Sync.without_of_ne_one {sel : CancelSel} (y : Sync) (h : ∀ w, sel ≠ .one w) :
    y.without sel = (y.armed.filter fun w => !selects sel w, y.queued.filter fun w => !selects sel w) := by
  cases sel with
  | one w => exact absurd rfl (h w)
  | thread | block => rfl

theorem State.st_fewerWatches {t : Nat} (hst : (s.thrAt t).st = .blocked) (hblk : (s.thrAt t).blk = .watches) (hlt : s.watchesOf t < 4) :
    (s.fewerWatches.thrAt t).st = .ready := by
  rw [State.fewerWatches, State.thrAt_wakeFor]
  exact Thr.st_woken hst (by simp [hblk, hlt])

end

end Sys2Proof.Machine
end

section
/-! PROOFS. Signal counters, watches, slots and cancellations (07 R207 to R218, R222, R223), clause by clause from the lemmas on each operation. -/
namespace Sys2Proof.Machine

open Sys2Proof

/-- Settles O49: each operation, once it may be performed, does what its lemmas say; an evaluation that reaches no threshold fires nothing. -/
theorem counterCommands : Obligations.CounterCommands := by
  refine ⟨fun s m r sel => ⟨fun h => ?signalWaits, fun h => ?watchWaits, fun hs h => ?cancelWaits⟩,
    fun s a b i k o hk ha hb hlt hsrc ⟨n, hna, hno⟩ => Sync.mayPerform_of_earlier hk ha hb hlt hsrc hna hno,
    fun s m h h0 => ?zero, fun s m n h h0 hn hg hf hlo hhi hbelow => ?range, fun s m h hpos hf hg hno => ?flag,
    fun s m n h hn hf hg hs hsrc hno => ?saturate, fun s m t pc life n h hn hs hg hsrc hout => ?strict,
    fun s c v hbelow hg => ?write, fun s c v w t ha hc ht hg hdue => ?writeFires, fun s c f hg => ?setFlag, fun s c a b d hg => ?clear,
    fun s r h hbelow hslot hg hq => ?register, fun s r h hfull hg => exec_watchRegistration_of_full h hg hfull,
    fun s m r v o hg hr => ?gone, fun s t p r hq => ⟨exec_watchSlotGrant_of_full hq, fun hslot hbelow => ?grant⟩, fun s sel h => ?cancel⟩
  case signalWaits => exact if_neg (by simp [h])
  case watchWaits => exact if_pos (by simp [h])
  case cancelWaits => exact if_pos (by simp [hs, h])
  case zero => rw [exec_counterSignal_of_mayPerform h, State.applySignal_of_nothing (signalEffect_zero h0)]
  case range =>
    refine exec_counterSignal_of_set h hg (signalEffect_of_range hn hf h0 hlo hhi) fun w hw hc => ?_
    have hcount : ((BitVec.ofInt 32 n).toNat : Int) = n := by rw [BitVec.toNat_ofInt]; omega
    have hlt := hbelow w hw hc
    rw [← hcount] at hlt
    exact Int.ofNat_lt.mp hlt
  case flag => exact exec_counterSignal_of_set h hg (signalEffect_of_flag hpos hf) fun w hw hc => absurd hc (hno w hw)
  case saturate =>
    have hmode : (s.strict m.ctr || fromHost m.src) = false := by simp [hs, hsrc]
    refine ⟨fun hlo => exec_counterSignal_of_set h hg ?_ fun w hw hc => absurd hc (hno w hw),
      fun hhi => exec_counterSignal_of_set h hg ?_ fun w hw hc => absurd hc (hno w hw)⟩
    · rw [signalEffect_of_out hn (.inl hf) (.inl hlo), hmode, if_neg Bool.false_ne_true, if_pos hlo]
    · rw [signalEffect_of_out hn (.inl hf) (.inr hhi), hmode, if_neg Bool.false_ne_true, if_neg (by omega)]
  case strict =>
    have hf : (s.ctrAt m.ctr).flag = false ∨ m.amount.toInt < 0 := hout.elim (fun hlo => .inr (by omega)) (fun hhi => .inl hhi.2)
    have he : signalEffect (s.ctrAt m.ctr) (s.strict m.ctr || fromHost m.src) m.amount = .error (0 < n) := by
      rw [signalEffect_of_out hn hf (hout.imp id And.left), hs, Bool.true_or, if_pos rfl]
    rw [exec_counterSignal_of_mayPerform h, State.applySignal_of_error (s := s.opArrived (.sig m)) hg he]
    obtain ⟨u, hu, hsy, hrest, hfl⟩ := State.signalError_of_thread (s := s.opArrived (.sig m)) (decide (0 < n)) hsrc
    rw [hu]
    refine ⟨u, rfl, hsy, hrest, ?_⟩
    simp only [decide_eq_true_eq] at hfl
    exact hfl
  case write =>
    rw [exec_counterWrite_of_present v hg, State.evaluate_setCtr_of_below fun w hw hc => hbelow w hw (Fin.ext hc)]
  case writeFires =>
    subst hc
    obtain ⟨u, hu, harmed, hwakes, hctr, hother, hrest⟩ := State.evaluate_of_single (s := s.setCtr w.ctr { s.ctrAt w.ctr with count := v }) ha rfl ht
      (by rw [State.ctrAt_setCtr]; exact hdue)
    rw [State.ctrAt_setCtr] at hwakes hctr
    rw [exec_counterWrite_of_present v hg, hu]
    refine ⟨u, rfl, harmed, hwakes, ?_, fun d hd => (hother d hd).trans (State.ctrAt_setCtr_ne _ _ hd), hrest⟩
    rw [hctr, sub_consumed]
    rfl
  case setFlag => exact if_neg (by simp [hg])
  case clear => exact if_neg (by simp [hg])
  case register =>
    rw [exec_watchRegistration_of_slot h hg hslot hq, State.takeSlot_of_below (s := s.opArrived (.reg r)) hbelow]
    refine ⟨_, rfl, rfl, fun t ho hst hblk => ?_, rfl⟩
    rw [State.thrAt_wakeFor]
    exact Thr.st_woken (x := s.thrAt t) hst (by simp [State.ownWatch, ho, hblk])
  case gone =>
    exact ⟨if_pos hg, if_pos hg, fun h => by rw [exec_counterSignal_of_mayPerform h, State.applySignal_of_gone (s := s.opArrived (.sig m)) hg],
      fun h => exec_watchRegistration_of_gone h (hr ▸ hg)⟩
  case grant =>
    rw [exec_watchSlotGrant_of_slot hq hslot, State.takeSlot_of_below (s := { s with sy := { s.sy with queued := s.sy.queued.erase r } }) hbelow]
    exact ⟨_, rfl, rfl, rfl⟩
  case cancel =>
    refine ⟨_, exec_watchCancel_of_arrived h, rfl, rfl, fun w hw => ⟨fun hm => ?_, fun hm => ?_⟩, fun hne => ?_, fun t hst hblk hlt => ?_⟩
    · subst hw
      exact Prod.ext_iff.mp (Sync.without_one_of_mem hm)
    · subst hw
      exact Prod.ext_iff.mp (Sync.without_one_of_not_mem hm)
    · exact Prod.ext_iff.mp (s.sy.without_of_ne_one hne)
    · exact State.st_fewerWatches hst hblk (by rwa [State.watchesOf_fewerWatches] at hlt)

end Sys2Proof.Machine
end

section
/-! PROOFS. FAST_THROTTLE_N, the thermal shutdown and the loss of SCLK (14 R400, R401; 11 R310). -/
namespace Sys2Proof.Machine

open Sys2Proof

/-! #### Tables filled by a function -/

theorem tget_filterMap {α : Type} [DecidableEq α] (d f : Nat → α) (l : List Nat) (i : Nat) :
    tget d (l.filterMap fun k => if f k = d k then none else some (k, f k)) i = if i ∈ l then f i else d i := by
  induction l with
  | nil => rfl
  | cons k r ih =>
    by_cases hk : f k = d k
    · by_cases hi : i = k
      · subst hi
        simp [hk, ih]
      · simp [hk, hi, ih]
    · by_cases hi : i = k
      · simp [hk, hi, tget]
      · simp [hk, hi, tget, Ne.symm hi, ih]

/-- A filled table holds the function's values below its bound. -/
theorem tget_tfill_of_lt {α : Type} [DecidableEq α] (d f : Nat → α) {n i : Nat} (h : i < n) : tget d (tfill d n f) i = f i := by
  rw [tfill, tget_filterMap, if_pos (List.mem_range.mpr h)]

/-! #### The throttle (R400) -/

section
variable (s : State)

theorem State.tileAt_throttle {i : Nat} (h : i < 64) : s.throttle.tileAt i =
    if (s.tileAt i).state = 0 then s.tileAt i else { s.tileAt i with freq := 64, limit := 4, stretched := false } := by
  rw [State.tileAt, State.throttle, tget_tfill_of_lt _ _ h]

theorem State.cap_throttle {k : Nat} (h : k < 16) (hloop : (s.stackAt k).loopEn = true) : (s.throttle.stackAt k).cap = 1 := by
  rw [State.stackAt, State.throttle, tget_tfill_of_lt _ _ h, if_pos hloop]

theorem State.capInForce_of_throttleLow {s : State} (h : s.pw.throttleLow = true) (k : Nat) : s.capInForce k = 1 := if_pos (.inl h)

/-- The state in which FAST_THROTTLE_N is low and seen to be. -/
def State.throttlePin (s : State) : State :=
  { s with pw := { s.pw with throttleLow := true, throttleSeen := true }, bt := { s.bt with throttled := s.bt.throttled || s.md.state = 0 } }

theorem exec_fastThrottleFall_of_running (hr : s.pw.inReset = false) (hf : s.md.state ≠ 2) :
    exec .fastThrottleFall s = .next s.throttlePin.throttle :=
  (if_neg (by simp [hr]) : execFastThrottleFall s = _).trans (congrArg Host.Outcome.next (if_neg hf))

end

/-! #### The module fails (R310) -/

section
variable {s : State} {reason : Nat} {cause : W32}

theorem State.md_moduleFail (h : s.md.state ≠ 2) :
    (s.moduleFail reason cause).md.state = 2 ∧ (s.moduleFail reason cause).md.failReason = reason ∧ (s.moduleFail reason cause).md.running = false := by
  rw [State.moduleFail, if_neg h]
  exact ⟨rfl, rfl, rfl⟩

/-- The parts of the state that the module's failure may change. -/
def failParts : Parts := { dr := true, tile := true, pages := true, fl := true, ti := true, cw := true, ho := true, sv := true, md := true }

theorem State.moduleFail_keeps {u : State} (h : u.off failParts = s.off failParts) :
    (u.moduleFail reason cause).pending = s.pending ∧ (u.moduleFail reason cause).pw = s.pw ∧ (u.moduleFail reason cause).bt = s.bt := by
  have hoff : (u.moduleFail reason cause).off failParts = s.off failParts := (State.moduleFail_off rfl ..).trans h
  exact ⟨State.pending_of_off hoff, State.pw_of_off hoff, State.bt_of_off hoff⟩

/-- What the sensor of a site then reads. -/
def State.heated (s : State) : HotSite → State
  | .tile t => s.setTile t { s.tileAt t with temp := 115 }
  | .die d => (List.range 4).foldl (fun s i => s.setSub (4 * d + i) { s.sub (4 * d + i) with dieTemp := 115 })
      (s.setStack (d / 16) { s.stackAt (d / 16) with temp := 115 })

theorem State.heated_off (s : State) (site : HotSite) : (s.heated site).off { dr := true, tile := true } = s.off { dr := true, tile := true } := by
  cases site with
  | tile t => exact State.setTile_off _ _ _ rfl
  | die d => exact (foldl_off _ _ _ fun _ _ => State.setSub_off _ _ _ rfl).trans (State.setStack_off _ _ _ rfl)

theorem exec_thermalShutdown_of_running (site : HotSite) (hr : s.pw.inReset = false) : exec (.thermalShutdown site) s =
    .next { (s.heated site).moduleFail 6 0xFFFFFFFF with
      pw := { ((s.heated site).moduleFail 6 0xFFFFFFFF).pw with thermalTrip := true, hot := true } } := by
  show execThermalShutdown site s = _
  unfold execThermalShutdown
  simp only [hr, Bool.false_eq_true, ↓reduceIte]
  cases site <;> rfl

theorem exec_sclkLoss_of_running (hr : s.pw.inReset = false) (hf : s.md.state ≠ 2) :
    exec .sclkLoss s = .next ((s.log 0x0306 domModule).moduleFail 4 s.fl.seq) := by
  show execSclkLoss s = _
  simp [execSclkLoss, hr, hf]

end

end Sys2Proof.Machine
end

section
/-! SETTLES O4: the throttle, the thermal shutdown and the loss of SCLK. -/
namespace Sys2Proof.Machine

open Sys2Proof

/-- Settles O4: the throttle writes every tile and stack, and a module that runs fails by `State.moduleFail`. -/
theorem throttleAndShutdowns : Obligations.ThrottleAndShutdowns := by
  unfold Obligations.ThrottleAndShutdowns
  refine ⟨?fall, ?rise, ?thermal, ?sclk⟩
  case fall =>
    intro s hr hf
    refine ⟨_, exec_fastThrottleFall_of_running s hr hf, rfl, ?_, ?_, ?_, ?_, rfl⟩
    · exact fun i hi hon => (s.throttlePin.tileAt_throttle hi).trans (if_neg hon)
    · exact fun i hi hoff => (s.throttlePin.tileAt_throttle hi).trans (if_pos hoff)
    · exact fun k hk hloop => s.throttlePin.cap_throttle hk hloop
    · exact fun k _ => State.capInForce_of_throttleLow rfl k
  case rise => exact fun s => ⟨_, rfl, rfl, rfl⟩
  case thermal =>
    intro s site hr hf
    have hoff : (s.heated site).off failParts = s.off failParts := State.off_mono rfl (s.heated_off site)
    have hmd : (s.heated site).md = s.md := State.md_of_off (s.heated_off site)
    obtain ⟨hstate, hreason, hrun⟩ := State.md_moduleFail (s := s.heated site) (reason := 6) (cause := 0xFFFFFFFF) (by rwa [hmd])
    obtain ⟨hpending, -, hbt⟩ := State.moduleFail_keeps (reason := 6) (cause := 0xFFFFFFFF) hoff
    exact ⟨_, exec_thermalShutdown_of_running site hr, hstate, hreason, hrun, rfl, hpending, hbt⟩
  case sclk =>
    intro s hr hf
    obtain ⟨hstate, hreason, hrun⟩ := State.md_moduleFail (s := s.log 0x0306 domModule) (reason := 4) (cause := s.fl.seq) hf
    obtain ⟨hpending, hpw, hbt⟩ := State.moduleFail_keeps (s := s) (u := s.log 0x0306 domModule) (reason := 4) (cause := s.fl.seq)
      (State.log_off _ _ _ _ _ _ _ _ rfl)
    exact ⟨_, exec_sclkLoss_of_running hr hf, hstate, hreason, hrun, hpending, hpw, hbt⟩

end Sys2Proof.Machine
end

section
/-! PROOFS. Handlers (11 R308 to R311): what settling keeps, the retraining that a containment action asks for, reports, limits. -/
namespace Sys2Proof.Machine

open Sys2Proof

/-! #### Settling (R310) -/

section
variable (s : State) (c : Nat)

/-- Opening sub-channels changes only their states. -/
theorem State.sub_openSubs (l : List (Nat × SubCh)) : ∃ n, (s.openSubs l).sub c = { s.sub c with state := n } := by
  induction l generalizing s with
  | nil => exact ⟨_, rfl⟩
  | cons e r ih =>
    obtain ⟨n, hn⟩ := ih (s.setSub e.1 { s.sub e.1 with state := 1 })
    refine ⟨n, hn.trans ?_⟩
    rw [State.sub_setSub_if]
    split
    next he => rw [he]
    next => rfl

theorem State.openSubs_eq (l : List (Nat × SubCh)) : s.openSubs l = { s with dr := { s.dr with sub := (s.openSubs l).dr.sub } } := by
  induction l generalizing s with
  | nil => rfl
  | cons e r ih => exact ih (s.setSub e.1 { s.sub e.1 with state := 1 })

theorem State.settle_eq : s.settle = { s with fl := s.settle.fl, dr := { s.dr with sub := s.settle.dr.sub } } := by
  rcases s.settle_cases with h | ⟨f, l, h, -⟩
  · rw [h]
  · rw [h, State.openSubs_eq]

theorem State.sub_settle : ∃ n, s.settle.sub c = { s.sub c with state := n } := by
  rcases s.settle_cases with h | ⟨f, l, h, -⟩
  · exact ⟨_, by rw [h]⟩
  · rw [h]
    exact State.sub_openSubs _ c l

/-- Of the handlers those stay whose action is not complete. -/
theorem State.fl_settle : s.settle.fl = { s.fl with handlers := s.fl.handlers.filter fun h => !s.handlerDone h } := by
  unfold State.settle
  dsimp only
  split
  next h => rw [h]
  next => exact State.fl_openSubs _ _

theorem State.mem_handlers_settle {s : State} {h : Handler} (hmem : h ∈ s.fl.handlers) (hdone : s.handlerDone h = false) :
    h ∈ s.settle.fl.handlers := by
  rw [State.fl_settle]
  exact List.mem_filter.mpr ⟨hmem, by simp [hdone]⟩

end

/-! #### The retraining that containment asks for (R72, R310) -/

/-- The retraining holds the slot or waits for it. -/
def SubCh.asksRetrain (x : SubCh) : Prop := x.holder = 1 ∨ 1 ∈ x.waiting

theorem SubCh.trains_of_asksRetrain {x : SubCh} (h : x.asksRetrain) : x.trains = true := by
  rcases h with h | h <;> simp [SubCh.trains, h]

section
variable {s : State} {c d : Nat}

theorem State.sub_askSlot_ne {a : Nat} (ha : a ≠ 5) (h : d ≠ c) : (s.askSlot c a).sub d = s.sub d := by
  by_cases hasked : (s.sub c).holder = a ∨ a ∈ (s.sub c).waiting
  · rw [State.askSlot_of_asked hasked]
  · rw [not_or] at hasked
    obtain ⟨hh, hw⟩ := hasked
    by_cases h0 : (s.sub c).holder = 0
    · rw [State.askSlot_of_free ha h0 hh hw, State.sub_setSub_ne _ _ h]
    · rw [State.askSlot_of_taken h0 hh hw, State.sub_setSub_ne _ _ h]

variable (s c) in
theorem State.askRetrain_eq (k : Nat) : s.askRetrain c k = { s with dr := { s.dr with sub := (s.askRetrain c k).dr.sub } } := by
  obtain ⟨-, -, -, -, heq⟩ := s.askSlot_result c (a := 1) (by decide)
  unfold State.askRetrain
  rw [heq]
  rfl

variable (s c) in
theorem State.sub_askRetrain (k : Nat) : ((s.askRetrain c k).sub c).asksRetrain ∧ ((s.askRetrain c k).sub c).retrainCause = k ∧
    ((s.askRetrain c k).sub c).state = (s.sub c).state := by
  obtain ⟨h, w, hsub, hasks, -⟩ := s.askSlot_result c (a := 1) (by decide)
  have hnew : (s.askRetrain c k).sub c = { s.sub c with holder := h, waiting := w, retrainCause := k } := by
    unfold State.askRetrain
    rw [State.sub_setSub, hsub]
  rw [hnew]
  exact ⟨hasks, rfl, rfl⟩

theorem State.sub_askRetrain_ne (k : Nat) (h : d ≠ c) : (s.askRetrain c k).sub d = s.sub d :=
  (State.sub_setSub_ne _ _ h).trans (State.sub_askSlot_ne (by decide) h)

theorem State.asksRetrain_askRetrain (k : Nat) (h : (s.sub d).asksRetrain) : ((s.askRetrain c k).sub d).asksRetrain := by
  by_cases hd : d = c
  · rw [hd]
    exact (s.sub_askRetrain c k).1
  · rwa [State.sub_askRetrain_ne k hd]

/-- Neither mapped out nor untrained: a containment action reaches the sub-channel. -/
def SubCh.inUse (x : SubCh) : Prop := x.state ≠ 3 ∧ x.state ≠ 0

theorem State.inUse_askRetrain (k : Nat) (h : (s.sub d).inUse) : ((s.askRetrain c k).sub d).inUse := by
  by_cases hd : d = c
  · subst hd
    rwa [SubCh.inUse, (s.sub_askRetrain d k).2.2]
  · rwa [State.sub_askRetrain_ne k hd]

variable (s c d) in
theorem State.sub_holdSub : (s.holdSub c).sub d = s.sub d ∨ (s.holdSub c).sub d = { s.sub d with state := 4 } := by
  unfold State.holdSub
  split
  · rw [State.sub_setSub_if]
    split
    next h => exact .inr (by rw [h])
    next => exact .inl rfl
  · exact .inl rfl

theorem State.inUse_holdSub (h : (s.sub d).inUse) : ((s.holdSub c).sub d).inUse := by
  rcases s.sub_holdSub c d with he | he <;> rw [he]
  · exact h
  · exact ⟨by simp, by simp⟩

theorem State.asksRetrain_holdSub (h : (s.sub d).asksRetrain) : ((s.holdSub c).sub d).asksRetrain := by
  rcases s.sub_holdSub c d with he | he <;> rwa [he]

/-- Of the sub-channels that containment closes each one in use asks for its retraining. -/
theorem State.asksRetrain_retrainSubs {cs : List Nat} (hc : c ∈ cs) (h : (s.sub c).inUse) : ((s.retrainSubs cs).sub c).asksRetrain := by
  refine foldl_reaches (inv := fun s : State => (s.sub c).inUse) (done := fun s : State => (s.sub c).asksRetrain) hc h ?inv ?establish ?keep
  case inv =>
    intro s b hi
    split
    · exact hi
    · exact State.inUse_askRetrain 2 (State.inUse_holdSub hi)
  case establish =>
    intro s ⟨h3, h0⟩
    rw [if_neg (by simp [h3, h0])]
    exact (State.sub_askRetrain ..).1
  case keep =>
    intro s b _ hd
    split
    · exact hd
    · exact State.asksRetrain_askRetrain 2 (State.asksRetrain_holdSub hd)

theorem State.asksRetrain_settle (h : (s.sub c).asksRetrain) : (s.settle.sub c).asksRetrain := by
  obtain ⟨n, hn⟩ := s.sub_settle c
  rwa [hn]

/-- A handler waits for the retraining of every sub-channel of its domain. -/
theorem State.handlerDone_of_asksRetrain {h : Handler} (hc : c ∈ subsOf h.dom) (hasks : (s.sub c).asksRetrain) : s.handlerDone h = false := by
  have hno : (subsOf h.dom).all (fun c => !(s.sub c).trains) = false :=
    List.all_eq_false.mpr ⟨c, hc, by simp [SubCh.trains_of_asksRetrain hasks]⟩
  simp [State.handlerDone, hno]

end

/-! #### Handlers that become active and that go (R310, R311) -/

section
variable (s : State) (d : Domain) (seq : W32)

theorem State.mem_handlers_activate (esc : Bool) : ⟨d, esc, seq, s.time⟩ ∈ (s.activate d esc seq).fl.handlers := by simp [State.activate]

@[simp] theorem State.sub_activate (esc : Bool) (c : Nat) : (s.activate d esc seq).sub c = s.sub c := rfl

@[simp] theorem State.handlers_log (code : W16) (a0 a1 a2 a3 : W64) (x : EvExtra) : (s.log code d a0 a1 a2 a3 x).fl.handlers = s.fl.handlers := by
  simp only [State.log, pushEvent]
  split <;> rfl

theorem State.handlerOf_log (code : W16) (a0 a1 a2 a3 : W64) (x : EvExtra) (d' : Domain) :
    (s.log code d a0 a1 a2 a3 x).handlerOf d' = s.handlerOf d' := by
  simp only [State.handlerOf, State.handlers_log]
  rfl

theorem State.handlers_outOfService (x : EvExtra) : (s.outOfService d x).fl.handlers = s.fl.handlers := s.handlers_log d ..

theorem State.not_mem_handlers_dropHandler : ∀ h ∈ (s.dropHandler d).fl.handlers, h.dom ≠ d := by
  intro h hmem
  simpa using (List.mem_filter.mp hmem).2

end

theorem State.handlers_mapOutSub (s : State) (c : Nat) : (s.mapOutSub c).fl.handlers = s.fl.handlers := by
  unfold State.mapOutSub
  split
  · rfl
  · rw [State.handlers_outOfService, State.fl_of_off (State.subGone_off (kp := { dr := true, unit := true, ho := true }) rfl s c)]

/-! #### Reports (R306, R308) -/

section
variable {s : State} {e : ErrRep}

/-- A condition that no record logs yet is logged now. -/
theorem State.recordOf_of_new (h : (s.fl.detected.find? fun d => d.code = e.code && d.dom = e.dom && d.a0 = e.a0) = none) :
    s.recordOf e = (s.log e.code e.dom e.a0 e.a1 e.a2 e.a3 (s.nesting e.dom), s.fl.seq) := by
  unfold State.recordOf
  simp only [h]

theorem exec_errorReport_of_failed (h : s.md.state = 2) : exec (.errorReport e) s = .next s := if_pos h

theorem exec_errorReport_of_unhandled (h : s.md.state ≠ 2) (hno : handled e.code.toNat = false) (hsclk : e.code ≠ 0x0306) :
    exec (.errorReport e) s = .next (s.recordOf e).1 :=
  (if_neg h : execErrorReport e s = _).trans ((if_neg hsclk).trans (if_pos (by simp [hno])))

theorem exec_errorReport_of_sclk (h : s.md.state ≠ 2) (hsclk : e.code = 0x0306) :
    exec (.errorReport e) s = .next ((s.recordOf e).1.moduleFail 4 (s.recordOf e).2) :=
  (if_neg h : execErrorReport e s = _).trans (if_pos hsclk)

theorem State.md_recordOf (s : State) (e : ErrRep) : (s.recordOf e).1.md = s.md := State.md_of_off (State.recordOf_off (kp := { fl := true }) rfl s e)

/-- A degraded lane of a sub-channel without a handler: a handler becomes active and a retraining with cause 1 is asked for. -/
theorem exec_errorReport_of_lane {c : Nat} (h : s.md.state ≠ 2) (hcode : e.code = 0x0103) (hdom : e.dom = ⟨.sub, c⟩) (haff : e.affected = [])
    (hserved : e.served = []) (hno : (s.recordOf e).1.handlerOf e.dom = none) : exec (.errorReport e) s =
      .next (((s.recordOf e).1.activate ⟨.sub, c⟩ false (s.recordOf e).2).askRetrain c 1).settle := by
  obtain ⟨code, dom, a0, a1, a2, a3, affected, served⟩ := e
  subst hcode hdom haff hserved
  show execErrorReport _ s = _
  rw [execErrorReport, if_neg h]
  dsimp only
  rw [hno]
  rfl

end

/-! #### Limits (R310) -/

section
variable {s : State} {d : Domain} {h : Handler}

theorem exec_handlerLimitExpiry_of_none (hno : (s.fl.handlers.find? fun h => h.dom = d) = none) : exec (.handlerLimitExpiry d) s = .next s := by
  show execHandlerLimitExpiry d s = _
  rw [execHandlerLimitExpiry, hno]

theorem exec_handlerLimitExpiry_of_early (hd : (s.fl.handlers.find? fun h => h.dom = d) = some h) (hl : h.late s.now = false) :
    exec (.handlerLimitExpiry d) s = .next s := by
  show execHandlerLimitExpiry d s = _
  rw [execHandlerLimitExpiry, hd]
  simp [hl]

theorem exec_handlerLimitExpiry_of_late (hd : (s.fl.handlers.find? fun h => h.dom = d) = some h) (hl : h.late s.now = true) :
    exec (.handlerLimitExpiry d) s = .next (s.second h h.seq).settle := by
  show execHandlerLimitExpiry d s = _
  rw [execHandlerLimitExpiry, hd]
  exact if_pos hl

theorem Handler.late_iff {now : Nat} : h.late now = true ↔ ∃ l, limitOf h.dom.kind = some l ∧ h.since.toNat + l ≤ now := by
  simp [Handler.late, Option.any_eq_true]

/-- The limit of a domain that has none, or has not come. -/
theorem Handler.late_eq_false (hd : h.dom = d)
    (hl : limitOf d.kind = none ∨ ∃ l, limitOf d.kind = some l ∧ s.time.toNat < h.since.toNat + l) : h.late s.now = false := by
  subst hd
  rw [Bool.eq_false_iff, ne_eq, Handler.late_iff]
  rintro ⟨l, hk, hle⟩
  have hle' : h.since.toNat + l ≤ s.time.toNat := hle
  rcases hl with hn | ⟨m, hm, hlt⟩
  · rw [hn] at hk
    contradiction
  · rw [hk, Option.some.injEq] at hm
    omega

end

/-! #### The parts of the statement -/

section
variable {s : State}

/-- A handler of a sub-channel that asks for a retraining stays active until the sub-channel has trained. -/
theorem State.settle_activate_askRetrain (s : State) (c k : Nat) (seq : W32) : ∃ t,
    ((s.activate ⟨.sub, c⟩ false seq).askRetrain c k).settle = t ∧ ⟨⟨.sub, c⟩, false, seq, s.time⟩ ∈ t.fl.handlers ∧ t.fl.seq = s.fl.seq ∧
    (t.sub c).retrainCause = k ∧ (t.sub c).asksRetrain := by
  generalize hu : s.activate ⟨.sub, c⟩ false seq = u
  obtain ⟨hasks, hcause, -⟩ := u.sub_askRetrain c k
  have hfl : (u.askRetrain c k).fl = u.fl := by rw [State.askRetrain_eq]
  obtain ⟨n, hsub⟩ := (u.askRetrain c k).sub_settle c
  refine ⟨_, rfl, State.mem_handlers_settle ?_ (State.handlerDone_of_asksRetrain (by simp [subsOf]) hasks), ?_, ?_, State.asksRetrain_settle hasks⟩
  · rw [hfl, ← hu]
    exact State.mem_handlers_activate ..
  · rw [State.fl_settle, hfl, ← hu]
    rfl
  · rw [hsub]
    exact hcause

theorem errorReport_lane_result {e : ErrRep} {c : SubId} (h : s.md.state ≠ 2) (hcode : e.code = 0x0103) (hdom : e.dom = ⟨.sub, c.val⟩)
    (haff : e.affected = []) (hserved : e.served = [])
    (hnew : (s.fl.detected.find? fun d => d.code = e.code && d.dom = e.dom && d.a0 = e.a0) = none) (hno : s.handlerOf e.dom = none) : ∃ t,
    exec (.errorReport e) s = .next t ∧ ⟨⟨.sub, c.val⟩, false, s.fl.seq, s.time⟩ ∈ t.fl.handlers ∧ t.fl.seq = s.fl.seq + 1 ∧
    (t.sub c).retrainCause = 1 ∧ ((t.sub c).holder = 1 ∨ 1 ∈ (t.sub c).waiting) := by
  have hrec := State.recordOf_of_new hnew
  have hno1 : (s.recordOf e).1.handlerOf e.dom = none := by rwa [hrec, State.handlerOf_log]
  obtain ⟨t, ht, hmem, hseq, hcause, hasks⟩ := (s.recordOf e).1.settle_activate_askRetrain c 1 (s.recordOf e).2
  rw [hrec] at hmem hseq
  exact ⟨t, (exec_errorReport_of_lane h hcode hdom haff hserved hno1).trans (congrArg _ ht), hmem, hseq, hcause, hasks⟩

/-- A second error of a sub-channel escalates to its stack, whose action closes its sub-channels for retraining. -/
theorem State.second_of_sub (s : State) (c : Nat) (seq : W32) (since : W64) : s.second ⟨⟨.sub, c⟩, false, seq, since⟩ seq =
    (s.activate ⟨.stack, c / 64⟩ true seq).retrainSubs (subsOf ⟨.stack, c / 64⟩) := rfl

/-- After the escalation the sub-channel leaves service. -/
theorem State.second_of_escalated_sub (s : State) (c : Nat) (seq : W32) (since : W64) : s.second ⟨⟨.sub, c⟩, true, seq, since⟩ seq =
    (s.dropHandler ⟨.sub, c⟩).mapOutSub c := rfl

theorem handlerLimitExpiry_sub_result {c : SubId} {seq : W32} {since : W64}
    (hd : (s.fl.handlers.find? fun h => h.dom = ⟨.sub, c.val⟩) = some ⟨⟨.sub, c.val⟩, false, seq, since⟩)
    (hlate : since.toNat + 110000 ≤ s.time.toNat) (hopen : (s.sub c).state = 1) : ∃ t,
    exec (.handlerLimitExpiry ⟨.sub, c.val⟩) s = .next t ∧ ⟨⟨.stack, c.val / 64⟩, true, seq, s.time⟩ ∈ t.fl.handlers ∧
    ((t.sub c).holder = 1 ∨ 1 ∈ (t.sub c).waiting) := by
  have hnext := exec_handlerLimitExpiry_of_late hd (Handler.late_iff.mpr ⟨110000, rfl, hlate⟩)
  rw [State.second_of_sub] at hnext
  refine ⟨_, hnext, ?_⟩
  have hmem : c.val ∈ subsOf ⟨.stack, c.val / 64⟩ := List.mem_map.mpr ⟨c.val % 64, List.mem_range.mpr (Nat.mod_lt _ (by decide)), by dsimp only; omega⟩
  have hasks : (((s.activate ⟨.stack, c.val / 64⟩ true seq).retrainSubs (subsOf ⟨.stack, c.val / 64⟩)).sub c).asksRetrain :=
    State.asksRetrain_retrainSubs hmem ⟨by simp [hopen], by simp [hopen]⟩
  refine ⟨State.mem_handlers_settle ?_ (State.handlerDone_of_asksRetrain hmem hasks), State.asksRetrain_settle hasks⟩
  rw [State.fl_of_off (State.retrainSubs_off (kp := { dr := true, unit := true }) rfl _ _)]
  exact State.mem_handlers_activate ..

theorem handlerLimitExpiry_escalated_result {c : SubId} {seq : W32} {since : W64}
    (hd : (s.fl.handlers.find? fun h => h.dom = ⟨.sub, c.val⟩) = some ⟨⟨.sub, c.val⟩, true, seq, since⟩)
    (hlate : since.toNat + 110000 ≤ s.time.toNat) (hin : (s.sub c).state ≠ 3) : ∃ t,
    exec (.handlerLimitExpiry ⟨.sub, c.val⟩) s = .next t ∧ (t.sub c).state = 3 ∧ (∀ h ∈ t.fl.handlers, h.dom ≠ ⟨.sub, c.val⟩) ∧
    ⟨.sub, c.val⟩ ∈ t.fl.out := by
  have hnext := exec_handlerLimitExpiry_of_late hd (Handler.late_iff.mpr ⟨110000, rfl, hlate⟩)
  rw [State.second_of_escalated_sub] at hnext
  obtain ⟨hstate, hout⟩ := State.settle_mapOutSub (s := s.dropHandler ⟨.sub, c.val⟩) (c := c.val) hin
  refine ⟨_, hnext, hstate, fun h hmem => s.not_mem_handlers_dropHandler ⟨.sub, c.val⟩ h ?_, hout⟩
  rw [State.fl_settle] at hmem
  rw [← State.handlers_mapOutSub _ c.val]
  exact List.mem_of_mem_filter hmem

end

end Sys2Proof.Machine
end

section
/-! PROOFS. Threads that a containment action frees, and the abort and replay of step-groups (11 R312, R313; 07 R226, R227). -/
namespace Sys2Proof.Machine

open Sys2Proof

/-! #### Threads freed one after the other (06 R169) -/

theorem mem_of_tget_ne {α : Type} {d : Nat → α} {t : Tab α} {i : Nat} (h : tget d t i ≠ d i) : (i, tget d t i) ∈ t := by
  induction t with
  | nil => exact absurd rfl h
  | cons q r ih =>
    obtain ⟨k, v⟩ := q
    rw [tget] at h ⊢
    split
    next hk => simp [hk]
    next hk =>
      rw [if_neg hk] at h
      exact List.mem_cons_of_mem _ (ih h)

section
variable {s : State} {i : Nat} {l : List (Nat × Thr)}

/-- The threads of a list become FREE. -/
def State.freeThreads (s : State) (l : List (Nat × Thr)) : State := l.foldl (fun s q => s.freeThread (thrId q.1)) s

theorem State.thrAt_freeThread (s : State) (t : ThrId) (i : Nat) : (s.freeThread t).thrAt i =
    if i = t then { thrInit with life := (s.thrAt t).life + 1, outs := (s.thrAt t).outs.filterMap Acc.orphan } else s.thrAt i :=
  State.thrAt_setThr_if ..

theorem State.thrAt_freeThreads_of_not_mem (h : ∀ q ∈ l, (thrId q.1).val ≠ i) : (s.freeThreads l).thrAt i = s.thrAt i := by
  induction l generalizing s with
  | nil => rfl
  | cons q r ih =>
    rw [List.forall_mem_cons] at h
    obtain ⟨hq, hr⟩ := h
    exact (ih (s := s.freeThread (thrId q.1)) hr).trans ((State.thrAt_freeThread ..).trans (if_neg hq.symm))

/-- A thread that holds no program and serves no step-group. -/
def Thr.released (x : Thr) : Prop := x.st = .free ∧ x.group = none

theorem State.released_freeThreads (h : ∃ q ∈ l, (thrId q.1).val = i) : ((s.freeThreads l).thrAt i).released := by
  obtain ⟨q, hq, hi⟩ := h
  refine foldl_reaches (inv := fun _ => True) (done := fun s : State => (s.thrAt i).released) hq trivial (fun _ _ h => h) ?establish ?keep
  case establish =>
    intro s _
    rw [State.thrAt_freeThread, if_pos hi.symm]
    exact ⟨rfl, rfl⟩
  case keep =>
    intro s b _ hd
    rw [State.thrAt_freeThread]
    split
    · exact ⟨rfl, rfl⟩
    · exact hd

/-- A number below 131,072 names its thread. -/
theorem thrId_val (h : i < 131072) : (thrId i).val = i := Nat.mod_eq_of_lt h

/-- Of the threads that a condition picks each one with a record is freed. -/
theorem State.released_freeThreads_filter {p : Nat × Thr → Bool} (hi : i < 131072) (hx : s.thrAt i ≠ thrInit) (hp : p (i, s.thrAt i) = true) :
    ((s.freeThreads (s.th.thr.filter p)).thrAt i).released :=
  State.released_freeThreads ⟨_, List.mem_filter.mpr ⟨mem_of_tget_ne hx, hp⟩, thrId_val hi⟩

/-- A thread of the group that stopping its work leaves with it is FREE. -/
theorem State.free_stopWork (m : Nat) (hi : i < 131072) (hg : ((s.stopWork m).thrAt i).group = some m) : ((s.stopWork m).thrAt i).st = .free := by
  obtain ⟨u, hu⟩ : ∃ u : State, s.stopWork m = u.freeThreads (u.th.thr.filter fun q => q.2.st ≠ .free && q.2.group == some m) := ⟨_, rfl⟩
  rw [hu] at hg ⊢
  by_cases hmem : ∃ q ∈ u.th.thr.filter fun q => q.2.st ≠ .free && q.2.group == some m, (thrId q.1).val = i
  · exact (State.released_freeThreads hmem).1
  · have hsame := State.thrAt_freeThreads_of_not_mem (s := u) fun q hq h => hmem ⟨q, hq, h⟩
    rw [hsame] at hg ⊢
    by_contra hst
    have hx : u.thrAt i ≠ thrInit := fun h => hst (by rw [h]; rfl)
    obtain ⟨-, hnone⟩ := State.released_freeThreads_filter (p := fun q => q.2.st ≠ .free && q.2.group == some m) hi hx (by simp [hst, hg])
    rw [hsame, hg] at hnone
    contradiction

end

/-! #### Aborts (R312, R313) -/

section
variable {s : State} {m : Nat} {cause : W32} {g : Group}

theorem State.abortGroup_of_replay (hg : (s.modelAt m).group = some g) (h : g.replay = true) :
    s.abortGroup m cause = s.setModel m { s.modelAt m with group := some { g with cause := cause } } := by
  unfold State.abortGroup
  simp [hg, h]

theorem State.abortGroup_of_last (hg : (s.modelAt m).group = some g) (h : g.replay = false) (ha : 4 ≤ g.attempts) :
    s.abortGroup m cause = s.faultAll (g.members.map (·.slot)) cause := by
  unfold State.abortGroup
  simp [hg, h, ha]

/-- A group whose attempt is aborted, before its replay. -/
def Group.aborted (g : Group) (at_ : W64) (cause : W32) : Group :=
  { g with replay := true, layer := 0, attempts := g.attempts + 1, abortAt := at_, cause := cause, calm := none }

theorem State.abortGroup_of_next (hg : (s.modelAt m).group = some g) (h : g.replay = false) (ha : g.attempts < 4) :
    s.abortGroup m cause = (s.setModel m { s.modelAt m with group := some (g.aborted (s.seqTime cause) cause) }).stopWork m := by
  unfold State.abortGroup
  simp only [hg, h, Bool.false_eq_true, ↓reduceIte, show ¬ 5 ≤ g.attempts + 1 by omega]
  rfl

theorem State.modelAt_stopWork (k : Nat) : (s.stopWork m).modelAt k = s.modelAt k :=
  congrArg (fun v : Service => tget modelD v.model k) (State.sv_of_off
    (State.stopWork_off (kp := { dr := true, th := true, tile := true, sy := true, arr := true, unit := true, dm := true, cw := true }) rfl s m))

end

/-! #### The start of a replay (R312; 07 R226) -/

section
variable {s : State} {m : ModelId} {g : Group}

/-- The group's counters LENIENT and without watches. -/
def State.counterRest (s : State) (cs : List Nat) : State := (s.setStrict cs false).cancelOn cs

theorem exec_replayStart_of_not_waiting (hg : (s.modelAt m).group = some g) (h : g.replay = false ∨ s.md.running = false) :
    exec (.replayStart m) s = .next s := by
  show execReplayStart m s = _
  simp only [execReplayStart, hg]
  exact if_pos (by simpa using h)

/-- Since when nothing can signal the group's counters. -/
def State.calmSince (s : State) (m : Nat) (cs : List Nat) (g : Group) (now : W64) : Option W64 :=
  if s.signalsDue cs || s.workLeft m then none else some (g.calm.getD now)

theorem exec_replayStart_of_waiting (hg : (s.modelAt m).group = some g) (hr : g.replay = true) (hrun : s.md.running = true) :
    exec (.replayStart m) s =
      if ((s.counterRest (s.groupCounters m)).calmSince m (s.groupCounters m) g s.time).any fun t => t.toNat + 40 ≤ s.now then
        .next ((((s.groupCounters m).foldl State.zeroCtr (s.counterRest (s.groupCounters m))).setStrict (s.groupCounters m) true).replayNow m g)
      else .next ((s.counterRest (s.groupCounters m)).setModel m { s.modelAt m with
        group := some { g with calm := (s.counterRest (s.groupCounters m)).calmSince m (s.groupCounters m) g s.time } }) := by
  show execReplayStart m s = _
  simp only [execReplayStart, hg]
  exact if_neg (by simp [hr, hrun])

theorem State.calmSince_of_due {cs : List Nat} {now : W64} (h : s.signalsDue cs = true ∨ s.workLeft m = true) : s.calmSince m cs g now = none :=
  if_pos (by simpa using h)

theorem State.calmSince_of_rest {cs : List Nat} {now : W64} (hs : s.signalsDue cs = false) (hw : s.workLeft m = false) :
    s.calmSince m cs g now = some (g.calm.getD now) := if_neg (by simp [hs, hw])

end

/-! #### The replay itself (R312) -/

section
variable {s : State} {m : Nat}

theorem foldl_counts {σ β : Type} (p : σ → Nat) (f : σ → β → σ) (l : List β) (s : σ) (h : ∀ s a, p (f s a) = p s + 1) :
    p (l.foldl f s) = p s + l.length := by
  induction l generalizing s with
  | nil => rfl
  | cons a r ih => rw [List.foldl_cons, ih, h, List.length_cons]; omega

theorem State.length_sigs_sendSignal (s : State) (g : SignalMsg) : (s.sendSignal g).sy.sigs.length = s.sy.sigs.length + 1 := by
  simp [State.sendSignal, State.sendOp, Sync.sigs]

theorem State.stageStart_of_no_stages (h : (s.modelAt m).stageTiles = []) : s.stageStart m = s.setModel m { s.modelAt m with staged := [] } := by
  unfold State.stageStart
  simp only [h]
  rfl

/-- Without stages a layer's start signals every home tile once, and changes nothing else. -/
theorem State.startLayer_of_no_stages (layer : Nat) (h : (s.modelAt m).stageTiles = []) :
    (s.startLayer m layer).off { sy := true } = (s.setModel m { s.modelAt m with layerAt := s.time }).off { sy := true } ∧
    (s.startLayer m layer).sy.sigs.length = s.sy.sigs.length + (s.modelAt m).homeTiles.length := by
  unfold State.startLayer
  simp only [h, List.foldl_nil]
  exact ⟨foldl_off _ _ _ fun _ _ => State.sendSignal_off _ _ rfl,
    foldl_counts (fun s : State => s.sy.sigs.length) _ _ _ fun _ _ => State.length_sigs_sendSignal _ _⟩

theorem State.replayNow_result (s : State) (m : Nat) (g : Group) (h : (s.modelAt m).stageTiles = []) : ∃ ps, ps.length = g.pieces.length ∧
    (s.replayNow m g).modelAt m = { s.modelAt m with group := some { g with replay := false, calm := none, pieces := ps }, staged := [], layerAt := s.time } ∧
    (s.replayNow m g).fl.backlog = (s.log 0x0601 (domOf .square (s.modelAt m).lead) (n64 (g.attempts + 1)) (g.cause.setWidth 64) (s.time - g.abortAt) 0
      { model := BitVec.ofNat 16 m, step := (s.modelAt m).stepNo }).fl.backlog ∧
    (s.replayNow m g).sy.sigs.length = s.sy.sigs.length + (s.modelAt m).homeTiles.length := by
  generalize hlog : s.log 0x0601 (domOf .square (s.modelAt m).lead) (n64 (g.attempts + 1)) (g.cause.setWidth 64) (s.time - g.abortAt) 0
      { model := BitVec.ofNat 16 m, step := (s.modelAt m).stepNo } = s1
  have h1 : s1.off { fl := true } = s.off { fl := true } := by
    rw [← hlog]
    exact State.log_off _ _ _ _ _ _ _ _ rfl
  have h2 : (s1.restartArrays m).off { arr := true } = s1.off { arr := true } := State.restartArrays_off rfl ..
  have hm2 : (s1.restartArrays m).modelAt m = s.modelAt m :=
    congrArg (fun v : Service => tget modelD v.model m) ((State.sv_of_off h2).trans (State.sv_of_off h1))
  refine ⟨g.pieces.map (s1.restartArrays m).resided, List.length_map .., ?_⟩
  generalize hg : ({ g with replay := false, calm := none, pieces := g.pieces.map (s1.restartArrays m).resided } : Group) = g1
  generalize hu : ((s1.restartArrays m).setModel m { s.modelAt m with group := some g1 }).setModel m
    { s.modelAt m with group := some g1, staged := [] } = u
  have hreplay : s.replayNow m g = (u.startLayer m 0).settle := by
    unfold State.replayNow
    simp only [hlog, hm2, hg]
    rw [State.stageStart_of_no_stages (by rw [State.modelAt_setModel]; exact h), State.modelAt_setModel, ← hu]
  have hum : u.modelAt m = { s.modelAt m with group := some g1, staged := [] } := by rw [← hu, State.modelAt_setModel]
  have hus : u.off { sv := true } = (s1.restartArrays m).off { sv := true } := by
    rw [← hu]
    exact (State.setModel_off _ _ _ rfl).trans (State.setModel_off _ _ _ rfl)
  obtain ⟨hlayer, hsigs⟩ := State.startLayer_of_no_stages (s := u) (m := m) 0 (by rw [hum]; exact h)
  have hsettle := State.settle_off (kp := { dr := true, fl := true }) rfl (u.startLayer m 0)
  rw [hreplay]
  refine ⟨?model, ?backlog, ?signals⟩
  case model =>
    have hsv : (u.startLayer m 0).settle.sv = (u.setModel m { u.modelAt m with layerAt := u.time }).sv :=
      (State.sv_of_off hsettle).trans (State.sv_of_off hlayer)
    have htime : u.time = s.time := (State.time_of_off hus).trans ((State.time_of_off h2).trans (State.time_of_off h1))
    rw [State.modelAt, hsv]
    refine (State.modelAt_setModel u m _).trans ?_
    rw [hum, htime]
  case backlog =>
    have hfl : (u.startLayer m 0).fl = s1.fl := (State.fl_of_off hlayer).trans ((State.fl_of_off hus).trans (State.fl_of_off h2))
    rw [State.fl_settle, hfl]
  case signals =>
    have hsy : u.sy = s.sy := (State.sy_of_off hus).trans ((State.sy_of_off h2).trans (State.sy_of_off h1))
    rw [State.sy_of_off hsettle, hsigs, hsy, hum]
    rfl

end

end Sys2Proof.Machine
end

section
/-! PROOFS. Liveness probes: what a probe that one tile misses counts (11 R309). -/
namespace Sys2Proof.Machine

open Sys2Proof

/-! #### One probe, and the round of the tiles -/

/-- A tile after a probe that it missed, or answered: its first miss is counted, and an answer ends the count. -/
def Tile.probed (x : Tile) (silent : Bool) : Tile := { x with missed := if silent then 1 else 0 }

/-- What a probe makes of tile `i` where only tile `t` is silent, which missed none before. -/
def State.probedTile (s : State) (t : TileId) (i : Nat) : Tile := if s.tileUp i then (s.tileAt i).probed (decide (i = t)) else s.tileAt i

/-- One tile's probe, as `execLivenessProbe` counts it. -/
def State.probe (silent : List TileId) (s : State) (t : Nat) : State :=
  let x := s.tileAt t
  if !s.tileUp t then s
  else if silent.any fun i => i.val = t then
    if 1 ≤ x.missed then (s.setTile t { x with missed := 0 }).declareDown t 0 else s.setTile t { x with missed := x.missed + 1 }
  else if x.missed = 0 then s else s.setTile t { x with missed := 0 }

section
variable {s : State} {t : TileId}

theorem State.probe_of_down {i : Nat} (l : List TileId) (h : s.tileUp i = false) : State.probe l s i = s := if_pos (by simp [h])

theorem State.probe_of_silent (hup : s.tileUp t = true) (hm : (s.tileAt t).missed = 0) :
    State.probe [t] s t = s.setTile t ((s.tileAt t).probed true) := by
  simp [State.probe, hup, hm, Tile.probed]

theorem State.probe_of_answer {i : Nat} (hup : s.tileUp i = true) (hi : i ≠ t) :
    State.probe [t] s i = if (s.tileAt i).missed = 0 then s else s.setTile i ((s.tileAt i).probed false) := by
  simp [State.probe, hup, Tile.probed, Ne.symm hi]

/-- The probe of tile `i` changes that tile alone. -/
theorem State.probe_result {i : Nat} (h : i = t → (s.tileAt i).missed = 0) (k : Nat) :
    (State.probe [t] s i).tileAt k = (if k = i then s.probedTile t i else s.tileAt k) ∧
    State.probe [t] s i = { s with tile := (State.probe [t] s i).tile } := by
  by_cases hup : s.tileUp i = true
  · rw [State.probedTile, if_pos hup]
    by_cases hi : i = t
    · subst hi
      rw [State.probe_of_silent hup (h rfl), State.tileAt_setTile_if, decide_eq_true rfl]
      exact ⟨rfl, rfl⟩
    · rw [State.probe_of_answer hup hi, decide_eq_false hi]
      split
      next hm =>
        refine ⟨?_, rfl⟩
        split
        next hk => rw [hk, Tile.probed, if_neg (by decide), ← hm]
        next => rfl
      next => exact ⟨State.tileAt_setTile_if .., rfl⟩
  · rw [State.probe_of_down _ (by simpa using hup), State.probedTile, if_neg hup]
    exact ⟨by split <;> simp [*], rfl⟩

theorem State.probedTile_congr {u : State} {i : Nat} (h : u.tileAt i = s.tileAt i) : u.probedTile t i = s.probedTile t i := by
  unfold State.probedTile State.tileUp
  rw [h]

/-- The probes of the tiles below `n`, where only `t` is silent. -/
theorem State.probes_result (hm : (s.tileAt t).missed = 0) (n : Nat) :
    (∀ i, ((List.range n).foldl (State.probe [t]) s).tileAt i = if i < n then s.probedTile t i else s.tileAt i) ∧
    (List.range n).foldl (State.probe [t]) s = { s with tile := ((List.range n).foldl (State.probe [t]) s).tile } := by
  induction n with
  | zero => exact ⟨fun i => rfl, rfl⟩
  | succ n ih =>
    rw [List.range_succ, List.foldl_append, List.foldl_cons, List.foldl_nil]
    obtain ⟨htile, heq⟩ := ih
    generalize (List.range n).foldl (State.probe [t]) s = u at htile heq ⊢
    have hsame : u.tileAt n = s.tileAt n := by rw [htile, if_neg (Nat.lt_irrefl n)]
    have hn := State.probe_result (s := u) (t := t) (i := n) fun h => by rw [hsame, h, hm]
    refine ⟨fun i => ?_, ?_⟩
    · rw [(hn i).1]
      by_cases hi : i = n
      · rw [if_pos hi, hi, if_pos (Nat.lt_succ_self n), State.probedTile_congr hsame]
      · rw [if_neg hi, htile]
        simp only [show i < n + 1 ↔ i < n by omega]
    · rw [(hn 0).2, heq]

end

theorem exec_livenessProbe_of_early {s : State} {l : List TileId} (h : s.md.running = false ∨ s.time.toNat < s.md.probeAt.toNat + 20000) :
    exec (.livenessProbe l) s = .next s := by
  have h' : (!s.md.running) = true ∨ s.now < s.md.probeAt.toNat + 20000 := by simpa [State.now] using h
  exact (if_pos h' : execLivenessProbe l s = _)

theorem exec_livenessProbe_of_due {s : State} (l : List TileId) (hrun : s.md.running = true) (h : s.md.probeAt.toNat + 20000 ≤ s.time.toNat) :
    exec (.livenessProbe l) s = .next ((List.range 64).foldl (State.probe l) { s with md := { s.md with probeAt := s.time } }).settle := by
  have h' : ¬ ((!s.md.running) = true ∨ s.now < s.md.probeAt.toNat + 20000) := by simp [State.now, hrun, h]
  exact (if_neg h' : execLivenessProbe l s = _)

theorem livenessProbe_result {s : State} {t : TileId} (hrun : s.md.running = true) (hdue : s.md.probeAt.toNat + 20000 ≤ s.time.toNat)
    (hup : s.tileUp t = true) (hm : (s.tileAt t).missed = 0) : ∃ u, exec (.livenessProbe [t]) s = .next u ∧
    u.tileAt t = { s.tileAt t with missed := 1 } ∧ (∀ i, i < 64 → i ≠ t.val → s.tileUp i = true → u.tileAt i = { s.tileAt i with missed := 0 }) ∧
    u = { s with tile := u.tile, fl := u.fl, md := { s.md with probeAt := s.time }, dr := { s.dr with sub := u.dr.sub } } := by
  refine ⟨_, exec_livenessProbe_of_due [t] hrun hdue, ?_⟩
  obtain ⟨htile, heq⟩ := State.probes_result (s := { s with md := { s.md with probeAt := s.time } }) (t := t) hm 64
  generalize (List.range 64).foldl (State.probe [t]) { s with md := { s.md with probeAt := s.time } } = u at htile heq ⊢
  have hsettle : ∀ i, u.settle.tileAt i = if i < 64 then s.probedTile t i else s.tileAt i := fun i => by
    rw [State.tileAt, State.tile_of_off (State.settle_off (kp := { dr := true, fl := true }) rfl u)]
    exact htile i
  refine ⟨?_, fun i hi hne hupi => ?_, ?_⟩
  · rw [hsettle, if_pos t.isLt, State.probedTile, if_pos hup, decide_eq_true rfl]
    rfl
  · rw [hsettle, if_pos hi, State.probedTile, if_pos hupi, decide_eq_false hne]
    rfl
  · rw [State.settle_eq, heq]

end Sys2Proof.Machine
end

section
/-! PROOFS. What accesses to memory keep: the tiles' states and the pages retired (02 R58; 06 R190; 08 R248). -/
namespace Sys2Proof.Machine

open Sys2Proof

/-- What no access to memory changes: the states of the tiles, and the pages retired. -/
def State.kept (s : State) : (Nat → Nat) × List Nat := (fun t => (s.tileAt t).state, s.fl.retired)

section
variable {s : State}

theorem State.kept_of_off {k : Parts} {u : State} (h : u.off k = s.off k) (ht : k.tile = false) (hf : k.fl = false) :
    u.kept = s.kept := by
  simp only [State.kept, State.tileAt, State.tile_of_off h ht, State.fl_of_off h hf]

theorem State.kept_setTile {t : Nat} {x : Tile} (h : x.state = (s.tileAt t).state) : (s.setTile t x).kept = s.kept := by
  refine Prod.ext (funext fun i => ?_) rfl
  show ((s.setTile t x).tileAt i).state = _
  rw [State.tileAt_setTile_if]
  split
  next hi => rw [h, hi, State.kept]
  next => rfl

end

section
variable (s : State)

/-! #### The controllers -/

@[simp] theorem State.kept_log (c : W16) (d : Domain) (a0 a1 a2 a3 : W64) (x : EvExtra) : (s.log c d a0 a1 a2 a3 x).kept = s.kept := by
  simp only [State.kept, State.log, pushEvent]
  split <;> rfl

@[simp] theorem State.kept_detect (c : W16) (d : Domain) (a0 a1 a2 a3 : W64) (x : EvExtra) : (s.detect c d a0 a1 a2 a3 x).kept = s.kept :=
  s.kept_log c d a0 a1 a2 a3 x

@[simp] theorem State.kept_setSub (c : Nat) (x : SubCh) : (s.setSub c x).kept = s.kept := rfl
@[simp] theorem State.kept_serve (b r : Nat) (col : Bool) (cls : Nat) : (s.serve b r col cls).kept = s.kept :=
  State.kept_of_off (State.serve_off (kp := { dr := true }) rfl ..) rfl rfl
@[simp] theorem State.kept_accept (c : Nat) (r : Req) : (s.accept c r).kept = s.kept :=
  State.kept_of_off (State.accept_off (kp := { dr := true }) rfl ..) rfl rfl
@[simp] theorem State.kept_putCw (p : Nat) (b : List Byte) (poison : Bool) (cls : Nat) : (s.putCw p b poison cls).kept = s.kept :=
  State.kept_of_off (State.putCw_off (kp := { dr := true }) rfl ..) rfl rfl

@[simp] theorem State.kept_laneMark (c l : Nat) : (s.laneMark c l).kept = s.kept := by
  unfold State.laneMark
  dsimp only
  split <;> simp

@[simp] theorem State.kept_laneDegraded (c : Nat) (before after : List Nat) : (s.laneDegraded c before after).kept = s.kept :=
  foldl_keeps State.kept _ _ _ fun s l => s.kept_laneMark c l

@[simp] theorem State.kept_reportUe (cw c : Nat) (a0 a1 : W64) (src : ReqSrc) : (s.reportUe cw c a0 a1 src).kept = s.kept := by
  unfold State.reportUe
  split
  · rfl
  · exact State.kept_detect ..

@[simp] theorem State.kept_decodeRead (p : Nat) (src : ReqSrc) (m : Sample) (errs : List SymErr) : (s.decodeRead p src m errs).2.kept = s.kept := by
  unfold State.decodeRead
  dsimp only
  split <;> simp

@[simp] theorem State.kept_readCw (p : Nat) (src : ReqSrc) (errs : List SymErr) (cls : Nat) : (s.readCw p src errs cls).2.kept = s.kept := by
  simp [State.readCw]

@[simp] theorem State.kept_readCws (p : Nat) (src : ReqSrc) (errs : List ScrubErr) (cls n k : Nat) : (s.readCws p src errs cls n k).2.kept = s.kept := by
  induction n generalizing s p k with
  | zero => rfl
  | succ n ih => exact (ih ..).trans (s.kept_readCw ..)

@[simp] theorem State.kept_writeCwAt (p off : Nat) (b : List Byte) (poison : Bool) (src : ReqSrc) (errs : List SymErr) (cls : Nat) :
    (s.writeCwAt p off b poison src errs cls).2.kept = s.kept := by
  unfold State.writeCwAt
  split <;> simp

/-! #### The Plaza slices and Weld -/

@[simp] theorem State.kept_plazaPut (p : Nat) (l : Line) : (s.plazaPut p l).kept = s.kept := State.kept_setTile rfl
@[simp] theorem State.kept_plazaDrop (p : Nat) : (s.plazaDrop p).kept = s.kept := State.kept_setTile rfl

@[simp] theorem State.kept_plazaTouch (p : Nat) : (s.plazaTouch p).kept = s.kept := by
  unfold State.plazaTouch
  dsimp only
  split
  · rfl
  · exact State.kept_setTile rfl

@[simp] theorem State.kept_lineBack (p : Nat) (l : Line) : (s.lineBack p l).kept = s.kept := by
  unfold State.lineBack
  split
  · refine foldl_keeps State.kept _ _ _ fun s k => ?_
    dsimp only
    split <;> simp
  · rfl

@[simp] theorem State.kept_evictLine (t key : Nat) : (s.evictLine t key).kept = s.kept := by
  unfold State.evictLine
  split
  · rfl
  · refine .trans (State.kept_setTile ?_) (s.kept_lineBack ..)
    rfl

@[simp] theorem State.kept_plazaFill (p : Nat) (l : Line) : (s.plazaFill p l).kept = s.kept := by
  simp only [State.plazaFill, State.kept_plazaTouch, State.kept_plazaPut]
  split <;> simp

@[simp] theorem State.kept_lineRead (p : Nat) (src : ReqSrc) (alloc : Bool) (errs : List ScrubErr) (cls : Nat) :
    (s.lineRead p src alloc errs cls).2.kept = s.kept := by
  unfold State.lineRead
  dsimp only
  (repeat' split) <;> simp

theorem State.kept_cohPut (p : Nat) (b : List Byte) (poison alloc : Bool) (src : ReqSrc) (errs : List ScrubErr) (cls : Nat) :
    (s.cohPut p b poison alloc src errs cls).2.kept = s.kept := by
  refine foldl_keeps (fun a : Bool × State => a.2.kept) _ _ _ fun a pc => ?_
  dsimp only
  split
  · simp
  · exact foldl_keeps (fun a : Bool × State => a.2.kept) _ _ _ fun _ _ => State.kept_writeCwAt ..

@[simp] theorem State.kept_cohWrite (p : Nat) (b : List Byte) (poison alloc : Bool) (src : ReqSrc) (errs : List ScrubErr) (cls : Nat) :
    (s.cohWrite p b poison alloc src errs cls).kept = s.kept := State.kept_cohPut ..

theorem State.kept_rawPut (p : Nat) (b : List Byte) (poison : Bool) (src : ReqSrc) (errs : List ScrubErr) :
    (s.rawPut p b poison src errs).2.kept = s.kept :=
  foldl_keeps (fun a : Bool × State => a.2.kept) _ _ _ fun _ _ => State.kept_writeCwAt ..

@[simp] theorem State.kept_clearRange (p n : Nat) : (s.clearRange p n).kept = s.kept :=
  (State.kept_rawPut ..).trans (foldl_keeps State.kept _ _ _ fun s k => s.kept_plazaDrop (64 * k))

@[simp] theorem State.kept_weldWrite (t off : Nat) (b : List Byte) (poison : Bool) : (s.weldWrite t off b poison).kept = s.kept :=
  State.kept_setTile (s := s) rfl

@[simp] theorem State.kept_weldReadBy (t off n errs : Nat) : (s.weldReadBy t off n errs).kept = s.kept := by
  unfold State.weldReadBy
  dsimp only
  split
  · rfl
  · exact State.kept_setTile (s := s.weldTouch t off n false) rfl

/-! #### Ranges of memory -/

@[simp] theorem State.kept_madderPiece (src : ReqSrc) (p n : Nat) (errs : List SymErr) (cls : Nat) :
    (s.madderPiece src p n errs cls).2.kept = s.kept := by
  unfold State.madderPiece
  split <;> simp

@[simp] theorem State.kept_agentRead (src : ReqSrc) (p n k0 : Nat) (errs : List ScrubErr) (cls : Nat) :
    (s.agentRead src p n k0 errs cls).2.kept = s.kept := by
  refine foldl_keeps (fun a : List Piece × State => a.2.kept) _ _ _ fun a q => ?_
  dsimp only
  split <;> simp

@[simp] theorem State.kept_agentWriteAs (src : ReqSrc) (errs : List ScrubErr) (cls k0 p : Nat) (l : List Piece) :
    (s.agentWriteAs src errs cls k0 p l).kept = s.kept := by
  induction l generalizing s k0 p with
  | nil => rfl
  | cons a r ih =>
    refine (ih ..).trans ?_
    split <;> simp


@[simp] theorem State.kept_readChunks (src : ReqSrc) (cs : List (Nat × Nat)) (errs : List ScrubErr) (cls : Nat) :
    (s.readChunks src cs errs cls).2.kept = s.kept :=
  foldl_keeps (fun a : List Piece × State => a.2.kept) _ _ _ fun _ _ => State.kept_agentRead ..

@[simp] theorem State.kept_writeChunksAs (src : ReqSrc) (cls : Nat) (cs : List (Nat × Nat)) (ps : List Piece) :
    (s.writeChunksAs src cls cs ps).kept = s.kept := by
  induction cs generalizing s ps with
  | nil => rfl
  | cons c r ih => exact (ih ..).trans (State.kept_agentWriteAs ..)

@[simp] theorem State.kept_writeChunks (cs : List (Nat × Nat)) (ps : List Piece) : (s.writeChunks cs ps).kept = s.kept := State.kept_writeChunksAs ..

@[simp] theorem State.kept_clearPages (ps : List Nat) : (s.clearPages ps).kept = s.kept :=
  foldl_keeps State.kept _ _ _ fun s _ => s.kept_clearRange ..

end

end Sys2Proof.Machine
end

section
/-! PROOFS. What operations that reach Weld or the Plaza leave of a tile: its state (11 R319). -/
namespace Sys2Proof.Machine

open Sys2Proof

section
variable {s u : State}

theorem State.tileAt_of_off {k : Parts} {i : Nat} (h : u.off k = s.off k) (ht : k.tile = false) : u.tileAt i = s.tileAt i :=
  congrArg (tget tileD · i) (State.tile_of_off h ht)

theorem State.tileState_of_kept (h : u.kept = s.kept) (i : Nat) : (u.tileAt i).state = (s.tileAt i).state := congrFun (congrArg Prod.fst h) i

theorem State.tileState_foldl {β : Type} {f : State → β → State} (l : List β) (s : State) (i : Nat)
    (h : ∀ s a, ((f s a).tileAt i).state = (s.tileAt i).state) : ((l.foldl f s).tileAt i).state = (s.tileAt i).state :=
  foldl_keeps (fun s => (s.tileAt i).state) f l s h

end

section
variable (s : State) (i : Nat)

/-! #### Operations that reach no tile -/

@[simp] theorem State.tileAt_with_md (x : Module) : State.tileAt { s with md := x } i = s.tileAt i := rfl
@[simp] theorem State.tileAt_with_fl (x : Faults) : State.tileAt { s with fl := x } i = s.tileAt i := rfl

@[simp] theorem State.tileAt_givePages (ps : List Nat) : (s.givePages ps).tileAt i = s.tileAt i :=
  State.tileAt_of_off (State.givePages_off (kp := { ti := true }) rfl ..) rfl
@[simp] theorem State.tileAt_discharge (p tier n : Nat) : (s.discharge p tier n).tileAt i = s.tileAt i :=
  State.tileAt_of_off (State.discharge_off (kp := { sv := true }) rfl ..) rfl
@[simp] theorem State.tileAt_dropMaps (o : Obj) : (s.dropMaps o).tileAt i = s.tileAt i :=
  State.tileAt_of_off (State.dropMaps_off (kp := { pages := true }) rfl ..) rfl
@[simp] theorem State.tileAt_dropFrame (n u : Nat) : (s.dropFrame n u).tileAt i = s.tileAt i :=
  State.tileAt_of_off (State.dropFrame_off (kp := { ti := true, cw := true, sv := true }) rfl ..) rfl
@[simp] theorem State.tileAt_dischargeUnits (o : Obj) : (s.dischargeUnits o).tileAt i = s.tileAt i :=
  State.tileAt_of_off (State.dischargeUnits_off (kp := { sv := true }) rfl ..) rfl
@[simp] theorem State.tileAt_frameGone (n u : Nat) : (s.frameGone n u).tileAt i = s.tileAt i :=
  State.tileAt_of_off (State.frameGone_off (kp := { fl := true, ti := true, cw := true, sv := true }) rfl ..) rfl
@[simp] theorem State.tileAt_lendCheck : (s.lendCheck).tileAt i = s.tileAt i :=
  State.tileAt_of_off (State.lendCheck_off (kp := { cw := true }) rfl ..) rfl
@[simp] theorem State.tileAt_loseLot (k : Nat) : (s.loseLot k).tileAt i = s.tileAt i :=
  State.tileAt_of_off (State.loseLot_off (kp := { fl := true, ti := true, cw := true, sv := true }) rfl ..) rfl
@[simp] theorem State.tileAt_unclaimAll (ns : List Nat) (c : Nat) : (s.unclaimAll ns c).tileAt i = s.tileAt i :=
  State.tileAt_of_off (State.unclaimAll_off (kp := { pages := true, ti := true }) rfl ..) rfl
@[simp] theorem State.tileAt_finish (h : CmdHdr) (status : Nat) (result : W64) : (s.finish h status result).tileAt i = s.tileAt i :=
  State.tileAt_of_off (State.finish_off (kp := { ho := true }) rfl ..) rfl
@[simp] theorem State.tileAt_dropOvClaims (v : Nat) : (s.dropOvClaims v).tileAt i = s.tileAt i :=
  State.tileAt_of_off (State.dropOvClaims_off (kp := { pages := true, ti := true }) rfl ..) rfl
@[simp] theorem State.tileAt_tryRebinds : (s.tryRebinds).tileAt i = s.tileAt i :=
  State.tileAt_of_off (State.tryRebinds_off (kp := { ho := true, sv := true }) rfl ..) rfl
@[simp] theorem State.tileAt_settle : (s.settle).tileAt i = s.tileAt i :=
  State.tileAt_of_off (State.settle_off (kp := { dr := true, fl := true }) rfl ..) rfl
@[simp] theorem State.tileAt_putEntries (k : Nat) (rel : List W32) (fin : Option (Nat × Nat)) (ov : Option W16) : (s.putEntries k rel fin ov).tileAt i = s.tileAt i :=
  State.tileAt_of_off (State.putEntries_off (kp := { ho := true, sv := true }) rfl ..) rfl
@[simp] theorem State.tileAt_dropMember (k : Nat) : (s.dropMember k).tileAt i = s.tileAt i :=
  State.tileAt_of_off (State.dropMember_off (kp := { sv := true }) rfl ..) rfl
@[simp] theorem State.tileAt_makeCurrent (c off : Nat) (x : Chan) : (s.makeCurrent c off x).tileAt i = s.tileAt i :=
  State.tileAt_of_off (State.makeCurrent_off (kp := { sy := true, arr := true, dm := true }) rfl ..) rfl
@[simp] theorem State.tileAt_signalStaged (m t layer : Nat) : (s.signalStaged m t layer).tileAt i = s.tileAt i :=
  State.tileAt_of_off (State.signalStaged_off (kp := { sy := true, sv := true }) rfl ..) rfl
@[simp] theorem State.tileAt_abortCmds : (s.abortCmds).tileAt i = s.tileAt i :=
  State.tileAt_of_off (State.abortCmds_off (kp := { ho := true }) rfl ..) rfl
@[simp] theorem State.tileAt_hostPortFails (p : HPort) : (s.hostPortFails p).tileAt i = s.tileAt i :=
  State.tileAt_of_off (State.hostPortFails_off (kp := { fl := true, ho := true }) rfl ..) rfl
@[simp] theorem State.tileAt_setPort (p : HPort) (x : PortSt) : (s.setPort p x).tileAt i = s.tileAt i :=
  State.tileAt_of_off (State.setPort_off (kp := { ho := true }) rfl ..) rfl
@[simp] theorem State.tileAt_adopt (c heir : Nat) : (s.adopt c heir).tileAt i = s.tileAt i :=
  State.tileAt_of_off (State.adopt_off (kp := { dr := true }) rfl ..) rfl
@[simp] theorem State.tileAt_passSteward (up : Nat → Bool) (t : Nat) : (s.passSteward up t).tileAt i = s.tileAt i :=
  State.tileAt_of_off (State.passSteward_off (kp := { md := true }) rfl ..) rfl
@[simp] theorem State.tileAt_nameStandby : (s.nameStandby).tileAt i = s.tileAt i :=
  State.tileAt_of_off (State.nameStandby_off (kp := { md := true }) rfl ..) rfl
@[simp] theorem State.tileAt_quarantine (n u : Nat) (mirror : Bool) : (s.quarantine n u mirror).tileAt i = s.tileAt i :=
  State.tileAt_of_off (State.quarantine_off (kp := { pages := true, fl := true, ti := true }) rfl ..) rfl
@[simp] theorem State.tileAt_markDamaged (n u : Nat) : (s.markDamaged n u).tileAt i = s.tileAt i :=
  State.tileAt_of_off (State.markDamaged_off (kp := { fl := true }) rfl ..) rfl
@[simp] theorem State.tileAt_objectLost (n u : Nat) : (s.objectLost n u).tileAt i = s.tileAt i :=
  State.tileAt_of_off (State.objectLost_off (kp := { fl := true }) rfl ..) rfl
@[simp] theorem State.tileAt_releaseWaiters (t : Nat) : (s.releaseWaiters t).tileAt i = s.tileAt i :=
  State.tileAt_of_off (State.releaseWaiters_off (kp := { th := true, sy := true }) rfl ..) rfl

/-! #### Memory -/

@[simp] theorem State.tileState_clearPages (ps : List Nat) : ((s.clearPages ps).tileAt i).state = (s.tileAt i).state :=
  State.tileState_of_kept (s.kept_clearPages ps) i
@[simp] theorem State.tileState_weldWrite (t off : Nat) (b : List Byte) (poison : Bool) :
    ((s.weldWrite t off b poison).tileAt i).state = (s.tileAt i).state := State.tileState_of_kept (s.kept_weldWrite t off b poison) i
@[simp] theorem State.tileState_readChunks (src : ReqSrc) (cs : List (Nat × Nat)) (errs : List ScrubErr) (cls : Nat) :
    ((s.readChunks src cs errs cls).2.tileAt i).state = (s.tileAt i).state := State.tileState_of_kept (s.kept_readChunks src cs errs cls) i
@[simp] theorem State.tileState_agentWriteAs (src : ReqSrc) (errs : List ScrubErr) (cls k0 p : Nat) (l : List Piece) :
    ((s.agentWriteAs src errs cls k0 p l).tileAt i).state = (s.tileAt i).state := State.tileState_of_kept (s.kept_agentWriteAs src errs cls k0 p l) i

/-! #### Objects, lots and ports -/

@[simp] theorem State.tileState_releasePages (n : Nat) : ((s.releasePages n).tileAt i).state = (s.tileAt i).state := by
  simp [State.releasePages]

@[simp] theorem State.tileState_freeObject (n : Nat) : ((s.freeObject n).tileAt i).state = (s.tileAt i).state := by
  have hframes (u : State) (k : Nat) : (((List.range k).foldl (fun s u => s.dropFrame n u) u).tileAt i).state = (u.tileAt i).state :=
    State.tileState_foldl _ u i fun s u => by rw [State.tileAt_dropFrame]
  simp only [State.freeObject, State.tileAt_setObj']
  split <;> simp [hframes]

@[simp] theorem State.tileState_takeBack (l : Lent) : ((s.takeBack l).tileAt i).state = (s.tileAt i).state := by
  simp only [State.takeBack, State.tileAt_givePages, State.tileState_clearPages]
  rfl

@[simp] theorem State.tileState_dropLots (p : Nat) : ((s.dropLots p).tileAt i).state = (s.tileAt i).state :=
  (State.tileState_foldl _ _ i fun s l => s.tileState_takeBack i l).trans (State.tileState_foldl _ _ i fun s l => by rw [State.tileAt_loseLot])

@[simp] theorem State.tileState_portDown (p state : Nat) : ((s.portDown p state).tileAt i).state = (s.tileAt i).state := by
  simp [State.portDown]

/-! #### Ends of sessions (R289, R315) -/

@[simp] theorem State.tileState_freeObjects (owner : W16) (ns : List Nat) : ((s.freeObjects owner ns).tileAt i).state = (s.tileAt i).state := by
  refine State.tileState_foldl _ _ i fun s n => ?_
  dsimp only
  (repeat' split) <;> simp

@[simp] theorem State.tileState_tryFreeOverlay (v : Nat) : ((s.tryFreeOverlay v).tileAt i).state = (s.tileAt i).state := by
  unfold State.tryFreeOverlay
  dsimp only
  (repeat' split) <;> simp

@[simp] theorem State.tileState_tryFreeModel (m : Nat) : ((s.tryFreeModel m).tileAt i).state = (s.tileAt i).state := by
  unfold State.tryFreeModel
  dsimp only
  split <;> simp

@[simp] theorem State.tileState_sweep : (s.sweep.tileAt i).state = (s.tileAt i).state := by
  simp only [State.sweep, State.tileAt_settle, State.tileAt_tryRebinds]
  exact (State.tileState_foldl _ _ i fun s m => s.tileState_tryFreeModel i m).trans
    (State.tileState_foldl _ _ i fun s v => s.tileState_tryFreeOverlay i v)

@[simp] theorem State.tileState_endSession (k status : Nat) : ((s.endSession k status).tileAt i).state = (s.tileAt i).state := by
  unfold State.endSession
  dsimp only
  split <;> simp

@[simp] theorem State.tileState_endAll (ks : List Nat) (status : Nat) : ((s.endAll ks status).tileAt i).state = (s.tileAt i).state :=
  State.tileState_foldl _ _ i fun s k => s.tileState_endSession i k status

@[simp] theorem State.tileState_sessionFault (k : Nat) (cause : W32) : ((s.sessionFault k cause).tileAt i).state = (s.tileAt i).state := by
  unfold State.sessionFault
  dsimp only
  split <;> simp

@[simp] theorem State.tileState_faultAll (ks : List Nat) (cause : W32) : ((s.faultAll ks cause).tileAt i).state = (s.tileAt i).state :=
  State.tileState_foldl _ _ i fun s k => s.tileState_sessionFault i k cause

@[simp] theorem State.tileState_moduleFail (reason : Nat) (cause : W32) : ((s.moduleFail reason cause).tileAt i).state = (s.tileAt i).state := by
  unfold State.moduleFail
  split
  · rfl
  · show ((State.abortCmds _).tileAt i).state = _
    simp

@[simp] theorem State.tileState_rolesDown (t : Nat) (cause : W32) : ((s.rolesDown t cause).tileAt i).state = (s.tileAt i).state := by
  unfold State.rolesDown
  (repeat' split) <;> simp

/-! #### Damage (Table FALT-4) -/

@[simp] theorem State.tileState_unitGoneBad (n u : Nat) (cause : W32) : ((s.unitGoneBad n u cause).tileAt i).state = (s.tileAt i).state := by
  unfold State.unitGoneBad
  dsimp only
  split
  · simp
  · split
    · simp
    · refine (State.tileState_foldl _ _ i fun s k => by rw [State.tileAt_dropMember]).trans ?_
      split
      · simp
      · exact congrArg Tile.state (s.tileAt_markDamaged i n u)

@[simp] theorem State.tileState_unitDamaged (n u : Nat) (mirror : Bool) (cause : W32) :
    ((s.unitDamaged n u mirror cause).tileAt i).state = (s.tileAt i).state := by
  unfold State.unitDamaged
  dsimp only
  (repeat' split) <;> simp

@[simp] theorem State.tileState_squareSessions (k : Nat) (cause : W32) : ((s.squareSessions k cause).tileAt i).state = (s.tileAt i).state :=
  State.tileState_faultAll ..

@[simp] theorem State.tileState_squareUnits (k : Nat) (cause : W32) : ((s.squareUnits k cause).tileAt i).state = (s.tileAt i).state := by
  refine State.tileState_foldl _ _ i fun s q => ?_
  split
  · rfl
  · refine State.tileState_foldl _ _ i fun s u => ?_
    dsimp only
    (repeat' split) <;> simp

/-! #### Staging (R250) -/

@[simp] theorem State.tileState_writeLayer (m t layer : Nat) : ((s.writeLayer m t layer).tileAt i).state = (s.tileAt i).state := by
  refine (State.tileState_foldl _ _ i fun s u => ?_).trans (State.tileState_foldl _ _ i fun s j => s.tileState_weldWrite ..)
  dsimp only
  split <;> simp

@[simp] theorem State.tileState_stageBlock (m t layer : Nat) (u : StageUnit) : ((s.stageBlock m t layer u).tileAt i).state = (s.tileAt i).state := by
  unfold State.stageBlock
  dsimp only
  (repeat' split) <;> simp

@[simp] theorem State.tileState_stageTile (m t : Nat) : ((s.stageTile m t).tileAt i).state = (s.tileAt i).state := by
  simp only [State.stageTile, State.tileAt_makeCurrent]
  refine (State.tileState_foldl _ _ i fun s l => ?_).trans (State.tileState_foldl _ _ i fun s l => s.tileState_writeLayer ..)
  rw [State.tileAt_signalStaged]
  exact State.tileState_foldl _ _ i fun s u => s.tileState_stageBlock ..

@[simp] theorem State.tileState_moveChains (t : Nat) : ((s.moveChains t).tileAt i).state = (s.tileAt i).state :=
  State.tileState_foldl _ _ i fun s _ => s.tileState_stageTile ..

/-! #### Units, dies and stacks (R78, R324) -/

@[simp] theorem State.tileState_endJob (u : Nat) (j : BankJob) (done : Bool) (outcome code : Nat) (poison : Bool) :
    ((s.endJob u j done outcome code poison).tileAt i).state = (s.tileAt i).state := by
  unfold State.endJob
  split <;> simp [State.finishBank]

@[simp] theorem State.tileState_unitGone (u : Nat) : ((s.unitGone u).tileAt i).state = (s.tileAt i).state := by
  unfold State.unitGone
  dsimp only
  split
  · rfl
  · rw [State.tileAt_setUnit']
    exact State.tileState_foldl _ _ i fun s j => s.tileState_endJob ..

@[simp] theorem State.tileAt_subGone (c : Nat) : (s.subGone c).tileAt i = s.tileAt i :=
  State.tileAt_of_off (State.subGone_off (kp := { dr := true, unit := true, ho := true }) rfl ..) rfl

@[simp] theorem State.tileState_dieGone (d : Nat) : ((s.dieGone d).tileAt i).state = (s.tileAt i).state :=
  (State.tileState_foldl _ _ i fun s k => s.tileState_unitGone ..).trans (State.tileState_foldl _ _ i fun s k => by rw [State.tileAt_subGone])

@[simp] theorem State.tileState_dieOut (d : Nat) : ((s.dieOut d).tileAt i).state = (s.tileAt i).state := by
  unfold State.dieOut
  split <;> simp

@[simp] theorem State.tileState_stackOut (k : Nat) : ((s.stackOut k).tileAt i).state = (s.tileAt i).state := by
  unfold State.stackOut
  split
  · rfl
  · simpa using State.tileState_foldl _ s i fun s j => s.tileState_dieGone ..

/-! #### The tile itself (R319) -/

@[simp] theorem State.tileState_passSubs (up : Nat → Bool) (t : Nat) : ((s.passSubs up t).tileAt i).state = (s.tileAt i).state := by
  refine (State.tileState_foldl _ _ i fun s d => s.tileState_dieOut ..).trans ?_
  have hadopt (cs : List Nat) : ((cs.foldl (fun s c => s.adopt c (ringNext t)) s).tileAt i).state = (s.tileAt i).state :=
    State.tileState_foldl _ _ i fun s c => by rw [State.tileAt_adopt]
  generalize (if up (ringNext t) then (s.served t).filter fun c => ownerTile c = t else []) = reach
  split
  · exact hadopt _
  · refine (State.tileState_of_kept (State.kept_setTile ?_) i).trans (hadopt _)
    rfl

@[simp] theorem State.tileState_tilePorts (t : Nat) : ((s.tilePorts t).tileAt i).state = (s.tileAt i).state := by
  refine (State.tileState_foldl _ _ i fun s p => ?_).trans (State.tileState_foldl _ _ i fun s p => ?_)
  · split <;> simp
  · split <;> simp

end

end Sys2Proof.Machine
end

section
/-! PROOFS. A tile that is cleared, or leaves service; the end of its self-check; adopted sub-channels and the roles (11 R318 to R320; 07 R227). -/
namespace Sys2Proof.Machine

open Sys2Proof

/-! #### Tables -/

section
variable {α : Type} {d : Nat → α} {i : Nat} (t : Tab α)

/-- A map over a table maps the value of a key that it holds; another key keeps its default. -/
theorem tget_map_cases (f : Nat → α → α) : tget d (t.map fun q => (q.1, f q.1 q.2)) i = f i (tget d t i) ∨ tget d (t.map fun q => (q.1, f q.1 q.2)) i = d i := by
  induction t with
  | nil => exact .inr rfl
  | cons q r ih =>
    rw [List.map_cons, tget, tget]
    split
    next hk => exact .inl (by rw [hk])
    next => exact ih

theorem tget_filter_of_removed {p : Nat → Bool} (h : p i = false) : tget d (t.filter fun q => p q.1) i = d i := by
  induction t with
  | nil => rfl
  | cons q r ih =>
    rw [List.filter_cons]
    split
    next hq =>
      rw [tget, if_neg fun hk => by rw [hk, h] at hq; exact Bool.false_ne_true hq]
      exact ih
    next => exact ih

end

/-! #### What is cleared -/

/-- A tile after a reset of its logic: Weld and Plaza are empty, no halt is asked, the counter blocks are STRICT. -/
def Tile.cleared (x : Tile) : Tile :=
  { x with weld := [], weldMark := [], plaza := [], plru := [], haltA := false, haltB := false, strict := 0xFFFF }

section
variable (s : State) (t : Nat) {i c : Nat}

theorem State.tileAt_tileCleared (i : Nat) : (s.tileCleared t).tileAt i = if i = t then (s.tileAt t).cleared else s.tileAt i := by
  have hput : (s.tileCleared t).tileAt i = if i = t then ((s.releaseWaiters t).tileAt t).cleared else (s.releaseWaiters t).tileAt i :=
    tget_tput ..
  rw [hput, State.tileAt_releaseWaiters, State.tileAt_releaseWaiters]

/-- A thread after a reset of its tile. -/
def Thr.cleared (x : Thr) : Thr := { thrInit with life := x.life + 1 }

theorem State.thr_tileCleared : (s.tileCleared t).th.thr =
    (s.releaseWaiters t).th.thr.map fun q => (q.1, if q.1 / 2048 = t then q.2.cleared else q.2) := by
  refine List.map_congr_left fun q _ => ?_
  by_cases h : q.1 / 2048 = t
  · simp [h, Thr.cleared]
  · simp [h]

theorem State.thrAt_tileCleared_own (h : i / 2048 = t) : ((s.tileCleared t).thrAt i).st = .free ∧ ((s.tileCleared t).thrAt i).g = [] ∧
    ((s.tileCleared t).thrAt i).v = [] ∧ ((s.tileCleared t).thrAt i).pc = 0 := by
  obtain hx | hx := tget_map_cases (d := thrD) (i := i) (s.releaseWaiters t).th.thr fun k x => if k / 2048 = t then x.cleared else x
  all_goals
    rw [State.thrAt, State.thr_tileCleared, hx]
    refine ⟨?_, ?_, ?_, ?_⟩ <;> simp [h, Thr.cleared, thrD, thrInit]

theorem State.thrAt_tileCleared_other (h : i / 2048 ≠ t) : (s.tileCleared t).thrAt i = (s.releaseWaiters t).thrAt i := by
  rw [State.thrAt, State.thr_tileCleared, tget_map_of_default (d := thrD) (f := fun k x => if k / 2048 = t then x.cleared else x) (if_neg h), if_neg h]
  rfl

/-- A thread of another tile that watches a counter of the cleared tile is released (07 R227). -/
theorem State.free_releaseWaiters (hi : i < 131072) (ht : i / 2048 ≠ t) (hst : (s.thrAt i).st = .blocked) (hblk : (s.thrAt i).blk = .watch c)
    (hc : c / 4096 = t) : ((s.releaseWaiters t).thrAt i).st = .free := by
  have hx : s.thrAt i ≠ thrInit := fun h => by rw [h] at hst; contradiction
  refine (State.released_freeThreads_filter hi hx ?_).1
  simp [ht, hst, hblk, hc]

theorem State.ctrAt_tileCleared (h : c / 4096 = t) : (s.tileCleared t).ctrAt c = ctrInit :=
  tget_filter_of_removed (d := ctrD) (p := fun k => !decide (k / 4096 = t)) _ (by simp [h])

end

/-! #### A tile leaves service (R319, R324) -/

section
variable {s : State} {i : Nat} (t : Nat) (cause : W32)

theorem State.tileState_tileCleared (s : State) (t i : Nat) : ((s.tileCleared t).tileAt i).state = (s.tileAt i).state := by
  rw [State.tileAt_tileCleared]
  split
  next h => rw [h, Tile.cleared]
  next => rfl

theorem State.tileState_setTile_off {x : Tile} (hx : x.state = 0) (h : i = t ∨ (s.tileAt i).state = 0) : ((s.setTile t x).tileAt i).state = 0 := by
  rw [State.tileAt_setTile_if]
  split
  next => exact hx
  next hi => exact h.resolve_left hi

/-- A tile that is out of service stays so when a square goes. -/
theorem State.tileState_squareOut {k : Nat} (h : (s.tileAt i).state = 0) : ((s.squareOut k cause).tileAt i).state = 0 := by
  unfold State.squareOut
  split
  · exact h
  · refine (State.tileState_foldl _ _ i fun s j => s.tileState_moveChains ..).trans ?_
    simp only [State.tileState_squareUnits, State.tileState_squareSessions, State.tileAt_outOfService', State.tileState_stackOut]
    refine List.foldlRecOn (motive := fun s : State => (s.tileAt i).state = 0) _ _ h fun s hs j _ => ?_
    split
    · exact hs
    · rw [State.tileState_rolesDown, State.tileState_tilePorts]
      refine State.tileState_setTile_off _ ?_ (.inr ?_)
      · rfl
      · rw [State.tileState_tileCleared, hs]

theorem State.tileState_ite_squareOut {p : Prop} [Decidable p] {u : State} {k : Nat} (h : (u.tileAt i).state = 0) :
    ((if p then u else u.squareOut k cause).tileAt i).state = 0 := by
  split
  · exact h
  · exact State.tileState_squareOut cause h

theorem State.tileState_tileOut : ((s.tileOut t cause).tileAt t).state = 0 := by
  unfold State.tileOut
  dsimp only
  split
  next h => exact h
  next =>
    refine State.tileState_ite_squareOut cause ?_
    simp

end

/-! #### The end of a self-check (R318) -/

section
variable {s : State} {t : TileId}

theorem exec_tileSelfCheckEnd_of_not_waiting (pass : Bool) (h : (s.tileAt t).state ≠ 1 ∨ s.md.state ≠ 1) : exec (.tileSelfCheckEnd t pass) s = .next s :=
  (if_pos h : execTileSelfCheckEnd t pass s = _)

/-- The cause that the tile's handler gives. -/
def State.selfCheckCause (s : State) (t : Nat) : W32 := ((s.handlerOf (domOf .tile t)).map (·.seq)).getD 0xFFFFFFFF

/-- The tile returns to service, cleared. -/
def State.tileReturned (s : State) (t : Nat) : State := (s.tileCleared t).setTile t { (s.tileCleared t).tileAt t with state := 2 }

theorem exec_tileSelfCheckEnd (ht : (s.tileAt t).state = 1) (hs : s.md.state = 1) :
    exec (.tileSelfCheckEnd t true) s = .next (s.tileReturned t).settle ∧
    exec (.tileSelfCheckEnd t false) s = .next (s.tileOut t (s.selfCheckCause t)).settle := by
  have h : ¬ ((s.tileAt t).state ≠ 1 ∨ s.md.state ≠ 1) := by simp [ht, hs]
  exact ⟨(if_neg h : execTileSelfCheckEnd t true s = _), (if_neg h : execTileSelfCheckEnd t false s = _)⟩

theorem State.thrAt_settle (s : State) (i : Nat) : s.settle.thrAt i = s.thrAt i :=
  congrArg (fun x : Threads => tget thrD x.thr i) (State.th_of_off (State.settle_off (kp := { dr := true, fl := true }) rfl s))

theorem State.ctrAt_settle (s : State) (c : Nat) : s.settle.ctrAt c = s.ctrAt c :=
  congrArg (fun x : Sync => tget ctrD x.ctr c) (State.sy_of_off (State.settle_off (kp := { dr := true, fl := true }) rfl s))

theorem tileSelfCheckEnd_pass_result (ht : (s.tileAt t).state = 1) (hs : s.md.state = 1) :
    ∃ u, exec (.tileSelfCheckEnd t true) s = .next u ∧ (u.tileAt t).state = 2 ∧
      (u.tileAt t).weld = [] ∧ (u.tileAt t).plaza = [] ∧ (u.tileAt t).weldMark = [] ∧ (∀ i, i ≠ t.val → u.tileAt i = s.tileAt i) ∧
      (∀ i, i / 2048 = t.val → (u.thrAt i).st = .free ∧ (u.thrAt i).g = [] ∧ (u.thrAt i).v = [] ∧ (u.thrAt i).pc = 0) ∧
      (∀ i, i < 131072 → i / 2048 ≠ t.val → (s.thrAt i).st = .blocked → (∃ c, (s.thrAt i).blk = .watch c ∧ c / 4096 = t.val) → (u.thrAt i).st = .free) ∧
      (∀ c, c / 4096 = t.val → u.ctrAt c = ctrInit) := by
  refine ⟨_, (exec_tileSelfCheckEnd ht hs).1, ?_⟩
  have htile : (s.tileReturned t).settle.tileAt t = { (s.tileAt t).cleared with state := 2 } := by
    rw [State.tileAt_settle, State.tileReturned, State.tileAt_setTile, State.tileAt_tileCleared, if_pos rfl]
  have hthr (i : Nat) : (s.tileReturned t).settle.thrAt i = (s.tileCleared t).thrAt i := State.thrAt_settle ..
  refine ⟨by rw [htile], by rw [htile]; rfl, by rw [htile]; rfl, by rw [htile]; rfl, fun i hi => ?_, fun i hi => ?_, fun i hlt hi hst hblk => ?_, fun c hc => ?_⟩
  · rw [State.tileAt_settle, State.tileReturned, State.tileAt_setTile_ne _ _ hi, State.tileAt_tileCleared, if_neg hi]
  · rw [hthr]
    exact s.thrAt_tileCleared_own t hi
  · obtain ⟨c, hc, hct⟩ := hblk
    rw [hthr, State.thrAt_tileCleared_other _ _ hi]
    exact s.free_releaseWaiters t hlt hi hst hc hct
  · rw [State.ctrAt_settle]
    exact s.ctrAt_tileCleared t hc

theorem tileSelfCheckEnd_fail_result (ht : (s.tileAt t).state = 1) (hs : s.md.state = 1) :
    ∃ u, exec (.tileSelfCheckEnd t false) s = .next u ∧ (u.tileAt t).state = 0 :=
  ⟨_, (exec_tileSelfCheckEnd ht hs).2, by rw [State.tileAt_settle, State.tileState_tileOut]⟩

end

/-! #### Adopted sub-channels (R319) -/

section
variable {s : State} {c : SubId}

theorem exec_adoptedSubchannelOpen_of_open (h : (s.sub c).standbyPort = false) : exec (.adoptedSubchannelOpen c) s = .next s := by
  have h' : ¬ ((s.sub c).state = 0 ∧ (s.sub c).standbyPort = true) := by simp [h]
  exact (if_neg h' : execAdoptedSubchannelOpen c s = _)

theorem State.serving_reopen (s : State) (c : Nat) : ((s.reopen c).sub c).serving = (s.sub c).serving := by
  refine (congrArg SubCh.serving (State.besideSlot_passSlot (c := c) (s := s.setSub c _) c)).trans ?_
  rw [SubCh.besideSlot, State.sub_setSub]

theorem adoptedSubchannelOpen_result (h0 : (s.sub c).state = 0) (hp : (s.sub c).standbyPort = true) :
    ∃ t, exec (.adoptedSubchannelOpen c) s = .next t ∧ (t.sub c).state = 1 ∧ (t.sub c).serving = (s.sub c).serving := by
  refine ⟨_, (if_pos ⟨h0, hp⟩ : execAdoptedSubchannelOpen c s = _), ?_⟩
  rw [State.sub_settle_reopen]
  exact ⟨(s.sub_reopen c).1, s.serving_reopen c⟩

end

/-! #### The primary and the standby (R320) -/

section
variable {s : State}

theorem exec_primaryTakeover_of_none (h : s.md.takeover = false) : exec .primaryTakeover s = .next s :=
  (if_pos (by simp [h]) : execPrimaryTakeover s = _)

theorem primaryTakeover_result (h : s.md.takeover = true) : ∃ t, exec .primaryTakeover s = .next t ∧
    t.md.primary = s.md.standby ∧ t.md.takeover = false ∧ t.md.standbyReady = false ∧ t.md.hbFirst = true ∧ t.fl.seq = s.fl.seq + 1 ∧
    t = { s with md := t.md, fl := t.fl } :=
  ⟨_, (if_neg (by simp [h]) : execPrimaryTakeover s = _), rfl, rfl, rfl, rfl, rfl, rfl⟩

theorem exec_standbyReady (hup : s.tileUp s.md.standby = true) (hne : s.md.standby ≠ s.md.primary) :
    exec .standbyReady s = .next { s with md := { s.md with standbyReady := true } } :=
  (if_pos ⟨hup, hne⟩ : execStandbyReady s = _)

end

end Sys2Proof.Machine
end

section
/-! PROOFS. Rebuilds of a mirrored unit, and their moves to new pages (11 R317). -/
namespace Sys2Proof.Machine

open Sys2Proof

/-! #### Steps of a rebuild -/

section
variable (s : State) (n u : Nat)

theorem n32_toNat (x : W32) : n32 x.toNat = x := by
  simp [n32]

@[simp] theorem mem_addAll {p : Nat} {l new : List Nat} : p ∈ addAll l new ↔ p ∈ new ∨ p ∈ l := by
  induction new generalizing l with
  | nil => simp [addAll]
  | cons a r ih =>
    refine ih.trans ?_
    rw [mem_setIns, List.mem_cons]
    tauto

/-- The object once its readers return to unit u. -/
theorem State.objAt_rebuildDone (moved : Bool) : ∃ l, (s.rebuildDone n u moved).objAt n =
    { (s.objAt n).setUnit u { (s.objAt n).unit u with quarantined := false } with onMirror := l } :=
  ⟨_, tget_tput_same objD s.ti.obj n _⟩

theorem State.copyPages_rebuildDone (moved mirror : Bool) : ((s.rebuildDone n u moved).objAt n).copyPages mirror = (s.objAt n).copyPages mirror := by
  obtain ⟨l, hl⟩ := s.objAt_rebuildDone n u moved
  rw [hl]
  rfl

theorem State.quarantined_rebuildDone (moved : Bool) : (((s.rebuildDone n u moved).objAt n).unit u).quarantined = false := by
  obtain ⟨l, hl⟩ := s.objAt_rebuildDone n u moved
  rw [hl]
  exact congrArg UnitRec.quarantined (tget_tput_same ..)

theorem State.not_mem_rebuilds_rebuildDone (obj unit : W32) (moved : Bool) :
    ∀ q ∈ (s.rebuildDone obj.toNat unit.toNat moved).fl.rebuilds, (q.obj, q.unit) ≠ (obj, unit) := by
  intro q hq
  have h := (List.mem_filter.mp hq).2
  rw [n32_toNat, n32_toNat] at h
  exact of_decide_eq_true h

theorem State.kept_rebuildDone (moved : Bool) : (s.rebuildDone n u moved).kept = s.kept := by
  refine Prod.ext (funext fun i => ?_) ?_
  · exact congrArg Tile.state (State.tileAt_of_off (State.rebuildDone_off (kp := { pages := true, fl := true, ti := true }) rfl s n u moved) rfl)
  · simp only [State.kept, State.rebuildDone, State.log, pushEvent]
    split <;> rfl

theorem State.used_rebuildDone (moved : Bool) : (s.rebuildDone n u moved).ti.used = s.ti.used := rfl

theorem State.kept_setObj (o : Obj) : (s.setObj n o).kept = s.kept := rfl

theorem State.retired_of_kept {s u : State} (h : s.kept = u.kept) : s.fl.retired = u.fl.retired := congrArg Prod.snd h

end

/-! #### Over the damaged copy -/

section
variable {s : State} {obj unit : W32} {r : Rebuild}

/-- No rebuild of the unit waits. -/
theorem exec_rebuild_of_none (ok : Bool) (h : ∀ r ∈ s.fl.rebuilds, (r.obj, r.unit) ≠ (obj, unit)) :
    exec (.rebuildCopyDone obj unit ok) s = .next s ∧ exec (.rebuildRetry obj unit) s = .next s := by
  have hnone : (s.fl.rebuilds.find? fun r => (r.obj, r.unit) = (obj, unit)) = none := List.find?_eq_none.mpr fun r hr => by simpa using h r hr
  constructor
  · show execRebuildCopyDone obj unit ok s = _
    rw [execRebuildCopyDone, hnone]
  · show execRebuildRetry obj unit s = _
    rw [execRebuildRetry, hnone]

/-- The good copy of a unit is written over the damaged one. -/
def State.rebuildOver (s : State) (n u : Nat) (mirror : Bool) : State :=
  let o := s.objAt n
  let (ps, s1) := s.getImage (o.copyPages !mirror) (u * o.unitBytes) o.unitBytes
  s1.putImage (o.copyPages mirror) (u * o.unitBytes) (bytesOf ps)

theorem State.objAt_rebuildOver (s : State) (n u k : Nat) (mirror : Bool) : (s.rebuildOver n u mirror).objAt k = s.objAt k :=
  congrArg (fun x : Tiers => tget objD x.obj k) ((State.ti_of_off (State.putImage_off (kp := { dr := true, tile := true, arr := true, fl := true }) rfl ..)).trans
    (State.ti_of_off (State.getImage_off (kp := { dr := true, tile := true, arr := true, fl := true }) rfl ..)))

theorem exec_rebuildCopyDone (hr : (s.fl.rebuilds.find? fun r => (r.obj, r.unit) = (obj, unit)) = some r) (hlive : (s.objAt obj.toNat).live = true)
    (hq : ((s.objAt obj.toNat).unit unit.toNat).quarantined = true) (hw : r.waiting = false) :
    exec (.rebuildCopyDone obj unit true) s = .next ((s.rebuildOver obj.toNat unit.toNat r.mirror).rebuildDone obj.toNat unit.toNat false) := by
  show execRebuildCopyDone obj unit true s = _
  simp only [execRebuildCopyDone, hr, hlive, hq, hw, Bool.not_true, Bool.false_eq_true, ↓reduceIte]
  rfl

theorem rebuildCopyDone_result (hr : (s.fl.rebuilds.find? fun r => (r.obj, r.unit) = (obj, unit)) = some r) (hlive : (s.objAt obj.toNat).live = true)
    (hq : ((s.objAt obj.toNat).unit unit.toNat).quarantined = true) (hw : r.waiting = false) :
    ∃ t, exec (.rebuildCopyDone obj unit true) s = .next t ∧ ((t.objAt obj.toNat).unit unit.toNat).quarantined = false ∧
      (∀ q ∈ t.fl.rebuilds, (q.obj, q.unit) ≠ (obj, unit)) ∧ (t.objAt obj.toNat).pages = (s.objAt obj.toNat).pages := by
  refine ⟨_, exec_rebuildCopyDone hr hlive hq hw, State.quarantined_rebuildDone .., State.not_mem_rebuilds_rebuildDone _ _ _ _, ?_⟩
  refine (State.copyPages_rebuildDone _ _ _ _ false).trans ?_
  rw [State.objAt_rebuildOver]
  rfl

theorem exec_rebuildRetry (hr : (s.fl.rebuilds.find? fun r => (r.obj, r.unit) = (obj, unit)) = some r) :
    exec (.rebuildRetry obj unit) s = if r.waiting then .next (s.rebuildMove obj.toNat unit.toNat r.mirror) else .next s := by
  show execRebuildRetry obj unit s = _
  rw [execRebuildRetry, hr]

end

/-! #### Into new pages (step 3) -/

section
variable {s : State} {n u : Nat} {mirror : Bool} {new : List Nat}

/-- The pages of a unit in one of its copies. -/
def State.oldPages (s : State) (n u : Nat) (mirror : Bool) : List Nat :=
  ((s.objAt n).unitPages u).map fun i => ((s.objAt n).copyPages mirror).getD i 0

theorem State.rebuildMove_of_none (h : s.newPages (fBank (s.objAt n).flags) (s.oldPages n u mirror) = none) :
    s.rebuildMove n u mirror = { s with fl := { s.fl with
      rebuilds := s.fl.rebuilds.map fun r => if (r.obj, r.unit) = (n32 n, n32 u) then { r with waiting := true } else r } } := by
  unfold State.oldPages at h
  unfold State.rebuildMove
  simp only [h]

/-- The state once the pages have changed hands. -/
def State.pagesMoved (s : State) (old new : List Nat) : State :=
  { s with ti := { s.ti with used := (s.ti.used.filter fun p => !old.contains p) ++ new }, fl := { s.fl with retired := addAll s.fl.retired old } }

/-- An object whose one copy has new pages. -/
def Obj.withCopy (o : Obj) (mirror : Bool) (pages : List Nat) : Obj := if mirror then { o with mirror := pages } else { o with pages := pages }

/-- The pages of a copy, those of unit u replaced. -/
def Obj.movedPages (o : Obj) (u : Nat) (mirror : Bool) (new : List Nat) : List Nat :=
  ((o.unitPages u).zip new).foldl (fun l q => l.set q.1 q.2) (o.copyPages mirror)

section
variable {src : ReqSrc} {cs : List (Nat × Nat)} {errs : List ScrubErr} {cls : Nat} {ps : List Piece} {t : State}

theorem State.kept_of_readChunks (h : s.readChunks src cs errs cls = (ps, t)) : t.kept = s.kept := by
  rw [← State.kept_readChunks s src cs errs cls, h]

theorem State.ti_of_readChunks (h : s.readChunks src cs errs cls = (ps, t)) : t.ti = s.ti := by
  rw [← State.ti_of_off (State.readChunks_off (kp := { dr := true, tile := true, arr := true, fl := true }) rfl s src cs errs cls), h]

end

/-- A move copies the unit into new pages, which its copy then names. -/
theorem State.rebuildMove_of_some (h : s.newPages (fBank (s.objAt n).flags) (s.oldPages n u mirror) = some new) :
    ∃ t : State, s.rebuildMove n u mirror = (t.setObj n ((s.objAt n).withCopy mirror ((s.objAt n).movedPages u mirror new))).rebuildDone n u true ∧
      t.ti = (s.pagesMoved (s.oldPages n u mirror) new).ti ∧ t.kept = (s.pagesMoved (s.oldPages n u mirror) new).kept := by
  have h' : s.newPages (fBank (s.objAt n).flags) (((s.objAt n).unitPages u).map fun i => ((s.objAt n).copyPages mirror).getD i 0) = some new := h
  unfold State.rebuildMove
  simp -iota only [h']
  refine ⟨_, rfl, ?_, ?_⟩
  · refine (foldl_keeps State.ti _ _ _ fun s q => ?_).trans
      (State.ti_of_off (State.clearPages_off (kp := { dr := true, tile := true, fl := true }) rfl ..))
    split
    next hread =>
      exact (State.ti_of_off (State.writeChunks_off (kp := { dr := true, tile := true, arr := true, fl := true }) rfl ..)).trans
        (State.ti_of_readChunks hread)
  · refine (foldl_keeps State.kept _ _ _ fun s q => ?_).trans (State.kept_clearPages ..)
    split
    next hread => rw [State.kept_writeChunks, State.kept_of_readChunks hread]

theorem Obj.copyPages_withCopy (o : Obj) (mirror : Bool) (ps : List Nat) : (o.withCopy mirror ps).copyPages mirror = ps := by
  cases mirror <;> rfl

theorem Obj.copyPages_withCopy_other (o : Obj) (mirror : Bool) (ps : List Nat) : (o.withCopy mirror ps).copyPages (!mirror) = o.copyPages (!mirror) := by
  cases mirror <;> rfl

/-- What a move leaves of the object, of the pages retired and of those in use. -/
theorem State.rebuildMove_result (h : s.newPages (fBank (s.objAt n).flags) (s.oldPages n u mirror) = some new) :
    ((s.rebuildMove n u mirror).objAt n).copyPages mirror = (s.objAt n).movedPages u mirror new ∧
    ((s.rebuildMove n u mirror).objAt n).copyPages (!mirror) = (s.objAt n).copyPages (!mirror) ∧
    (((s.rebuildMove n u mirror).objAt n).unit u).quarantined = false ∧
    (s.rebuildMove n u mirror).fl.retired = addAll s.fl.retired (s.oldPages n u mirror) ∧
    (s.rebuildMove n u mirror).ti.used = (s.ti.used.filter fun p => !(s.oldPages n u mirror).contains p) ++ new := by
  obtain ⟨t, ht, hti, hkept⟩ := State.rebuildMove_of_some h
  rw [ht, State.copyPages_rebuildDone, State.copyPages_rebuildDone, State.objAt_setObj, Obj.copyPages_withCopy, Obj.copyPages_withCopy_other]
  refine ⟨rfl, rfl, State.quarantined_rebuildDone .., ?_, ?_⟩
  · refine State.retired_of_kept (u := s.pagesMoved (s.oldPages n u mirror) new) ?_
    rw [State.kept_rebuildDone, State.kept_setObj, hkept]
  · rw [State.used_rebuildDone]
    exact congrArg Tiers.used hti

theorem State.not_mem_rebuilds_rebuildMove {obj unit : W32} (h : s.newPages (fBank (s.objAt obj.toNat).flags) (s.oldPages obj.toNat unit.toNat mirror) = some new) :
    ∀ q ∈ (s.rebuildMove obj.toNat unit.toNat mirror).fl.rebuilds, (q.obj, q.unit) ≠ (obj, unit) := by
  obtain ⟨t, ht, -, -⟩ := State.rebuildMove_of_some h
  rw [ht]
  exact State.not_mem_rebuilds_rebuildDone _ _ _ _

end

section
variable {s : State} {obj unit : W32} {r : Rebuild}

theorem rebuildRetry_none_result (hr : (s.fl.rebuilds.find? fun r => (r.obj, r.unit) = (obj, unit)) = some r) (hw : r.waiting = true)
    (h : s.newPages (fBank (s.objAt obj.toNat).flags) (s.oldPages obj.toNat unit.toNat r.mirror) = none) :
    ∃ t, exec (.rebuildRetry obj unit) s = .next t ∧ t = { s with fl := t.fl } ∧ t.fl.rebuilds.length = s.fl.rebuilds.length := by
  refine ⟨_, (exec_rebuildRetry hr).trans (if_pos hw), ?_⟩
  rw [State.rebuildMove_of_none h]
  exact ⟨rfl, List.length_map ..⟩

theorem rebuildRetry_some_result {new : List Nat} (hr : (s.fl.rebuilds.find? fun r => (r.obj, r.unit) = (obj, unit)) = some r) (hw : r.waiting = true)
    (h : s.newPages (fBank (s.objAt obj.toNat).flags) (s.oldPages obj.toNat unit.toNat r.mirror) = some new) :
    ∃ t, exec (.rebuildRetry obj unit) s = .next t ∧
      (t.objAt obj.toNat).copyPages r.mirror = (s.objAt obj.toNat).movedPages unit.toNat r.mirror new ∧
      (t.objAt obj.toNat).copyPages (!r.mirror) = (s.objAt obj.toNat).copyPages (!r.mirror) ∧ ((t.objAt obj.toNat).unit unit.toNat).quarantined = false ∧
      (∀ q ∈ t.fl.rebuilds, (q.obj, q.unit) ≠ (obj, unit)) ∧ (∀ p ∈ s.oldPages obj.toNat unit.toNat r.mirror, p ∈ t.fl.retired) ∧
      t.ti.used = (s.ti.used.filter fun p => !(s.oldPages obj.toNat unit.toNat r.mirror).contains p) ++ new := by
  obtain ⟨hnew, hother, hq, hretired, hused⟩ := State.rebuildMove_result h
  refine ⟨_, (exec_rebuildRetry hr).trans (if_pos hw), hnew, hother, hq, State.not_mem_rebuilds_rebuildMove h, fun p hp => ?_, hused⟩
  rw [hretired]
  exact mem_addAll.mpr (.inl hp)

end

end Sys2Proof.Machine
end

section
/-! PROOFS. Error handling as one statement (11 R306 to R320). -/
namespace Sys2Proof.Machine

open Sys2Proof

section
variable {s : State}

theorem errorReport_unhandled_result {e : ErrRep} (h : s.md.state ≠ 2) (hno : handled e.code.toNat = false) (hsclk : e.code ≠ 0x0306)
    (hnew : (s.fl.detected.find? fun d => d.code = e.code && d.dom = e.dom && d.a0 = e.a0) = none) :
    exec (.errorReport e) s = .next (s.log e.code e.dom e.a0 e.a1 e.a2 e.a3 (s.nesting e.dom)) := by
  rw [exec_errorReport_of_unhandled h hno hsclk, State.recordOf_of_new hnew]

theorem errorReport_sclk_result {e : ErrRep} (h : s.md.state ≠ 2) (hsclk : e.code = 0x0306) :
    ∃ t, exec (.errorReport e) s = .next t ∧ t.md.state = 2 ∧ t.md.failReason = 4 ∧ t.md.running = false :=
  ⟨_, exec_errorReport_of_sclk h hsclk, State.md_moduleFail (by rwa [State.md_recordOf])⟩

/-- An abort, by whether the group waits already and by its attempts so far. -/
theorem State.abortGroup_result {m : Nat} {g : Group} (cause : W32) (hg : (s.modelAt m).group = some g) :
    (g.replay = true → s.abortGroup m cause = s.setModel m { s.modelAt m with group := some { g with cause := cause } }) ∧
    (g.replay = false → 4 ≤ g.attempts → s.abortGroup m cause = s.faultAll (g.members.map (·.slot)) cause) ∧
    (g.replay = false → g.attempts < 4 → (∃ h, ((s.abortGroup m cause).modelAt m).group = some h ∧ h.replay = true ∧ h.layer = 0 ∧
        h.attempts = g.attempts + 1 ∧ h.cause = cause ∧ h.members = g.members ∧ h.pieces = g.pieces) ∧
      (∀ i, i < 131072 → ((s.abortGroup m cause).thrAt i).group = some m → ((s.abortGroup m cause).thrAt i).st = .free)) := by
  refine ⟨State.abortGroup_of_replay hg, State.abortGroup_of_last hg, fun hr ha => ?_⟩
  rw [State.abortGroup_of_next hg hr ha]
  refine ⟨⟨g.aborted (s.seqTime cause) cause, ?_, rfl, rfl, rfl, rfl, rfl, rfl⟩, fun i hi => State.free_stopWork m hi⟩
  rw [State.modelAt_stopWork, State.modelAt_setModel]

/-- The start of a replay: it waits for 40 ns in which nothing can signal the group's counters. -/
theorem replayStart_result {m : ModelId} {g : Group} (hg : (s.modelAt m).group = some g) (hr : g.replay = true) (hrun : s.md.running = true)
    (cs : List Nat) (s1 : State) (hcs : cs = s.groupCounters m) (hs1 : s1 = (s.setStrict cs false).cancelOn cs) :
    ((s1.signalsDue cs = true ∨ s1.workLeft m = true) → exec (.replayStart m) s =
      .next (s1.setModel m { s.modelAt m with group := some { g with calm := none } })) ∧
    (s1.signalsDue cs = false → s1.workLeft m = false → s.time.toNat < (g.calm.getD s.time).toNat + 40 → exec (.replayStart m) s =
      .next (s1.setModel m { s.modelAt m with group := some { g with calm := some (g.calm.getD s.time) } })) ∧
    (s1.signalsDue cs = false → s1.workLeft m = false → (g.calm.getD s.time).toNat + 40 ≤ s.time.toNat → exec (.replayStart m) s =
      .next (((cs.foldl State.zeroCtr s1).setStrict cs true).replayNow m g)) := by
  subst hcs
  have hs1' : s1 = s.counterRest (s.groupCounters m) := hs1
  rw [exec_replayStart_of_waiting hg hr hrun, ← hs1']
  refine ⟨fun hdue => ?_, fun hsig hwork hearly => ?_, fun hsig hwork hlate => ?_⟩
  · rw [State.calmSince_of_due hdue]
    rfl
  · rw [State.calmSince_of_rest hsig hwork]
    exact if_neg fun h => absurd (of_decide_eq_true h) (Nat.not_le.mpr hearly)
  · rw [State.calmSince_of_rest hsig hwork]
    exact if_pos (decide_eq_true hlate)

theorem exec_handlerLimitExpiry_of_no_handler {d : Domain} (h : ∀ h ∈ s.fl.handlers, h.dom ≠ d) : exec (.handlerLimitExpiry d) s = .next s :=
  exec_handlerLimitExpiry_of_none (List.find?_eq_none.mpr fun x hx => by simpa using h x hx)

theorem exec_handlerLimitExpiry_of_no_limit {d : Domain} {h : Handler} (hd : (s.fl.handlers.find? fun h => h.dom = d) = some h)
    (hl : limitOf d.kind = none ∨ ∃ l, limitOf d.kind = some l ∧ s.time.toNat < h.since.toNat + l) : exec (.handlerLimitExpiry d) s = .next s :=
  exec_handlerLimitExpiry_of_early hd (Handler.late_eq_false (by simpa using List.find?_some hd) hl)

end

/-- Settles O55: each clause is a named result about one instruction or operation; none of them fails. -/
theorem errorHandling : Obligations.ErrorHandling := by
  unfold Obligations.ErrorHandling
  refine ⟨fun s e => exec_errorReport_of_failed, fun s e => errorReport_unhandled_result, fun s e => errorReport_sclk_result,
    fun s e c => errorReport_lane_result, fun s m g => exec_replayStart_of_not_waiting,
    fun s s1 m g cs hg hr hrun => replayStart_result hg hr hrun cs s1, fun s m g => s.replayNow_result m g,
    fun s m cause g => State.abortGroup_result cause, fun s d => exec_handlerLimitExpiry_of_no_handler,
    fun s d h => exec_handlerLimitExpiry_of_no_limit, ⟨rfl, rfl, rfl, rfl, rfl, rfl, rfl, rfl⟩,
    fun s c seq since => handlerLimitExpiry_sub_result, fun s c seq since => handlerLimitExpiry_escalated_result,
    fun s l => exec_livenessProbe_of_early, fun s t => livenessProbe_result, fun s t pass => exec_tileSelfCheckEnd_of_not_waiting pass,
    fun s t ht hs => ⟨tileSelfCheckEnd_pass_result ht hs, tileSelfCheckEnd_fail_result ht hs⟩, fun s c => adoptedSubchannelOpen_result,
    fun s c => exec_adoptedSubchannelOpen_of_open, fun s => ⟨exec_primaryTakeover_of_none, primaryTakeover_result⟩, fun s => exec_standbyReady,
    fun s obj unit ok => exec_rebuild_of_none ok, ?_, ?_⟩
  · intro s obj unit r hr hlive hq
    exact ⟨rebuildCopyDone_result hr hlive hq, fun hw => (exec_rebuildRetry hr).trans (if_neg (by simp [hw])), rebuildRetry_none_result hr⟩
  · rintro s obj unit r o old new hr hw rfl rfl hnew
    exact rebuildRetry_some_result hr hw hnew

end Sys2Proof.Machine
end
